-- ==== Sys2Proof/Word.lean ====
section
/-! DEFINITION. The word types of the Thrumari Hibilen (R6): a byte, a half, a word, a dword. A g register, an address
before it is checked and an engine word are dwords; a vector register is 2,048 bits (R20). -/

namespace Sys2Proof

/-- R6: 8 bits. -/
abbrev Byte := BitVec 8
/-- R6: a dword, 64 bits: a g register, a sysreg, an engine word. -/
abbrev Word := BitVec 64
/-- R6: a word, 32 bits: one generator instruction, one vector lane. -/
abbrev Word32 := BitVec 32
/-- R20: one vector register, at most 64 lanes of 32 bits, lane 0 in bits 31..0. -/
abbrev VReg := BitVec 2048
/-- R200: one mask register, bit i for lane i. -/
abbrev MReg := BitVec 64
/-- R92: one accumulator element. -/
abbrev AccElem := BitVec 96

end Sys2Proof
end

