-- ==== Sys2Proof/Syntax.lean ====
section
/-! DEFINITION. The instructions: one constructor for each row of spec/opcode_table.json. The first 99 are the generator's
(R39-R47), the next 78 the engines' words (R48-R53), the last 54 the machine's events, which have no encoding; an event
that brings something in from outside the package (a packet of another package, a host write, a measured current) carries
it as an operand. An event acts on the slot `State.cur` unless its operands name what it acts on. -/

namespace Sys2Proof

/-- R41: an operand number: 0-31 g registers, 32-47 ports, 48-63 reserved. -/
abbrev Opnd := BitVec 6

/-- R48: the three engine queues of a slot. -/
inductive Queue | vq | mq | xq
deriving DecidableEq, Repr

/-- R49: the payload of an ECLS 0 word. -/
structure VecF where
  vd : BitVec 6
  va : BitVec 6
  vb : BitVec 6
  vc : BitVec 6
  msk : BitVec 3
  mz : BitVec 1
  rm : BitVec 3
  sat : BitVec 1
  sub : BitVec 4
  imm : BitVec 16
deriving DecidableEq, Repr

/-- R50: the payload of an ECLS 1 word (its reserved bits [24:22] are zero in every word that decodes). -/
structure MemF where
  vd : BitVec 6
  vi : BitVec 6
  msk : BitVec 3
  win : BitVec 3
  eb : BitVec 4
  es : BitVec 4
  ff : BitVec 1
  off : BitVec 22
deriving DecidableEq, Repr

/-- R51: the payload of an ECLS 2 word (its reserved bits [19:0] are zero in every word that decodes). -/
structure MatF where
  fmt : BitVec 4
  acc : BitVec 1
  depth : BitVec 6
  asrc : BitVec 1
  bsrc : BitVec 1
  a : BitVec 6
  b : BitVec 6
  batch : BitVec 3
  flags : BitVec 4
deriving DecidableEq, Repr

/-- R52: the payload of an ECLS 3 word. -/
structure CopyF where
  ed : BitVec 4
  ef : BitVec 4
  fo : BitVec 1
  mode : BitVec 3
  op : BitVec 8
  imm : BitVec 32
deriving DecidableEq, Repr

/-- R154: the kinds of a packet; `reserved` is a KIND of 4 to 7, which no sender of this package uses. -/
inductive PktKind | slot | credit | endMark | sever | reserved
deriving DecidableEq, Repr

/-- R156: one UALink write request of a channel event: the channel of R147 it belongs to, its header fields and its bytes.
`part` tells the two requests of a 272-byte slot apart; `dst` is the writer that a credit is for (log 12). -/
structure UalMsg where
  net : Nat
  chid : Nat
  gen : BitVec 8
  seq : BitVec 24
  kind : PktKind
  part : Nat
  count : Nat
  src : Nat
  dst : Nat
  data : List Byte
deriving DecidableEq, Repr

/-- One constructor for each row of spec/opcode_table.json. -/
inductive Instr
  -- R120
  | add (d a b : Opnd) | sub (d a b : Opnd) | and (d a b : Opnd) | or (d a b : Opnd) | xor (d a b : Opnd)
  | andn (d a b : Opnd) | sll (d a b : Opnd) | srl (d a b : Opnd) | sra (d a b : Opnd) | slt (d a b : Opnd)
  | sltu (d a b : Opnd) | min (d a b : Opnd) | max (d a b : Opnd) | minu (d a b : Opnd) | maxu (d a b : Opnd)
  | mul (d a b : Opnd) | mulh (d a b : Opnd) | mulhu (d a b : Opnd) | div (d a b : Opnd) | divu (d a b : Opnd)
  | rem (d a b : Opnd) | remu (d a b : Opnd)
  | clz (d a : Opnd) | ctz (d a : Opnd) | popc (d a : Opnd) | sextb (d a : Opnd) | sexth (d a : Opnd)
  | sextw (d a : Opnd) | zextb (d a : Opnd) | zexth (d a : Opnd) | zextw (d a : Opnd)
  -- R121, R122
  | addi (d a : Opnd) (i : BitVec 14) | andi (d a : Opnd) (i : BitVec 14) | ori (d a : Opnd) (i : BitVec 14)
  | xori (d a : Opnd) (i : BitVec 14) | slli (d a : Opnd) (sh : BitVec 6) | srli (d a : Opnd) (sh : BitVec 6)
  | srai (d a : Opnd) (sh : BitVec 6) | slti (d a : Opnd) (i : BitVec 14) | sltiu (d a : Opnd) (i : BitVec 14)
  | lsi (d : Opnd) (i : BitVec 20) | addpc (d : Opnd) (i : BitVec 20) | ldpc (d : Opnd) (i : BitVec 20)
  -- R123, R125
  | ldb (d a : Opnd) (i : BitVec 14) | ldbu (d a : Opnd) (i : BitVec 14) | ldh (d a : Opnd) (i : BitVec 14)
  | ldhu (d a : Opnd) (i : BitVec 14) | ldw (d a : Opnd) (i : BitVec 14) | ldwu (d a : Opnd) (i : BitVec 14)
  | ldd (d a : Opnd) (i : BitVec 14)
  | stb (v a : Opnd) (i : BitVec 14) | sth (v a : Opnd) (i : BitVec 14) | stw (v a : Opnd) (i : BitVec 14)
  | std (v a : Opnd) (i : BitVec 14)
  -- R126-R128
  | beq (a b : Opnd) (o : BitVec 14) | bne (a b : Opnd) (o : BitVec 14) | blt (a b : Opnd) (o : BitVec 14)
  | bge (a b : Opnd) (o : BitVec 14) | bltu (a b : Opnd) (o : BitVec 14) | bgeu (a b : Opnd) (o : BitVec 14)
  | jal (d : Opnd) (i : BitVec 20) | jalr (d a : Opnd) (i : BitVec 14) | jmpf (d a : Opnd) (i : BitVec 14)
  -- R142-R145
  | recvb (p a b : Opnd) | sendb (p a b : Opnd)
  | chctlClose (p : Opnd) | chctlEosrd (d p : Opnd) | chctlEosclr (p : Opnd)
  -- R174, R175, R182, R263, R129, R130, R326, R337
  | emit (q : BitVec 2) (a b : Opnd) | emitt (q : BitVec 2) (t : BitVec 4) (a b : Opnd) (x y : BitVec 4)
  | emitl (q : BitVec 2) (o : BitVec 24) | tset (t : BitVec 4) (a b : Opnd) | tld (t : BitVec 4) (a : Opnd) (i : BitVec 14)
  | gwait (m : BitVec 3) | mwaitb (b : BitVec 3) | cfetch (a b : Opnd) | cwait (a : Opnd)
  | gbar (g : BitVec 8) | phase (g : BitVec 8)
  -- R353, R360-R362, R366
  | sysr (d : Opnd) (r : BitVec 12) | sysw (a : Opnd) (r : BitVec 12) | syswSet (a : Opnd) (r : BitVec 12)
  | syswClr (a : Opnd) (r : BitVec 12) | trap (code : BitVec 14) | sret | exit
  | ctlKload (d a : Opnd) | ctlKzero (d a : Opnd)
  | rgncmdAssign (d a : Opnd) | rgncmdHalt (d a : Opnd) | rgncmdReset (d a : Opnd) | rgncmdScrub (d a : Opnd)
  | rgncmdSwitch (d a : Opnd) | rgncmdRelease (d a : Opnd)
  | ctlTlbinv (d a : Opnd) | ctlPrget (d a : Opnd) | ctlPrans (d a : Opnd) | ctlCaston (d a : Opnd)
  | ctlCancel (d a : Opnd) | ctlAttest (d a : Opnd) | ctlRebind (d a : Opnd)
  -- ECLS 0, R208
  | vadd (f : VecF) | vsub (f : VecF) | vmul (f : VecF) | vfma (f : VecF) | vfms (f : VecF) | vfnma (f : VecF)
  | vdiv (f : VecF) | vsqrt (f : VecF) | vrcp (f : VecF) | vrsqrt (f : VecF) | vexp2 (f : VecF) | vlog2 (f : VecF)
  | vmin (f : VecF) | vmax (f : VecF) | vabs (f : VecF) | vneg (f : VecF) | vcmp (f : VecF) | vsel (f : VecF)
  | vcvt (f : VecF) | viadd (f : VecF) | visub (f : VecF) | vimul (f : VecF) | vimulh (f : VecF) | vimin (f : VecF)
  | vimax (f : VecF) | viminu (f : VecF) | vimaxu (f : VecF) | vand (f : VecF) | vor (f : VecF) | vxor (f : VecF)
  | vshl (f : VecF) | vshr (f : VecF) | vsra (f : VecF) | vicmp (f : VecF) | vredsum (f : VecF) | vredmax (f : VecF)
  | vredmin (f : VecF) | viredsum (f : VecF) | viota (f : VecF) | vbcast (f : VecF) | vmv (f : VecF) | vmrg (f : VecF)
  | vnorm (f : VecF) | vsetvl (f : VecF) | mand (f : VecF) | mor (f : VecF) | mxor (f : VecF) | mnot (f : VecF)
  -- ECLS 1, R239
  | vld (f : MemF) | vst (f : MemF) | vlds (f : MemF) | vsts (f : MemF) | vldx (f : MemF) | vstx (f : MemF)
  | vscadd (f : MemF) | vperm (f : MemF) | vrot (f : MemF) | vslide (f : MemF) | vcompress (f : MemF)
  -- ECLS 2, R257
  | mzero (f : MatF) | mstep (f : MatF) | mcommit (f : MatF) | mrd (f : MatF) | mst (f : MatF) | mcfg (f : MatF)
  | msave (f : MatF) | mload (f : MatF)
  -- ECLS 3, R286
  | xcopy (f : CopyF) | xget (f : CopyF) | xput (f : CopyF) | xstream (f : CopyF) | xgather (f : CopyF) | xatom (f : CopyF)
  -- ECLS 4, R53
  | esetL (e : BitVec 4) (imm : BitVec 48) | esetH (e : BitVec 4) (imm : BitVec 16) | qjoin (m : BitVec 3)
  | replay (e : BitVec 4) (res : BitVec 1) | enop
  -- events of a slot
  | replayIssue | wordRetire | streamSendRelease | slotWake | levelGFault | trapEntry | preempt
  | cfetchLanding (seg : Nat) | cfetchFailure (seg : Nat)
  -- events of the fabric: a network, a channel of it, and which of its readers, writers or endpoints
  | slotPacket (net ch rd : Nat) | creditPacket (net ch wr : Nat) | endMarkPacket (net ch rd : Nat)
  | severNotice (net ch ep : Nat) | creditMergeExpiry (net ch rd : Nat)
  | ualinkWriteRequest (port : Nat) (m : UalMsg) | ualinkWriteCompletion (port : Nat) (net ch : Nat) (seq : BitVec 24)
  | ualinkRetransmit (port : Nat) (idx : Nat)
  | detectorWave (tenant : Nat) | skeinTransfer (net ch rd : Nat) | reduceNodeInput (net ch : Nat)
  | barrierRelease (net gid : Nat) | boundary (net gid : Nat) | tokenRefill
  -- writes that an instruction or firmware makes, as steps of their own
  | saveSlotRecord (part : Bool) | restoreSlotRecord (part : Bool) | csegvalidWrite (x : Word) | streammapWrite (x : Word)
  | winWrite (n : Nat) (x : Word) | fflagsWrite (x : Word) | accovWrite (x : Word) | tbcfgWrite (x : Word)
  | wintabWrite (x : Word)
  -- events of the package and the host
  | regionResetEnd (r : Nat) | scrubDone | vfReset (vf : Nat) | timeSliceExpiry (r : Nat)
  | arbiterInterval (meas : List Nat) | thermalThrottle (die : Nat) | thermalRecover (die : Nat) | thermalShutdown
  | powerOn (verified : Bool) | doorbell (fn : Nat) | deferredWake (fn : Nat) | validating (fn : Nat)
  | cancel (fn : Nat) (net : BitVec 32) | cqheadWrite (fn : Nat) (v : Word) | evheadWrite (fn : Nat) (v : Word)
  | hostRegisterWrite (fn : Nat) (off : Nat) (v : Word) | bindOff (net : Nat) | completionRecord (net : Nat)
  | packageHandleHostRead (data : List Byte) | savectlDone
deriving DecidableEq, Repr

end Sys2Proof
end

