-- ==== Sys2Proof/WellFormed.lean ====
section
/-! DEFINITION. Which terms of `Instr` are instructions: the checks of R45, R54, R205, R208, R239, R257 and R286 that need
no state. A generator word that breaks one is ILLEGAL; an engine word that breaks one is BADWORD. The checks that read
the state (privilege, windows, lane counts, engine registers) stand with the meanings. -/

namespace Sys2Proof

/-- R352: the system-register numbers that exist. -/
def sysregKnown (r : BitVec 12) : Bool :=
  let n := r.toNat
  n ≤ 0x006 || (0x008 ≤ n && n ≤ 0x013) || (0x018 ≤ n && n ≤ 0x01D) || (0x021 ≤ n && n ≤ 0x027)
    || (0x040 ≤ n && n ≤ 0x04D) || (0x050 ≤ n && n ≤ 0x052) || (0x080 ≤ n && n ≤ 0x083)
    || (0x100 ≤ n && n ≤ 0x10D)

/-- R41, R45: a field that names a port holds 32-47, or 48-63 (which raises BADOPND later); 0-31 is ILLEGAL. -/
def namesPort (p : Opnd) : Bool := 32 ≤ p.toNat

/-- R142: ga and gb of a burst name two different registers of g1-g31. -/
def burstRegs (a b : Opnd) : Bool :=
  1 ≤ a.toNat && a.toNat ≤ 31 && 1 ≤ b.toNat && b.toNat ≤ 31 && a != b

/-- R45, R174: Q = 3 is ILLEGAL. -/
def queueOk (q : BitVec 2) : Bool := q != 3

/-- R55: an operand that selector 0 leaves unused has a zero field. -/
def selOk (sel : BitVec 4) (x : Opnd) : Bool := sel != 0 || x == 0

/-- R205: a field that names a mask register as a destination: bits [5:3] zero and not m0. -/
def maskDst (x : BitVec 6) : Bool := 1 ≤ x.toNat && x.toNat ≤ 7
/-- R205: a field that names a mask register as a source. -/
def maskSrc (x : BitVec 6) : Bool := x.toNat ≤ 7

namespace VecF

/-- R54: rm 5 and 6 are reserved. -/
def rmOk (f : VecF) : Bool := f.rm != 5 && f.rm != 6
/-- R208, mark S: with sub[3] set vb is zero, with it clear imm16 is zero. -/
def immOk (f : VecF) : Bool := if f.sub.getLsbD 3 then f.vb == 0 else f.imm == 0
/-- R208: the low bits of sub, below S. -/
def cond (f : VecF) : Nat := f.sub.toNat % 8
/-- The second operand is the immediate (mark S). -/
def isImm (f : VecF) : Bool := f.sub.getLsbD 3

/-- vadd, vsub, vmul, vdiv: vd, va, vb, S, rm. -/
def okArith (f : VecF) : Bool := f.immOk && f.cond == 0 && f.vc == 0 && f.rmOk && f.sat == 0
/-- vfma, vfms, vfnma: vc too. -/
def okFused (f : VecF) : Bool := f.immOk && f.cond == 0 && f.rmOk && f.sat == 0
/-- vsqrt, vrcp, vrsqrt, vexp2, vlog2: vd, va, rm*. -/
def okUnaryRm (f : VecF) : Bool :=
  f.vb == 0 && f.vc == 0 && f.sub == 0 && f.rmOk && f.sat == 0 && f.imm == 0
/-- vabs, vneg, vmv: vd, va. -/
def okMove (f : VecF) : Bool :=
  f.vb == 0 && f.vc == 0 && f.sub == 0 && f.rm == 0 && f.sat == 0 && f.imm == 0
/-- vmin, vmax, the integer minima and maxima, vand, vor, vxor: vd, va, vb, S. -/
def okPlain (f : VecF) : Bool := f.immOk && f.cond == 0 && f.vc == 0 && f.rm == 0 && f.sat == 0
/-- vshl, vshr, vsra: an immediate amount is 0-31 (R218). -/
def okShift (f : VecF) : Bool := f.okPlain && f.imm.toNat ≤ 31
/-- viadd, visub, vimul: S, U, sat. -/
def okIntSat (f : VecF) : Bool := f.immOk && f.cond ≤ 1 && f.vc == 0 && f.rm == 0
/-- vimulh: S, U. -/
def okIntHigh (f : VecF) : Bool := f.okIntSat && f.sat == 0
/-- vcmp: md, S, cond 0-6. -/
def okCmp (f : VecF) : Bool := maskDst f.vd && f.immOk && f.cond ≤ 6 && f.vc == 0 && f.rm == 0 && f.sat == 0
/-- vicmp: md, S, cond 0-7. -/
def okIcmp (f : VecF) : Bool := maskDst f.vd && f.immOk && f.vc == 0 && f.rm == 0 && f.sat == 0
/-- vsel: vd, va, vb, mz zero. -/
def okSel (f : VecF) : Bool :=
  f.vc == 0 && f.sub == 0 && f.rm == 0 && f.sat == 0 && f.imm == 0 && f.mz == 0
/-- vcvt: vd, va, kind 0-4, rm. -/
def okCvt (f : VecF) : Bool :=
  f.vb == 0 && f.vc == 0 && f.sub.toNat ≤ 4 && f.rmOk && f.sat == 0 && f.imm == 0
/-- vredsum: vd, va, rm, mz zero. -/
def okRedSum (f : VecF) : Bool := f.okUnaryRm && f.mz == 0
/-- vredmax, vredmin: vd, va, mz zero. -/
def okRed (f : VecF) : Bool := f.okMove && f.mz == 0
/-- viredsum: vd, va, sat, mz zero. -/
def okIred (f : VecF) : Bool :=
  f.vb == 0 && f.vc == 0 && f.sub == 0 && f.rm == 0 && f.imm == 0 && f.mz == 0
/-- viota: vd, step in vc and sub, start in imm16. -/
def okIota (f : VecF) : Bool := f.va == 0 && f.vb == 0 && f.rm == 0 && f.sat == 0
/-- vbcast: sub 0 (lane), 8 (high half), 9 (integer); va only with sub 0. -/
def okBcast (f : VecF) : Bool :=
  (f.sub == 0 || ((f.sub == 8 || f.sub == 9) && f.va == 0)) && f.vb == 0 && f.vc == 0 && f.rm == 0 && f.sat == 0
/-- vmrg: vd, va, vb, unmasked. -/
def okMrg (f : VecF) : Bool :=
  f.vc == 0 && f.sub == 0 && f.rm == 0 && f.sat == 0 && f.imm == 0 && f.mz == 0 && f.msk == 0
/-- vnorm: vd, va, md in vc, row in imm16, unmasked. -/
def okNorm (f : VecF) : Bool :=
  f.vb == 0 && maskDst f.vc && f.sub == 0 && f.rm == 0 && f.sat == 0 && f.mz == 0 && f.msk == 0
/-- vsetvl: sub 0 with imm16, sub 1 with va. -/
def okSetvl (f : VecF) : Bool :=
  f.vd == 0 && f.vb == 0 && f.vc == 0 && f.rm == 0 && f.sat == 0 && f.mz == 0 && f.msk == 0
    && ((f.sub == 0 && f.va == 0) || (f.sub == 1 && f.imm == 0))
/-- mand, mor, mxor: md, ma, mb. -/
def okMask2 (f : VecF) : Bool :=
  maskDst f.vd && maskSrc f.va && maskSrc f.vb && f.vc == 0 && f.sub == 0 && f.rm == 0 && f.sat == 0
    && f.imm == 0 && f.mz == 0 && f.msk == 0
/-- mnot: md, ma. -/
def okMask1 (f : VecF) : Bool := f.okMask2 && f.vb == 0

end VecF

namespace MemF

/-- R239, vld: vd, mk, win, eb, ff, offset. -/
def okLoad (f : MemF) : Bool := f.vi == 0 && f.es == 0
/-- R239, vlds: es too. -/
def okLoadS (f : MemF) : Bool := f.vi == 0
/-- R239, vldx: vi, no es. -/
def okLoadX (f : MemF) : Bool := f.es == 0
/-- R239, vst. -/
def okStore (f : MemF) : Bool := f.vi == 0 && f.es == 0 && f.ff == 0
/-- R239, vsts. -/
def okStoreS (f : MemF) : Bool := f.vi == 0 && f.ff == 0
/-- R239, vstx and vscadd. -/
def okStoreX (f : MemF) : Bool := f.es == 0 && f.ff == 0
/-- R239: the fields no permute uses. -/
def okPerm (f : MemF) : Bool := f.win == 0 && f.eb == 0 && f.es == 0 && f.ff == 0
/-- R239, vperm: vi, va in off22[21:16], the rest zero. -/
def okVperm (f : MemF) : Bool := f.okPerm && f.off.toNat % 65536 == 0
/-- R239, vrot and vslide: va and n in off22. -/
def okShiftLanes (f : MemF) : Bool := f.okPerm && f.vi == 0
/-- R239, vcompress: va in off22[21:16], the rest zero. -/
def okCompress (f : MemF) : Bool := f.okPerm && f.vi == 0 && f.off.toNat % 65536 == 0

end MemF

namespace MatF

/-- R51: fmt codes 0-4 exist. -/
def fmtOk (f : MatF) : Bool := f.fmt.toNat ≤ 4
/-- R257, mzero. -/
def okZero (f : MatF) : Bool :=
  f.fmtOk && f.depth == 0 && f.asrc == 0 && f.bsrc == 0 && f.a == 0 && f.b == 0 && f.batch == 0 && f.flags == 0
/-- R257, mstep: an SRAM operand names e0-e14; flags[23:21] zero. -/
def okStep (f : MatF) : Bool :=
  f.fmtOk && (f.asrc == 1 || f.a.toNat ≤ 14) && (f.bsrc == 1 || f.b.toNat ≤ 14) && f.flags.toNat ≤ 1
/-- R257, mcommit. -/
def okCommit (f : MatF) : Bool :=
  f.fmt == 0 && f.acc == 0 && f.depth == 0 && f.asrc == 0 && f.bsrc == 0 && f.a == 0 && f.b == 0 && f.flags == 0
/-- R257, R258, mrd: first row + rows at most 64. -/
def okMrd (f : MatF) : Bool :=
  f.fmt == 0 && f.asrc == 0 && f.bsrc == 0 && f.batch == 0 && f.flags.toNat ≤ 1
    && f.b.toNat + f.depth.toNat + 1 ≤ 64
/-- R257, R258, mst: eN with N at most 14, window in flags[22:20], first row + rows at most 64. -/
def okMst (f : MatF) : Bool :=
  f.fmt == 0 && f.asrc == 0 && f.bsrc == 0 && f.batch == 0 && f.flags.toNat ≤ 7 && f.a.toNat ≤ 14
    && f.b.toNat + f.depth.toNat + 1 ≤ 64
/-- R257, mcfg. -/
def okCfg (f : MatF) : Bool :=
  f.fmt == 0 && f.depth == 0 && f.asrc == 0 && f.bsrc == 0 && f.batch == 0 && f.flags == 0
/-- R257, msave and mload: eN with N at most 15. -/
def okBlock (f : MatF) : Bool :=
  f.fmt == 0 && f.depth == 0 && f.asrc == 0 && f.bsrc == 0 && f.a.toNat ≤ 15 && f.b == 0 && f.batch == 0
    && f.flags == 0

end MatF

namespace CopyF

/-- R286: ef is zero when fo is 0. -/
def efOk (f : CopyF) : Bool := f.fo == 1 || f.ef == 0
/-- R286, xcopy and xget. -/
def okFo (f : CopyF) : Bool := f.efOk && f.mode == 0 && f.op == 0 && f.imm == 0
/-- R286, xput. -/
def okPut (f : CopyF) : Bool := f.fo == 0 && f.okFo
/-- R286, xstream: CLOSE in mode[0], a port in imm[3:0]. -/
def okStream (f : CopyF) : Bool :=
  f.fo == 0 && f.ef == 0 && f.mode.toNat ≤ 1 && f.op == 0 && f.imm.toNat ≤ 15
/-- R286, xgather: DEST in mode[0]; CLOSE in mode[1] and a port only with DEST 1; a follow-on only with DEST 0. -/
def okGather (f : CopyF) : Bool :=
  f.efOk && f.op == 0 &&
    (if f.mode.getLsbD 0 then f.fo == 0 && f.mode.toNat ≤ 3 && f.imm.toNat ≤ 15 else f.mode == 0 && f.imm == 0)
/-- R286, xatom: op 0-3. -/
def okAtom (f : CopyF) : Bool :=
  f.fo == 0 && f.ef == 0 && f.mode == 0 && f.op.toNat ≤ 3 && f.imm == 0

end CopyF

/-- A term is an instruction of the spec: every check above that its row asks for. An event carries no encoding and every
operand of it is allowed. -/
def Instr.wf : Instr → Bool
  | .recvb p a b | .sendb p a b => namesPort p && burstRegs a b
  | .chctlClose p | .chctlEosrd _ p | .chctlEosclr p => namesPort p
  | .emit q _ _ | .emitl q _ => queueOk q
  | .emitt q _ a b x y => queueOk q && selOk x a && selOk y b
  | .sysr _ r | .sysw _ r | .syswSet _ r | .syswClr _ r => sysregKnown r
  | .vadd f | .vsub f | .vmul f | .vdiv f => f.okArith
  | .vfma f | .vfms f | .vfnma f => f.okFused
  | .vsqrt f | .vrcp f | .vrsqrt f | .vexp2 f | .vlog2 f => f.okUnaryRm
  | .vmin f | .vmax f | .vimin f | .vimax f | .viminu f | .vimaxu f | .vand f | .vor f | .vxor f => f.okPlain
  | .vshl f | .vshr f | .vsra f => f.okShift
  | .vabs f | .vneg f | .vmv f => f.okMove
  | .vcmp f => f.okCmp
  | .vicmp f => f.okIcmp
  | .vsel f => f.okSel
  | .vcvt f => f.okCvt
  | .viadd f | .visub f | .vimul f => f.okIntSat
  | .vimulh f => f.okIntHigh
  | .vredsum f => f.okRedSum
  | .vredmax f | .vredmin f => f.okRed
  | .viredsum f => f.okIred
  | .viota f => f.okIota
  | .vbcast f => f.okBcast
  | .vmrg f => f.okMrg
  | .vnorm f => f.okNorm
  | .vsetvl f => f.okSetvl
  | .mand f | .mor f | .mxor f => f.okMask2
  | .mnot f => f.okMask1
  | .vld f => f.okLoad
  | .vlds f => f.okLoadS
  | .vldx f => f.okLoadX
  | .vst f => f.okStore
  | .vsts f => f.okStoreS
  | .vstx f | .vscadd f => f.okStoreX
  | .vperm f => f.okVperm
  | .vrot f | .vslide f => f.okShiftLanes
  | .vcompress f => f.okCompress
  | .mzero f => f.okZero
  | .mstep f => f.okStep
  | .mcommit f => f.okCommit
  | .mrd f => f.okMrd
  | .mst f => f.okMst
  | .mcfg f => f.okCfg
  | .msave f | .mload f => f.okBlock
  | .xcopy f | .xget f => f.okFo
  | .xput f => f.okPut
  | .xstream f => f.okStream
  | .xgather f => f.okGather
  | .xatom f => f.okAtom
  | _ => true

end Sys2Proof
end

