-- ==== Sys2Proof/Decode.lean ====
section
/-! DEFINITION. The decoders, written from the encoding tables R40-R53, and after them the encoders. `decodeGen` reads one
generator word, `decodeEng` one engine word; both are total and reject by name. The privilege check and the check for
reserved operand numbers (R45, steps 2 and 3) are no part of decoding: they are made where the instruction executes. -/

namespace Sys2Proof

/-- R45 step 1 and R54: why a word is no instruction. A generator word so rejected raises ILLEGAL, an engine word BADWORD. -/
inductive Reject
  | reservedMop | unassignedFn | unusedField | queueThree | notAPort | burstRegister | unknownSysreg | unassignedCtl
  | reservedClass | unassignedEop | badField
deriving DecidableEq, Repr

/-- The instruction, if the condition of R45 holds; otherwise the rejection by name. -/
def need (c : Bool) (r : Reject) (i : Instr) : Except Reject Instr := if c then .ok i else .error r

/-- R40: gd. -/
def fGd (w : Word32) : Opnd := w.extractLsb' 20 6
/-- R40: ga. -/
def fGa (w : Word32) : Opnd := w.extractLsb' 14 6
/-- R40: gb. -/
def fGb (w : Word32) : Opnd := w.extractLsb' 8 6
/-- R40: FN. -/
def fFn (w : Word32) : BitVec 8 := w.extractLsb' 0 8
/-- R40: imm14, off14. -/
def fImm14 (w : Word32) : BitVec 14 := w.extractLsb' 0 14
/-- R40: imm20. -/
def fImm20 (w : Word32) : BitVec 20 := w.extractLsb' 0 20
/-- R40: MOP. -/
def fMop (w : Word32) : BitVec 6 := w.extractLsb' 26 6
/-- R40: Q of formats E and EL. -/
def fQ (w : Word32) : BitVec 2 := w.extractLsb' 24 2
/-- R40: tn of format E. -/
def fTn (w : Word32) : BitVec 4 := w.extractLsb' 20 4
/-- R40: sys12 of format S. -/
def fSys (w : Word32) : BitVec 12 := w.extractLsb' 2 12
/-- R40: FN2 of format S. -/
def fFn2 (w : Word32) : BitVec 2 := w.extractLsb' 0 2

/-- R47: the alu group. -/
def decodeAlu (w : Word32) : Except Reject Instr :=
  let d := fGd w
  let a := fGa w
  let b := fGb w
  match (fFn w).toNat with
  | 0 => .ok (.add d a b)
  | 1 => .ok (.sub d a b)
  | 2 => .ok (.and d a b)
  | 3 => .ok (.or d a b)
  | 4 => .ok (.xor d a b)
  | 5 => .ok (.andn d a b)
  | 6 => .ok (.sll d a b)
  | 7 => .ok (.srl d a b)
  | 8 => .ok (.sra d a b)
  | 9 => .ok (.slt d a b)
  | 10 => .ok (.sltu d a b)
  | 11 => .ok (.min d a b)
  | 12 => .ok (.max d a b)
  | 13 => .ok (.minu d a b)
  | 14 => .ok (.maxu d a b)
  | 15 => .ok (.mul d a b)
  | 16 => .ok (.mulh d a b)
  | 17 => .ok (.mulhu d a b)
  | 18 => .ok (.div d a b)
  | 19 => .ok (.divu d a b)
  | 20 => .ok (.rem d a b)
  | 21 => .ok (.remu d a b)
  | 22 => need (b == 0) .unusedField (.clz d a)
  | 23 => need (b == 0) .unusedField (.ctz d a)
  | 24 => need (b == 0) .unusedField (.popc d a)
  | 25 => need (b == 0) .unusedField (.sextb d a)
  | 26 => need (b == 0) .unusedField (.sexth d a)
  | 27 => need (b == 0) .unusedField (.sextw d a)
  | 28 => need (b == 0) .unusedField (.zextb d a)
  | 29 => need (b == 0) .unusedField (.zexth d a)
  | 30 => need (b == 0) .unusedField (.zextw d a)
  | _ => .error .unassignedFn

/-- R145: MOP 0x24. -/
def decodeChctl (w : Word32) : Except Reject Instr :=
  match (fFn w).toNat with
  | 0 => if fGb w == 0 && fGd w == 0 then need (namesPort (fGa w)) .notAPort (.chctlClose (fGa w)) else .error .unusedField
  | 1 => if fGb w == 0 then need (namesPort (fGa w)) .notAPort (.chctlEosrd (fGd w) (fGa w)) else .error .unusedField
  | 2 => if fGb w == 0 && fGd w == 0 then need (namesPort (fGa w)) .notAPort (.chctlEosclr (fGa w)) else .error .unusedField
  | _ => .error .unassignedFn

/-- R353: MOP 0x31. -/
def decodeSysw (w : Word32) : Except Reject Instr :=
  if fGd w != 0 then .error .unusedField else
  match (fFn2 w).toNat with
  | 0 => need (sysregKnown (fSys w)) .unknownSysreg (.sysw (fGa w) (fSys w))
  | 1 => need (sysregKnown (fSys w)) .unknownSysreg (.syswSet (fGa w) (fSys w))
  | 2 => need (sysregKnown (fSys w)) .unknownSysreg (.syswClr (fGa w) (fSys w))
  | _ => .error .unassignedFn

/-- R366: MOP 0x35. The six region commands share one word: the CMD field of the value of ga tells them apart, and the
step reads it (`refineRegion`, log 15). -/
def decodeCtl (w : Word32) : Except Reject Instr :=
  if fFn2 w != 0 then .error .unassignedFn else
  match (fSys w).toNat with
  | 1 => .ok (.ctlKload (fGd w) (fGa w))
  | 2 => .ok (.ctlKzero (fGd w) (fGa w))
  | 3 => .ok (.rgncmdAssign (fGd w) (fGa w))
  | 4 => .ok (.ctlTlbinv (fGd w) (fGa w))
  | 5 => .ok (.ctlPrget (fGd w) (fGa w))
  | 6 => .ok (.ctlPrans (fGd w) (fGa w))
  | 7 => .ok (.ctlCaston (fGd w) (fGa w))
  | 8 => .ok (.ctlCancel (fGd w) (fGa w))
  | 9 => .ok (.ctlAttest (fGd w) (fGa w))
  | 10 => .ok (.ctlRebind (fGd w) (fGa w))
  | _ => .error .unassignedCtl

/-- R46: the MOP map. -/
def decodeGen (w : Word32) : Except Reject Instr :=
  let d := fGd w
  let a := fGa w
  let b := fGb w
  let i14 := fImm14 w
  let i20 := fImm20 w
  match (fMop w).toNat with
  | 0x01 => decodeAlu w
  | 0x02 => .ok (.addi d a i14)
  | 0x03 => .ok (.andi d a i14)
  | 0x04 => .ok (.ori d a i14)
  | 0x05 => .ok (.xori d a i14)
  | 0x06 => need (i14.toNat < 64) .unusedField (.slli d a (w.extractLsb' 0 6))
  | 0x07 => need (i14.toNat < 64) .unusedField (.srli d a (w.extractLsb' 0 6))
  | 0x08 => need (i14.toNat < 64) .unusedField (.srai d a (w.extractLsb' 0 6))
  | 0x09 => .ok (.slti d a i14)
  | 0x0A => .ok (.sltiu d a i14)
  | 0x0B => .ok (.lsi d i20)
  | 0x0C => .ok (.addpc d i20)
  | 0x0D => .ok (.ldpc d i20)
  | 0x0E => .ok (.ldb d a i14)
  | 0x0F => .ok (.ldbu d a i14)
  | 0x10 => .ok (.ldh d a i14)
  | 0x11 => .ok (.ldhu d a i14)
  | 0x12 => .ok (.ldw d a i14)
  | 0x13 => .ok (.ldwu d a i14)
  | 0x14 => .ok (.ldd d a i14)
  | 0x15 => .ok (.stb d a i14)
  | 0x16 => .ok (.sth d a i14)
  | 0x17 => .ok (.stw d a i14)
  | 0x18 => .ok (.std d a i14)
  | 0x19 => .ok (.beq d a i14)
  | 0x1A => .ok (.bne d a i14)
  | 0x1B => .ok (.blt d a i14)
  | 0x1C => .ok (.bge d a i14)
  | 0x1D => .ok (.bltu d a i14)
  | 0x1E => .ok (.bgeu d a i14)
  | 0x1F => .ok (.jal d i20)
  | 0x20 => .ok (.jalr d a i14)
  | 0x21 => .ok (.jmpf d a i14)
  | 0x22 => if fFn w != 0 then .error .unassignedFn else if !namesPort d then .error .notAPort
      else need (burstRegs a b) .burstRegister (.recvb d a b)
  | 0x23 => if fFn w != 0 then .error .unassignedFn else if !namesPort d then .error .notAPort
      else need (burstRegs a b) .burstRegister (.sendb d a b)
  | 0x24 => decodeChctl w
  | 0x25 => if fTn w != 0 || fFn w != 0 then .error .unusedField else need (queueOk (fQ w)) .queueThree (.emit (fQ w) a b)
  | 0x26 =>
      let i := Instr.emitt (fQ w) (fTn w) a b (w.extractLsb' 4 4) (w.extractLsb' 0 4)
      if !queueOk (fQ w) then .error .queueThree else need i.wf .unusedField i
  | 0x27 => need (queueOk (fQ w)) .queueThree (.emitl (fQ w) (w.extractLsb' 0 24))
  | 0x28 => need (fQ w == 0 && fFn w == 0) .unusedField (.tset (fTn w) a b)
  | 0x29 => need (fQ w == 0) .unusedField (.tld (fTn w) a i14)
  | 0x2A => need (d == 0 && a == 0 && i14.toNat < 8) .unusedField (.gwait (w.extractLsb' 0 3))
  | 0x2B => need (d == 0 && a == 0 && i14.toNat < 8) .unusedField (.mwaitb (w.extractLsb' 0 3))
  | 0x2C => need (d == 0 && fFn w == 0) .unusedField (.cfetch a b)
  | 0x2D => need (d == 0 && i14 == 0) .unusedField (.cwait a)
  | 0x2E => need (d == 0 && a == 0 && i14.toNat < 256) .unusedField (.gbar (w.extractLsb' 0 8))
  | 0x2F => need (d == 0 && a == 0 && i14.toNat < 256) .unusedField (.phase (w.extractLsb' 0 8))
  | 0x30 => if a != 0 then .error .unusedField else if fFn2 w != 0 then .error .unassignedFn
      else need (sysregKnown (fSys w)) .unknownSysreg (.sysr d (fSys w))
  | 0x31 => decodeSysw w
  | 0x32 => need (d == 0 && a == 0) .unusedField (.trap i14)
  | 0x33 => need (w.extractLsb' 0 26 == 0) .unusedField .sret
  | 0x34 => need (w.extractLsb' 0 26 == 0) .unusedField .exit
  | 0x35 => decodeCtl w
  | _ => .error .reservedMop

/-- R48: ECLS. -/
def fEcls (w : Word) : BitVec 4 := w.extractLsb' 60 4
/-- R48: EOP. -/
def fEop (w : Word) : BitVec 8 := w.extractLsb' 52 8

/-- R49: the payload of an ECLS 0 word. -/
def vecFields (w : Word) : VecF :=
  { vd := w.extractLsb' 46 6, va := w.extractLsb' 40 6, vb := w.extractLsb' 34 6, vc := w.extractLsb' 28 6,
    msk := w.extractLsb' 25 3, mz := w.extractLsb' 24 1, rm := w.extractLsb' 21 3, sat := w.extractLsb' 20 1,
    sub := w.extractLsb' 16 4, imm := w.extractLsb' 0 16 }

/-- R50: the payload of an ECLS 1 word. -/
def memFields (w : Word) : MemF :=
  { vd := w.extractLsb' 46 6, vi := w.extractLsb' 40 6, msk := w.extractLsb' 37 3, win := w.extractLsb' 34 3,
    eb := w.extractLsb' 30 4, es := w.extractLsb' 26 4, ff := w.extractLsb' 25 1, off := w.extractLsb' 0 22 }

/-- R51: the payload of an ECLS 2 word. -/
def matFields (w : Word) : MatF :=
  { fmt := w.extractLsb' 48 4, acc := w.extractLsb' 47 1, depth := w.extractLsb' 41 6, asrc := w.extractLsb' 40 1,
    bsrc := w.extractLsb' 39 1, a := w.extractLsb' 33 6, b := w.extractLsb' 27 6, batch := w.extractLsb' 24 3,
    flags := w.extractLsb' 20 4 }

/-- R52: the payload of an ECLS 3 word. -/
def copyFields (w : Word) : CopyF :=
  { ed := w.extractLsb' 48 4, ef := w.extractLsb' 44 4, fo := w.extractLsb' 43 1, mode := w.extractLsb' 40 3,
    op := w.extractLsb' 32 8, imm := w.extractLsb' 0 32 }

/-- R49: the opcodes of ECLS 0. -/
def vecOp (n : Nat) (f : VecF) : Option Instr :=
  match n with
  | 0x00 => some (.vadd f)
  | 0x01 => some (.vsub f)
  | 0x02 => some (.vmul f)
  | 0x03 => some (.vfma f)
  | 0x04 => some (.vfms f)
  | 0x05 => some (.vfnma f)
  | 0x06 => some (.vdiv f)
  | 0x07 => some (.vsqrt f)
  | 0x08 => some (.vrcp f)
  | 0x09 => some (.vrsqrt f)
  | 0x0A => some (.vexp2 f)
  | 0x0B => some (.vlog2 f)
  | 0x0C => some (.vmin f)
  | 0x0D => some (.vmax f)
  | 0x0E => some (.vabs f)
  | 0x0F => some (.vneg f)
  | 0x10 => some (.vcmp f)
  | 0x11 => some (.vsel f)
  | 0x12 => some (.vcvt f)
  | 0x13 => some (.viadd f)
  | 0x14 => some (.visub f)
  | 0x15 => some (.vimul f)
  | 0x16 => some (.vimulh f)
  | 0x17 => some (.vimin f)
  | 0x18 => some (.vimax f)
  | 0x19 => some (.viminu f)
  | 0x1A => some (.vimaxu f)
  | 0x1B => some (.vand f)
  | 0x1C => some (.vor f)
  | 0x1D => some (.vxor f)
  | 0x1E => some (.vshl f)
  | 0x1F => some (.vshr f)
  | 0x20 => some (.vsra f)
  | 0x21 => some (.vicmp f)
  | 0x22 => some (.vredsum f)
  | 0x23 => some (.vredmax f)
  | 0x24 => some (.vredmin f)
  | 0x25 => some (.viredsum f)
  | 0x26 => some (.viota f)
  | 0x27 => some (.vbcast f)
  | 0x28 => some (.vmv f)
  | 0x29 => some (.vmrg f)
  | 0x2A => some (.vnorm f)
  | 0x2B => some (.vsetvl f)
  | 0x2C => some (.mand f)
  | 0x2D => some (.mor f)
  | 0x2E => some (.mxor f)
  | 0x2F => some (.mnot f)
  | _ => none

/-- R50: the opcodes of ECLS 1. -/
def memOp (n : Nat) (f : MemF) : Option Instr :=
  match n with
  | 0 => some (.vld f)
  | 1 => some (.vst f)
  | 2 => some (.vlds f)
  | 3 => some (.vsts f)
  | 4 => some (.vldx f)
  | 5 => some (.vstx f)
  | 6 => some (.vscadd f)
  | 7 => some (.vperm f)
  | 8 => some (.vrot f)
  | 9 => some (.vslide f)
  | 10 => some (.vcompress f)
  | _ => none

/-- R51: the opcodes of ECLS 2. -/
def matOp (n : Nat) (f : MatF) : Option Instr :=
  match n with
  | 0 => some (.mzero f)
  | 1 => some (.mstep f)
  | 2 => some (.mcommit f)
  | 3 => some (.mrd f)
  | 4 => some (.mst f)
  | 5 => some (.mcfg f)
  | 6 => some (.msave f)
  | 7 => some (.mload f)
  | _ => none

/-- R52: the opcodes of ECLS 3. -/
def copyOp (n : Nat) (f : CopyF) : Option Instr :=
  match n with
  | 0 => some (.xcopy f)
  | 1 => some (.xget f)
  | 2 => some (.xput f)
  | 3 => some (.xstream f)
  | 4 => some (.xgather f)
  | 5 => some (.xatom f)
  | _ => none

/-- A word of a class: its opcode must be assigned, its reserved bits zero and its fields well-formed (R54). -/
def judge (i : Option Instr) (reserved : Bool) : Except Reject Instr :=
  match i with
  | none => .error .unassignedEop
  | some i => need (reserved && i.wf) .badField i

/-- R53: the ECLS 4 words. -/
def decodeCtrlWord (w : Word) : Except Reject Instr :=
  match (fEop w).toNat with
  | 0 => .ok (.esetL (w.extractLsb' 48 4) (w.extractLsb' 0 48))
  | 1 => need (w.extractLsb' 16 32 == 0) .badField (.esetH (w.extractLsb' 48 4) (w.extractLsb' 0 16))
  | 2 => need (w.extractLsb' 51 1 == 0 && w.extractLsb' 0 48 == 0) .badField (.qjoin (w.extractLsb' 48 3))
  | 3 => need (w.extractLsb' 0 47 == 0) .badField (.replay (w.extractLsb' 48 4) (w.extractLsb' 47 1))
  | 4 => need (w.extractLsb' 0 52 == 0) .badField .enop
  | _ => .error .unassignedEop

/-- R48-R53: an engine word. -/
def decodeEng (w : Word) : Except Reject Instr :=
  match (fEcls w).toNat with
  | 0 => judge (vecOp (fEop w).toNat (vecFields w)) true
  | 1 => judge (memOp (fEop w).toNat (memFields w)) (w.extractLsb' 22 3 == 0)
  | 2 => judge (matOp (fEop w).toNat (matFields w)) (w.extractLsb' 0 20 == 0)
  | 3 => judge (copyOp (fEop w).toNat (copyFields w)) true
  | 4 => decodeCtrlWord w
  | _ => .error .reservedClass

/-- R48: the queue that carries a word of an engine class; ECLS 4 goes on any queue. -/
def classFits (w : Word) (q : Queue) : Bool :=
  match (fEcls w).toNat, q with
  | 0, .vq | 1, .vq | 2, .mq | 3, .xq | 4, _ => true
  | _, _ => false

/-- The instruction the decoder reads from the bits of a row of the opcode table: a row of at most 32 bits is a generator
word, a longer one an engine word. -/
def decodeTableWord (nbits w : Nat) : Option Instr :=
  match (if nbits ≤ 32 then decodeGen (BitVec.ofNat 32 w) else decodeEng (BitVec.ofNat 64 w)) with
  | .ok i => some i
  | .error _ => none

/-! ## The encoders -/

/-- R40, format A. -/
def encA (mop : BitVec 6) (d a b : Opnd) (fn : BitVec 8) : Word32 := mop ++ d ++ a ++ b ++ fn
/-- R40, formats I and B. -/
def encI (mop : BitVec 6) (d a : Opnd) (i : BitVec 14) : Word32 := mop ++ d ++ a ++ i
/-- R40, format J. -/
def encJ (mop : BitVec 6) (d : Opnd) (i : BitVec 20) : Word32 := mop ++ d ++ i
/-- R40, format E. -/
def encE (mop : BitVec 6) (q : BitVec 2) (t : BitVec 4) (a b : Opnd) (fn : BitVec 8) : Word32 :=
  mop ++ q ++ t ++ a ++ b ++ fn
/-- R40, format S. -/
def encS (mop : BitVec 6) (d a : Opnd) (r : BitVec 12) (fn2 : BitVec 2) : Word32 := mop ++ d ++ a ++ r ++ fn2

/-- The word of a generator instruction; none for the rows that are no generator instruction. -/
def encodeGen : Instr → Option Word32
  | .add d a b => some (encA 0x01 d a b 0x00)
  | .sub d a b => some (encA 0x01 d a b 0x01)
  | .and d a b => some (encA 0x01 d a b 0x02)
  | .or d a b => some (encA 0x01 d a b 0x03)
  | .xor d a b => some (encA 0x01 d a b 0x04)
  | .andn d a b => some (encA 0x01 d a b 0x05)
  | .sll d a b => some (encA 0x01 d a b 0x06)
  | .srl d a b => some (encA 0x01 d a b 0x07)
  | .sra d a b => some (encA 0x01 d a b 0x08)
  | .slt d a b => some (encA 0x01 d a b 0x09)
  | .sltu d a b => some (encA 0x01 d a b 0x0A)
  | .min d a b => some (encA 0x01 d a b 0x0B)
  | .max d a b => some (encA 0x01 d a b 0x0C)
  | .minu d a b => some (encA 0x01 d a b 0x0D)
  | .maxu d a b => some (encA 0x01 d a b 0x0E)
  | .mul d a b => some (encA 0x01 d a b 0x0F)
  | .mulh d a b => some (encA 0x01 d a b 0x10)
  | .mulhu d a b => some (encA 0x01 d a b 0x11)
  | .div d a b => some (encA 0x01 d a b 0x12)
  | .divu d a b => some (encA 0x01 d a b 0x13)
  | .rem d a b => some (encA 0x01 d a b 0x14)
  | .remu d a b => some (encA 0x01 d a b 0x15)
  | .clz d a => some (encA 0x01 d a 0 0x16)
  | .ctz d a => some (encA 0x01 d a 0 0x17)
  | .popc d a => some (encA 0x01 d a 0 0x18)
  | .sextb d a => some (encA 0x01 d a 0 0x19)
  | .sexth d a => some (encA 0x01 d a 0 0x1A)
  | .sextw d a => some (encA 0x01 d a 0 0x1B)
  | .zextb d a => some (encA 0x01 d a 0 0x1C)
  | .zexth d a => some (encA 0x01 d a 0 0x1D)
  | .zextw d a => some (encA 0x01 d a 0 0x1E)
  | .addi d a i => some (encI 0x02 d a i)
  | .andi d a i => some (encI 0x03 d a i)
  | .ori d a i => some (encI 0x04 d a i)
  | .xori d a i => some (encI 0x05 d a i)
  | .slli d a sh => some (encI 0x06 d a (0#8 ++ sh))
  | .srli d a sh => some (encI 0x07 d a (0#8 ++ sh))
  | .srai d a sh => some (encI 0x08 d a (0#8 ++ sh))
  | .slti d a i => some (encI 0x09 d a i)
  | .sltiu d a i => some (encI 0x0A d a i)
  | .lsi d i => some (encJ 0x0B d i)
  | .addpc d i => some (encJ 0x0C d i)
  | .ldpc d i => some (encJ 0x0D d i)
  | .ldb d a i => some (encI 0x0E d a i)
  | .ldbu d a i => some (encI 0x0F d a i)
  | .ldh d a i => some (encI 0x10 d a i)
  | .ldhu d a i => some (encI 0x11 d a i)
  | .ldw d a i => some (encI 0x12 d a i)
  | .ldwu d a i => some (encI 0x13 d a i)
  | .ldd d a i => some (encI 0x14 d a i)
  | .stb d a i => some (encI 0x15 d a i)
  | .sth d a i => some (encI 0x16 d a i)
  | .stw d a i => some (encI 0x17 d a i)
  | .std d a i => some (encI 0x18 d a i)
  | .beq a b i => some (encI 0x19 a b i)
  | .bne a b i => some (encI 0x1A a b i)
  | .blt a b i => some (encI 0x1B a b i)
  | .bge a b i => some (encI 0x1C a b i)
  | .bltu a b i => some (encI 0x1D a b i)
  | .bgeu a b i => some (encI 0x1E a b i)
  | .jal d i => some (encJ 0x1F d i)
  | .jalr d a i => some (encI 0x20 d a i)
  | .jmpf d a i => some (encI 0x21 d a i)
  | .recvb p a b => some (encA 0x22 p a b 0)
  | .sendb p a b => some (encA 0x23 p a b 0)
  | .chctlClose p => some (encA 0x24 0 p 0 0)
  | .chctlEosrd d p => some (encA 0x24 d p 0 1)
  | .chctlEosclr p => some (encA 0x24 0 p 0 2)
  | .emit q a b => some (encE 0x25 q 0 a b 0)
  | .emitt q t a b x y => some (encE 0x26 q t a b (x ++ y))
  | .emitl q off => some ((0x27#6 ++ q ++ off : BitVec 32))
  | .tset t a b => some (encE 0x28 0 t a b 0)
  | .tld t a i => some (encI 0x29 (0#2 ++ t) a i)
  | .gwait m => some (encI 0x2A 0 0 (0#11 ++ m))
  | .mwaitb b => some (encI 0x2B 0 0 (0#11 ++ b))
  | .cfetch a b => some (encA 0x2C 0 a b 0)
  | .cwait a => some (encI 0x2D 0 a 0)
  | .gbar g => some (encI 0x2E 0 0 (0#6 ++ g))
  | .phase g => some (encI 0x2F 0 0 (0#6 ++ g))
  | .sysr d r => some (encS 0x30 d 0 r 0)
  | .sysw a r => some (encS 0x31 0 a r 0)
  | .syswSet a r => some (encS 0x31 0 a r 1)
  | .syswClr a r => some (encS 0x31 0 a r 2)
  | .trap c => some (encI 0x32 0 0 c)
  | .sret => some 0xCC000000
  | .exit => some 0xD0000000
  | .ctlKload d a => some (encS 0x35 d a 1 0)
  | .ctlKzero d a => some (encS 0x35 d a 2 0)
  | .rgncmdAssign d a | .rgncmdHalt d a | .rgncmdReset d a | .rgncmdScrub d a | .rgncmdSwitch d a
  | .rgncmdRelease d a => some (encS 0x35 d a 3 0)
  | .ctlTlbinv d a => some (encS 0x35 d a 4 0)
  | .ctlPrget d a => some (encS 0x35 d a 5 0)
  | .ctlPrans d a => some (encS 0x35 d a 6 0)
  | .ctlCaston d a => some (encS 0x35 d a 7 0)
  | .ctlCancel d a => some (encS 0x35 d a 8 0)
  | .ctlAttest d a => some (encS 0x35 d a 9 0)
  | .ctlRebind d a => some (encS 0x35 d a 10 0)
  | _ => none

/-- R49. -/
def encVec (eop : BitVec 8) (f : VecF) : Word :=
  0#4 ++ eop ++ f.vd ++ f.va ++ f.vb ++ f.vc ++ f.msk ++ f.mz ++ f.rm ++ f.sat ++ f.sub ++ f.imm
/-- R50. -/
def encMem (eop : BitVec 8) (f : MemF) : Word :=
  1#4 ++ eop ++ f.vd ++ f.vi ++ f.msk ++ f.win ++ f.eb ++ f.es ++ f.ff ++ 0#3 ++ f.off
/-- R51. -/
def encMat (eop : BitVec 8) (f : MatF) : Word :=
  2#4 ++ eop ++ f.fmt ++ f.acc ++ f.depth ++ f.asrc ++ f.bsrc ++ f.a ++ f.b ++ f.batch ++ f.flags ++ 0#20
/-- R52. -/
def encCopy (eop : BitVec 8) (f : CopyF) : Word :=
  3#4 ++ eop ++ f.ed ++ f.ef ++ f.fo ++ f.mode ++ f.op ++ f.imm

/-- The word of an engine instruction; none for the rows that are no engine word. -/
def encodeEng : Instr → Option Word
  | .vadd f => some (encVec 0x00 f)
  | .vsub f => some (encVec 0x01 f)
  | .vmul f => some (encVec 0x02 f)
  | .vfma f => some (encVec 0x03 f)
  | .vfms f => some (encVec 0x04 f)
  | .vfnma f => some (encVec 0x05 f)
  | .vdiv f => some (encVec 0x06 f)
  | .vsqrt f => some (encVec 0x07 f)
  | .vrcp f => some (encVec 0x08 f)
  | .vrsqrt f => some (encVec 0x09 f)
  | .vexp2 f => some (encVec 0x0A f)
  | .vlog2 f => some (encVec 0x0B f)
  | .vmin f => some (encVec 0x0C f)
  | .vmax f => some (encVec 0x0D f)
  | .vabs f => some (encVec 0x0E f)
  | .vneg f => some (encVec 0x0F f)
  | .vcmp f => some (encVec 0x10 f)
  | .vsel f => some (encVec 0x11 f)
  | .vcvt f => some (encVec 0x12 f)
  | .viadd f => some (encVec 0x13 f)
  | .visub f => some (encVec 0x14 f)
  | .vimul f => some (encVec 0x15 f)
  | .vimulh f => some (encVec 0x16 f)
  | .vimin f => some (encVec 0x17 f)
  | .vimax f => some (encVec 0x18 f)
  | .viminu f => some (encVec 0x19 f)
  | .vimaxu f => some (encVec 0x1A f)
  | .vand f => some (encVec 0x1B f)
  | .vor f => some (encVec 0x1C f)
  | .vxor f => some (encVec 0x1D f)
  | .vshl f => some (encVec 0x1E f)
  | .vshr f => some (encVec 0x1F f)
  | .vsra f => some (encVec 0x20 f)
  | .vicmp f => some (encVec 0x21 f)
  | .vredsum f => some (encVec 0x22 f)
  | .vredmax f => some (encVec 0x23 f)
  | .vredmin f => some (encVec 0x24 f)
  | .viredsum f => some (encVec 0x25 f)
  | .viota f => some (encVec 0x26 f)
  | .vbcast f => some (encVec 0x27 f)
  | .vmv f => some (encVec 0x28 f)
  | .vmrg f => some (encVec 0x29 f)
  | .vnorm f => some (encVec 0x2A f)
  | .vsetvl f => some (encVec 0x2B f)
  | .mand f => some (encVec 0x2C f)
  | .mor f => some (encVec 0x2D f)
  | .mxor f => some (encVec 0x2E f)
  | .mnot f => some (encVec 0x2F f)
  | .vld f => some (encMem 0x00 f)
  | .vst f => some (encMem 0x01 f)
  | .vlds f => some (encMem 0x02 f)
  | .vsts f => some (encMem 0x03 f)
  | .vldx f => some (encMem 0x04 f)
  | .vstx f => some (encMem 0x05 f)
  | .vscadd f => some (encMem 0x06 f)
  | .vperm f => some (encMem 0x07 f)
  | .vrot f => some (encMem 0x08 f)
  | .vslide f => some (encMem 0x09 f)
  | .vcompress f => some (encMem 0x0A f)
  | .mzero f => some (encMat 0x00 f)
  | .mstep f => some (encMat 0x01 f)
  | .mcommit f => some (encMat 0x02 f)
  | .mrd f => some (encMat 0x03 f)
  | .mst f => some (encMat 0x04 f)
  | .mcfg f => some (encMat 0x05 f)
  | .msave f => some (encMat 0x06 f)
  | .mload f => some (encMat 0x07 f)
  | .xcopy f => some (encCopy 0x00 f)
  | .xget f => some (encCopy 0x01 f)
  | .xput f => some (encCopy 0x02 f)
  | .xstream f => some (encCopy 0x03 f)
  | .xgather f => some (encCopy 0x04 f)
  | .xatom f => some (encCopy 0x05 f)
  | .esetL e imm => some ((4#4 ++ 0#8 ++ e ++ imm : BitVec 64))
  | .esetH e imm => some ((4#4 ++ 1#8 ++ e ++ 0#32 ++ imm : BitVec 64))
  | .qjoin m => some ((4#4 ++ 2#8 ++ 0#1 ++ m ++ 0#48 : BitVec 64))
  | .replay e r => some ((4#4 ++ 3#8 ++ e ++ r ++ 0#47 : BitVec 64))
  | .enop => some ((4#4 ++ 4#8 ++ 0#52 : BitVec 64))
  | _ => none

end Sys2Proof
end

