-- ==== Sys2Proof/Config.lean ====
section
/-! DEFINITION. What one device fixes and what the manual leaves open. A figure marked "on this part" (R2) is a plain
constant. A free value is an opaque constant: nothing in Lean can evaluate it or prove a value of it. -/

namespace Sys2Proof.Config

/-- A fresh free value: the counter `State.free` is read and advanced at each use. Timing registers (R25, R32, log 6), host
memory (R301, R346, log 11), scrub progress (R385, log 20), the victim of a TLB
replacement (R278, log 13), the times in a completion record (R393). -/
opaque freeWord : Nat → BitVec 64

/-- R301, R331: what a byte of a tenant's frame in another package holds that nothing in this package has stored to, by its place (log 12). -/
opaque peerByte : Nat → BitVec 8

/-- R345: what a word reads of another tenant's frame in another package: by the number of the publication and the place (log 12). -/
opaque peerPub : Nat → Nat → BitVec 8

/-- R398: the seed of the fused device identity key (log 21). -/
opaque deviceSeed : BitVec 256

/-- R398: the firmware version reported by `attest` (log 21). -/
opaque firmwareVersion : BitVec 64

/-- R251: side of the matrix array, on this part. -/
def mtl : Nat := 64
/-- R169: entries of an engine queue. -/
def queueDepth : Nat := 64
/-- R186: history-buffer entries of a slot. -/
def histDepth : Nat := 256
/-- R176: stores the store buffer holds, on this part. -/
def storeDepth : Nat := 32
/-- R177: range-scoreboard entries of a tile. -/
def scoreboardDepth : Nat := 256
/-- R140: entries of the stream hold buffer, on this part. -/
def holdDepth : Nat := 4
/-- R351: the supervisor partition, 64 KiB on this part, from granule 496 of the tile's SRAM. -/
def supSize : Nat := 65536
/-- R351: byte address of the supervisor partition in tile SRAM. -/
def supBase : Nat := 496 * 4096
/-- R368: contexts a region holds, on this part. -/
def maxContexts : Nat := 4
/-- R277: frames of one stack, on this part. -/
def frameCount : Nat := 17166
/-- R278: leaf entries of one memory port's first-level TLB. -/
def tlb1Depth : Nat := 96
/-- R278: leaf entries of one stack's second-level TLB. -/
def tlb2Depth : Nat := 24576
/-- R282: shared page-request entries, and entries reserved for each tenant. -/
def pageShared : Nat := 1024
/-- R282: entries reserved for each of the 17 tenants. -/
def pageReserved : Nat := 16
/-- R282: shared entries one tenant may hold. -/
def pageSharedMax : Nat := 256
/-- R157: entries of a UALink port's re-sequencing queue, on this part. -/
def reseqDepth : Nat := 512
/-- R313: inputs that a router holds, on this part. -/
def routerStore : Nat := 64
/-- The model's number of the control tile's slot (R350): one past the 4,096 process slots of R12. -/
def controlSlot : Nat := 4096

end Sys2Proof.Config
end

