-- ==== Sys2Proof/Machine/Sparse.lean ====
section
/-! DEFINITION. Registers, memories and tables as lists of (key, value) pairs in one canonical form: keys strictly rising,
no entry equal to what an unlisted key reads as. `Sparse.get` and `Sparse.set` are the only operations. -/

namespace Sys2Proof.Machine

/-- A table from numbers to values; a key not listed reads as the table's default. -/
abbrev Sparse (β : Type) := List (Nat × β)

/-- Bytes by address (`Host.Cell`); an unlisted address reads 0 (log 4, log 5; R373 for tile SRAM). -/
abbrev Mem := List Host.Cell

/-- The value at a key; `d` where the key is not listed. -/
def Sparse.get {β : Type} (d : β) : Sparse β → Nat → β
  | [], _ => d
  | (k, v) :: m, n => if k = n then v else Sparse.get d m n

/-- The table without a key. -/
def Sparse.drop {β : Type} : Sparse β → Nat → Sparse β
  | [], _ => []
  | (k, v) :: m, n => if k = n then Sparse.drop m n else (k, v) :: Sparse.drop m n

/-- Insertion before the first greater key. -/
def Sparse.insert {β : Type} : Sparse β → Nat → β → Sparse β
  | [], n, x => [(n, x)]
  | (k, v) :: m, n, x => if n < k then (n, x) :: (k, v) :: m else (k, v) :: Sparse.insert m n x

/-- The table with a new value at a key; the default value removes the entry. -/
def Sparse.set {β : Type} [DecidableEq β] (d : β) (m : Sparse β) (n : Nat) (x : β) : Sparse β :=
  if x = d then m.drop n else (m.drop n).insert n x

/-- All keys are above `lo` and strictly rising, and no value is the default. -/
def Sparse.wfFrom {β : Type} [DecidableEq β] (d : β) : Option Nat → Sparse β → Bool
  | _, [] => true
  | lo, (k, v) :: m => (match lo with | none => true | some l => decide (l < k)) && decide (v ≠ d) && Sparse.wfFrom d (some k) m

/-- The canonical form. -/
def Sparse.wf {β : Type} [DecidableEq β] (d : β) (m : Sparse β) : Bool := Sparse.wfFrom d none m

/-- One byte of a memory. -/
def Mem.byte (m : Mem) (a : Nat) : Byte := Sparse.get 0 m a

/-- A memory with one byte written. -/
def Mem.put (m : Mem) (a : Nat) (b : Byte) : Mem := Sparse.set 0 m a b

/-- The canonical form of a memory. -/
def Memory.wf (m : Mem) : Bool := Sparse.wf (0 : Byte) m

/-- `n` bytes from an address up. -/
def Mem.bytes (m : Mem) (a : Nat) : Nat → List Byte
  | 0 => []
  | n + 1 => m.byte a :: Mem.bytes m (a + 1) n

/-- Bytes written at rising addresses. -/
def Mem.putBytes (m : Mem) (a : Nat) : List Byte → Mem
  | [] => m
  | b :: bs => Mem.putBytes (m.put a b) (a + 1) bs

/-- A value from its bytes, the lowest address least significant (R5). -/
def leNat : List Byte → Nat
  | [] => 0
  | b :: bs => b.toNat + 256 * leNat bs

/-- The `n` low bytes of a value, least significant first (R5). -/
def natLe (x : Nat) : Nat → List Byte
  | 0 => []
  | n + 1 => BitVec.ofNat 8 x :: natLe (x / 256) n

/-- The dword at an address. -/
def Mem.dword (m : Mem) (a : Nat) : Word := BitVec.ofNat 64 (leNat (m.bytes a 8))

/-- The dwords of a byte string. -/
def dwords (bs : List Byte) (n : Nat) : List Word :=
  (List.range n).map fun k => BitVec.ofNat 64 (leNat ((bs.drop (8 * k)).take 8))

/-- A 64-bit value modulo 2^64 from an integer. -/
def wordOfInt (x : Int) : Word := BitVec.ofInt 64 x

/-- The 64-byte sector of an address (R177). -/
def sector (a : Nat) : Nat := a / 64

end Sys2Proof.Machine
end

