-- ==== Sys2Proof/Machine/State.lean ====
section
/-! DEFINITION. The state of the machine, as plain data: everything the spec gives the THB-1024, what travels between its
parts, and the model's own agenda (log 1, log 2). One home for every register; the accessors stand in Ops.lean. -/

namespace Sys2Proof.Machine

/-- Why a step stops the model. -/
inductive Fault
  /-- Raised by `step` on a package that has powered itself off (R395) when the agenda asks for anything but the next
  power-on: nothing in it executes. Safe: the spec gives a package without power no step. -/
  | poweredOff
deriving DecidableEq, Repr

/-- Why an instruction has no meaning in the model. -/
inductive Refusal
  /-- Raised by an arm of `exec` that is not written yet. Safe: nothing is concluded from it. -/
  | notModelled (mnemonic : String)
deriving DecidableEq, Repr

/-- R357: the trap causes, with their codes in `Cause.code`. -/
inductive Cause
  | illegal | badopnd | badword | priv | align | window | portsize | portunbound | endstream | severed | codemiss
  | accopen | accowner | accmode | matrixnotowned | descriptor | memfault | shadowfull | phaseconflict | deadlock
  | spillfull | mirrordiff | group | eccfatal | trapinsn | preempt
deriving DecidableEq, Repr

/-- R24: the wait state of a slot, with what it waits for. `engine` is every wait for the slot's own engine words;
`segment` a wait for an INFLIGHT segment; `fault` a level-G fault waiting for its commit point (R119). `readPort` names the slots that
the instruction takes from the port before the one that it waits for (R135). -/
inductive Wait
  | none | readPort (port skip : Nat) | writePort (port : Nat) | engine | segment | fault
  | barrier (gid : BitVec 8) (e : Nat) | phase (gid : BitVec 8) (e : Nat) | reply
deriving DecidableEq, Repr

/-- R351: one bank of registers: g1-g31, t0-t15, the engine registers of the three queues, the ESEQ counter. -/
structure Bank where
  g : Sparse Word := []
  t : Sparse Word := []
  ev : Sparse Word := []
  em : Sparse Word := []
  ex : Sparse Word := []
  eseq : BitVec 32 := 0
deriving DecidableEq, Repr

/-- R178: a hull, an interval of 64-byte sectors of the addresses of R351, read or written. -/
structure Hull where
  lo : Nat
  hi : Nat
  wr : Bool
deriving DecidableEq, Repr

/-- How far a queued word has come. `reserved`: the MQ entry of a follow-on whose copy has not retired (R181). `waiting`:
started, awaiting a page before its fault point (R282). `passed`: past its fault point, with effects left. `done`: every
effect performed, to be retired (R172). -/
inductive WStat | reserved | queued | waiting | passed | done
deriving DecidableEq, Repr

/-- The progress of a word that moves one element at a time (R290, R297, R299). -/
structure Prog where
  /-- elements, rows or slots moved -/
  n : Nat := 0
  /-- bytes that do not yet form a whole slot -/
  part : List Byte := []
  /-- the indices of an `xgather`, read at its fault point -/
  idx : List Word := []
  /-- R346: host reads answered and not yet used, by their number among those of the word -/
  host : List (Nat × List Byte) := []
  /-- host reads whose bytes have been used -/
  hostN : Nat := 0
  /-- the page awaited (R282), and whether its request was rejected (R284) -/
  want : Option Nat := none
  rej : Bool := false
  /-- the leaves of the pages that the word touches, as they were translated (R278, R292) -/
  leaves : List (Nat × Word) := []
  /-- R173, R292: the place of a copy word's descriptor or parameter block, and its bytes, as the word found them at its fault point -/
  desc : Nat := 0
  block : List Byte := []
  /-- R345: publications made before the word passed its fault point -/
  pub : Nat := 0
  /-- R345: the number of the one publication that the word reads of the windows of other packages (log 12) -/
  peer : Nat := 0
deriving DecidableEq, Repr

/-- R169: an entry of an engine queue, with what is taken at its emit. -/
structure QEntry where
  word : Word
  epc : Word
  eseq : BitVec 32
  /-- program position of the emitting instruction (log 3) -/
  pos : Nat
  /-- R79: FCSR.RM at the emit -/
  rm : BitVec 3
  /-- R262: the emit-side open mask before the emit -/
  mask0 : BitVec 8
  hulls : List Hull
  /-- R293: the DRAM hull, first and last address and whether it writes -/
  dhull : List Hull
  /-- R295: the follow-on word of a copy -/
  fo : Option Word
  /-- place among the words of one emit: 0 the emitted word, 1 its follow-on (R181); 2 k the k-th word issued from its
  pattern (R195), 2 k + 1 that one's follow-on -/
  sub : Nat
  stat : WStat
  prog : Prog
  /-- R190: position in a replay's pattern (FAULTITER); 0 for a word of its own -/
  iter : Word
  /-- the queue whose order the word takes part in -/
  q : Queue := .vq
deriving DecidableEq, Repr

/-- R195: the replay sequencer at work: the queue that carries the replay, its pattern, the position to be issued next. -/
structure Replay where
  q : Queue
  pat : Nat
  /-- index vector, level 0 first -/
  idx : List Nat
  w : Nat
  /-- one more than the words issued -/
  n : Nat
  /-- R194: NW, NST, HBASE, HLIMIT and the counts of the levels, as its header had them at the start -/
  nw : Nat
  nst : Nat
  hbase : Nat
  hlimit : Nat
  counts : List Nat
deriving DecidableEq, Repr

/-- R111: the state of a segment. -/
inductive SegSt | invalid | inflight | valid | failed
deriving DecidableEq, Repr

/-- R186: an effect beyond the commit point, with what undoes it and what its commit performs. -/
inductive Held
  | greg (sup : Bool) (r : Nat) (old : Word)
  | tmpl (sup : Bool) (r : Nat) (old : Word)
  /-- `n` slots consumed at a port -/
  | read (port n : Nat)
  | eos (port : Nat) (old : Bool)
  | send (port : Nat) (data : List Byte)
  | close (port : Nat)
  /-- a `cfetch` of a segment: the state before it; its request is sent at commit -/
  | seg (k : Nat) (old : SegSt)
  /-- the segments a `sysw` to CSEGVALID changed, with their states before it -/
  | segs (olds : List (Nat × SegSt))
  | smap (old : Word)
  | fflags (old : BitVec 5)
  | fcsr (old : BitVec 3)
deriving DecidableEq, Repr

/-- R186: one history-buffer entry, with the program position of its instruction. -/
structure HistE where
  pos : Nat
  act : Held
deriving DecidableEq, Repr

/-- R116: a held store, at an address of R351. -/
structure Store where
  pos : Nat
  addr : Nat
  data : List Byte
deriving DecidableEq, Repr

/-- R140: an entry of the stream hold buffer: the slots one vector word sends. -/
structure HoldE where
  pos : Nat
  sub : Nat
  port : Nat
  slots : List (List Byte)
deriving DecidableEq, Repr

/-- A fault on its way to the supervisor: cause, level (true for E), TRAPPC and the fault registers of R190 and R280. -/
structure FaultRec where
  cause : Cause
  lvlE : Bool
  pc : Word
  epc : Word
  eseq : BitVec 32
  fword : Word
  iter : Word
  va : Option Word
  /-- R111: the FAILED segment whose MEMFAULT this is -/
  seg : Option Nat := none
deriving DecidableEq, Repr

/-- R342: one conflict found: what its log entry says, and the stamps of the two versions it is about. -/
structure Conflict where
  kind : Nat
  sec : Nat
  bytes : BitVec 64
  wpid : Nat
  lpid : Nat
  gid : Nat
  ep : Nat
  wst : Nat × Nat
  lst : Nat × Nat
deriving DecidableEq, Repr

/-- R129: one queued request of a segment: its address, whether it has been sent, and the image it will land. -/
structure SegReq where
  pos : Nat
  va : Word
  sent : Bool
  image : Option (List Byte)
  /-- waiting for a page request -/
  paged : Bool
  /-- R280: the kind of its failure, once known -/
  fail : Option Nat := none
  /-- R129, R336: what the phase rules gave at its commit: bytes by their VA, and the conflicts that they found (R342) -/
  view : List (Nat × Byte) := []
  found : List Conflict := []
deriving DecidableEq, Repr

/-- R111: a code segment, with its queued requests and FAULTVA of a failure. -/
structure Seg where
  st : SegSt := .invalid
  reqs : List SegReq := []
  fva : Word := 0
deriving DecidableEq, Repr

/-- R133, R148, R364: one endpoint entry of the channel unit. -/
structure Port where
  bound : Bool := false
  isW : Bool := false
  net : Nat := 0
  ch : Nat := 0
  /-- which reader or writer of the channel it is -/
  ix : Nat := 0
  gen : BitVec 8 := 0
  /-- read cursor, and the cursor of committed reads -/
  k : Nat := 0
  kc : Nat := 0
  /-- slots arrived, one count for each writer half or leg (one count only on a plain channel) -/
  arr : List Nat := []
  /-- R26: position of the end mark -/
  fin : Option Nat := none
  /-- R152: first slot whose two copies differ -/
  diff : Option Nat := none
  /-- R154: credits not yet sent, by writer -/
  owed : Sparse Nat := []
  /-- R151: free count for each reader -/
  free : List Nat := []
  seq : Nat := 0
  closed : Bool := false
  sev : Bool := false
deriving DecidableEq, Repr

/-- Identity and placement of a slot (R106, R354, R203, R392). -/
structure Ident where
  loaded : Bool := false
  exited : Bool := false
  stopped : Bool := false
  pid : BitVec 16 := 0
  tenant : Nat := 0
  net : Nat := 0
  timing : Bool := false
  world : Bool := false
  level : BitVec 2 := 0
  plevel : BitVec 2 := 0
  base : Nat := 0
  size : Nat := 0
  vlmax : Nat := 0
  gids : List (BitVec 8) := []
deriving DecidableEq, Repr

/-- The generator of a slot. -/
structure Gen where
  pc : Word := 0
  /-- count of issued instructions (log 3) -/
  icnt : Nat := 0
  wait : Wait := .none
  heldExit : Bool := false
  gfault : Option FaultRec := none
  entering : Option FaultRec := none
  /-- R192, R428: a pre-emption is requested -/
  preempt : Bool := false
  /-- R429: the verdict that is taken as a pre-emption: cause, channel or group -/
  verdict : Option (Cause × Nat) := none
  /-- R38, R362: the slot is to be pre-empted at its commit point and stopped -/
  stopping : Bool := false
deriving DecidableEq, Repr

/-- The queues and buffers of a slot. -/
structure Eng where
  vq : List QEntry := []
  mq : List QEntry := []
  xq : List QEntry := []
  replay : Option Replay := none
  /-- R193: words issued by the replay sequencer, with their follow-ons, until they retire -/
  out : List QEntry := []
  hist : List HistE := []
  stores : List Store := []
  hold : List HoldE := []
  /-- R262: emit-side open mask -/
  omask : BitVec 8 := 0
deriving DecidableEq, Repr

/-- The vector state and user sysregs of a slot (R78, R138, R146, R202, R203, R232). -/
structure Vec where
  vl : Nat := 0
  v : Sparse VReg := []
  m : Sparse MReg := []
  win : Sparse Word := []
  fflags : BitVec 5 := 0
  fcsr : BitVec 3 := 0
  smap : Word := 0
  eos : BitVec 16 := 0
  closedwr : Nat := 0
  staledrop : Nat := 0
  /-- R253, R269: ACCOV of the slot's context, as last written; an accumulator that holds the context's contents has its own bit -/
  accov : BitVec 2 := 0
deriving DecidableEq, Repr

/-- The trap registers of a slot (R190, R197, R280, R356, R365). -/
structure TrapRegs where
  cause : BitVec 9 := 0
  pc : BitVec 21 := 0
  fepc : BitVec 21 := 0
  feseq : BitVec 32 := 0
  fword : Word := 0
  fiter : Word := 0
  fva : Word := 0
  rpat : Word := 0
  ridx : Sparse (BitVec 8) := []
  saveva : Word := 0
  /-- SAVECTL: an operation runs (R365): 1 save, 2 restore, 3 one that has moved everything; with the partition or without;
  the STATE it ends in; the page it awaits -/
  saveop : Nat := 0
  savepart : Bool := false
  savest : BitVec 2 := 0
  savewant : Option Nat := none
  /-- R327, R364: the wait descriptor: kind, g, e of the wait that a pre-emption abandoned -/
  waitd : Word := 0
deriving DecidableEq, Repr

/-- A process slot, or the control tile's slot. -/
structure Slot where
  id : Ident := {}
  gen : Gen := {}
  pb : Bank := {}
  sb : Bank := {}
  eng : Eng := {}
  vec : Vec := {}
  tr : TrapRegs := {}
  segs : Sparse Seg := []
  ports : Sparse Port := []
deriving DecidableEq, Repr

/-- R92: the mode of an accumulator. -/
inductive AccMode | fix | int | flt
deriving DecidableEq, Repr

/-- R250: one accumulator: its elements (i, j) at 64 i + j, and its state. -/
structure Acc where
  el : Sparse AccElem := []
  mode : AccMode := .fix
  sa : BitVec 6 := 0
  sb : BitVec 6 := 0
  opn : BitVec 8 := 0
  ov : Bool := false
  tag : BitVec 8 := 0
deriving DecidableEq, Repr

/-- A tile (R20, R250, R252, R365). -/
structure Tile where
  sram : Mem := []
  /-- R109: the 64-bit words that hold a double-bit error (log 19) -/
  ecc : List Nat := []
  svec : Word := 0
  acc0 : Acc := {}
  acc1 : Acc := {}
  /-- R250: the accumulators, 0 or 1, that cast-ons have written to the save areas of other contexts (log 34) -/
  accSaved : List (Nat × Acc) := []
  ctag : BitVec 8 := 0
  owner : Option Nat := none
  /-- R100: the slot that issued most recently -/
  last : Nat := 3
deriving DecidableEq, Repr

/-- R147: an endpoint. A remote endpoint lies in another package (log 12). -/
structure Ep where
  tile : Nat
  slot : Nat
  port : Nat
  ridx : Nat
  remote : Bool
deriving DecidableEq, Repr

/-- R154: a packet in transit. `dst` is the reader's or writer's index; `node` the tree node a contribution is bound for
(level, number), R312. -/
structure Pkt where
  kind : PktKind
  gen : BitVec 8
  seq : Nat
  count : Nat
  src : Nat
  dst : Nat
  node : Option (Nat × Nat)
  data : List Byte
deriving DecidableEq, Repr

/-- R312: an input waiting at a node: level, number, position k, slot. -/
structure NodeIn where
  lvl : Nat
  num : Nat
  k : Nat
  data : List Byte
deriving DecidableEq, Repr

/-- R165: a slot in a channel's skein extension, for one reader and one half or leg. -/
structure SkSlot where
  rd : Nat
  half : Nat
  data : List Byte
deriving DecidableEq, Repr

/-- R147: a channel and everything of it that is on its way. -/
structure Chan where
  chid : Nat
  gen : BitVec 8
  size : Nat
  route : Nat
  reduce : Bool
  mirror : Bool
  crypt : Bool
  eostol : Bool
  rop : Nat
  endpt : Bool
  cap : Nat
  cap0 : Nat
  buf : Nat
  skoff : Nat
  grown : Nat
  uport : Nat
  rpkg : Nat
  writers : List Ep
  readers : List Ep
  transit : List Pkt
  skein : List SkSlot
  nodes : List NodeIn
  /-- R319: contributions sent before each writer's end mark -/
  ends : Sparse (Option Nat)
  /-- contributions discarded at a node (R320) -/
  dropped : Nat
  /-- R314: results whose contributions have been counted as arrived -/
  roots : Nat
  /-- what a saved endpoint's record has no place for (log 27), by twice the reader's index, or that of the writer and one -/
  kept : Sparse (List Nat)
  sev : Bool
deriving DecidableEq, Repr

/-- R324: a group, with its barrier and phase arrivals by PID (R326, R337). -/
structure Group where
  gid : Nat
  kind : Nat
  /-- X0, Y0, W, H of a wire group -/
  rect : Nat × Nat × Nat × Nat
  members : List Nat
  epoch : Nat
  bar : Sparse Nat
  ph : Sparse Nat
deriving DecidableEq, Repr

/-- R300: one contribution of an `xatom`. -/
structure Contrib where
  op : Nat
  va : Nat
  val : BitVec 32
deriving DecidableEq, Repr

/-- R392, R335: a process of a network, with its phase state. -/
structure Proc where
  pid : Nat
  tile : Nat
  slot : Nat
  timing : Bool
  matrix : Bool
  world : Bool
  vlmax : Nat
  base : Nat
  size : Nat
  entry : Nat
  gids : List (BitVec 8)
  extents : List (Nat × Nat × Nat)
  tmpl : Nat
  winoff : Nat
  cseg : Word
  /-- its slot record is saved and it stands in no slot (R149, R374) -/
  saved : Bool
  exited : Bool
  stopped : Bool
  wset : Sparse (Option Byte)
  contribs : List Contrib
  know : Sparse Nat
  /-- R344: sectors written since the last group-0 boundary -/
  use : List Nat
  /-- R262: the emit-side open mask of a saved process (log 27) -/
  omask : BitVec 8 := 0
  /-- R341: the first conflicting byte of a PHASECONFLICT that the process takes when it is at level P again (log 51) -/
  pend : Option Nat := none
  /-- R392: WIN1 to WIN7 as the record has them; none where it names no window -/
  wins : List Word := []
deriving DecidableEq, Repr

/-- R335: a version of one byte of own DRAM. -/
structure Version where
  va : Nat
  val : Byte
  gid : Nat
  ep : Nat
  wpid : Nat
  know : Sparse Nat
deriving DecidableEq, Repr

/-- R33: the state of a network. -/
inductive NetState | queued | validating | loading | running | bindoff | retired | rejected
deriving DecidableEq, Repr

/-- R393: the ending fault of a network. -/
structure Ending where
  pid : BitVec 16
  cause : BitVec 9
  pc : Word
  fword : Word
deriving DecidableEq, Repr

/-- R162: what a detector wave collects: a record of every live process and the four totals. -/
structure Wave where
  recs : List Word
  totals : List Nat
deriving DecidableEq, Repr

/-- A network (R33, R391). -/
structure Net where
  nid : BitVec 32
  tenant : Nat
  st : NetState
  /-- staging offset of its record -/
  recOff : Nat
  regions : BitVec 16
  strict : Bool
  secure : Bool
  attest : Bool
  skeinVa : Word
  skeinSize : Word
  saveVa : Word
  dlrecVa : Word
  logVa : Word
  logMax : Word
  shsect : Word
  linkSlot : Nat
  linkEn : Bool
  procs : List Proc
  chans : List Chan
  groups : List Group
  versions : List Version
  /-- R28, R335: bytes of the tenant's memory as the cast-on contents, where another of its networks has stored since (log 31) -/
  base : Sparse (Option Byte) := []
  log : List Conflict
  /-- first status reached (R38) and REJECTED reason (R394) -/
  status : Option Nat
  reason : Nat
  ending : Option Ending
  discarded : Nat
  growths : Nat
  skeinUsed : Nat
  sent : Nat
  arrived : Nat
  cret : Nat
  carr : Nat
  /-- R398: measurements of the record and of the images -/
  measRec : BitVec 512
  measImg : BitVec 512
  /-- R37: the final boundary is done and the record awaits a free completion entry -/
  closing : Bool
deriving DecidableEq, Repr

/-- R276, R168, R343: the registers of a tenant, and its detector. -/
structure Tenant where
  troot : Word := 0
  dlstat : Word := 0
  dlchan : Word := 0
  dlwaves : Word := 0
  phcount : Nat := 0
  strict : Bool := false
  logfull : Bool := false
  /-- R369: rectangle: origin and size on the region grid -/
  rect : Option (Nat × Nat × Nat × Nat) := none
  waves : Nat := 0
  lastWave : Option Wave := none
deriving DecidableEq, Repr

/-- R368: the state of a region. -/
inductive RgnSt | free | assigned | running | halted | scrubbing | reset
deriving DecidableEq, Repr

/-- R368: a context held by a region, with the network it runs (its index in `State.nets`). -/
structure Context where
  tenant : Nat
  ctag : BitVec 8
  net : Option Nat := none
deriving DecidableEq, Repr

/-- A bulkhead region (R368, R375, R395). -/
structure Region where
  st : RgnSt := .scrubbing
  tenant : Nat := 0
  world : Bool := false
  ctag : BitVec 8 := 0
  hcause : BitVec 8 := 0
  ctxs : List Context := []
  /-- R371: state that follows a reset -/
  after : RgnSt := .scrubbing
  tslice : Word := 0
  tscap : Word := 0
  grant : BitVec 16 := 0
  floor : BitVec 16 := 0
  hvfrac : BitVec 4 := 12
  arbfrac : BitVec 4 := 12
  /-- R395: the die's junction forces the fraction -/
  hot : Bool := false
  /-- R374: a switch under way: the incoming context -/
  switching : Option Context := none
deriving DecidableEq, Repr

/-- R387-R390: one PCI Express function, with its staging memory. -/
structure Func where
  ready : Bool := false
  again : Bool := false
  resetting : Bool := false
  evlost : Bool := false
  /-- R389: the microsecond after a delivered wake, and a wake that is due at its end -/
  window : Bool := false
  due : Bool := false
  lqbase : Word := 0
  lqhead : Nat := 0
  lqtail : Nat := 0
  cqbase : Word := 0
  cqhead : Nat := 0
  cqtail : Nat := 0
  evbase : BitVec 32 := 0
  evhead : Nat := 0
  evtail : Nat := 0
  staging : Mem := []
  /-- R390: MSI-X vectors raised, oldest first -/
  msix : List Nat := []
  /-- R387: BAR4: address and data of the entries of the MSI-X table, the entries that the host has unmasked, the pending bits, and the
  messages sent: address and data (log 52) -/
  bar4 : Mem := []
  unmasked : BitVec 3 := 0
  /-- R3: MSI-X Enable and Function Mask of the function's configuration space (log 52) -/
  msixEn : Bool := false
  funcMask : Bool := false
  pba : BitVec 3 := 0
  msgs : List (Word × BitVec 32) := []
  /-- R387: the PF mailbox -/
  mailbox : Mem := []
deriving DecidableEq, Repr

/-- R381: a key slot. -/
structure KeySlot where
  full : Bool := false
  key : BitVec 512 := 0
  tenant : Nat := 0
  world : Bool := false
deriving DecidableEq, Repr

/-- R285: a token bucket. -/
structure Bucket where
  rate : BitVec 24 := 0
  burst : BitVec 24 := 0
  en : Bool := false
  tok : Nat := 0
deriving DecidableEq, Repr

/-- R282, R283: a page-request record; `queued` once it stands in the control die's queue, in a shared entry or a reserved one. -/
structure PageReq where
  tenant : Nat
  vpn : Nat
  wr : Bool
  code : Bool
  idxe : Bool
  nreq : Nat
  tile : Nat
  slot : Nat
  eseq : BitVec 32
  shared : Bool
  queued : Bool
  /-- regions of its requesters (R372) -/
  regions : List Nat
deriving DecidableEq, Repr

/-- R278: a TLB entry: the memory port (0 to 287) or, in the second level, the stack; tenant; page; leaf. -/
structure TlbE where
  place : Nat
  tenant : Nat
  vpn : Nat
  leaf : Word
deriving DecidableEq, Repr

/-- R156, R157: a UALink port: write requests kept until their completion, and the re-sequencing queue. -/
structure Ual where
  sent : List UalMsg := []
  reseq : List UalMsg := []
  /-- slots delivered, whose count mod 2^24 is the next expected SEQ, by channel and contributor (`ualKey`) -/
  next : Sparse Nat := []
  /-- completions returned and requests retransmitted -/
  acks : List (Nat × Nat × Nat) := []
  resent : Nat := 0
deriving DecidableEq, Repr

/-- R346: a host read on its way: the slot and the word that issued it, its number among the reads of the word, the host address, the
number of bytes. -/
structure HostRead where
  slot : Nat
  pos : Nat
  sub : Nat
  num : Nat
  addr : Nat
  len : Nat
deriving DecidableEq, Repr

/-- R345: a granule of a tenant's frame as other tenants read it up to the publication of that number, while the tenant itself has
stored to it since: its bytes and its key (R281). `owner` is the tenant, and the number still open, until it publishes. -/
structure OldGranule where
  pub : Nat
  granule : Nat
  bytes : List Byte
  tag : Nat
  owner : Option Nat := none
deriving DecidableEq, Repr

/-- R162: what the detectors of a tenant's other packages collect in a wave (log 12): their records, their part of the four
totals, and whether a skein transfer or a memory-server writer is at work there. -/
structure PeerWave where
  recs : List (BitVec 64) := []
  sent : Nat := 0
  arrived : Nat := 0
  cret : Nat := 0
  carr : Nat := 0
  busy : Bool := false
deriving DecidableEq, Repr

/-- R149: what a package knows of a process of another one (log 12): its package, its tile and slot there, and whether it is saved and
stands in no slot. -/
structure PeerProc where
  pkg : Nat
  tile : Nat
  slot : Nat
  saved : Bool
deriving DecidableEq, Repr

/-- R301, R346: traffic with the host and with peer packages: posted writes in order, and the reads being served, the one that the host
serves next first. -/
structure HostIO where
  posted : List (Nat × List Byte) := []
  reads : List HostRead := []
  peer : List (Nat × List Byte) := []
  /-- R301, R331: the bytes of the tenants' own frames in other packages that this one has stored, by their place (log 12) -/
  peerMem : Sparse (Option Byte) := []
  /-- R162: what the detectors of a tenant's other packages have collected for its next wave, by tenant (log 12) -/
  waves : Sparse PeerWave := []
  /-- R149: the processes of other packages that are known here, by tenant and PID (log 12) -/
  peers : Sparse (Option PeerProc) := []
deriving DecidableEq, Repr

/-- The control die (R367, R377, R379, R385, R395, R397). -/
structure Die where
  csel : Word := 0
  hvpolicy : Word := 0
  wintab : Sparse Word := []
  arblimit : Word := 0
  scrubList : Word := 0
  /-- SCRUBSTATE.STATE, REGION; granules done -/
  scrub : Nat := 0
  scrubRgn : Nat := 0
  sramg : Nat := 0
  dramg : Nat := 0
  /-- R386: the frames (stack, number) of the listed pages, taken at the start; none for a page with no frame here (log 20) -/
  scrubPages : List (Option (Nat × Nat)) := []
  recovery : Bool := false
  poweredOff : Bool := false
deriving DecidableEq, Repr

/-- What moves next (log 1): a slot issues its next instruction, a queue starts its next word, or an event happens. The last five are
inputs: a double-bit error in a word of a tile's SRAM, an uncorrectable error in bytes of DRAM (log 19), the hypervisor's gift of a frame
to a tenant (log 22), the host's choice of the read that it serves next (log 11), and what the detectors of a tenant's other packages
have collected (log 12). -/
inductive Act
  | issue (slot : Nat)
  | start (slot : Nat) (q : Queue)
  | event (slot : Nat) (q : Queue) (i : Instr)
  | sramError (tile word : Nat)
  | dramError (places : List Nat)
  | giveFrame (frame tenant : Nat)
  | hostTurn (n : Nat)
  | peerWave (tenant : Nat) (w : PeerWave)
  | peerProc (tenant pid : Nat) (p : PeerProc)
deriving DecidableEq, Repr

/-- The machine. Slot 4 t + k is slot k of tile t; `Config.controlSlot` is the control tile's. -/
structure State where
  agenda : List Act := []
  cur : Nat := 4096
  curQ : Queue := .vq
  /-- the model's own: counter of free values (log 6) -/
  free : Nat := 0
  slots : Sparse Slot := []
  tiles : Sparse Tile := []
  nets : List Net := []
  tenants : Sparse Tenant := []
  regions : Sparse Region := []
  funcs : Sparse Func := []
  dram : Mem := []
  /-- R281: one more than the key pair a granule was last stored under; 0 for cleartext (log 10) -/
  ktags : Sparse Nat := []
  /-- R292: the bytes of DRAM that hold an uncorrectable error (log 19) -/
  dramEcc : List Nat := []
  /-- R331: one more than the tenant to whom a frame belongs, by `frameKey`; 0 where the hypervisor has named none (log 22) -/
  frames : Sparse Nat := []
  /-- R345: publications made, and the granules that they wrote to, as they stood before -/
  pub : Nat := 0
  pubLog : List OldGranule := []
  tlb1 : List TlbE := []
  tlb2 : List TlbE := []
  keys : Sparse KeySlot := []
  /-- R285: by 32 stack + tenant -/
  buckets : Sparse Bucket := []
  pages : List PageReq := []
  ual : Sparse Ual := []
  host : HostIO := {}
  die : Die := {}
deriving DecidableEq, Repr

/-- Level C's slot after power-on (R350, log 7): loaded, secure, with the timing grant, 512 granules, 64 lanes, every code
segment VALID, the pc at 0; PLEVEL is 0 (R354). -/
def controlSlotReset : Slot :=
  { id := { loaded := true, timing := true, world := true, level := 2, size := 512, vlmax := 64 }
    vec := { vl := 64 }
    segs := (List.range 64).map fun k => (k, { st := .valid }) }

/-- The machine at power-on (R373, R368, R250), before bring-up (R397): every region SCRUBBING, the control tile at level
C, nothing else loaded, no byte of memory listed. -/
def State.reset : State :=
  { slots := [(Config.controlSlot, controlSlotReset)] }

end Sys2Proof.Machine
end

