-- ==== Sys2Proof/Machine/Access.lean ====
section
/-! DEFINITION. The accessors: slots, tiles, banks, registers, queues, and the addresses of a slot (R106, R351). -/

namespace Sys2Proof.Machine

/-! ## Tables -/

/-- A slot by number. -/
def State.slot (s : State) (i : Nat) : Slot := Sparse.get {} s.slots i
/-- A slot replaced. -/
def State.putSlot (s : State) (i : Nat) (x : Slot) : State := { s with slots := Sparse.set {} s.slots i x }
/-- A slot changed. -/
def State.modSlot (s : State) (i : Nat) (f : Slot → Slot) : State := s.putSlot i (f (s.slot i))
/-- The slot that moves. -/
def State.me (s : State) : Slot := s.slot s.cur
/-- The slot that moves, changed. -/
def State.modMe (s : State) (f : Slot → Slot) : State := s.modSlot s.cur f

/-- A tile by number; 1024 is the control tile. -/
def State.tile (s : State) (t : Nat) : Tile := Sparse.get {} s.tiles t
/-- A tile changed. -/
def State.modTile (s : State) (t : Nat) (f : Tile → Tile) : State :=
  { s with tiles := Sparse.set {} s.tiles t (f (s.tile t)) }

/-- A tenant. -/
def State.tenant (s : State) (t : Nat) : Tenant := Sparse.get {} s.tenants t
/-- A tenant changed. -/
def State.modTenant (s : State) (t : Nat) (f : Tenant → Tenant) : State :=
  { s with tenants := Sparse.set {} s.tenants t (f (s.tenant t)) }
/-- A region. -/
def State.region (s : State) (r : Nat) : Region := Sparse.get {} s.regions r
/-- A region changed. -/
def State.modRegion (s : State) (r : Nat) (f : Region → Region) : State :=
  { s with regions := Sparse.set {} s.regions r (f (s.region r)) }
/-- A function of the host interface. -/
def State.func (s : State) (n : Nat) : Func := Sparse.get {} s.funcs n
/-- A function changed. -/
def State.modFunc (s : State) (n : Nat) (f : Func → Func) : State :=
  { s with funcs := Sparse.set {} s.funcs n (f (s.func n)) }
/-- R387: the message of an MSI-X vector sent: the address and the data of its table entry. -/
def Func.send (f : Func) (v : Nat) : Func :=
  { f with msgs := f.msgs ++ [(f.bar4.dword (16 * v), (f.bar4.dword (16 * v + 8)).extractLsb' 0 32)] }
/-- R3, R387: a function may send a vector: MSI-X is enabled, the function is not masked, the host has unmasked the entry. -/
def Func.sends (f : Func) (v : Nat) : Bool := f.msixEn && !f.funcMask && f.unmasked.getLsbD v
/-- R387, R390: a function raises an MSI-X vector: its message is sent, or, while it may not be, its pending bit is set. -/
def Func.raise (f : Func) (v : Nat) : Func :=
  let f := { f with msix := f.msix ++ [v] }
  if f.sends v then f.send v else { f with pba := f.pba ||| (1#3 <<< v) }
/-- R149, log 12: the place of a process of another package among those known. -/
def peerProcKey (tenant pid : Nat) : Nat := tenant + 32 * pid
/-- A key slot. -/
def State.key (s : State) (n : Nat) : KeySlot := Sparse.get {} s.keys n
/-- A UALink port. -/
def State.ualPort (s : State) (n : Nat) : Ual := Sparse.get {} s.ual n
/-- A UALink port changed. -/
def State.modUal (s : State) (n : Nat) (f : Ual → Ual) : State := { s with ual := Sparse.set {} s.ual n (f (s.ualPort n)) }
/-- A network changed. -/
def State.modNet (s : State) (n : Nat) (f : Net → Net) : State := { s with nets := s.nets.modify n f }
/-- A channel of a network. -/
def State.chan? (s : State) (n c : Nat) : Option Chan := (s.nets[n]?).bind fun w => w.chans[c]?
/-- A channel changed. -/
def State.modChan (s : State) (n c : Nat) (f : Chan → Chan) : State :=
  s.modNet n fun w => { w with chans := w.chans.modify c f }
/-- A fresh free value, and the state after the counter has advanced. -/
def State.fresh (s : State) : Word × State := (Config.freeWord s.free, { s with free := s.free + 1 })

/-! ## Places (R12, R14) -/

/-- The tile of a slot. -/
def tileOf (i : Nat) : Nat := i / 4
/-- R14: the region of a tile. -/
def regionOf (t : Nat) : Nat := (t / 32 / 8) * 4 + (t % 32) / 8
/-- R14: the die of a tile. -/
def dieOf (t : Nat) : Nat := 2 * (t / 32 / 16) + (t % 32) / 16
/-- The four slots of a tile. -/
def slotsOf (t : Nat) : List Nat := [4 * t, 4 * t + 1, 4 * t + 2, 4 * t + 3]
/-- The tiles of a region (R14), in tile_id order. -/
def tilesOf (r : Nat) : List Nat :=
  (List.range 64).map fun k => ((r / 4) * 8 + k / 8) * 32 + (r % 4) * 8 + k % 8
/-- The slots of a region. -/
def slotsOfRegion (r : Nat) : List Nat := (tilesOf r).flatMap slotsOf

/-! ## One slot -/

/-- The level is S (R354). -/
def Slot.atS (x : Slot) : Bool := x.id.level == 1
/-- The level is P. -/
def Slot.atP (x : Slot) : Bool := x.id.level == 0
/-- R351: the bank a level uses: the supervisor bank at S, the other one elsewhere. -/
def Slot.bank (x : Slot) : Bank := if x.atS then x.sb else x.pb
/-- The bank in use, changed. -/
def Slot.modBank (x : Slot) (f : Bank → Bank) : Slot :=
  if x.atS then { x with sb := f x.sb } else { x with pb := f x.pb }
/-- R41, R103: a g register; g0 reads zero. -/
def Bank.readG (b : Bank) (r : Nat) : Word := if r = 0 then 0 else Sparse.get 0 b.g r
/-- A g register written; a write to g0 is discarded. -/
def Bank.writeG (b : Bank) (r : Nat) (v : Word) : Bank := if r = 0 then b else { b with g := Sparse.set 0 b.g r v }
/-- R175: a template. -/
def Bank.readT (b : Bank) (r : Nat) : Word := Sparse.get 0 b.t r
/-- A template written. -/
def Bank.writeT (b : Bank) (r : Nat) (v : Word) : Bank := { b with t := Sparse.set 0 b.t r v }
/-- R173: an engine register of a queue. -/
def Bank.readE (b : Bank) (q : Queue) (r : Nat) : Word :=
  match q with
  | .vq => Sparse.get 0 b.ev r
  | .mq => Sparse.get 0 b.em r
  | .xq => Sparse.get 0 b.ex r
/-- An engine register written. -/
def Bank.writeE (b : Bank) (q : Queue) (r : Nat) (v : Word) : Bank :=
  match q with
  | .vq => { b with ev := Sparse.set 0 b.ev r v }
  | .mq => { b with em := Sparse.set 0 b.em r v }
  | .xq => { b with ex := Sparse.set 0 b.ex r v }

/-- R169: a queue of a slot. -/
def Eng.queue (e : Eng) : Queue → List QEntry
  | .vq => e.vq
  | .mq => e.mq
  | .xq => e.xq
/-- A queue replaced. -/
def Eng.setQueue (e : Eng) (q : Queue) (l : List QEntry) : Eng :=
  match q with
  | .vq => { e with vq := l }
  | .mq => { e with mq := l }
  | .xq => { e with xq := l }
/-- R181: the entry is the follow-on of a copy. -/
def QEntry.isFo (a : QEntry) : Bool := a.sub % 2 == 1
/-- The unretired words of a slot: those of the queues and those that its replay has issued. -/
def Eng.words (e : Eng) : List QEntry := e.vq ++ e.mq ++ e.xq ++ e.out
/-- The queues, in the order of their numbers. -/
def queues : List Queue := [.vq, .mq, .xq]
/-- R48: the number of a queue. -/
def queueNum : Queue → Nat
  | .vq => 0
  | .mq => 1
  | .xq => 2
/-- R48: the queue a Q field names. -/
def queueOf (q : BitVec 2) : Queue := if q = 0 then .vq else if q = 1 then .mq else .xq

/-- The word is older than another of its slot: by emit, then by its place among the words of one emit. -/
def QEntry.before (a b : QEntry) : Bool := a.pos < b.pos || (a.pos == b.pos && a.sub < b.sub)
/-- R171: the word has passed its fault point. -/
def QEntry.isPast (a : QEntry) : Bool := a.stat == .passed || a.stat == .done
/-- R186: the position of the commit point: the oldest unretired word's emit; none when no word is unretired. -/
def Eng.commitPos (e : Eng) : Option Nat :=
  e.words.foldl (fun o w => match o with | none => some w.pos | some p => some (min p w.pos)) none
/-- Every word of the slot has retired. -/
def Eng.idle (e : Eng) : Bool := e.vq.isEmpty && e.mq.isEmpty && e.xq.isEmpty && e.out.isEmpty
/-- The instruction of the slot stands at its commit point: no word is unretired. -/
def Slot.committed (x : Slot) : Bool := x.eng.idle

/-- R111: a segment of a slot. -/
def Slot.seg (x : Slot) (k : Nat) : Seg := Sparse.get {} x.segs k
/-- A segment changed. -/
def Slot.modSeg (x : Slot) (k : Nat) (f : Seg → Seg) : Slot := { x with segs := Sparse.set {} x.segs k (f (x.seg k)) }
/-- R110: number of segments in the code area. -/
def Slot.codeSegs (x : Slot) : Nat := min 64 x.id.size
/-- R133: a port of a slot. -/
def Slot.port (x : Slot) (n : Nat) : Port := Sparse.get {} x.ports n
/-- A port changed. -/
def Slot.modPort (x : Slot) (n : Nat) (f : Port → Port) : Slot := { x with ports := Sparse.set {} x.ports n (f (x.port n)) }

/-- R138: v(56+k) is stream-bound. -/
def streamEn (smap : Word) (v : Nat) : Bool := 56 ≤ v && v < 64 && smap.getLsbD (8 * (v - 56) + 7)
/-- R138: the port a stream-bound register is mapped to. -/
def streamPort (smap : Word) (v : Nat) : Nat := (smap.extractLsb' (8 * (v - 56)) 4).toNat
/-- R133: the port is mapped in STREAMMAP. -/
def portMapped (smap : Word) (p : Nat) : Bool :=
  (List.range 8).any fun k => streamEn smap (56 + k) && streamPort smap (56 + k) == p

/-! ## Addresses of a slot -/

/-- R106, R351: the physical SRAM byte address behind an address of the slot; none outside every partition. -/
def Slot.phys (x : Slot) (a : Nat) : Option Nat :=
  if x.atS then
    if a < 0x200000 then (if a < Config.supSize then some (Config.supBase + a) else none)
    else if a < 0x400000 ∧ a - 0x200000 < x.id.size * 4096 then some (x.id.base * 4096 + (a - 0x200000))
    else none
  else if a < x.id.size * 4096 then some (x.id.base * 4096 + a) else none

/-- The offset in the process partition that an address reaches; none for the supervisor partition (R351). -/
def Slot.procOff (x : Slot) (a : Nat) : Option Nat :=
  if x.atS then (if 0x200000 ≤ a ∧ a < 0x400000 then some (a - 0x200000) else none) else some a

/-- One byte at an address of the slot; 0 outside (every caller has checked). -/
def State.byteAt (s : State) (i a : Nat) : Byte :=
  match (s.slot i).phys a with
  | some p => (s.tile (tileOf i)).sram.byte p
  | none => 0
/-- `n` bytes at an address of the slot. -/
def State.bytesAt (s : State) (i a n : Nat) : List Byte := (List.range n).map fun k => s.byteAt i (a + k)
/-- The dword at an address of the slot. -/
def State.dwordAt (s : State) (i a : Nat) : Word := BitVec.ofNat 64 (leNat (s.bytesAt i a 8))

/-- R109, log 19: the 64-bit words an access of `n` bytes covers that hold a double-bit error. -/
def Tile.eccHit (t : Tile) (p n : Nat) : Bool := t.ecc.any fun w => w * 8 < p + n && p < w * 8 + 8

/-- R109: a double-bit error in an accessed word. -/
def State.eccAt (s : State) (i a n : Nat) : Bool :=
  match (s.slot i).phys a with
  | some p => (s.tile (tileOf i)).eccHit p n
  | none => false

/-- A byte written at an address of the slot. -/
def State.putByteAt (s : State) (i a : Nat) (b : Byte) : State :=
  match (s.slot i).phys a with
  | some p => s.modTile (tileOf i) fun t => { t with sram := t.sram.put p b }
  | none => s
/-- Bytes written one by one at rising addresses of the slot. -/
def State.putSeq (s : State) (i a : Nat) : List Byte → State
  | [] => s
  | b :: bs => State.putSeq (s.putByteAt i a b) i (a + 1) bs
/-- R109, log 19: a store of a whole 64-bit word makes its check bits anew. -/
def Tile.renew (t : Tile) (p n : Nat) : Tile := { t with ecc := t.ecc.filter fun w => !(p ≤ w * 8 && w * 8 + 8 ≤ p + n) }
/-- Bytes written at rising addresses of the slot, as one store. -/
def State.putBytesAt (s : State) (i a : Nat) (bs : List Byte) : State :=
  let s := s.putSeq i a bs
  match (s.slot i).phys a with
  | some p => s.modTile (tileOf i) fun t => t.renew p bs.length
  | none => s

/-- R147, R148, R152, R308: the slot places of a reader's buffer. -/
def Chan.places (c : Chan) : Nat :=
  if c.mirror then 2 * c.cap0 else if c.reduce && c.endpt then c.cap0 * c.writers.length else c.cap0
/-- R107 rule 3: the byte ranges of the buffers of the channels a slot reads, as partition offsets. -/
def State.buffers (s : State) (x : Slot) : List (Nat × Nat) :=
  x.ports.filterMap fun (_, p) =>
    if p.bound && !p.isW then (s.chan? p.net p.ch).map fun c => (c.buf, c.buf + c.places * c.size) else none
/-- Some byte of [a, a + n) lies in a buffer. -/
def State.inBuffer (s : State) (x : Slot) (a n : Nat) : Bool :=
  (s.buffers x).any fun (lo, hi) => a < hi && lo < a + n && 0 < n
/-- R107 rule 4: some byte of [a, a + n) lies in a VALID or INFLIGHT segment. -/
def Slot.inCode (x : Slot) (a n : Nat) : Bool :=
  0 < n && x.segs.any fun (k, g) => (g.st == .valid || g.st == .inflight) && a < (k + 1) * 4096 && k * 4096 < a + n
/-- R115: some byte of [a, a + n) lies in an INFLIGHT segment. -/
def Slot.inFlight (x : Slot) (a n : Nat) : Bool :=
  0 < n && x.segs.any fun (k, g) => g.st == .inflight && a < (k + 1) * 4096 && k * 4096 < a + n

/-- R107 rules 2-4 and R351: why an access of `n` bytes at `a` is refused with WINDOW; `false` when it may proceed. -/
def State.badRange (s : State) (i : Nat) (a n : Nat) (wr : Bool) : Bool :=
  let x := s.slot i
  let proc (o : Nat) : Bool := x.id.size * 4096 < o + n || s.inBuffer x o n || (wr && x.inCode o n)
  if x.atS then
    if a < 0x200000 then
      Config.supSize < a + n || (wr && (a < 0x8000 + (i % 4) * 0x2000 || 0xA000 + (i % 4) * 0x2000 < a + n))
    else if a < 0x400000 then 0x400000 < a + n || proc (a - 0x200000) else true
  else proc a

/-- R115: the access lies in an INFLIGHT segment of the process. -/
def Slot.waitsSeg (x : Slot) (a n : Nat) : Bool :=
  match x.procOff a with
  | some o => x.inFlight o n
  | none => false

end Sys2Proof.Machine
end

