-- ==== Sys2Proof/Machine/Aes.lean ====
section
/-! DEFINITION. AES-256 (FIPS 197) and XTS (IEEE 1619), under which R281 stores the granules of an encrypted frame. -/

namespace Sys2Proof.Machine

/-! ## The field of 256 elements -/

/-- FIPS 197: multiplication by x. -/
def xtime (a : Byte) : Byte := a <<< 1 ^^^ if a.getLsbD 7 then 0x1B else 0

/-- FIPS 197: the product of two elements, `k` bits of `b` still to be taken. -/
def fieldMulGo (b : Byte) : Nat → Byte → Byte → Byte
  | 0, _, r => r
  | k + 1, a, r => fieldMulGo b k (xtime a) (if b.getLsbD (7 - k) then r ^^^ a else r)
/-- FIPS 197: the product of two elements. -/
def fieldMul (a b : Byte) : Byte := fieldMulGo b 8 a 0

/-- FIPS 197: the multiplicative inverse, a to the power 254; 0 for 0. -/
def fieldInv (a : Byte) : Byte :=
  let p2 := fieldMul a a
  let p4 := fieldMul p2 p2
  let p8 := fieldMul p4 p4
  let p16 := fieldMul p8 p8
  let p32 := fieldMul p16 p16
  let p64 := fieldMul p32 p32
  fieldMul (fieldMul (fieldMul p2 p4) (fieldMul p8 p16)) (fieldMul (fieldMul p32 p64) (fieldMul p64 p64))

/-- FIPS 197: the S-box. -/
def subByte (a : Byte) : Byte :=
  let i := fieldInv a
  i ^^^ i.rotateLeft 1 ^^^ i.rotateLeft 2 ^^^ i.rotateLeft 3 ^^^ i.rotateLeft 4 ^^^ 0x63
/-- FIPS 197: the inverse S-box. -/
def unsubByte (a : Byte) : Byte := fieldInv (a.rotateLeft 1 ^^^ a.rotateLeft 3 ^^^ a.rotateLeft 6 ^^^ 0x05)

/-- The sum of two byte strings, byte by byte. -/
def xorBytes (a b : List Byte) : List Byte := List.zipWith (· ^^^ ·) a b

/-! ## The key schedule -/

/-- FIPS 197: the words of the schedule from word `i` on, `n` of them, with the eight words before them and the round constant. -/
def keyWords : Nat → Nat → List (List Byte) → Byte → List (List Byte)
  | 0, _, _, _ => []
  | n + 1, i, w, rc =>
    let t := w.getD 7 []
    let u := if i % 8 = 0 then xorBytes ((t.drop 1 ++ t.take 1).map subByte) [rc, 0, 0, 0] else if i % 8 = 4 then t.map subByte else t
    let x := xorBytes (w.getD 0 []) u
    x :: keyWords n (i + 1) (w.drop 1 ++ [x]) (if i % 8 = 0 then xtime rc else rc)

/-- FIPS 197: the fifteen round keys of a key of 32 bytes. -/
def roundKeys (key : List Byte) : List (List Byte) :=
  let w := (List.range 8).map fun k => (key.drop (4 * k)).take 4
  let all := (w ++ keyWords 52 8 w 1).flatten
  (List.range 15).map fun k => (all.drop (16 * k)).take 16

/-! ## The cipher -/

/-- FIPS 197: row r of the state turned by r places, to the left or, inverse, to the right. -/
def shiftRows (left : Bool) (b : List Byte) : List Byte :=
  (List.range 16).map fun k => b.getD (k % 4 + 4 * ((if left then k / 4 + k % 4 else k / 4 + 4 - k % 4) % 4)) 0

/-- FIPS 197: each column by the polynomial with coefficients `c`. -/
def mixColumns (c : List Byte) (b : List Byte) : List Byte :=
  (List.range 16).map fun k =>
    (List.range 4).foldl (fun x j => x ^^^ fieldMul (c.getD j 0) (b.getD (k / 4 * 4 + (k + j) % 4) 0)) 0

/-- FIPS 197: one block encrypted, the round keys in order. -/
def aesRounds : List (List Byte) → List Byte → List Byte
  | [], b => b
  | [k], b => xorBytes (shiftRows true (b.map subByte)) k
  | k :: ks, b => aesRounds ks (xorBytes (mixColumns [2, 3, 1, 1] (shiftRows true (b.map subByte))) k)

/-- FIPS 197: one block decrypted, the round keys from the last. -/
def aesUnrounds : List (List Byte) → List Byte → List Byte
  | [], b => b
  | [k], b => xorBytes ((shiftRows false b).map unsubByte) k
  | k :: ks, b => aesUnrounds ks (mixColumns [14, 11, 13, 9] (xorBytes ((shiftRows false b).map unsubByte) k))

/-- AES-256 of a block. -/
def aesEnc (key b : List Byte) : List Byte :=
  match roundKeys key with
  | [] => b
  | k :: ks => aesRounds ks (xorBytes b k)

/-- The inverse of AES-256. -/
def aesDec (key b : List Byte) : List Byte :=
  match (roundKeys key).reverse with
  | [] => b
  | k :: ks => aesUnrounds ks (xorBytes b k)

/-! ## XTS -/

/-- IEEE 1619: the tweak value of block `j`, a multiplication by x for each block. -/
def xtsMask : Nat → Nat → Nat
  | 0, t => t
  | j + 1, t => xtsMask j (2 * t % 2 ^ 128 ^^^ if 2 ^ 127 ≤ t then 0x87 else 0)

/-- IEEE 1619: block `j` of a data unit of whole blocks, under a key pair whose first 32 bytes are the data key (R381). -/
def xtsBlock (dec : Bool) (pair tweak j : Nat) (b : List Byte) : List Byte :=
  let key := natLe pair 64
  let m := natLe (xtsMask j (leNat (aesEnc (key.drop 32) (natLe tweak 16)))) 16
  xorBytes ((if dec then aesDec else aesEnc) (key.take 32) (xorBytes b m)) m

/-- A data unit padded with zeros to whole blocks (R382). -/
def xtsUnit (dec : Bool) (pair tweak : Nat) (bs : List Byte) : List Byte :=
  let d := bs ++ List.replicate ((16 - bs.length % 16) % 16) 0
  (List.range (d.length / 16)).flatMap fun j => xtsBlock dec pair tweak j ((d.drop (16 * j)).take 16)

end Sys2Proof.Machine
end

