-- ==== Sys2Proof/Machine/Dram.lean ====
section
/-! DEFINITION. The memory servers: home stacks and memory ports (R273-R275), translation and TLBs (R276-R279), page
requests (R282-R284), encryption (R281), token buckets (R285), host and peer memory (R301), and the views of the phase
rules (R335, R336, R344). -/

namespace Sys2Proof.Machine

/-! ## Places in DRAM -/

/-- A byte of stack `st` at physical address `a`, as a key of `State.dram`. -/
def dramKey (st a : Nat) : Nat := st * 2 ^ 36 + a
/-- R273: the page number of a virtual address. -/
def vpnOf (va : Nat) : Nat := va / 2 ^ 21
/-- R273: the home stack of a page. -/
def homeOf (vpn : Nat) : Nat := vpn % 12
/-- R274: the pseudo-channel of granule `g` under FOLD or LINEAR (time only). -/
def pseudoChannel (skew g : Nat) : Nat :=
  if skew = 0 then g % 64 else (g % 64) ^^^ (g / 64 % 64) ^^^ ((g / 4096 % 2) * 32)

/-- R13: the eight edge routers of a stack, as (x, y). -/
def edgeRouters (st : Nat) : List (Nat × Nat) :=
  (List.range 8).map fun k =>
    match st with
    | 0 => (0, k) | 1 => (0, 8 + k) | 2 => (4 + k, 0)
    | 3 => (31, k) | 4 => (31, 8 + k) | 5 => (20 + k, 0)
    | 6 => (0, 16 + k) | 7 => (0, 24 + k) | 8 => (4 + k, 31)
    | 9 => (31, 16 + k) | 10 => (31, 24 + k) | _ => (20 + k, 31)

/-- Hops between a tile and a router. -/
def hops (t : Nat) (r : Nat × Nat) : Nat :=
  let dx := if t % 32 < r.1 then r.1 - t % 32 else t % 32 - r.1
  let dy := if t / 32 < r.2 then r.2 - t / 32 else t / 32 - r.2
  dx + dy

/-- R275: the memory port by which a tile's request enters the home stack: nearest edge router, ties to the smaller x + y,
port VPN mod 3. -/
def memoryPort (t vpn : Nat) : Nat :=
  let st := homeOf vpn
  let best := (List.range 8).foldl (fun (b : Nat × Nat × Nat) k =>
    let r := (edgeRouters st).getD k (0, 0)
    let c := (hops t r, r.1 + r.2, k)
    if c.1 < b.1 || (c.1 == b.1 && c.2.1 < b.2.1) then c else b) (10000, 0, 0)
  st * 24 + best.2.2 * 3 + vpn % 3

/-! ## Translation -/

/-- What a walk finds (R276, R279). -/
inductive Walk
  | leaf (l : Word) | missing | malformed
deriving DecidableEq, Repr

/-- R276: a directory entry with V = 1 is well formed. -/
def dirOk (e : Word) : Bool := e.extractLsb' 1 11 == 0 && e.extractLsb' 37 27 == 0 && (e.extractLsb' 12 4).toNat ≤ 11
/-- R281: the byte at place `key` of a granule stored under `st`, as an access under `tag` reads it: what the block holds under the key
of its store, decrypted under that of the read; the tweak is FRAME * 8192 + g. Keys are one more than the pair, 0 for cleartext. -/
def cipherByte (m : Mem) (st tag key : Nat) : Byte :=
  if st = tag then m.byte key else
    let tweak := key % 2 ^ 36 / 256
    let j := key / 16 % 16
    let b := m.bytes (key / 16 * 16) 16
    let c := if st = 0 then b else xtsBlock false (st - 1) tweak j b
    (if tag = 0 then c else xtsBlock true (tag - 1) tweak j c).getD (key % 16) 0

/-- R281: the byte of a frame as an access under a key reads it. -/
def frameByte (s : State) (tag key : Nat) : Byte := cipherByte s.dram (Sparse.get 0 s.ktags (key / 256)) tag key

/-- R276: the entry of index `n` in the table that a directory entry names: a physical, unencrypted read. -/
def tableEntry (s : State) (e : Word) (n : Nat) : Word :=
  let a := dramKey (e.extractLsb' 12 4).toNat ((e.extractLsb' 16 21).toNat * 32768 + n * 8)
  BitVec.ofNat 64 (leNat ((List.range 8).map fun k => frameByte s 0 (a + k)))

/-- R277: TARGET of a leaf. -/
def leafTarget (l : Word) : Nat := (l.extractLsb' 12 4).toNat
/-- R277: FRAME of a leaf. -/
def leafFrame (l : Word) : Nat := (l.extractLsb' 16 32).toNat
/-- R277: KEN. -/
def leafKen (l : Word) : Bool := l.getLsbD 5
/-- R277: KSLOT. -/
def leafKslot (l : Word) : Nat := (l.extractLsb' 6 5).toNat

/-- R277, R279: a leaf with V = 1 is well formed, key slots apart. -/
def leafOk (l : Word) : Bool :=
  !l.getLsbD 11 && l.extractLsb' 59 5 == 0 && (l.extractLsb' 3 2).toNat ≤ 1 && leafTarget l ≤ 13 &&
  (if leafTarget l ≤ 11 then leafFrame l < Config.frameCount && l.extractLsb' 48 11 == 0
   else l.extractLsb' 3 8 == 0 &&
     (if leafTarget l = 12 then l.extractLsb' 48 11 == 0 else l.extractLsb' 36 12 == 0))

/-- R276, R279: the walk of a tenant's three levels for a page. -/
def walk (s : State) (tenant vpn : Nat) : Walk :=
  let step (e : Word) (n : Nat) (k : Word → Walk) : Walk :=
    if !e.getLsbD 0 then .missing else if !dirOk e then .malformed else k (tableEntry s e n)
  step (s.tenant tenant).troot (vpn / 2 ^ 24 % 4096) fun e2 =>
    step e2 (vpn / 4096 % 4096) fun e1 =>
      step e1 (vpn % 4096) fun l =>
        if !l.getLsbD 0 then .missing else if !leafOk l then .malformed else .leaf l

/-- R280: the kinds of a MEMFAULT, SHADOWFULL or PHASECONFLICT. -/
inductive FaultKind
  | reject | write | world | walk | range | target | shadow | conflict
deriving DecidableEq, Repr

/-- R280: the code of a kind. -/
def FaultKind.code : FaultKind → Nat
  | .reject => 0 | .write => 1 | .world => 2 | .walk => 3 | .range => 4 | .target => 5 | .shadow => 6 | .conflict => 7

/-- R280: FAULTVA from a kind's code. -/
def faultVaCode (va code : Nat) : Word := 1#1 ++ 0#3 ++ BitVec.ofNat 3 code ++ BitVec.ofNat 57 va
/-- R280: FAULTVA as a trap entry writes it. -/
def faultVa (va : Nat) (k : FaultKind) : Word := faultVaCode va k.code

/-- What an access meets (R279). -/
inductive Trans
  | ok (leaf : Word) | page | bad (k : FaultKind)
deriving DecidableEq, Repr

/-- The place of a leaf's frame in `State.frames`: package (0 for this one), stack and frame number. -/
def frameKey (l : Word) : Nat :=
  if leafTarget l = 13 then (l.extractLsb' 51 8).toNat * 2 ^ 40 + 2 ^ 39 + (leafFrame l / 65536) * 2 ^ 32 + leafFrame l % 65536
  else leafTarget l * 2 ^ 32 + leafFrame l

/-- R331, R345: the leaf of a tenant maps a frame that the hypervisor has given to another one (log 22): its owner. -/
def State.foreign? (s : State) (tenant : Nat) (l : Word) : Option Nat :=
  let o := Sparse.get 0 s.frames (frameKey l)
  if leafTarget l = 12 || o = 0 || o = tenant + 1 then none else some (o - 1)

/-- R379: a valid PEERREAD entry lets leaves of tenant `b` map frames of tenant `a`, and HVPOLICY.PEER holds. -/
def State.peerRead (s : State) (a b : Nat) : Bool :=
  s.die.hvpolicy.getLsbD 0 && s.die.wintab.any fun (_, e) =>
    e.getLsbD 0 && e.extractLsb' 1 2 == 3 && (e.extractLsb' 3 5).toNat == a && (e.extractLsb' 8 5).toNat == b

/-- R345, R379: a leaf on a frame of another tenant is admitted: read-only, under a PEERREAD entry. -/
def State.peerOk (s : State) (tenant : Nat) (l : Word) : Bool :=
  match s.foreign? tenant l with
  | some o => !l.getLsbD 1 && s.peerRead o tenant
  | none => true

/-- R279, R345, R379: the checks of a leaf that a walk or a TLB gave, for a tenant in a world, writing or contributing. -/
def checkLeaf (s : State) (tenant : Nat) (world : Bool) (wr atom : Bool) (l : Word) : Trans :=
  if leafKen l && !(s.key (leafKslot l)).full then .bad .walk
  else if leafTarget l = 12 && tenant ≠ 0 && !s.die.hvpolicy.getLsbD 2 then .bad .walk
  else if !s.peerOk tenant l then .bad .walk
  else if wr && !l.getLsbD 1 then .bad .write
  else if !world && l.getLsbD 2 then .bad .world
  else if atom && 12 ≤ leafTarget l then .bad .target
  else .ok l

/-- R278: an entry of a TLB, if it holds one. -/
def tlbFind (l : List TlbE) (place tenant vpn : Nat) : Option Word :=
  (l.find? fun e => e.place == place && e.tenant == tenant && e.vpn == vpn).map (·.leaf)

/-- R278: an entry put into a TLB of `cap` entries; a full TLB loses the entry that a free value names (log 13). -/
def tlbPut (cap : Nat) (l : List TlbE) (e : TlbE) (free : Nat) : List TlbE :=
  let here := l.filter fun x => x.place == e.place
  let rest := l.filter fun x => !(x.place == e.place)
  let here := if cap ≤ here.length then here.eraseIdx ((Config.freeWord free).toNat % here.length) else here
  e :: here ++ rest

/-- R276-R279: the translation of a page for a tile's request, through the TLBs, and the state after it. A leaf whose check is a failed
walk enters no TLB (R278). -/
def translate (s : State) (tile tenant : Nat) (world : Bool) (vpn : Nat) (wr atom : Bool) : Trans × State :=
  let port := memoryPort tile vpn
  let home := homeOf vpn
  match tlbFind s.tlb1 port tenant vpn with
  | some l => (checkLeaf s tenant world wr atom l, s)
  | none =>
    let fill1 (s : State) (l : Word) : State :=
      { s with tlb1 := tlbPut Config.tlb1Depth s.tlb1 ⟨port, tenant, vpn, l⟩ s.free, free := s.free + 1 }
    match tlbFind s.tlb2 home tenant vpn with
    | some l =>
      let r := checkLeaf s tenant world wr atom l
      (r, if r = .bad .walk then s else fill1 s l)
    | none =>
      match walk s tenant vpn with
      | .missing => (.page, s)
      | .malformed => (.bad .walk, s)
      | .leaf l =>
        let r := checkLeaf s tenant world wr atom l
        let s2 := fill1 s l
        (r, if r = .bad .walk then s else
          { s2 with tlb2 := tlbPut Config.tlb2Depth s2.tlb2 ⟨home, tenant, vpn, l⟩ s2.free, free := s2.free + 1 })

/-! ## Page requests (R282-R284) -/

/-- A requester of a page. -/
structure Requester where
  tenant : Nat
  wr : Bool
  code : Bool
  idxe : Bool
  slot : Nat
  eseq : BitVec 32
deriving DecidableEq, Repr

/-- R282: a page request placed: merged, in a reserved entry, in a shared entry, or waiting at the server. -/
def pageRequest (s : State) (r : Requester) (vpn : Nat) : State :=
  let rg := regionOf (tileOf r.slot)
  if s.pages.any fun p => p.tenant == r.tenant && p.vpn == vpn then
    { s with pages := s.pages.map fun p =>
        if p.tenant == r.tenant && p.vpn == vpn then
          { p with nreq := min 0xFFFF (p.nreq + 1), wr := p.wr || r.wr, regions := rg :: p.regions } else p }
  else
    let mine := s.pages.filter fun p => p.queued && p.tenant == r.tenant && !p.shared
    let shared := s.pages.filter fun p => p.queued && p.shared
    let mineShared := shared.filter fun p => p.tenant == r.tenant
    let res := mine.length < Config.pageReserved
    let shr := shared.length < Config.pageShared && mineShared.length < Config.pageSharedMax
    { s with pages := s.pages ++ [{ tenant := r.tenant, vpn := vpn, wr := r.wr, code := r.code, idxe := r.idxe, nreq := 1
                                    tile := tileOf r.slot, slot := r.slot % 4, eseq := if r.code then 0 else r.eseq
                                    shared := !res, queued := res || shr, regions := [rg] }] }

/-- R282 step 4: entries freed let waiting requests in, oldest first. -/
def admitPages (s : State) : State :=
  let f (done : List PageReq) (p : PageReq) : List PageReq :=
    if p.queued then done ++ [p] else
      let mine := done.filter fun x => x.queued && x.tenant == p.tenant && !x.shared
      let shared := done.filter fun x => x.queued && x.shared
      let mineShared := shared.filter fun x => x.tenant == p.tenant
      if mine.length < Config.pageReserved then done ++ [{ p with queued := true, shared := false }]
      else if shared.length < Config.pageShared && mineShared.length < Config.pageSharedMax then
        done ++ [{ p with queued := true, shared := true }]
      else done ++ [p]
  { s with pages := s.pages.foldl f [] }

/-! ## Bytes of a page -/

/-- R281: one more than the key pair a leaf's accesses use, 0 for cleartext. -/
def leafTag (s : State) (l : Word) : Nat := if leafKen l then (s.key (leafKslot l)).key.toNat + 1 else 0

/-- R281: a byte of a frame stored under a key: a granule held under another key is first taken over as it reads. A byte written anew
holds no error (log 19). -/
def frameStore (s : State) (tag key : Nat) (b : Byte) : State :=
  let g := key / 256
  let s := if s.dramEcc.contains key then { s with dramEcc := s.dramEcc.filter (· != key) } else s
  if Sparse.get 0 s.ktags g = tag then { s with dram := s.dram.put key b }
  else
    let d := (List.range 256).foldl (fun m k => Mem.put m (g * 256 + k) (frameByte s tag (g * 256 + k))) s.dram
    { s with dram := d.put key b, ktags := Sparse.set 0 s.ktags g tag }

/-- The place of a byte behind a leaf of this package's DRAM. -/
def leafKey (l : Word) (off : Nat) : Nat := dramKey (leafTarget l) (leafFrame l * 2 ^ 21 + off)

/-- R345: the byte of a frame as another tenant reads it: as it stood when `pub` publications had been made. -/
def pubByte (s : State) (pub tag key : Nat) : Byte :=
  match s.pubLog.find? fun o => (pub ≤ o.pub || o.owner.isSome) && o.granule == key / 256 with
  | some o => cipherByte (Mem.putBytes [] (key / 256 * 256) o.bytes) o.tag tag key
  | none => frameByte s tag key

/-- R345: a granule that its owner is about to store to, kept for other tenants as it stands until the owner publishes. -/
def keepGranule (s : State) (owner g : Nat) : State :=
  if s.pubLog.any fun o => o.owner == some owner && o.granule == g then s
  else { s with pubLog := s.pubLog ++ [⟨s.pub, g, s.dram.bytes (g * 256) 256, Sparse.get 0 s.ktags g, some owner⟩] }

/-- The place of a byte behind a leaf of another package. -/
def peerKey (l : Word) (off : Nat) : Nat := frameKey l * 2 ^ 21 + off

/-- R345: the publications in which a word reads the pages of other tenants: the number of those made in this package, and the number that
stands for the one it reads in other packages. -/
structure Far where
  pub : Nat
  peer : Nat
deriving DecidableEq, Repr

/-- The byte of the page behind a leaf, as a read of it delivers it; `far` says in which publication a page of another tenant is read
(R345). A byte of a tenant's own frame in another package is what was stored there last (R331); one of another tenant's there is a free
value of the publication and the place (log 12). Host memory is not read here: its words wait for the bus (R346). -/
def pageByte (s : State) (far : Option Far) (l : Word) (off : Nat) : Byte × State :=
  if leafTarget l ≤ 11 then
    (match far with
      | some f => pubByte s f.pub (leafTag s l) (leafKey l off)
      | none => frameByte s (leafTag s l) (leafKey l off), s)
  else if leafTarget l = 13 then
    (match far with
      | some f => Config.peerPub f.peer (peerKey l off)
      | none => (Sparse.get none s.host.peerMem (peerKey l off)).getD (Config.peerByte (peerKey l off)), s)
  else (s.fresh.1.extractLsb' 0 8, s.fresh.2)

/-- A byte stored behind a leaf: in the frame, where other tenants see it from its owner's next publication on (R345), posted to the
host (R346), or sent to the peer package (R301). -/
def pageStore (s : State) (l : Word) (off : Nat) (b : Byte) : State :=
  if leafTarget l ≤ 11 then
    let o := Sparse.get 0 s.frames (frameKey l)
    frameStore (if o = 0 then s else keepGranule s (o - 1) (leafKey l off / 256)) (leafTag s l) (leafKey l off) b
  else if leafTarget l = 12 then { s with host := { s.host with posted := s.host.posted ++ [(leafFrame l * 2 ^ 21 + off, [b])] } }
  else { s with host := { s.host with peer := s.host.peer ++ [(leafFrame l * 2 ^ 21 + off, [b])]
                                      peerMem := Sparse.set none s.host.peerMem (peerKey l off) (some b) } }

/-- R381: a leaf names an emptied key slot: no access goes through it. -/
def leafDead (s : State) (l : Word) : Bool := leafKen l && !(s.key (leafKslot l)).full

/-- A byte of a tenant's memory read outside the phase rules, by a walk of its own; none where no page is mapped, or its key is gone
(R381). -/
def rawByte (s : State) (tenant va : Nat) : Option Byte :=
  match walk s tenant (vpnOf va) with
  | .leaf l => if leafDead s l then none else some (pageByte s none l (va % 2 ^ 21)).1
  | _ => none

/-- Bytes stored to a tenant's memory outside the phase rules (save area, detector record, conflict log, write-back);
bytes of unmapped pages, and of pages whose key is gone (R381), are dropped (log 10). -/
def rawStore (s : State) (tenant va : Nat) : List Byte → State
  | [] => s
  | b :: bs =>
    let s := match walk s tenant (vpnOf va) with
      | .leaf l => if leafDead s l then s else pageStore s l (va % 2 ^ 21) b
      | _ => s
    rawStore s tenant (va + 1) bs

/-! ## Views (R335, R336, R341) -/

/-- R335: an entry of a knowledge vector. -/
def knows (k : Sparse Nat) (g : Nat) : Nat := Sparse.get 0 k g
/-- R335: `u` supersedes `v`. -/
def Version.supersedes (u v : Version) : Bool := v.ep ≤ knows u.know v.gid && !(u.gid == v.gid && u.ep == v.ep && u.wpid == v.wpid)

/-- R336: the versions of a byte that a knowledge vector knows and no known version supersedes. -/
def candidates (vs : List Version) (k : Sparse Nat) (va : Nat) : List Version :=
  let c := vs.filter fun v => v.va == va && v.ep ≤ knows k v.gid
  c.filter fun v => !c.any fun u => u.supersedes v

/-- The version with the lowest writer PID. -/
def lowestWriter : List Version → Option Version
  | [] => none
  | v :: vs => match lowestWriter vs with
    | none => some v
    | some w => if w.wpid < v.wpid then some w else some v

/-- R28, R335, R336: VIEW of a byte under a knowledge vector; none where only the cast-on contents are known and stand in the frame. -/
def viewVersions (n : Net) (k : Sparse Nat) (va : Nat) : Option Byte :=
  match lowestWriter (candidates n.versions k va) with
  | some v => some v.val
  | none => Sparse.get none n.base va

/-- R336: what the phase rules give a process for a byte; none where the frame's own byte is read. -/
def Proc.view (p : Proc) (n : Net) (va : Nat) : Option Byte :=
  match Sparse.get none p.wset va with
  | some b => some b
  | none => viewVersions n p.know va

/-- R342: the conflict of kind 1 that a view of a byte finds. -/
def viewConflict (n : Net) (p : Proc) (va : Nat) : Option Conflict :=
  if (Sparse.get none p.wset va).isSome then none else
    let c := candidates n.versions p.know va
    match lowestWriter c with
    | none => none
    | some w =>
      match lowestWriter (c.filter fun v => !(v.wpid == w.wpid && v.gid == w.gid && v.ep == w.ep)) with
      | none => none
      | some o =>
        let top := c.foldl (fun (a : Nat × Nat) v => if a.1 < v.gid || (a.1 == v.gid && a.2 < v.ep) then (v.gid, v.ep) else a) (0, 0)
        some ⟨1, va / 64, 1#64 <<< (va % 64), w.wpid, o.wpid, top.1, top.2, (w.gid, w.ep), (o.gid, o.ep)⟩

/-- R129, R336: what the phase rules give a process for the bytes of a range, where they give one. -/
def Proc.viewed (p : Proc) (n : Net) (lo len : Nat) : List (Nat × Byte) :=
  let vas := ((p.wset.map (·.1) ++ n.versions.map (·.va) ++ n.base.map (·.1)).filter fun va => lo ≤ va && va < lo + len).eraseDups
  vas.filterMap fun va => (p.view n va).map fun b => (va, b)

/-- R342: the conflicts that the views of a range find. -/
def Proc.conflicts (p : Proc) (n : Net) (lo len : Nat) : List Conflict :=
  (((n.versions.map (·.va)).filter fun va => lo ≤ va && va < lo + len).eraseDups).filterMap (viewConflict n p)

/-- R342: two findings concern one sector and one pair of versions. -/
def Conflict.same (a b : Conflict) : Bool :=
  a.kind == b.kind && a.sec == b.sec && a.wpid == b.wpid && a.lpid == b.lpid && a.wst == b.wst && a.lst == b.lst

/-- R342: two findings of one conflict joined: their bytes, and the greater of their stamps in (GID, EPISODE) order (log 29). -/
def Conflict.join (x c : Conflict) : Conflict :=
  if x.gid < c.gid || (x.gid == c.gid && x.ep < c.ep) then { c with bytes := x.bytes ||| c.bytes } else { x with bytes := x.bytes ||| c.bytes }

/-- R342: a conflict logged: once for a sector and pair of versions. -/
def logConflict (l : List Conflict) (c : Conflict) : List Conflict :=
  if l.any (·.same c) then l.map fun x => if x.same c then x.join c else x else l ++ [c]

/-- R343: conflicts found, counted and logged for a network's tenant. -/
def noteConflicts (s : State) (net : Nat) (cs : List Conflict) : State :=
  match s.nets[net]? with
  | none => s
  | some n =>
    let l := cs.foldl logConflict n.log
    let s := s.modNet net fun n => { n with log := l }
    s.modTenant n.tenant fun t =>
      { t with phcount := min 0xFFFFFFFF (t.phcount + (l.length - n.log.length))
               logfull := t.logfull || n.logMax.toNat < l.length }

/-- The process that a slot runs, with its network's number; none at S and on the control tile, whose words read and write
DRAM outside the phase rules (log 26). -/
def State.procOf (s : State) (i : Nat) : Option (Nat × Net × Proc) :=
  let x := s.slot i
  if !x.atP || i = Config.controlSlot then none else
    match s.nets[x.id.net]? with
    | none => none
    | some n => (n.procs.find? fun p => p.pid == x.id.pid.toNat).map fun p => (x.id.net, n, p)

/-- A process of a network changed. -/
def Net.modProc (n : Net) (pid : Nat) (f : Proc → Proc) : Net :=
  { n with procs := n.procs.map fun p => if p.pid == pid then f p else p }

/-- R344: a process's quota of sectors. -/
def Net.quota (n : Net) : Nat := n.shsect.toNat / n.procs.length

/-- R336: a byte read by a slot's word at a VA behind a leaf, under the phase rules where the slot runs a process; of another tenant's
frame, in the publications of the word (R345). -/
def readVa (s : State) (i : Nat) (l : Word) (va : Nat) (far : Far) : Byte × State :=
  let foreign := (s.foreign? (s.slot i).id.tenant l).isSome
  let viewed := if leafTarget l = 12 || foreign then none else (s.procOf i).bind fun (_, n, p) => p.view n va
  match viewed with
  | some b => (b, s)
  | none => pageByte s (if foreign then some far else none) l (va % 2 ^ 21)

/-- R292, log 19: a byte read from a page of this package's DRAM holds an uncorrectable error. -/
def badByte (s : State) (l : Word) (va : Nat) : Bool := leafTarget l ≤ 11 && s.dramEcc.contains (leafKey l (va % 2 ^ 21))

/-- R293, R335: a byte written by a slot's word: into the write set of its process, or into the page where the slot runs
none or the page is host memory (R346). -/
def writeVa (s : State) (i : Nat) (l : Word) (va : Nat) (b : Byte) : State :=
  match s.procOf i with
  | some (k, _, p) =>
    if leafTarget l = 12 then pageStore s l (va % 2 ^ 21) b
    else s.modNet k fun n => n.modProc p.pid fun p => { p with wset := Sparse.set none p.wset va (some b) }
  | none => pageStore s l (va % 2 ^ 21) b

/-! ## Token buckets (R285, time only) -/

/-- R285: the bucket of a tenant at a stack. -/
def State.bucket (s : State) (st t : Nat) : Bucket := Sparse.get {} s.buckets (32 * st + t)
/-- R285: the depth that BURST gives. -/
def Bucket.depth (b : Bucket) : Nat := max 4 b.burst.toNat
/-- R285: a window's refill. -/
def Bucket.refill (b : Bucket) : Bucket := { b with tok := min b.depth (b.tok + b.rate.toNat) }
/-- R285: the charge of `n` units; an empty bucket delays the access, so its tokens are taken once it has them and the charge never
falls below zero (time only, log 23). -/
def chargeBucket (s : State) (st t n : Nat) : State :=
  let b := s.bucket st t
  if b.en then { s with buckets := Sparse.set {} s.buckets (32 * st + t) { b with tok := b.tok - n } } else s

/-- R275, R285: the 64-byte units of the requests for `n` bytes at an address: one request for each granule of 256 bytes, each rounded
up. -/
def unitsOf (a n : Nat) : Nat :=
  let first := min n (256 - a % 256)
  (first + 63) / 64 + 4 * ((n - first) / 256) + ((n - first) % 256 + 63) / 64

/-- R285: an access of `n` bytes at a VA behind a leaf, charged at the server of its frame; host and peer memory are not metered here. -/
def chargeLeaf (s : State) (tenant a n : Nat) (l : Word) : State :=
  if leafTarget l ≤ 11 then chargeBucket s (leafTarget l) tenant (unitsOf a n) else s
/-- R285: the charge of an access of `n` bytes at a VA that is made outside the engine words. -/
def chargeVa (s : State) (tenant va n : Nat) : State :=
  match walk s tenant (vpnOf va) with
  | .leaf l => chargeLeaf s tenant va n l
  | _ => s

/-- The leaf of a page among those translated. -/
def leafOf (leaves : List (Nat × Word)) (vpn : Nat) : Option Word := (leaves.find? fun p => p.1 == vpn).map (·.2)

/-- The pieces of a range that lie in one page each. -/
def pieces (a n : Nat) : List (Nat × Nat) :=
  let k := min n (2 ^ 21 - a % 2 ^ 21)
  if k = n then [(a, n)] else [(a, k), (a + k, n - k)]

/-- R285: a range behind leaves charged, each piece where its page's frame lies. -/
def chargeRange (s : State) (tenant : Nat) (leaves : List (Nat × Word)) (a n : Nat) : State :=
  (pieces a n).foldl (fun s (b, k) =>
    match leafOf leaves (vpnOf b) with
    | some l => chargeLeaf s tenant b k l
    | none => s) s

end Sys2Proof.Machine
end

