-- ==== Sys2Proof/Machine/Float.lean ====
section
/-! DEFINITION. Binary floating point (R74-R77, R86, R90): exact dyadic values, one rounding, the flags. A value to be rounded
is a sign, a magnitude `m`, a power of two `e` and a sticky bit that says a non-zero part below the last bit was cut off. -/

namespace Sys2Proof.Machine

/-- R77: the flags NX [0], UF [1], OF [2], DZ [3], NV [4]. -/
abbrev Flags := BitVec 5
/-- R77. -/
def fNX : Flags := 1
/-- R77. -/
def fUF : Flags := 2
/-- R77. -/
def fOF : Flags := 4
/-- R77. -/
def fDZ : Flags := 8
/-- R77. -/
def fNV : Flags := 16

/-- R75: the rounding modes. -/
inductive Rm | rne | rtz | rdn | rup | rna
deriving DecidableEq, Repr

/-- R75: a mode from an rm field, 7 standing for FCSR.RM (R79; R78 keeps FCSR.RM at 4 or below). -/
def rmOf (rm fcsr : BitVec 3) : Rm :=
  match (if rm = 7 then fcsr else rm).toNat with
  | 1 => .rtz | 2 => .rdn | 3 => .rup | 4 => .rna | _ => .rne

/-- A format: exponent bits and fraction bits (R74, R80). -/
structure Fmt where
  ew : Nat
  fw : Nat
deriving DecidableEq, Repr

/-- R74. -/
def f32 : Fmt := ⟨8, 23⟩
/-- R80. -/
def f16 : Fmt := ⟨5, 10⟩
/-- R80. -/
def bf16 : Fmt := ⟨8, 7⟩

/-- The bias of a format. -/
def Fmt.bias (f : Fmt) : Nat := 2 ^ (f.ew - 1) - 1
/-- Exponent field of infinities and NaNs. -/
def Fmt.top (f : Fmt) : Nat := 2 ^ f.ew - 1
/-- Bits of +infinity. -/
def Fmt.inf (f : Fmt) : Nat := f.top * 2 ^ f.fw
/-- R76: the canonical NaN. -/
def Fmt.nan (f : Fmt) : Nat := f.inf + 2 ^ (f.fw - 1)
/-- Bits of the largest finite magnitude. -/
def Fmt.maxFin (f : Fmt) : Nat := f.inf - 1
/-- The weight of the last bit of the smallest numbers. -/
def Fmt.emin (f : Fmt) : Int := 1 - (f.bias : Int) - f.fw
/-- The sign bit. -/
def Fmt.sign (f : Fmt) (neg : Bool) : Nat := if neg then 2 ^ (f.ew + f.fw) else 0

/-- What the bits of a format say. `fin neg m e` is (-1)^neg m 2^e. -/
inductive FVal
  | fin (neg : Bool) (m : Nat) (e : Int)
  | inf (neg : Bool)
  | nan (sig : Bool)
deriving DecidableEq, Repr

/-- The value of a bit pattern (R74, R76, R80). -/
def Fmt.dec (f : Fmt) (b : Nat) : FVal :=
  let neg := b / 2 ^ (f.ew + f.fw) % 2 = 1
  let x := b / 2 ^ f.fw % 2 ^ f.ew
  let m := b % 2 ^ f.fw
  if x = f.top then (if m = 0 then .inf neg else .nan (m / 2 ^ (f.fw - 1) = 0))
  else if x = 0 then .fin neg m f.emin
  else .fin neg (m + 2 ^ f.fw) (f.emin + (x - 1 : Int))

/-- Number of bits of a magnitude. -/
def bitLen (m : Nat) : Nat := if m = 0 then 0 else Nat.log2 m + 1

/-- A magnitude divided by 2^k, with the bit below and the rest. -/
structure Cut where
  q : Nat
  half : Bool
  rest : Bool
deriving DecidableEq, Repr

/-- m 2^(e - t) cut to an integer; `st` says something non-zero lies below m. -/
def cut (m : Nat) (e t : Int) (st : Bool) : Cut :=
  if t ≤ e then ⟨m * 2 ^ (e - t).toNat, false, st⟩
  else
    let k := (t - e).toNat
    ⟨m / 2 ^ k, m / 2 ^ (k - 1) % 2 = 1, m % 2 ^ (k - 1) ≠ 0 || st⟩

/-- R75: whether a cut magnitude is raised by one. -/
def Cut.up (c : Cut) (rm : Rm) (neg : Bool) : Bool :=
  match rm with
  | .rne => c.half && (c.rest || c.q % 2 == 1)
  | .rna => c.half
  | .rtz => false
  | .rdn => neg && (c.half || c.rest)
  | .rup => !neg && (c.half || c.rest)
/-- The cut lost something. -/
def Cut.inexact (c : Cut) : Bool := c.half || c.rest
/-- The rounded integer. -/
def Cut.round (c : Cut) (rm : Rm) (neg : Bool) : Nat := c.q + if c.up rm neg then 1 else 0

/-- R74-R77: a non-zero exact value rounded to a format, tininess detected after rounding. -/
def Fmt.round (f : Fmt) (rm : Rm) (neg : Bool) (m : Nat) (e : Int) (st : Bool) : Nat × Flags :=
  if m = 0 && !st then (f.sign neg, 0) else
  let t := max f.emin (e + bitLen m - (f.fw + 1))
  let c := cut m e t st
  let q := c.round rm neg
  -- the bits of q ulps at weight t; a carry into the next binade falls out of the addition
  let bits := if t = f.emin then q else q + (t - f.emin).toNat * 2 ^ f.fw
  if f.inf ≤ bits then
    let big := match rm with
      | .rne | .rna => f.inf
      | .rtz => f.maxFin
      | .rdn => if neg then f.inf else f.maxFin
      | .rup => if neg then f.maxFin else f.inf
    (f.sign neg + big, fOF ||| fNX)
  else
    -- tiny after rounding: with unbounded exponent the rounded value lies below the least normal number
    let tiny := e + bitLen m ≤ f.emin + f.fw &&
      (let u := cut m e (e + bitLen m - (f.fw + 1)) st
       !(u.round rm neg = 2 ^ (f.fw + 1) && e + bitLen m = f.emin + f.fw))
    (f.sign neg + bits, if c.inexact then (if tiny then fNX ||| fUF else fNX) else 0)

/-- A result: bits and flags. -/
abbrev FRes := Nat × Flags

/-- R76: NaN result; NV if some operand was signalling. -/
def Fmt.nanRes (f : Fmt) (sig : Bool) : FRes := (f.nan, if sig then fNV else 0)
/-- A NaN from an invalid operation. -/
def Fmt.invalid (f : Fmt) : FRes := (f.nan, fNV)
/-- A signed infinity. -/
def Fmt.infRes (f : Fmt) (neg : Bool) : FRes := (f.sign neg + f.inf, 0)
/-- A signed zero. -/
def Fmt.zeroRes (f : Fmt) (neg : Bool) : FRes := (f.sign neg, 0)

/-- The integer (-1)^neg m 2^(e - lo), for lo ≤ e. -/
def scaled (neg : Bool) (m : Nat) (e lo : Int) : Int :=
  let v : Int := (m * 2 ^ (e - lo).toNat : Nat)
  if neg then -v else v

/-- R210: the exact sum of two finite values, rounded once; an exact zero follows R210. -/
def Fmt.sum (f : Fmt) (rm : Rm) (n1 : Bool) (m1 : Nat) (e1 : Int) (n2 : Bool) (m2 : Nat) (e2 : Int) : FRes :=
  if m1 = 0 && m2 = 0 then f.zeroRes (if n1 == n2 then n1 else rm == .rdn) else
  let lo := min e1 e2
  let v := scaled n1 m1 e1 lo + scaled n2 m2 e2 lo
  if v = 0 then f.zeroRes (rm == .rdn) else f.round rm (v < 0) v.natAbs lo false

/-- The value with its sign inverted. -/
def FVal.negate : FVal → FVal
  | .fin n m e => .fin (!n) m e
  | .inf n => .inf (!n)
  | .nan s => .nan s

/-- A signalling NaN. -/
def FVal.isSig : FVal → Bool
  | .nan s => s
  | _ => false
/-- A NaN. -/
def FVal.isNan : FVal → Bool
  | .nan _ => true
  | _ => false

/-- R210: addition. -/
def Fmt.addV (f : Fmt) (rm : Rm) (a b : FVal) : FRes :=
  match a, b with
  | .nan s, y => f.nanRes (s || y.isSig)
  | x, .nan s => f.nanRes (s || x.isSig)
  | .inf n, .inf k => if n == k then f.infRes n else f.invalid
  | .inf n, _ => f.infRes n
  | _, .inf n => f.infRes n
  | .fin n1 m1 e1, .fin n2 m2 e2 => f.sum rm n1 m1 e1 n2 m2 e2

/-- The exact product of two values that are no NaN: a value, or none for 0 times infinity. -/
def mulExact (a b : FVal) : Option FVal :=
  match a, b with
  | .fin n1 m1 e1, .fin n2 m2 e2 => some (.fin (n1 != n2) (m1 * m2) (e1 + e2))
  | .inf n1, .fin n2 m2 _ => if m2 = 0 then none else some (.inf (n1 != n2))
  | .fin n1 m1 _, .inf n2 => if m1 = 0 then none else some (.inf (n1 != n2))
  | .inf n1, .inf n2 => some (.inf (n1 != n2))
  | x, .nan _ => some x
  | .nan s, _ => some (.nan s)

/-- A value rounded. -/
def Fmt.deliver (f : Fmt) (rm : Rm) : FVal → FRes
  | .fin n m e => f.round rm n m e false
  | .inf n => f.infRes n
  | .nan s => f.nanRes s

/-- R210: multiplication. -/
def Fmt.mulV (f : Fmt) (rm : Rm) (a b : FVal) : FRes :=
  if a.isNan || b.isNan then f.nanRes (a.isSig || b.isSig) else
  match mulExact a b with
  | none => f.invalid
  | some p => f.deliver rm p

/-- R211: a b + c rounded once; 0 times infinity is invalid whatever c holds. -/
def Fmt.fmaV (f : Fmt) (rm : Rm) (a b c : FVal) : FRes :=
  let inval := !a.isNan && !b.isNan && (mulExact a b).isNone
  if inval then f.invalid
  else if a.isNan || b.isNan || c.isNan then f.nanRes (a.isSig || b.isSig || c.isSig)
  else match mulExact a b with
    | none => f.invalid
    | some p => f.addV rm p c

/-- R90: division, RNE. -/
def Fmt.divV (f : Fmt) (a b : FVal) : FRes :=
  if a.isNan || b.isNan then f.nanRes (a.isSig || b.isSig) else
  match a, b with
  | .inf _, .inf _ => f.invalid
  | .inf n, .fin k _ _ => f.infRes (n != k)
  | .fin n _ _, .inf k => f.zeroRes (n != k)
  | .fin n m e, .fin k d g =>
    if d = 0 then (if m = 0 then f.invalid else (f.sign (n != k) + f.inf, fDZ))
    else if m = 0 then f.zeroRes (n != k)
    else
      -- enough quotient bits for one correct rounding, the remainder sticky
      let sh := bitLen d + f.fw + 4
      f.round .rne (n != k) (m * 2 ^ sh / d) (e - g - sh) (m * 2 ^ sh % d ≠ 0)
  | _, _ => f.invalid

/-- One bit of an integer square root, from the top. -/
def isqrtGo (x : Nat) : Nat → Nat → Nat
  | 0, r => r
  | k + 1, r => let r2 := r + 2 ^ k; isqrtGo x k (if r2 * r2 ≤ x then r2 else r)
/-- The integer square root, rounded down. -/
def isqrt (x : Nat) : Nat := isqrtGo x (bitLen x / 2 + 1) 0

/-- R90: square root, RNE. -/
def Fmt.sqrtV (f : Fmt) (a : FVal) : FRes :=
  match a with
  | .nan s => f.nanRes s
  | .inf n => if n then f.invalid else f.infRes false
  | .fin n m e =>
    if m = 0 then f.zeroRes n else if n then f.invalid else
    let sh := 2 * (f.fw + 4) + (if e % 2 = 0 then 0 else 1)
    let x := m * 2 ^ sh
    let r := isqrt x
    f.round .rne false r ((e - sh) / 2) (r * r ≠ x)

/-- R90: reciprocal, RNE. -/
def Fmt.rcpV (f : Fmt) (a : FVal) : FRes :=
  match a with
  | .nan s => f.nanRes s
  | .inf n => f.zeroRes n
  | .fin n m _ => if m = 0 then (f.sign n + f.inf, fDZ) else f.divV (.fin false 1 0) a

/-- R90: reciprocal square root, RNE: 2^sh / sqrt(m 2^e) by an integer square root of a quotient. -/
def Fmt.rsqrtV (f : Fmt) (a : FVal) : FRes :=
  match a with
  | .nan s => f.nanRes s
  | .inf n => if n then f.invalid else f.zeroRes false
  | .fin n m e =>
    if m = 0 then (f.sign n + f.inf, fDZ) else if n then f.invalid else
    -- 1 / (m 2^e) = (2^sh / m) 2^(-e - sh), with -e - sh even
    let sh := bitLen m + 2 * (f.fw + 6) + (if (e + bitLen m) % 2 = 0 then 0 else 1)
    let x := 2 ^ sh / m
    let r := isqrt x
    f.round .rne false r ((-e - sh) / 2) (r * r ≠ x || 2 ^ sh % m ≠ 0)

/-- Working bits of the transcendental functions (log 9). -/
def tprec : Nat := 256

/-- 2^tprec times 2^(2^-k), by repeated square roots. -/
def rootTwo : Nat → Nat
  | 0 => 2 ^ (tprec + 1)
  | k + 1 => isqrt (rootTwo k * 2 ^ tprec)

/-- The product of the roots that the bits of a fraction select: bit k - 1 - j of `x` stands for 2^-(j + 1). -/
def exp2Frac (x k : Nat) : Nat :=
  ((List.range k).foldl (fun (a : Nat × Nat) j =>
    let root := isqrt (a.2 * 2 ^ tprec)
    (if x / 2 ^ (k - 1 - j) % 2 = 1 then a.1 * root / 2 ^ tprec else a.1, root)) (2 ^ tprec, 2 ^ (tprec + 1))).1

/-- R90: 2^x, RNE. A fraction below 2^-150 moves the result by less than half of its last bit, so the fraction is
cut there and kept sticky; 2^x of a non-integer is irrational, hence inexact. -/
def exp2V (a : FVal) : FRes :=
  match a with
  | .nan s => f32.nanRes s
  | .inf n => if n then f32.zeroRes false else f32.infRes false
  | .fin n m e =>
    if m = 0 then f32.round .rne false 1 0 false else
    -- x in units of 2^-k
    let k : Nat := 150
    let lo : Int := -(k : Int)
    let c := cut m e lo false
    let huge := 2 ^ 9 * 2 ^ k ≤ c.q
    if huge then (if n then f32.round .rne false 1 (-1000) true else f32.round .rne false 1 1000 true) else
    let low := c.half || c.rest
    -- floor and fraction of x
    let v : Int := if n then -(c.q : Int) - (if low then 1 else 0) else c.q
    let i := v / 2 ^ k
    let fr := (v % 2 ^ k).toNat
    if fr = 0 && !low then f32.round .rne false 1 i false
    else f32.round .rne false (exp2Frac fr k) (i - tprec) true

/-- Bits of log2 of y / 2^tprec in [1, 2), by repeated squaring: `k` bits after the point. -/
def log2Bits (y : Nat) : Nat → Nat → Nat
  | 0, acc => acc
  | k + 1, acc =>
    let y2 := y * y / 2 ^ tprec
    if 2 ^ (tprec + 1) ≤ y2 then log2Bits (y2 / 2) k (2 * acc + 1) else log2Bits y2 k (2 * acc)

/-- R90: log2 x, RNE. A power of two gives its exponent exactly; every other logarithm is irrational. -/
def log2V (a : FVal) : FRes :=
  match a with
  | .nan s => f32.nanRes s
  | .inf n => if n then f32.invalid else f32.infRes false
  | .fin n m e =>
    if m = 0 then (f32.sign true + f32.inf, fDZ) else if n then f32.invalid else
    let b := bitLen m
    let i : Int := e + b - 1
    if m = 2 ^ (b - 1) then f32.round .rne (i < 0) i.natAbs 0 false
    else
      let k : Nat := 100
      let fr := log2Bits (m * 2 ^ (tprec + 1 - b)) k 0
      let v : Int := i * 2 ^ k + fr
      -- the exact value lies above v by less than one unit
      if v < 0 then f32.round .rne true ((-v).toNat - 1) (-(k : Int)) true
      else f32.round .rne false v.toNat (-(k : Int)) true

/-- The order of R91 on two numbers that are no NaN, -0 below +0. -/
def fltLess (a b : Nat) : Bool :=
  let key (x : Nat) : Int := if 2 ^ 31 ≤ x then -1 - ((x - 2 ^ 31 : Nat) : Int) else x
  key a < key b

/-- R210: vmin, vmax. -/
def minMax (mx : Bool) (a b : Nat) : FRes :=
  let x := f32.dec a
  let y := f32.dec b
  if x.isNan || y.isNan then f32.nanRes (x.isSig || y.isSig)
  else (if fltLess a b == mx then b else a, 0)

/-- R214: compare two numbers that are no NaN; -0 equals +0. -/
def fltCmp (a b : Nat) : Ordering :=
  let key (x : Nat) : Int := if 2 ^ 31 ≤ x then -((x - 2 ^ 31 : Nat) : Int) else x
  compare (key a) (key b)

/-- FP32 operations on bit patterns. -/
def addF (rm : Rm) (a b : Nat) : FRes := f32.addV rm (f32.dec a) (f32.dec b)
/-- R210: subtraction counts its second operand with its sign inverted. -/
def subF (rm : Rm) (a b : Nat) : FRes := f32.addV rm (f32.dec a) (f32.dec b).negate
/-- R210. -/
def mulF (rm : Rm) (a b : Nat) : FRes := f32.mulV rm (f32.dec a) (f32.dec b)

/-- R10: EXP2, the `vexp2` function, on bit patterns. -/
def exp2F (a : Nat) : FRes := exp2V (f32.dec a)

end Sys2Proof.Machine
end

