-- ==== Sys2Proof/Machine/Narrow.lean ====
section
/-! DEFINITION. The narrow formats (R80-R89), windows' decode and encode (R88), FP32 to and from integers (R89), the
reduction tree (R91) and the attention triple (R97-R99). -/

namespace Sys2Proof.Machine

/-! ## TAP8 (R83-R85) -/

/-- R83: exponent bits of zone z. -/
def tapEz (z : Nat) : Nat := [1, 2, 3, 3, 2, 1, 0].getD z 0
/-- R83: fraction bits of zone z. -/
def tapFz (z : Nat) : Nat := [5, 3, 1, 0, 0, 0, 0].getD z 0
/-- R83: the exponents of zone z, x = 0 upward. -/
def tapExps (z : Nat) : List Int :=
  match z with
  | 0 => [-1, 0]
  | 1 => [-3, -2, 1, 2]
  | 2 => [-7, -6, -5, -4, 3, 4, 5, 6]
  | 3 => [-11, -10, -9, -8, 7, 8, 9, 10]
  | 4 => [-13, -12, 11, 12]
  | 5 => [-14, 13]
  | _ => [-15]

/-- R83: exponent, fraction and fraction bits of a magnitude code 1-127. -/
def tapParts (c : Nat) : Int × Nat × Nat :=
  let p := Nat.log2 c
  let z := 6 - p
  let low := c - 2 ^ p
  let fz := tapFz z
  ((tapExps z).getD (low / 2 ^ fz) 0, low % 2 ^ fz, fz)

/-- R83, R84: the value of a TAP8 byte; 0x80 is a quiet NaN. -/
def tapDec (b : Nat) : FVal :=
  if b = 0x80 then .nan false else
  let c := b % 128
  if c = 0 then .fin false 0 0 else
  let (e, f, fz) := tapParts c
  .fin (b / 128 = 1) (2 ^ fz + f) (e - fz)

/-- R84: a magnitude in units of 2^-20, from its code. -/
def tapMag (c : Nat) : Nat :=
  if c = 0 then 0 else
  let (e, f, fz) := tapParts c
  (2 ^ fz + f) * 2 ^ (e - fz + 20).toNat

/-- R85: whether the candidate's fraction is even, zero counting as 0. -/
def tapEven (c : Nat) : Bool := c = 0 || (tapParts c).2.1 % 2 = 0

/-- R85: the greatest code at or below, and the least code above a magnitude x 2^-20 + (sticky), below 8192. -/
def tapAround (x : Nat) : Nat × Nat :=
  (List.range 128).foldl (fun (a : Nat × Nat) c =>
    let m := tapMag c
    (if m ≤ x && tapMag a.1 ≤ m then c else a.1,
     if x < m && m ≤ tapMag a.2 then c else a.2)) (0, 3)

/-- R85: encode. A quiet NaN and a finite value that saturates set no NV: R85 names the flags of each, where R77 says of every TAP8
conversion that it sets NV (DEDUCED, log 56). -/
def tapEnc (v : FVal) : FRes :=
  match v with
  | .nan s => (0x80, if s then fNV else 0)
  | .inf n => ((if n then 0x83 else 0x03), fNV)
  | .fin n m e =>
    let s := if n then 128 else 0
    -- |x| in units of 2^-40
    let c := cut m e (-40) false
    let x := c.q
    let low := c.half || c.rest
    if 8192 * 2 ^ 40 ≤ x then (s + 3, if x = 8192 * 2 ^ 40 && !low then 0 else fOF ||| fNX) else
    let (lo, hi) := tapAround (x / 2 ^ 20)
    let l := tapMag lo * 2 ^ 20
    let h := tapMag hi * 2 ^ 20
    if x = l && !low then (if lo = 0 then 0 else s + lo, 0) else
    -- l and h are even in these units, so the cut-off part decides only an exact tie
    let d1 := x - l
    let d2 := h - x
    let pick :=
      if d1 < d2 then lo
      else if d2 < d1 || low then hi
      else if tapEven lo && tapEven hi then lo
      else if tapEven lo then lo else hi
    let tiny := x < 2 ^ 25
    (if pick = 0 then 0 else s + pick, if tiny then fNX ||| fUF else fNX)

/-! ## Integers -/

/-- R89: a value rounded to an integer by a mode, with whether it was inexact. -/
def toInt (rm : Rm) (neg : Bool) (m : Nat) (e : Int) : Int × Bool :=
  let c := cut m e 0 false
  let q : Int := c.round rm neg
  (if neg then -q else q, c.inexact)

/-- R89: FP32 to INT32 or UINT32. -/
def f2i (rm : Rm) (uns : Bool) (a : Nat) : Nat × Flags :=
  let lo : Int := if uns then 0 else -(2 ^ 31)
  let hi : Int := if uns then 2 ^ 32 - 1 else 2 ^ 31 - 1
  let out (v : Int) : Nat := (BitVec.ofInt 32 v).toNat
  match f32.dec a with
  | .nan _ => (0, fNV)
  | .inf n => (out (if n then lo else hi), fNV)
  | .fin n m e =>
    let (v, inx) := toInt rm n m e
    if v < lo then (out lo, fNV) else if hi < v then (out hi, fNV) else (out v, if inx then fNX else 0)

/-- R89: INT32 or UINT32 to FP32. -/
def i2f (rm : Rm) (uns : Bool) (a : Nat) : FRes :=
  let v : Int := if uns then a else (BitVec.ofNat 32 a).toInt
  if v = 0 then (0, 0) else f32.round rm (v < 0) v.natAbs 0 false

/-- R216 kind 4: to the nearest integral FP32 value. -/
def rint (rm : Rm) (a : Nat) : FRes :=
  match f32.dec a with
  | .nan s => f32.nanRes s
  | .inf n => f32.infRes n
  | .fin n m e =>
    let c := cut m e 0 false
    let q := c.round rm n
    if q = 0 then (f32.sign n, if c.inexact then fNX else 0)
    else ((f32.round .rne n q 0 false).1, if c.inexact then fNX else 0)

/-! ## Windows (R88, R231) -/

/-- R231: the format codes. -/
inductive WinFmt | fp32 | fp16 | bf16 | tap8 | int8 | int16 | raw
deriving DecidableEq, Repr

/-- R231: element size. -/
def WinFmt.size : WinFmt → Nat
  | .fp32 => 4 | .fp16 => 2 | .bf16 => 2 | .tap8 => 1 | .int8 => 1 | .int16 => 2 | .raw => 4
/-- R231: the lanes hold INT32. -/
def WinFmt.isInt : WinFmt → Bool
  | .int8 | .int16 => true
  | _ => false

/-- R231, R232: a window: bounds, format, scale, usable. -/
structure Win where
  base : Nat
  limit : Nat
  fmt : WinFmt
  k : Int
  en : Bool
deriving DecidableEq, Repr

/-- R231: a format from its code. -/
def winFmtOf (c : Nat) : Option WinFmt :=
  match c with
  | 0 => some .fp32 | 1 => some .fp16 | 2 => some .bf16 | 3 => some .tap8 | 4 => some .int8 | 5 => some .int16
  | _ => none

/-- R232: a window register is well formed in a partition of `size` bytes. -/
def winOk (w : Word) (size : Nat) : Bool :=
  let b := (w.extractLsb' 0 21).toNat
  let l := (w.extractLsb' 24 22).toNat
  match winFmtOf (w.extractLsb' 46 3).toNat with
  | none => false
  | some f => b ≤ l && l ≤ size && b % f.size == 0 && l % f.size == 0

/-- R231: window `n` of a slot, from its register; window 0 covers the partition and holds raw elements. -/
def winOf (n : Nat) (w : Word) (size : Nat) : Win :=
  if n = 0 then ⟨0, size, .raw, 0, true⟩ else
  { base := (w.extractLsb' 0 21).toNat, limit := (w.extractLsb' 24 22).toNat
    fmt := (winFmtOf (w.extractLsb' 46 3).toNat).getD .raw
    k := (w.extractLsb' 49 7).toInt, en := w.getLsbD 63 }

/-- A value times 2^k. -/
def FVal.scale (v : FVal) (k : Int) : FVal :=
  match v with
  | .fin n m e => .fin n m (e + k)
  | x => x

/-- R86, R88: an element's bits as a lane. -/
def winDec (f : WinFmt) (k : Int) (b : Nat) : Nat × Flags :=
  match f with
  | .raw => (b, 0)
  | .fp32 => if k = 0 then (b, 0) else f32.deliver .rne ((f32.dec b).scale k)
  | .fp16 => f32.deliver .rne ((f16.dec b).scale k)
  | .bf16 => f32.deliver .rne ((bf16.dec b).scale k)
  | .tap8 => f32.deliver .rne ((tapDec b).scale k)
  | .int8 | .int16 =>
    let w := 8 * f.size
    let v := (BitVec.ofNat w b).toInt
    -- clamp32(floor(v 2^k))
    let c := cut v.natAbs k 0 false
    let q : Int := if v < 0 then -(c.q : Int) - (if c.inexact then 1 else 0) else c.q
    let nx := if c.inexact then fNX else 0
    if q < -(2 ^ 31) then (0x80000000, fNV ||| nx)
    else if 2 ^ 31 - 1 < q then (0x7FFFFFFF, fNV ||| nx)
    else ((BitVec.ofInt 32 q).toNat, nx)

/-- R87, R88: an exact value into an integer format of `w` bits: rounded RNE, clamped. -/
def intEnc (w : Nat) (neg : Bool) (m : Nat) (e : Int) : Nat × Flags :=
  let (v, inx) := toInt .rne neg m e
  let nx := if inx then fNX else 0
  let lo : Int := -(2 ^ (w - 1) : Nat)
  let hi : Int := (2 ^ (w - 1) : Nat) - 1
  if v < lo then ((BitVec.ofInt w lo).toNat, fNV ||| nx)
  else if hi < v then ((BitVec.ofInt w hi).toNat, fNV ||| nx)
  else ((BitVec.ofInt w v).toNat, nx)

/-- R87: an FP value into a format of a window; integers take it under R265. -/
def winEncVal (f : WinFmt) (v : FVal) : Nat × Flags :=
  match f with
  | .raw | .fp32 => f32.deliver .rne v
  | .fp16 => f16.deliver .rne v
  | .bf16 => bf16.deliver .rne v
  | .tap8 => tapEnc v
  | .int8 | .int16 =>
    match v with
    | .nan _ => (0, fNV)
    | .inf n => ((BitVec.ofInt (8 * f.size) (if n then -(2 ^ (8 * f.size - 1) : Nat) else (2 ^ (8 * f.size - 1) : Nat) - 1)).toNat, fNV)
    | .fin n m e => intEnc (8 * f.size) n m e

/-- R88: a lane's bits as an element. -/
def winEnc (f : WinFmt) (k : Int) (x : Nat) : Nat × Flags :=
  match f with
  | .raw => (x, 0)
  | .fp32 => if k = 0 then (x, 0) else winEncVal .fp32 ((f32.dec x).scale (-k))
  | .fp16 | .bf16 | .tap8 => winEncVal f ((f32.dec x).scale (-k))
  | .int8 | .int16 =>
    let v := (BitVec.ofNat 32 x).toInt
    intEnc (8 * f.size) (v < 0) v.natAbs (-k)

/-! ## Trees and triples -/

/-- R91: one round of TREE. -/
def treeRound {α : Type} (op : α → α → α) : List α → List α
  | x :: y :: l => op x y :: treeRound op l
  | l => l
/-- R91: TREE, `n` rounds at most. -/
def treeGo {α : Type} (op : α → α → α) : Nat → List α → List α
  | 0, l => l
  | n + 1, l => match l with
    | [] => []
    | [x] => [x]
    | l => treeGo op n (treeRound op l)
/-- R91: TREE of a list; none for the empty list. -/
def tree {α : Type} (op : α → α → α) (l : List α) : Option α := (treeGo op l.length l).head?

/-- R97: an attention triple: FP32 bits of m and l, and of o[0..63]. -/
structure Triple where
  m : Nat
  l : Nat
  o : List Nat
deriving DecidableEq, Repr

/-- FP32 bits of -infinity. -/
def negInf : Nat := 0xFF800000

/-- R98: RN32 of the sum of the used terms x_i a_i, exact before one rounding. -/
def mergeTerm (u1 u2 : Option Nat) (x1 x2 : Nat) : FRes :=
  let prod (x : Nat) (u : Option Nat) : Option (Option FVal × Bool) :=
    u.map fun a =>
      let v := f32.dec x
      if v.isNan then (some (.nan v.isSig), false) else (mulExact v (f32.dec a), (mulExact v (f32.dec a)).isNone)
  match prod x1 u1, prod x2 u2 with
  | none, none => (0, 0)
  | some (some p, _), none => f32.addV .rne p (match p with | .fin n _ _ => .fin n 0 0 | _ => .fin false 0 0)
  | none, some (some p, _) => f32.addV .rne p (match p with | .fin n _ _ => .fin n 0 0 | _ => .fin false 0 0)
  | some (some p, _), some (some q, _) => f32.addV .rne p q
  | some (none, _), some (some q, _) => (f32.nan, fNV ||| (if q.isSig then fNV else 0))
  | _, _ => f32.invalid

/-- R98: MERGE, with the flags that `vmrg` sets. -/
def mergeTriple (a b : Triple) : Triple × Flags :=
  let ma := f32.dec a.m
  let mb := f32.dec b.m
  if ma.isNan || mb.isNan then
    (⟨f32.nan, f32.nan, List.replicate 64 f32.nan⟩, if ma.isSig || mb.isSig then fNV else 0)
  else if a.m = negInf && b.m = negInf then (⟨negInf, 0, List.replicate 64 0⟩, 0)
  else
    let m := (minMax true a.m b.m).1
    let use (x : Nat) : Option Nat × Flags :=
      if x = negInf then (none, 0)
      else if fltCmp x m == .eq then (some 0x3F800000, 0)
      else
        let d := subF .rne x m
        let e := exp2F d.1
        (some e.1, d.2 ||| e.2)
    let u1 := use a.m
    let u2 := use b.m
    let l := mergeTerm u1.1 u2.1 a.l b.l
    let o := (List.range 64).map fun j => mergeTerm u1.1 u2.1 (a.o.getD j 0) (b.o.getD j 0)
    (⟨m, l.1, o.map (·.1)⟩, o.foldl (fun f r => f ||| r.2) (u1.2 ||| u2.2 ||| l.2))

/-- R99: finalisation: the quotients, whether l is zero, the flags. -/
def normTriple (t : Triple) : List Nat × Bool × Flags :=
  match f32.dec t.l with
  | .fin _ 0 _ => (List.replicate 64 0, true, 0)
  | lv =>
    let q := (List.range 64).map fun j => f32.divV (f32.dec (t.o.getD j 0)) lv
    (q.map (·.1), false, q.foldl (fun f r => f ||| r.2) 0)

/-- R97: the triple of a 272-byte slot. -/
def tripleOf (bs : List Byte) : Triple :=
  let w (k : Nat) : Nat := leNat ((bs.drop k).take 4)
  ⟨w 0, w 4, (List.range 64).map fun j => w (16 + 4 * j)⟩
/-- R97: the slot of a triple. -/
def tripleBytes (t : Triple) : List Byte :=
  natLe t.m 4 ++ natLe t.l 4 ++ natLe 0 8 ++ t.o.flatMap fun x => natLe x 4

/-- R310: NODE on two slots of a reduce channel. -/
def reduceNode (rop : Nat) (x y : List Byte) : List Byte :=
  if rop = 4 then tripleBytes (mergeTriple (tripleOf x) (tripleOf y)).1 else
  (List.range (x.length / 4)).flatMap fun e =>
    let a := leNat ((x.drop (4 * e)).take 4)
    let b := leNat ((y.drop (4 * e)).take 4)
    natLe (match rop with
      | 0 => (addF .rne a b).1
      | 1 => (a + b) % 2 ^ 32
      | 2 => (minMax true a b).1
      | _ => (minMax false a b).1) 4

end Sys2Proof.Machine
end

