-- ==== Sys2Proof/Machine/Fabric.lean ====
section
/-! DEFINITION. The channel fabric (R133-R161) and reduce channels (R304-R322): what a port can read or take, sending,
arrival, credits, end marks, severing, the tree of a reduce channel, and the UALink ports. -/

namespace Sys2Proof.Machine

/-! ## Endpoints -/

/-- The number of the slot an endpoint lies in. -/
def Ep.slotNo (e : Ep) : Nat := 4 * e.tile + e.slot
/-- The process an endpoint belongs to has committed `exit`: its reads count as retired (R27, R36). -/
def Net.exitedAt (n : Net) (e : Ep) : Bool :=
  n.procs.any fun p => p.tile == e.tile && p.slot == e.slot && p.exited
/-- R374: the process of an endpoint is saved: packets for it wait where they were sent. -/
def Net.savedAt (n : Net) (e : Ep) : Bool := n.procs.any fun p => p.tile == e.tile && p.slot == e.slot && p.saved
/-- The port of an endpoint. -/
def State.epPort (s : State) (e : Ep) : Port := (s.slot e.slotNo).port e.port
/-- The port of an endpoint, changed. -/
def State.modEp (s : State) (e : Ep) (f : Port → Port) : State := s.modSlot e.slotNo fun x => x.modPort e.port f
/-- The endpoint is in place: its slot holds the network and the port is bound to the channel in its generation. -/
def State.epLive (s : State) (net : Nat) (c : Chan) (e : Ep) (g : BitVec 8) : Bool :=
  let x := s.slot e.slotNo
  let p := x.port e.port
  x.id.loaded && x.id.net == net && p.bound && p.net == net && p.ch == c.chid && p.gen == g

/-- Slots in one result: the legs of endpoint mode, else one (R307). -/
def Chan.legs (c : Chan) : Nat := if c.reduce && c.endpt then c.writers.length else 1
/-- Counts of arrivals a reader keeps: one for each leg, two for a mirrored channel, else one. -/
def Chan.streams (c : Chan) : Nat := if c.mirror then 2 else c.legs

/-! ## Reading (R135, R136, R148, R152, R308) -/

/-- Slot positions that have become available at a reader: with several legs or halves, only whole results. -/
def Port.total (p : Port) (c : Chan) : Nat :=
  let low := (List.range c.streams).foldl (fun m i => min m (p.arr.getD i 0)) (p.arr.getD 0 0)
  if c.mirror then low else low * c.legs

/-- A position is set and at or below another. -/
def atOrBelow (o : Option Nat) (n : Nat) : Bool :=
  match o with
  | some k => k ≤ n
  | none => false

/-- What a read at a slot position meets. -/
inductive ReadSt | data | fin | diff | sev | empty
deriving DecidableEq, Repr

/-- R165: what the skein holds of stream `st` for reader `rd`, oldest first. -/
def Chan.inSkein (c : Chan) (rd st : Nat) : List SkSlot := c.skein.filter fun x => x.rd == rd && x.half == st

/-- R136, R152, R159: a read of position `pos`. Slots of the skein arrived before a sever notice: they are awaited. -/
def Port.readAt (p : Port) (c : Chan) (pos : Nat) : ReadSt :=
  if atOrBelow p.diff pos then .diff
  else if pos < p.total c then .data
  else if atOrBelow p.fin pos then .fin
  else if p.sev && !c.skein.any (fun x => x.rd == p.ix) then .sev else .empty

/-- R144, R148, R308: the buffer offset of a slot position: a buffer is whole places, so no slot wraps in it. -/
def Chan.place (c : Chan) (pos : Nat) : Nat := c.buf + (pos % (c.cap0 * c.legs)) * c.size

/-- The bytes of an arrived slot, in the reader's partition. -/
def State.slotBytes (s : State) (i : Nat) (c : Chan) (pos : Nat) : List Byte :=
  let x := s.slot i
  (s.tile (tileOf i)).sram.bytes (x.id.base * 4096 + c.place pos) c.size

/-- R150, R165: slots of a stream that have arrived at a reader, in its buffer and in the skein. -/
def Port.come (p : Port) (c : Chan) (st : Nat) : Nat := p.arr.getD st 0 + (c.inSkein p.ix st).length

/-- The bytes of the `n`-th slot of stream `st` of reader `p`, whose buffer is in the partition of slot `i`; `pos` is its position. -/
def State.comeBytes (s : State) (i : Nat) (c : Chan) (p : Port) (st n pos : Nat) : List Byte :=
  if n < p.arr.getD st 0 then s.slotBytes i c pos
  else match (c.inSkein p.ix st)[n - p.arr.getD st 0]? with
    | some x => x.data
    | none => []

/-- Credits owed by a reader's port, by writer. -/
def Port.owe (p : Port) (w n : Nat) : Port := { p with owed := Sparse.set 0 p.owed w (Sparse.get 0 p.owed w + n) }

/-- R150, R152, R307: the reads of `n` slots commit: credits go back to the writers (R154 lets them be merged). -/
def commitRead (s : State) (i port n : Nat) : State :=
  let p := (s.slot i).port port
  match s.chan? p.net p.ch with
  | none => s
  | some c =>
    let p1 :=
      if c.reduce && c.endpt then
        (List.range n).foldl (fun (q : Port) j => q.owe ((p.kc + j) % c.legs) 1) p
      else if c.mirror || c.reduce then (List.range c.writers.length).foldl (fun (q : Port) w => q.owe w n) p
      else p.owe 0 n
    let m := if c.mirror || (c.reduce && !c.endpt) then n * c.writers.length else n
    (s.modSlot i fun x => x.modPort port fun _ => { p1 with kc := p.kc + n }).modNet p.net fun w => { w with cret := w.cret + m }

/-! ## Sending (R150, R151, R305, R306) -/

/-- R27, R151: the readers that still govern a writer's free count. No packet tells of a retirement in another package, so a reader
there always does (DEDUCED, log 12). -/
def Chan.liveReaders (c : Chan) (n : Net) : List Nat :=
  (List.range c.readers.length).filter fun r =>
    match c.readers[r]? with
    | some e => e.remote || !n.exitedAt e
    | none => false

/-- R148, R151: a writer's free count; none where every reader has retired. -/
def Port.freeCount (p : Port) (c : Chan) (n : Net) : Option Nat :=
  match c.liveReaders n with
  | [] => none
  | r :: rs => some (rs.foldl (fun m r => min m (p.free.getD r 0)) (p.free.getD r 0))

/-- A send takes one unit of the free count of every reader. -/
def Port.takeFree (p : Port) : Port := { p with free := p.free.map fun f => f - 1 }
/-- A send undone. -/
def Port.giveFree (p : Port) (n : Nat) : Port := { p with free := p.free.map fun f => f + n }

/-- R309: a tree node whose inputs are `[j 2^L, …)` has no right half: it is carried up unchanged. -/
def nodeSingle (n lvl j : Nat) : Bool := (n + 2 ^ lvl - 1) / 2 ^ lvl ≤ (2 * (j / 2)) + 1
/-- R309: number of levels above the leaves. -/
def treeLevels (n : Nat) : Nat := if n ≤ 1 then 0 else Nat.log2 (n - 1) + 1

/-- R156: the write requests of a channel event to another package. -/
def ualMsgs (net : Nat) (c : Chan) (k : Pkt) : List UalMsg :=
  let m (part : Nat) (d : List Byte) : UalMsg :=
    { net := net, chid := c.chid, gen := k.gen, seq := BitVec.ofNat 24 k.seq, kind := k.kind, part := part
      count := match k.node with | some (l, _) => l | none => k.count, src := k.src, dst := k.dst, data := d }
  if k.kind == .slot && c.size == 272 then [m 0 (k.data.take 256), m 1 (k.data.drop 256)] else [m 0 k.data]

/-- R382: the payload of a slot's write request, encrypted before it leaves or decrypted as it arrives, on a CRYPT channel of a network
with a link key (log 10). -/
def State.linkMsg (s : State) (dec : Bool) (m : UalMsg) : UalMsg :=
  match s.chan? m.net m.chid, s.nets[m.net]? with
  | some c, some n =>
    if c.crypt && n.linkEn && m.kind == .slot then
      let tweak := c.chid * 2 ^ 32 + m.gen.toNat * 2 ^ 24 + m.seq.toNat + m.part * 2 ^ 56
      let d := xtsUnit dec (s.key n.linkSlot).key.toNat tweak m.data
      let len := if c.size = 272 then (if m.part = 0 then 256 else 16) else c.size
      { m with data := if dec then d.take len else d }
    else m
  | _, _ => m

/-- A packet put on its way out through the channel's UALink port. -/
def launchOut (s : State) (net : Nat) (c : Chan) (k : Pkt) : State :=
  s.modUal c.uport fun u => { u with sent := u.sent ++ (ualMsgs net c k).map (s.linkMsg false) }

/-- A packet put on its way: in the package's fabric, or out of the package. -/
def launch (s : State) (net : Nat) (c : Chan) (k : Pkt) (remote : Bool) : State :=
  if remote then launchOut s net c k else s.modChan net c.chid fun c => { c with transit := c.transit ++ [k] }

/-- Packets to every reader of this package. -/
def launchHere (s : State) (net : Nat) (c : Chan) (k : Nat → Pkt) : State :=
  (List.range c.readers.length).foldl (fun s r =>
    match c.readers[r]? with
    | some e => if e.remote then s else launch s net c (k r) false
    | none => s) s

/-- The number of the first reader in another package. -/
def Chan.firstAway (c : Chan) : Option Nat := (List.range c.readers.length).find? fun r => (c.readers[r]?).any (·.remote)

/-- Packets to every reader: one to each of this package, and one write request for those of the other (R156). -/
def launchReaders (s : State) (net : Nat) (c : Chan) (k : Nat → Pkt) : State :=
  let s := launchHere s net c k
  match c.firstAway with
  | some r => launchOut s net c (k r)
  | none => s

/-- A contributor or writer of the channel lies in another package. -/
def Chan.writerAway (c : Chan) (w : Nat) : Bool := (c.writers[w]?).any (·.remote)

/-- R309: the contributors below node `j` of level `lvl`. -/
def Chan.below (c : Chan) (lvl j : Nat) : List Nat := (List.range c.writers.length).filter fun w => w / 2 ^ lvl == j

/-- R312, R316: an input, child `j` of level `lvl` of its node, put on its way: to the node in this package; where the node's other
contributors lie in the other package and this input's do not, it is the root of this package's subtree and crosses to the readers'
package; where both have readers, to both. -/
def launchInput (s : State) (net : Nat) (c : Chan) (lvl j : Nat) (k : Pkt) : State :=
  let k := { k with node := some (lvl, j) }
  let away := (c.below (lvl + 1) (j / 2)).any c.writerAway && !(c.below lvl j).any c.writerAway
  let s := if away && c.firstAway.isSome then launchOut s net c k else s
  if !away || c.readers.any (fun e => !e.remote) then launch s net c k false else s

/-- R150, R305, R316: a committed send of one slot. With every reader retired it is discarded and counted (R27); on a severed
channel it is lost. -/
def transmit (s : State) (i port : Nat) (data : List Byte) : State :=
  let p := (s.slot i).port port
  match s.chan? p.net p.ch, s.nets[p.net]? with
  | some c, some n =>
    let s := s.modSlot i fun x => x.modPort port fun p => { p with seq := p.seq + 1 }
    if c.sev || p.sev then s
    else if c.liveReaders n = [] then
      s.modSlot i fun x => { x with vec := { x.vec with closedwr := min 0xFFFFFFFF (x.vec.closedwr + 1) } }
    else
      let k (r : Nat) (node : Option (Nat × Nat)) : Pkt :=
        { kind := .slot, gen := p.gen, seq := p.seq, count := 0, src := p.ix, dst := r, node := node, data := data }
      if c.reduce && !c.endpt then
        (launchInput s p.net c 0 p.ix (k 0 none)).modNet p.net fun n => { n with sent := n.sent + 1 }
      else
        (launchReaders s p.net c fun r => k r none).modNet p.net fun n => { n with sent := n.sent + c.readers.length }
  | _, _ => s

/-! ## The fabric gates (R15, R153, R378) -/

/-- R378: an entry admits packets from a writer of tenant `a`, region `ra`, world `wa` to a reader of tenant `b`, region `rb`,
world `wb`; GRANT holds in both directions. -/
def windowAdmits (e policy : Word) (a ra : Nat) (wa : Bool) (b rb : Nat) (wb : Bool) : Bool :=
  let names (a ra b rb : Nat) : Bool :=
    (e.extractLsb' 3 5).toNat == a && (e.extractLsb' 8 5).toNat == b && e.getLsbD (13 + ra) && e.getLsbD (29 + rb)
  e.getLsbD 0 &&
    match (e.extractLsb' 1 2).toNat with
    | 1 => policy.getLsbD 1 && (names a ra b rb || names b rb a ra)
    | 2 => names a ra b rb && wa && !wb
    | _ => false

/-- The world of an endpoint in this package: that of its region. -/
def State.epWorld (s : State) (e : Ep) : Bool := (s.region (regionOf e.tile)).world

/-- The tenant of an endpoint: the network's in the network's own regions, else that of the region's resident context. -/
def State.epTenant (s : State) (tenant : Nat) (regions : BitVec 16) (e : Ep) : Nat :=
  if regions.getLsbD (regionOf e.tile) then tenant else (s.region (regionOf e.tile)).tenant

/-- R378: packets between a writer and a reader need an entry of the window table: both lie in this package, in different regions
that are not of one tenant and one world. -/
def State.needsEntry (s : State) (tenant : Nat) (regions : BitVec 16) (w r : Ep) : Bool :=
  !w.remote && !r.remote && regionOf w.tile != regionOf r.tile &&
    !(s.epTenant tenant regions w == s.epTenant tenant regions r && s.epWorld w == s.epWorld r)

/-- R378: an entry of the window table admits the packets of a pair of endpoints. -/
def State.entryAdmits (s : State) (tenant : Nat) (regions : BitVec 16) (e : Word) (w r : Ep) : Bool :=
  windowAdmits e s.die.hvpolicy (s.epTenant tenant regions w) (regionOf w.tile) (s.epWorld w)
    (s.epTenant tenant regions r) (regionOf r.tile) (s.epWorld r)

/-- R378: the gates admit the packets of a pair of endpoints. -/
def State.pairAdmitted (s : State) (tenant : Nat) (regions : BitVec 16) (w r : Ep) : Bool :=
  !s.needsEntry tenant regions w r || s.die.wintab.any fun (_, e) => s.entryAdmits tenant regions e w r

/-- R153, R378: the gates admit a packet of a channel on its way. A contribution passes where it may reach every reader. -/
def State.gateAdmits (s : State) (n : Net) (c : Chan) (k : Pkt) : Bool :=
  let pair (w r : Nat) : Bool :=
    match c.writers[w]?, c.readers[r]? with
    | some a, some b => s.pairAdmitted n.tenant n.regions a b
    | _, _ => true
  match k.kind with
  | .slot => if k.node.isSome then (List.range c.readers.length).all (pair k.src) else pair k.src k.dst
  | .endMark => pair k.src k.dst
  | .credit => pair k.dst k.src
  | .sever | .reserved => true

/-! ## Arrival -/

/-- R285: skein traffic of one slot is metered where the skein's page lies. -/
def chargeSkein (s : State) (net : Nat) (c : Chan) : State :=
  match s.nets[net]? with
  | some n => chargeVa s n.tenant (n.skeinVa.toNat + c.skoff) c.size
  | none => s

/-- A slot written into the buffer of reader `r`, as the next of stream `st` (a leg, or a mirrored half). -/
def placeSlot (s : State) (c : Chan) (e : Ep) (st : Nat) (data : List Byte) : State :=
  let p := s.epPort e
  let a := p.arr.getD st 0
  let pos := if c.mirror then st * c.cap0 + a % c.cap0 else (a * c.legs + st) % (c.cap0 * c.legs)
  let x := s.slot e.slotNo
  let s := s.modTile e.tile fun t => { t with sram := t.sram.putBytes (x.id.base * 4096 + c.buf + pos * c.size) data }
  s.modEp e fun p => { p with arr := (List.range c.streams).map fun k => if k = st then a + 1 else p.arr.getD k 0 }

/-- The first element that satisfies a test, and the list without it. -/
def pick {α : Type} (f : α → Bool) : List α → Option (α × List α)
  | [] => none
  | x :: l => if f x then some (x, l) else (pick f l).map fun (y, r) => (y, x :: r)

/-- Places of a stream taken in the buffer: slots arrived less slots whose reads have committed. -/
def Port.held (p : Port) (c : Chan) (st : Nat) : Nat := p.arr.getD st 0 - (p.kc + (c.legs - 1 - st)) / c.legs

/-- R376: a region event goes to the owning function's ring; a full ring loses it and sets EVLOST (R388); MSI-X vector 1 is
raised either way. -/
def regionEvent (s : State) (tenant : Nat) (ev : BitVec 128) : State :=
  s.modFunc tenant fun f =>
    let f := f.raise 1
    if (f.evtail + 1) % 64 = f.evhead then { f with evlost := true }
    else { f with staging := f.staging.putBytes (f.evbase.toNat + 16 * f.evtail) (natLe ev.toNat 16)
                  evtail := (f.evtail + 1) % 64 }

/-- R376: the record of a region event. -/
def eventRec (region kind tenant cause chid k : Nat) : BitVec 128 :=
  BitVec.ofNat 128 (region % 16 + 16 * (kind % 16) + 2 ^ 8 * (tenant % 32) + 2 ^ 13 * (cause % 256)
    + 2 ^ 21 * (chid % 2 ^ 16) + 2 ^ 37 * (k % 2 ^ 24))

/-- R152: a mirrored reader compares what has come from both writers: a pair of slots, or where each stream ends. -/
def mirrorJudge (s : State) (net : Nat) (c : Chan) (e : Ep) : State :=
  let p := s.epPort e
  if p.diff.isSome then s else
  let a0 := p.come c 0
  let a1 := p.come c 1
  let x := s.slot e.slotNo
  let half (h k : Nat) : List Byte :=
    if k < p.arr.getD h 0 then
      (s.tile e.tile).sram.bytes (x.id.base * 4096 + c.buf + (h * c.cap0 + k % c.cap0) * c.size) c.size
    else match (c.inSkein p.ix h)[k - p.arr.getD h 0]? with
      | some y => y.data
      | none => []
  let k := min a0 a1 - 1
  let bad := 0 < min a0 a1 && p.kc ≤ k && half 0 k != half 1 k
  let e0 := Sparse.get none c.ends 0
  let e1 := Sparse.get none c.ends 1
  let short (en : Option Nat) (a : Nat) : Option Nat := match en with | some q => if q < a then some q else none | none => none
  let d := if bad then some k else match short e0 a1, short e1 a0 with
    | some q, _ => some q
    | none, some q => some q
    | none, none => none
  match d with
  | some d =>
    let s := s.modEp e fun p => { p with diff := some d }
    c.writers.foldl (fun s w =>
      regionEvent s (x.id.tenant) (eventRec (regionOf w.tile) 4 x.id.tenant 22 c.chid d)) s
  | none =>
    match e0, e1 with
    | some q, some r => if q = r then s.modEp e fun p => { p with fin := some q } else s
    | _, _ => let _ := net; s

/-- R27, R146: a packet for a read port of a slot is dropped as stale. -/
def dropStale (s : State) (e : Ep) : State :=
  s.modSlot e.slotNo fun x => { x with vec := { x.vec with staledrop := min 0xFFFFFFFF (x.vec.staledrop + 1) } }

/-- R27, R154: a packet that is dropped at the read ports of this package. -/
def dropAtReaders (s : State) (c : Chan) : State := c.readers.foldl (fun s e => if e.remote then s else dropStale s e) s

/-- R320: the smallest count of contributions of a contributor that has closed. -/
def Chan.cut (c : Chan) : Option Nat :=
  (List.range c.writers.length).foldl (fun (m : Option Nat) w =>
    match Sparse.get none c.ends w, m with
    | some q, some m => some (min q m)
    | some q, none => some q
    | none, m => m) none

/-- A slot arrives for reader `r` (R150 step 2): into the buffer, or into the skein when the buffer is full or the skein
holds older slots (R165, metered under R285). A stale packet is dropped and counted (R27); on a severed endpoint it is
discarded; so is a leg past the smallest closed count, with its credit returned (R320). A slot of a broadcast channel for a reader that has
retired and whose buffer is full goes to the channel's skein list, also of a channel that has not grown (DESIGN CHOICE, log 64: R151 does
not say where it goes). -/
def deliverSlot (s : State) (net : Nat) (c : Chan) (k : Pkt) (r : Nat) : State :=
  match c.readers[r]? with
  | none => s
  | some e =>
    if !s.epLive net c e k.gen then dropStale s e
    else if (s.epPort e).sev then s
    else
      let st := if c.streams = 1 then 0 else k.src
      if c.reduce && c.endpt && atOrBelow c.cut k.seq then
        (s.modEp e fun p => p.owe k.src 1).modNet net fun n => { n with cret := n.cret + 1, discarded := n.discarded + 1 }
      else
        let p := s.epPort e
        let full := c.cap0 ≤ p.held c st
        if full || c.skein.any fun x => x.rd == r && x.half == st then
          let s := chargeSkein s net c
          let s := s.modChan net c.chid fun c => { c with skein := c.skein ++ [⟨r, st, k.data⟩] }
          if c.mirror then mirrorJudge s net { c with skein := c.skein ++ [⟨r, st, k.data⟩] } e else s
        else
          let s := placeSlot s c e st k.data
          if c.mirror then mirrorJudge s net c e else s

/-- A slot of a channel whose slots are counted one by one has arrived (R162, log 50). -/
def arrive (s : State) (net : Nat) (c : Chan) (k : Pkt) (r : Nat) : State :=
  (deliverSlot s net c k r).modNet net fun n => { n with arrived := n.arrived + 1 }

/-- An end mark arrives for reader `r`. -/
def arriveEnd (s : State) (net : Nat) (c : Chan) (k : Pkt) (r : Nat) : State :=
  match c.readers[r]? with
  | none => s
  | some e =>
    if !s.epLive net c e k.gen then dropStale s e
    else if (s.epPort e).sev then s
    else if c.mirror then
      let c1 := { c with ends := Sparse.set none c.ends k.src (some k.seq) }
      mirrorJudge (s.modChan net c.chid fun c => { c with ends := Sparse.set none c.ends k.src (some k.seq) }) net c1 e
    else s.modEp e fun p => { p with fin := some k.seq }

/-- R150 step 4, R151: credits arrive at a writer from one reader. -/
def arriveCredit (s : State) (net : Nat) (c : Chan) (k : Pkt) : State :=
  match c.writers[k.dst]? with
  | none => s
  | some e =>
    let s := s.modNet net fun n => { n with carr := n.carr + k.count }
    if s.epLive net c e k.gen then
      s.modEp e fun p => { p with free := (List.range p.free.length).map fun r =>
        if r = k.src then p.free.getD r 0 + k.count else p.free.getD r 0 }
    else s

/-- R159: a sever notice reaches an endpoint, readers first in number, then writers; a stale one is dropped, at a read port
counted (R27, R149). -/
def arriveSever (s : State) (net : Nat) (c : Chan) (k : Pkt) : State :=
  match (c.readers ++ c.writers)[k.dst]? with
  | none => s
  | some e =>
    if s.epLive net c e k.gen then s.modEp e fun p => { p with sev := true }
    else if k.dst < c.readers.length then dropStale s e else s

/-- R154: the credits a reader owes, at most 255 to a packet, put on their way. -/
def sendCredits (s : State) (net : Nat) (c : Chan) (r : Nat) : State :=
  match c.readers[r]? with
  | none => s
  | some e =>
    (s.epPort e).owed.foldl (fun s (w, n) =>
      let m := min 255 n
      let k : Pkt := { kind := .credit, gen := (s.epPort e).gen, seq := 0, count := m, src := r, dst := w, node := none, data := [] }
      let s := s.modEp e fun p => { p with owed := Sparse.set 0 p.owed w (n - m) }
      launch s net c k (c.writerAway w)) s

/-! ## The tree of a reduce channel (R309-R313, R316, R319, R320) -/

/-- R312, R316: the router that holds a node: the first of its contributors' tiles, or, for a node over contributors of two
packages, a gateway router (DESIGN CHOICE, log 12: the assignment is firmware's). -/
def Chan.nodeTile (c : Chan) (lvl j : Nat) : Nat :=
  let ws := c.below lvl j
  match ws.head?.bind fun w => c.writers[w]? with
  | some e => if ws.any c.writerAway then [495, 496, 527, 528].getD ((lvl + j) % 4) 495 else e.tile
  | none => 495

/-- R316: a node lies over contributors of both packages. -/
def Chan.spansAt (c : Chan) (lvl j : Nat) : Bool := (c.below lvl j).any c.writerAway && (c.below lvl j).any fun w => !c.writerAway w

/-- R314: the contributions that an input from child `j` of level `lvl` counts for in this package: at a node that both packages evaluate
they are counted where the first reader lies (log 12). -/
def Chan.inputCount (c : Chan) (lvl j : Nat) : Nat :=
  if c.spansAt (lvl + 1) (j / 2) && c.firstAway == some 0 then 0 else (c.below lvl j).length

/-- R314: the contributions that a result counts for in this package: they are counted where the first reader lies (log 12). -/
def Chan.rootCount (c : Chan) : Nat := if c.firstAway == some 0 then 0 else c.writers.length

/-- R314: the root of result `k` arrives: its contributions have arrived with the first reader's copy. Across packages they are
counted where the first reader lies (log 12). -/
def arriveRoot (s : State) (net : Nat) (c : Chan) (k : Pkt) (r : Nat) : State :=
  let s := deliverSlot s net c k r
  if c.roots ≤ k.seq then
    (s.modChan net c.chid fun c => { c with roots := k.seq + 1 }).modNet net fun w => { w with arrived := w.arrived + c.rootCount }
  else s

/-- R312: the nodes of the tree that this package evaluates. -/
def Chan.tree (c : Chan) : List (Nat × Nat) :=
  let n := c.writers.length
  if !(c.reduce && !c.endpt) then [] else
  (List.range (treeLevels n)).flatMap fun l =>
    ((List.range ((n + 2 ^ (l + 1) - 1) / 2 ^ (l + 1))).map fun j => (l + 1, j)).filter fun (l, j) =>
      let ws := c.below l j
      ws.all (fun w => !c.writerAway w) || (ws.any (fun w => !c.writerAway w) && c.readers.any fun e => !e.remote)

/-- R320: the input's node lies above a contributor that has closed after at most `k` contributions. -/
def Chan.cutOff (c : Chan) (lvl j k : Nat) : Bool :=
  (List.range c.writers.length).any fun w =>
    w / 2 ^ lvl == j && atOrBelow (Sparse.get none c.ends w) k

/-- A result of a node goes on: to its parent, or, from the root, to every reader. The root of a package's subtree crosses to the
readers' package (R316); where both packages have readers, each evaluates the levels above for its own. -/
def nodeForward (s : State) (net : Nat) (c : Chan) (g : BitVec 8) (lvl j k : Nat) (data : List Byte) : State :=
  let mk (r : Nat) (node : Option (Nat × Nat)) : Pkt :=
    { kind := .slot, gen := g, seq := k, count := 0, src := j * 2 ^ lvl, dst := r, node := node, data := data }
  let both := c.writers.any (·.remote) && c.writers.any fun e => !e.remote
  if treeLevels c.writers.length ≤ lvl then
    let s := launchHere s net c fun r => mk r none
    match c.firstAway with
    | some r => if both then s else launchOut s net c (mk r (some (lvl, j)))
    | none => s
  else launchInput s net c lvl j (mk 0 none)

/-- R320: the readers that credit an input from child `j` of level `lvl` when it is discarded here: every reader, or at a node over
contributors of two packages, which each package with readers evaluates, those of this package (log 12). -/
def Chan.creditors (c : Chan) (lvl j : Nat) : List Nat :=
  (List.range c.readers.length).filter fun r => !c.spansAt (lvl + 1) (j / 2) || !(c.readers[r]?).any (·.remote)

/-- R320: the contributions in an input from child `j` of level `lvl` are discarded, and a credit of every reader goes back to each
contributor. `new` says that they have not been counted as arrived yet. -/
def discardInput (s : State) (net : Nat) (c : Chan) (g : BitVec 8) (lvl j : Nat) (new : Bool) : State :=
  let ws := c.below lvl j
  let rs := c.creditors lvl j
  let n := c.inputCount lvl j
  let s := s.modChan net c.chid fun c => { c with dropped := c.dropped + ws.length }
  let s := s.modNet net fun w => { w with discarded := w.discarded + n, arrived := w.arrived + (if new then n else 0)
                                          cret := w.cret + ws.length * rs.length }
  ws.foldl (fun s w => rs.foldl (fun s r => launch s net c
    { kind := .credit, gen := g, seq := 0, count := 1, src := r, dst := w, node := none, data := [] } (c.writerAway w)) s) s

/-- R312, R314, R320: an input reaches node j of level lvl + 1 as child `j` of level `lvl`. -/
def nodeInput (s : State) (net : Nat) (c : Chan) (g : BitVec 8) (lvl j k : Nat) (data : List Byte) : State :=
  if c.cutOff (lvl + 1) (j / 2) k then discardInput s net c g lvl j true
  else if nodeSingle c.writers.length lvl j then nodeForward s net c g (lvl + 1) (j / 2) k data
  else
    match c.nodes.find? fun x => x.lvl == lvl && x.k == k && x.num / 2 == j / 2 && x.num != j with
    | none =>
      (s.modChan net c.chid fun c => { c with nodes := c.nodes ++ [⟨lvl, j, k, data⟩] }).modNet net fun w =>
        { w with arrived := w.arrived + c.inputCount lvl j }
    | some o =>
      let s := s.modChan net c.chid fun c => { c with nodes := c.nodes.filter fun x => !(x == o) }
      -- both inputs are present: the contributions that had waited travel again (R314)
      let s := s.modNet net fun w => { w with arrived := w.arrived - c.inputCount lvl o.num }
      let v := if o.num < j then reduceNode c.rop o.data data else reduceNode c.rop data o.data
      nodeForward s net c g (lvl + 1) (j / 2) k v

/-- R313: inputs that wait at a router, of every channel. -/
def routerHolds (s : State) (tile : Nat) : Nat :=
  (s.nets.map fun n => (n.chans.map fun c => c.nodes.countP fun x => c.nodeTile (x.lvl + 1) (x.num / 2) == tile).sum).sum

/-- R313: an input can reach its node: its sibling waits there, or it is not held there, or the router's store has room. -/
def nodeRoom (s : State) (c : Chan) (lvl j k : Nat) : Bool :=
  c.cutOff (lvl + 1) (j / 2) k || nodeSingle c.writers.length lvl j ||
    (c.nodes.any fun x => x.lvl == lvl && x.k == k && x.num / 2 == j / 2 && x.num != j) ||
    routerHolds s (c.nodeTile (lvl + 1) (j / 2)) < Config.routerStore

/-- R320, R330: contributions at or past the smallest closed count that wait at a node over a closed contributor are discarded. -/
def cutNodes (s : State) (net : Nat) (c : Chan) : State :=
  let gone (x : NodeIn) : Bool := c.cutOff (x.lvl + 1) (x.num / 2) x.k
  let s := s.modChan net c.chid fun c => { c with nodes := c.nodes.filter fun x => !gone x }
  (c.nodes.filter gone).foldl (fun s x => discardInput s net c c.gen x.lvl x.num false) s

/-- R154: `n` credits of reader `r` for writer `w` put on their way, at most 255 to a packet. -/
def launchCredits (s : State) (net : Nat) (c : Chan) (r w n : Nat) : State :=
  (List.range ((n + 254) / 255)).foldl (fun s j =>
    launch s net c { kind := .credit, gen := c.gen, seq := 0, count := min 255 (n - 255 * j), src := r, dst := w, node := none, data := [] }
      (c.writerAway w)) s

/-- R165: the `n` youngest skein slots of stream `st` of reader `r` removed. -/
def Chan.cutSkein (c : Chan) (r st n : Nat) : Chan :=
  { c with skein := (c.skein.reverse.foldl (fun (t : List SkSlot × Nat) x =>
      if x.rd == r && x.half == st && 0 < t.2 then (t.1, t.2 - 1) else (x :: t.1, t.2)) ([], n)).1 }

/-- Log 27: of what the channel keeps for a saved reader, stream `st` loses its `n` youngest slots. -/
def cutKept (st n : Nat) (l : List Nat) : List Nat :=
  (List.range l.length).map fun j => if j = 5 then l.getD 5 0 + n else if j = 6 + st then l.getD j 0 - n else l.getD j 0

/-- R320: the `n` youngest slots in the buffer of reader `r` and the `m` youngest of the skein leave stream `st`, and their credits go
back: at once those of a reader that is saved, for its channel unit holds none of them. -/
def dropLegs (s : State) (net : Nat) (c : Chan) (r : Nat) (e : Ep) (saved : Bool) (st n m : Nat) : State :=
  let s := s.modChan net c.chid fun c => c.cutSkein r st m
  if saved then
    launchCredits (s.modChan net c.chid fun c =>
      { c with kept := Sparse.set [] c.kept (2 * r) (cutKept st n (Sparse.get [] c.kept (2 * r))) }) net c r st (n + m)
  else s.modEp e fun p =>
    { (p.owe st (n + m)) with arr := (List.range c.streams).map fun j => if j = st then p.arr.getD st 0 - n else p.arr.getD j 0 }

/-- R319, R320: legs of reader `r` at or past the smallest closed count `k` that have arrived are discarded, their credits
returned. -/
def cutReader (s : State) (net : Nat) (c : Chan) (k r : Nat) : State :=
  match c.readers[r]? with
  | none => s
  | some e =>
    let saved := (s.nets[net]?).any fun n => n.savedAt e
    if e.remote || (!saved && !s.epLive net c e c.gen) then s else
    (List.range c.streams).foldl (fun s st =>
      let a := if saved then ((Sparse.get [] c.kept (2 * r)).drop 6).getD st 0 else (s.epPort e).arr.getD st 0
      let sk := ((s.chan? net c.chid).map fun c => (c.inSkein r st).length).getD 0
      let past := a + sk - k
      (dropLegs s net c r e saved st (past - min sk past) (min sk past)).modNet net fun n =>
        { n with cret := n.cret + past, discarded := n.discarded + past }) s

/-- R320: what the smallest closed count cuts off is discarded: legs that have arrived, or contributions that wait at a node. -/
def cutEnds (s : State) (net : Nat) (c : Chan) : State :=
  if c.endpt then
    match c.cut with
    | some m => (List.range c.readers.length).foldl (fun s r => cutReader s net c m r) s
    | none => s
  else cutNodes s net c

/-- R319, R320: contributor `w` of a reduce channel ends after `k` contributions: what it cuts off is discarded, and once every
contributor has ended the end mark goes to the readers of this package. -/
def endContributor (s : State) (net : Nat) (c : Chan) (w k : Nat) : State :=
  let ends := Sparse.set none c.ends w (some k)
  let c := { c with ends := ends }
  let s := cutEnds (s.modChan net c.chid fun c => { c with ends := ends }) net c
  if (List.range c.writers.length).all fun w => (Sparse.get none ends w).isSome then
    launchHere s net c fun r =>
      { kind := .endMark, gen := c.gen, seq := (c.cut.getD 0) * c.legs, count := 0, src := w, dst := r, node := none, data := [] }
  else s

/-- R26, R36, R319: a committed close of a write port: the end mark goes to every reader after every slot already sent; on a
reduce channel once every contributor has closed, and the readers' package is told of each. -/
def closePort (s : State) (i port : Nat) : State :=
  let p := (s.slot i).port port
  if p.closed then s else
  let s := s.modSlot i fun x => x.modPort port fun p => { p with closed := true }
  match s.chan? p.net p.ch with
  | none => s
  | some c =>
    let k (r : Nat) : Pkt :=
      { kind := .endMark, gen := p.gen, seq := p.seq, count := 0, src := p.ix, dst := r, node := none, data := [] }
    if c.reduce then
      let s := endContributor s p.net c p.ix p.seq
      if c.firstAway.isSome then launchOut s p.net c (k 0) else s
    else launchReaders s p.net c k

/-! ## Severing (R159, R321) -/

/-- R162, R314: the slots that the packets on a channel's route count for: the contributions of an input, those of a result whose root
has reached no reader, a slot of any other channel. -/
def Chan.carried (c : Chan) : Nat :=
  let slots := c.transit.filter fun k => k.kind == .slot
  if c.reduce && !c.endpt then
    (slots.map fun k => match k.node with | some (l, j) => c.inputCount l j | none => 0).sum +
      ((slots.filter fun k => k.node.isNone && c.roots ≤ k.seq).map (·.seq)).eraseDups.length * c.rootCount
  else slots.length

/-- R162: the credits that the packets on a channel's route carry. -/
def Chan.creditsCarried (c : Chan) : Nat := ((c.transit.filter fun k => k.kind == .credit).map (·.count)).sum

/-- R162: what leaves the route of a channel undelivered counts as arrived, slots and credits (log 50). -/
def countLost (s : State) (net : Nat) (c : Chan) : State :=
  s.modNet net fun w => { w with arrived := w.arrived + c.carried, carr := w.carr + c.creditsCarried }

/-- A channel severed in this package: what is on its route and at its nodes is discarded and counts as arrived (log 50), notices go
to every endpoint here. -/
def severHere (s : State) (net ch : Nat) : State :=
  match s.chan? net ch with
  | none => s
  | some c =>
    if c.sev then s else
    let eps := c.readers ++ c.writers
    let notice (d : Nat) : Pkt :=
      { kind := .sever, gen := c.gen, seq := 0, count := 0, src := 0, dst := d, node := none, data := [] }
    let here := (List.range eps.length).filter fun d => !(eps[d]?).any (·.remote)
    countLost (s.modChan net ch fun c => { c with sev := true, nodes := [], transit := here.map notice }) net c

/-- R156, R159: a channel severed: in this package, and by a notice in the other one. -/
def severChan (s : State) (net ch : Nat) : State :=
  match s.chan? net ch with
  | none => s
  | some c =>
    if c.sev then s else
    let s := severHere s net ch
    if (c.readers ++ c.writers).any (·.remote) then
      launchOut s net c { kind := .sever, gen := c.gen, seq := 0, count := 0, src := 0, dst := 0, node := none, data := [] }
    else s

/-- R18: the router by which the traffic of a tile with another package leaves and enters: that of the tile's die at which the control
die attaches (DESIGN CHOICE, log 12). -/
def gatewayOf (t : Nat) : Nat := [495, 496, 527, 528].getD (dieOf t) 495

/-- R316: the result of a node, or for level 0 the contribution, comes about in this package. -/
def Chan.madeHere (c : Chan) (lvl j : Nat) : Bool := if lvl = 0 then !c.writerAway j else c.tree.contains (lvl, j)

/-- R312, R316: the legs by which what comes about at a place of the tree goes to the place above it. -/
def Chan.upLegs (c : Chan) (lvl j : Nat) : List (Nat × Nat) :=
  let a := c.nodeTile lvl j
  let b := c.nodeTile (lvl + 1) (j / 2)
  let out := c.firstAway.isSome && (c.below (lvl + 1) (j / 2)).any c.writerAway && !(c.below lvl j).any c.writerAway
  match c.madeHere lvl j, c.madeHere (lvl + 1) (j / 2) with
  | true, true => if out then [(a, b), (a, gatewayOf a)] else [(a, b)]
  | true, false => [(a, gatewayOf a)]
  | false, true => [(gatewayOf b, b)]
  | false, false => []

/-- The legs from a source, of this package or of the other, to the readers: to each of this package, and by one leg to the other. -/
def Chan.readerLegs (c : Chan) (here : Bool) (a : Nat) : List (Nat × Nat) :=
  (c.readers.filter fun r => !r.remote).map (fun r => (if here then a else gatewayOf r.tile, r.tile)) ++
    (if here && c.firstAway.isSome then [(a, gatewayOf a)] else [])

/-- R16, R18, R312, R316: the legs of a channel's route in this package, from router to router: those of its slots (log 12). -/
def Chan.hops (c : Chan) : List (Nat × Nat) :=
  let n := c.writers.length
  if c.reduce && !c.endpt then
    let top := treeLevels n
    (List.range top).flatMap (fun l => (List.range ((n + 2 ^ l - 1) / 2 ^ l)).flatMap fun j => c.upLegs l j) ++
      c.readerLegs (c.madeHere top 0) (c.nodeTile top 0)
  else c.writers.flatMap fun w => c.readerLegs (!w.remote) w.tile

/-- R18: the dimension-ordered route from one router to another, x first, then y, enters a region. -/
def pathEnters (region a b : Nat) : Bool :=
  let bad (t : Nat) : Bool := regionOf t == region
  let (ax, ay) := (a % 32, a / 32)
  let (bx, by_) := (b % 32, b / 32)
  (List.range 32).any fun k =>
    ((min ax bx ≤ k && k ≤ max ax bx) && bad (ay * 32 + k)) ||
    ((min ay by_ ≤ k && k ≤ max ay by_) && bad (k * 32 + bx))

/-- R159, R321: the channel has an endpoint or a tree node in a region, or its dimension-ordered route crosses the region's gate. -/
def Chan.touches (c : Chan) (region : Nat) : Bool :=
  ((c.readers ++ c.writers).any fun e => !e.remote && regionOf e.tile == region) ||
    (c.tree.any fun (l, j) => regionOf (c.nodeTile l j) == region) ||
    c.hops.any fun (a, b) => pathEnters region a b

/-- R159, R376: every channel that a region's loss severs, with a SEVERED event for each, whose REGION is the lost one. -/
def severRegion (s : State) (r : Nat) : State :=
  (List.range s.nets.length).foldl (fun s k =>
    match s.nets[k]? with
    | none => s
    | some n =>
      if n.st == .running || n.st == .loading || n.st == .bindoff then
        n.chans.foldl (fun s c =>
          if c.touches r && !c.sev then
            regionEvent (severChan s k c.chid) n.tenant (eventRec r 5 n.tenant 10 c.chid 0)
          else s) s
      else s) s

/-! ## UALink (R156, R157) -/

/-- The key of a channel's contributor in a port's tables (log 12). -/
def ualKey (net chid src : Nat) : Nat := (65536 * net + chid) * 4096 + src

/-- The position whose value mod 2^24 is `seq`, among those from `base` up. -/
def seqFull (base seq : Nat) : Nat := base + (seq + (2 ^ 24 - base % 2 ^ 24)) % 2 ^ 24

/-- Slots of a contributor that a port has delivered; of an in-network channel, results of the other package's subtree. -/
def State.ualCount (s : State) (port net : Nat) (c : Chan) (src : Nat) : Nat :=
  let n (w : Nat) : Nat := Sparse.get 0 (s.ualPort port).next (ualKey net c.chid w)
  if c.reduce && !c.endpt then (List.range c.writers.length).foldl (fun m w => max m (n w)) 0 else n src

/-- R27, R154, R156: a whole message put on its way to the endpoints of this package: a slot to the readers or to its node, an end mark,
a credit to its writer, a sever notice. One of another generation or of a reserved KIND is dropped, and counted at the read ports it is
for. -/
def ualDeliver (s : State) (m : UalMsg) (pos : Nat) (data : List Byte) : State :=
  match s.chan? m.net m.chid with
  | none => s
  | some c =>
    let k (dst : Nat) : Pkt :=
      { kind := m.kind, gen := m.gen, seq := pos, count := m.count, src := m.src, dst := dst, node := none, data := data }
    if m.gen != c.gen then
      if m.kind == .credit then s else dropAtReaders s c
    else match m.kind with
      | .slot =>
        let node := if c.reduce && !c.endpt && m.count < treeLevels c.writers.length then some (m.count, m.src / 2 ^ m.count) else none
        if c.sev then countLost s m.net { c with transit := [{ k 0 with node := node }] }
        else if node.isSome then launch s m.net c { k 0 with node := node } false
        else launchHere s m.net c k
      | .endMark => if c.reduce then endContributor s m.net c m.src pos else launchHere s m.net c k
      | .credit => launch s m.net c (k m.dst) false
      | .sever => severHere s m.net m.chid
      | .reserved => dropAtReaders s c

/-- Every slot that has become the expected one is delivered, at most `n` of them. -/
def ualDrain (s : State) (port : Nat) (key : Nat) : Nat → State
  | 0 => s
  | n + 1 =>
    let u := s.ualPort port
    let want := Sparse.get 0 u.next key
    let mine := u.reseq.filter (isNext want)
    match mine with
    | [] => s
    | m :: _ =>
      let two := match s.chan? m.net m.chid with | some c => c.size == 272 | none => false
      let p0 := mine.find? fun m => m.part == 0
      let p1 := mine.find? fun m => m.part == 1
      match p0, p1, two with
      | some a, none, false => ualDrain (ualDeliver (take1 s want) a want a.data) port key n
      | some a, some b, _ => ualDrain (ualDeliver (take1 s want) a want (a.data ++ b.data)) port key n
      | _, _, _ => s
where
  /-- The message is of the key and the expected SEQ. -/
  isNext (want : Nat) (m : UalMsg) : Bool := ualKey m.net m.chid m.src == key && m.seq.toNat == want % 2 ^ 24
  /-- The expected SEQ moves on and its entries leave the queue. -/
  take1 (s : State) (want : Nat) : State :=
    s.modUal port fun u => { u with reseq := u.reseq.filter fun m => !isNext want m, next := Sparse.set 0 u.next key (want + 1) }

/-- R149, R157, R382: a write request arrives at a port. Slots of one contributor are put in order; one that was delivered before is
discarded; one of another generation does not enter the queue. The depth of the queue counts write requests: each half of a slot of 272
bytes takes an entry, and so does the first half to come of the expected slot (DESIGN CHOICE, log 64). -/
def ualReceive (s : State) (port : Nat) (m : UalMsg) : State :=
  let m := s.linkMsg true m
  let ack (s : State) : State := s.modUal port fun u => { u with acks := u.acks ++ [(m.net, m.chid, m.seq.toNat)] }
  match s.chan? m.net m.chid with
  | none => ack s
  | some c =>
    if m.kind != .slot || m.gen != c.gen then
      ack (ualDeliver s m (if m.kind == .endMark then seqFull (s.ualCount port m.net c m.src) m.seq.toNat else 0) m.data)
    else
      let key := ualKey m.net m.chid m.src
      let u := s.ualPort port
      let want := Sparse.get 0 u.next key
      let ahead := (m.seq.toNat + (2 ^ 24 - want % 2 ^ 24)) % 2 ^ 24
      let dup := u.reseq.any fun x => ualKey x.net x.chid x.src == key && x.seq == m.seq && x.part == m.part
      if ahead = 0 then
        let s := if dup then s else s.modUal port fun u => { u with reseq := u.reseq ++ [m] }
        ualDrain (ack s) port key (Config.reseqDepth + 2)
      else if 2 ^ 23 ≤ ahead || dup then ack s
      else if Config.reseqDepth ≤ u.reseq.length then s
      else ack (s.modUal port fun u => { u with reseq := u.reseq ++ [m] })

end Sys2Proof.Machine
end

