-- ==== Sys2Proof/Machine/Flags.lean ====
section
/-! DEFINITION. The sticky flags: FFLAGS (R77-R79) and ACCOV (R94, R253). -/

namespace Sys2Proof.Machine

/-- R77: flags are set by OR and never cleared. -/
def Slot.orFlags (x : Slot) (f : Flags) : Slot := { x with vec := { x.vec with fflags := x.vec.fflags ||| f } }

/-- R77, on a slot of the machine. -/
def State.orFlags (s : State) (i : Nat) (f : Flags) : State := s.modSlot i fun x => x.orFlags f

/-- The slot owns the matrix unit of its tile (R249). -/
def State.ownsMatrix (s : State) (i : Nat) : Bool := (s.tile (tileOf i)).owner == some (i % 4)

/-- R94: ACCOV of an accumulator set. -/
def Acc.setOv (a : Acc) (b : Bool) : Acc := { a with ov := a.ov || b }

/-- An accumulator of a tile. -/
def Tile.acc (t : Tile) (n : Nat) : Acc := if n = 0 then t.acc0 else t.acc1
/-- An accumulator replaced. -/
def Tile.setAcc (t : Tile) (n : Nat) (a : Acc) : Tile := if n = 0 then { t with acc0 := a } else { t with acc1 := a }

/-- R250, R252: the contents of an accumulator of a tile are those of the context that runs there. -/
def Tile.inPlace (t : Tile) (a : Acc) : Bool := a.tag == t.ctag

/-- R253: ACCOV as a slot reads it; zero for a slot that does not own the unit. The bit of an accumulator that holds another context's
contents is the slot's own (R269). -/
def State.accov (s : State) (i : Nat) : BitVec 2 :=
  let t := s.tile (tileOf i)
  let own := (s.slot i).vec.accov
  let bit (n : Nat) (a : Acc) : Bool := if t.inPlace a then a.ov else own.getLsbD n
  if s.ownsMatrix i then BitVec.ofBool (bit 1 t.acc1) ++ BitVec.ofBool (bit 0 t.acc0) else 0

/-- R253: ACCOV of the slot that owns the unit of its tile takes a value. -/
def State.putAccov (s : State) (i : Nat) (v : BitVec 2) : State :=
  let put (t : Tile) (n : Nat) (a : Acc) : Acc := if t.inPlace a then { a with ov := v.getLsbD n } else a
  (s.modTile (tileOf i) fun t => { t with acc0 := put t 0 t.acc0, acc1 := put t 1 t.acc1 }).modSlot i fun x =>
    { x with vec := { x.vec with accov := v } }

end Sys2Proof.Machine
end

