-- ==== Sys2Proof/Machine/Ops.lean ====
section
/-! DEFINITION. The named operations of a slot: the history buffer and the commit point (R105, R186, R187), the unwind
(R189), taking an exception (R119, R189, R358, R359) and returning from one (R360), retirement (R172), the end of a process
and of a network (R36, R37, R38). -/

namespace Sys2Proof.Machine

/-- R357: the code of a cause. -/
def Cause.code : Cause → Nat
  | .illegal => 1 | .badopnd => 2 | .badword => 3 | .priv => 4 | .align => 5 | .window => 6 | .portsize => 7
  | .portunbound => 8 | .endstream => 9 | .severed => 10 | .codemiss => 11 | .accopen => 12 | .accowner => 13
  | .accmode => 14 | .matrixnotowned => 15 | .descriptor => 16 | .memfault => 17 | .shadowfull => 18
  | .phaseconflict => 19 | .deadlock => 20 | .spillfull => 21 | .mirrordiff => 22 | .group => 23 | .eccfatal => 24
  | .trapinsn => 25 | .preempt => 26

/-! ## Code segments (R110-R115, R129) -/

/-- R129: `n` bytes of an image taken from a VA up: what the phase rules gave when the `cfetch` committed, else what the page holds, of
another tenant's page in one publication (R345). -/
def takeImage (s : State) (i : Nat) (l : Word) (view : List (Nat × Byte)) (va n : Nat) : List Byte × State :=
  let foreign := (s.foreign? (s.slot i).id.tenant l).isSome
  let given (a : Nat) : Option Byte := if leafTarget l = 12 || foreign then none else (view.find? fun v => v.1 == a).map (·.2)
  (List.range n).foldl (fun (a : List Byte × State) k =>
    let r := match given (va + k) with
      | some b => (b, a.2)
      | none => pageByte a.2 (if foreign then some ⟨s.pub, s.free⟩ else none) l ((va + k) % 2 ^ 21)
    (a.1 ++ [r.1], r.2)) ([], { s with free := s.free + 1 })

/-- R129, R336, R342: a request at the commit of its `cfetch`: it is sent, with the view that its process has then. -/
def SegReq.committed (r : SegReq) (s : State) (i : Nat) : SegReq :=
  match s.procOf i with
  | some (_, n, p) => { r with sent := true, view := p.viewed n r.va.toNat 4096, found := p.conflicts n r.va.toNat 4096 }
  | none => { r with sent := true }

/-- R342, R343: the conflicts that the view of a `cfetch` finds, noted at its commit, so that the log and its count do not depend on when
the page comes. In strict mode too it is only noted: R111 gives a `cfetch` no such fault, and there is no word that reads (DESIGN CHOICE,
log 65). -/
def noteFound (s : State) (i : Nat) (cs : List Conflict) : State :=
  if cs.isEmpty then s else noteConflicts s (s.slot i).id.net cs

/-- R111, R116, R129, log 18: the requests of a segment whose `cfetch` has not yet committed: they follow the last one sent. -/
def Seg.later (g : Seg) : List SegReq := (g.reqs.reverse.takeWhile fun r => !r.sent).reverse

/-- The requests sent, the last one first. -/
def Seg.sentRev (g : Seg) : List SegReq := g.reqs.reverse.dropWhile fun r => !r.sent

/-- R111, R129: a request queued is one sent at the commit of its `cfetch`; of those the last decides the segment's state. -/
def Seg.queued (g : Seg) : Option SegReq := g.sentRev.head?

/-- R129, R115: the request of the last `cfetch` queued for a segment: its page is translated and its image taken, or its page is requested, or its failure is known. Earlier requests are superseded (R111). -/
def sendFetch (s : State) (i k : Nat) : State :=
  let x := s.slot i
  match (x.seg k).queued with
  | none => s
  | some r =>
    if r.image.isSome || r.fail.isSome then s else
    let va := r.va.toNat
    let upd (s : State) (f : SegReq → SegReq) : State := s.modSlot i fun x => x.modSeg k fun g =>
      { g with reqs := g.sentRev.tail.reverse ++ [f r] ++ g.later }
    match translate s (tileOf i) x.id.tenant x.id.world (vpnOf va) false false with
    | (.page, s) =>
      let s := if r.paged then s else pageRequest s ⟨x.id.tenant, false, true, false, i, 0⟩ (vpnOf va)
      upd s fun r => { r with paged := true }
    | (.bad kind, s) => upd s fun r => { r with fail := some kind.code, paged := false }
    | (.ok l, s) =>
      let bs := takeImage (chargeLeaf s x.id.tenant va 4096 l) i l r.view va 4096
      upd bs.2 fun r => { r with image := some bs.1, paged := false }

/-! ## The history buffer (R186, R187) -/

/-- An effect beyond the commit point logged or held, at the position of the instruction being executed. -/
def Slot.log (x : Slot) (h : Held) : Slot :=
  { x with eng := { x.eng with hist := x.eng.hist ++ [⟨x.gen.icnt, h⟩] } }

/-- R137, R187: what the commit of an entry performs. -/
def commitHeld (s : State) (i : Nat) (h : HistE) : State :=
  match h.act with
  | .read p n => commitRead s i p n
  | .send p d => transmit s i p d
  | .close p => closePort s i p
  | .seg k _ =>
    let t := s.modSlot i fun x => x.modSeg k fun g =>
      { g with reqs := g.reqs.map fun r => if r.pos == h.pos then r.committed s i else r }
    let found := (((t.slot i).seg k).reqs.filter fun r => r.pos == h.pos).flatMap (·.found)
    sendFetch (noteFound t i found) i k
  | .greg _ _ _ | .tmpl _ _ _ | .eos _ _ | .segs _ | .smap _ | .fflags _ | .fcsr _ => s

/-- R189 step 3: what the unwind of an entry restores. -/
def undoHeld (s : State) (i : Nat) (h : HistE) : State :=
  match h.act with
  | .greg sup r old => s.modSlot i fun x =>
      if sup then { x with sb := x.sb.writeG r old } else { x with pb := x.pb.writeG r old }
  | .tmpl sup r old => s.modSlot i fun x =>
      if sup then { x with sb := x.sb.writeT r old } else { x with pb := x.pb.writeT r old }
  | .read p n => s.modSlot i fun x => x.modPort p fun q => { q with k := q.k - n }
  | .eos p old => s.modSlot i fun x =>
      { x with vec := { x.vec with eos := if old then x.vec.eos ||| (1#16 <<< p) else x.vec.eos &&& ~~~(1#16 <<< p) } }
  | .send p _ => s.modSlot i fun x => x.modPort p fun q => q.giveFree 1
  | .close _ => s
  | .seg k old =>
    let s := s.modSlot i fun x => x.modSeg k fun g =>
      { g with reqs := g.reqs.filter fun r => r.pos != h.pos, st := old }
    sendFetch s i k
  | .segs olds => s.modSlot i fun x => olds.foldl (fun x (k, st) => x.modSeg k fun g => { g with st := st }) x
  | .smap old => s.modSlot i fun x => { x with vec := { x.vec with smap := old } }
  | .fflags old => s.modSlot i fun x => { x with vec := { x.vec with fflags := old } }
  | .fcsr old => s.modSlot i fun x => { x with vec := { x.vec with fcsr := old } }

/-- The word is a replay. -/
def isReplay (w : Word) : Bool :=
  match decodeEng w with
  | .ok (.replay _ _) => true
  | _ => false

/-- The position lies before the commit point. -/
def passedCommit (lim : Option Nat) (pos : Nat) : Bool :=
  match lim with
  | none => true
  | some p => pos < p

/-! ## The end of a process and of a network (R33, R36-R38) -/

/-- R38: the first status a network reaches is recorded; its ending fault with it. -/
def setStatus (s : State) (net code : Nat) (e : Option Ending) : State :=
  s.modNet net fun n => if n.status.isSome then n else { n with status := some code, ending := e }

/-- R38: a resident process has trapped: its supervisor handles a fault. -/
def State.trapped (s : State) (p : Proc) : Bool :=
  let x := s.slot (4 * p.tile + p.slot)
  !p.saved && x.atS && x.tr.cause.extractLsb' 0 8 != BitVec.ofNat 8 Cause.preempt.code

/-- R38: a process holds the end of its network back no longer: it has exited or been stopped, or, once the status is SEVERED, it has
trapped. -/
def State.over (s : State) (n : Net) (p : Proc) : Bool := p.exited || p.stopped || (n.status == some 3 && s.trapped p)

/-- R33: a running network whose every process has exited or been stopped binds off: DONE unless a status was reached. -/
def checkEnd (s : State) (net : Nat) : State :=
  match s.nets[net]? with
  | none => s
  | some n =>
    if (n.st == .running) && n.procs.all fun p => p.exited || p.stopped then
      (setStatus s net 0 none).modNet net fun n => { n with st := .bindoff }
    else s

/-- R36: a committed `exit`: the end marks of every port not yet closed, and the process is no longer live. -/
def commitExit (s : State) (i : Nat) : State :=
  let x := s.slot i
  let s := x.ports.foldl (fun s (n, p) => if p.bound && p.isW then closePort s i n else s) s
  let s := s.modSlot i fun x => { x with id := { x.id with exited := true }, gen := { x.gen with heldExit := false, wait := .none } }
  let s := s.modNet x.id.net fun n => n.modProc x.id.pid.toNat fun p => { p with exited := true }
  checkEnd s x.id.net

/-- R189 steps 1 and 3, R192 step 5: the slot goes back to the emit at position `pos`: entries from there on are undone,
youngest first, held stores and a held `exit` dropped, words from there on discarded, ESEQ and the emit-side open mask
restored, every wait abandoned. The words that its replay issued before its `sub`-th stay and complete. -/
def unwindTo (s : State) (i pos sub : Nat) (eseq : BitVec 32) (mask : BitVec 8) : State :=
  let x := s.slot i
  let known := !x.eng.mq.any fun w => w.pos < pos && isReplay w.word
  let s := (x.eng.hist.filter fun h => pos ≤ h.pos).reverse.foldl (fun s h => undoHeld s i h) s
  s.modSlot i fun x =>
    let keep := fun w : QEntry => w.pos < pos
    let x := x.modBank fun b => { b with eseq := eseq }
    { x with
      eng := { x.eng with
        vq := x.eng.vq.filter keep, mq := x.eng.mq.filter keep, xq := x.eng.xq.filter keep
        out := x.eng.out.filter fun w => w.pos < pos || (w.pos == pos && w.sub < sub)
        replay := match x.eng.replay with
          | some r => if x.eng.words.any fun w => pos ≤ w.pos && w.stat == .waiting && isReplay w.word then none else some r
          | none => none
        hist := x.eng.hist.filter fun h => !(pos ≤ h.pos)
        stores := x.eng.stores.filter fun h => !(pos ≤ h.pos)
        omask := if known then mask else x.eng.omask }
      gen := { x.gen with wait := .none, heldExit := false, gfault := none } }

/-- A slot is stopped where it stands: what lay beyond its commit point is undone and its queues emptied (R371). -/
def stopSlot (s : State) (i : Nat) : State :=
  let x := s.slot i
  let s := match x.eng.commitPos with
    | some p => unwindTo s i p 0 x.bank.eseq x.eng.omask
    | none => s
  let s := s.modSlot i fun x =>
    { x with id := { x.id with stopped := true }
             eng := { x.eng with vq := [], mq := [], xq := [], out := [], replay := none, hist := [], stores := [], hold := [] }
             gen := { x.gen with wait := .none, heldExit := false, gfault := none, entering := none, preempt := false, verdict := none
                                 stopping := false } }
  s.modNet x.id.net fun n => n.modProc x.id.pid.toNat fun p => { p with stopped := true }

/-- R38, R362: a slot is to be pre-empted at its commit point and stopped: at once where it stands there, else once it is drained
(R192). A fault on its way is recorded first. -/
def askStop (s : State) (i : Nat) : State :=
  let x := s.slot i
  if x.eng.idle && x.gen.gfault.isNone && x.gen.entering.isNone then stopSlot s i
  else s.modSlot i fun x => { x with gen := { x.gen with stopping := true } }

/-- R192, R428: a slot is to be pre-empted; at level P a waiting level-G fault is abandoned with every wait. -/
def askPreempt (s : State) (i : Nat) : State :=
  s.modSlot i fun x =>
    if x.atP && x.gen.gfault.isSome then { x with gen := { x.gen with preempt := true, gfault := none, wait := .none } }
    else { x with gen := { x.gen with preempt := true } }

/-- The slots that the processes of a network stand in. -/
def netSlots (s : State) (net : Nat) : List Nat :=
  match s.nets[net]? with
  | none => []
  | some n => (n.procs.filter fun p => !p.saved && !p.exited).map fun p => 4 * p.tile + p.slot

/-- R362, R38: a network is ended with a status: every slot of it is pre-empted at its commit point and stopped, its saved processes
with them. -/
def endNet (s : State) (net code : Nat) (e : Option Ending) : State :=
  let s := setStatus s net code e
  let s := (netSlots s net).foldl askStop s
  let s := s.modNet net fun n => { n with procs := n.procs.map fun p => if p.saved && !p.exited then { p with stopped := true } else p }
  checkEnd s net

/-! ## Taking an exception, and returning from one -/

/-- R358: ENTER, once the queues of the slot are empty. On the control tile a trap enters the firmware handler and the level
stays C (R361, log 7). PREEMPT writes no fault register (R192, R280). -/
def enterTrap (s : State) (i : Nat) (f : FaultRec) : State :=
  let off := (s.tile (tileOf i)).svec
  s.modSlot i fun x =>
    let t := x.tr
    let t := { t with cause := BitVec.ofBool f.lvlE ++ BitVec.ofNat 8 f.cause.code
                      pc := f.pc.extractLsb' 2 19 ++ 0#2
                      waitd := if f.cause == .preempt then t.waitd else 0 }
    let t := if f.cause == .preempt then t else
      { t with fepc := f.epc.extractLsb' 0 21, feseq := f.eseq, fword := f.fword, fiter := f.iter
               fva := match f.va with | some v => v | none => t.fva &&& 0x7FFFFFFFFFFFFFFF }
    -- R111: the MEMFAULT of a FAILED segment makes it INVALID
    let x := match f.seg with
      | some k => x.modSeg k fun g => { g with st := .invalid }
      | none => x
    { x with
      tr := t
      id := { x.id with plevel := x.id.level, level := if i = Config.controlSlot then 2 else 1 }
      sb := { x.sb with eseq := 0 }
      gen := { x.gen with pc := off, wait := .none, gfault := none, entering := none } }

/-- R327, R337: the slots that wait at a group which has a member in a region that is lost, not every arrival of the episode
being registered. Exited members count as arrived. -/
def brokenWaits (s : State) (r : Nat) : List (Nat × Nat) :=
  s.nets.flatMap fun n =>
    if !(n.st == .running) then [] else
    n.groups.flatMap fun g =>
      let mem := n.procs.filter fun p => g.members.contains p.pid
      if !mem.any fun p => !p.exited && regionOf p.tile == r then [] else
      mem.filterMap fun p =>
        let i := 4 * p.tile + p.slot
        let open_ (tab : Sparse Nat) (e : Nat) : Bool := mem.any fun q => !q.exited && Sparse.get 0 tab q.pid < e
        if p.saved || p.exited || p.stopped then none else
        match (s.slot i).gen.wait with
        | .barrier gid e => if gid.toNat = g.gid && open_ g.bar e then some (i, g.gid) else none
        | .phase gid e => if gid.toNat = g.gid && open_ g.ph e then some (i, g.gid) else none
        | _ => none

/-- R327: the arrivals, at episodes that are still open, of the members that a lost region holds: they are withdrawn, so that the
episode cannot complete and a member that arrives later meets SEVERED. -/
def withdraw (s : State) (r : Nat) : State :=
  { s with nets := s.nets.map fun n =>
      if !(n.st == .running) then n else
      { n with groups := n.groups.map fun g =>
          let mem := n.procs.filter fun p => g.members.contains p.pid && !p.exited
          let gone := mem.filter fun p => regionOf p.tile == r
          let cut (tab : Sparse Nat) : Sparse Nat := gone.foldl (fun t p =>
            let e := Sparse.get 0 tab p.pid
            if 0 < e && mem.any (fun q => Sparse.get 0 tab q.pid < e) then Sparse.set 0 t p.pid (e - 1) else t) tab
          if gone.isEmpty then g else { g with bar := cut g.bar, ph := cut g.ph } } }

/-- R368: a network is the one that the resident context of a region runs. -/
def Region.runs (g : Region) (net : Nat) : Bool := g.ctxs.any fun c => c.tenant == g.tenant && c.ctag == g.ctag && c.net == some net

/-- R38, R371: a network loses a part of itself with a region: the resident context runs it, or, of an ASSIGNED region, a context to
which a process was rebound (log 36). -/
def Region.loses (g : Region) (net : Nat) : Bool := g.runs net || (g.st == .assigned && g.ctxs.any fun c => c.net == some net)

/-- R38: the processes of a network that a lost region holds saved stop. -/
def stopSaved (s : State) (net r : Nat) : State :=
  s.modNet net fun n => { n with procs := n.procs.map fun p =>
    if p.saved && !p.exited && regionOf p.tile == r then { p with stopped := true } else p }

/-- R359, R393: the ending fault of a double fault: the trap that the slot was handling, with the second cause. -/
def doubleEnding (x : Slot) (cause : Cause) (lvlE : Bool) : Ending :=
  ⟨x.id.pid, BitVec.ofBool lvlE ++ BitVec.ofNat 8 cause.code, x.tr.pc.zeroExtend 64, x.tr.fword⟩

/-- R371, R376: a region is halted: its crossing channels are severed, its processes stop, its network's status is SEVERED
unless one was reached, and the waits that can no longer end raise SEVERED (R327). `kind` is that of the region event. A
waiting slot at level S takes a double fault (R359), which halts its own region in turn, at most `fuel` regions. -/
def haltGo : Nat → State → Nat → Nat → Nat → State
  | 0, s, _, _, _ => s
  | fuel + 1, s, r, cause, kind =>
    let g := s.region r
    let s := s.modRegion r fun g => { g with st := .halted, hcause := BitVec.ofNat 8 cause, switching := none }
    let s := regionEvent s g.tenant (eventRec r kind g.tenant cause 0 0)
    let waits := brokenWaits s r
    let s := severRegion (withdraw s r) r
    let s := (List.range s.nets.length).foldl (fun s k =>
      match s.nets[k]? with
      | none => s
      | some n =>
        if n.st == .running && g.loses k then
          let s := setStatus s k (if kind = 3 then 1 else 3) none
          let mine := (netSlots s k).filter fun i => regionOf (tileOf i) == r
          checkEnd (stopSaved (mine.foldl stopSlot s) k r) k
        else s) s
    waits.foldl (fun s (i, gid) =>
      let x := s.slot i
      if x.id.stopped then s
      else if x.atS then
        let e := some (doubleEnding x .severed false)
        endNet (haltGo fuel (stopSlot (setStatus s x.id.net 1 e) i) (regionOf (tileOf i)) Cause.severed.code 3) x.id.net 1 e
      else enterTrap s i { cause := .severed, lvlE := false, pc := x.gen.pc, epc := x.gen.pc, eseq := x.bank.eseq
                           fword := BitVec.ofNat 64 gid, iter := 0, va := none }) s

/-- R16, R371: a region is halted, with HCAUSE `cause` and a region event of kind `kind`. -/
def haltRegion (s : State) (r : Nat) (cause kind : Nat) : State := haltGo 17 s r cause kind

/-- R109, R116: held stores land in program order. One of fewer than 8 bytes makes the check bits of its whole 64-bit word anew: a
double-bit error there halts the region. -/
def landStores (s : State) (i : Nat) : List Store → State
  | [] => s
  | h :: hs =>
    let bad := h.data.length < 8 && s.eccAt i h.addr h.data.length
    landStores (if bad then haltRegion s (regionOf (tileOf i)) Cause.eccfatal.code 2 else s.putBytesAt i h.addr h.data) i hs

/-- R116, R187: every effect that the commit point has passed is performed, in program order; a held `exit` once no word is
unretired. -/
def commitSlot (s : State) (i : Nat) : State :=
  let x := s.slot i
  let lim := x.eng.commitPos
  let due := x.eng.hist.filter fun h => passedCommit lim h.pos
  let stores := x.eng.stores.filter fun h => passedCommit lim h.pos
  let s := s.modSlot i fun x =>
    { x with eng := { x.eng with hist := x.eng.hist.filter fun h => !passedCommit lim h.pos
                                 stores := x.eng.stores.filter fun h => !passedCommit lim h.pos } }
  let s := due.foldl (fun s h => commitHeld s i h) s
  let s := landStores s i stores
  if x.gen.heldExit && lim.isNone then commitExit s i else s

/-- R359: a fault at level S: the slot stops, its region is halted with the second cause, the network ends ABORTED. -/
def doubleFault (s : State) (i : Nat) (cause : Cause) (lvlE : Bool) : State :=
  let x := s.slot i
  let e := some (doubleEnding x cause lvlE)
  let s := setStatus s x.id.net 1 e
  let s := stopSlot s i
  let s := haltRegion s (regionOf (tileOf i)) cause.code 3
  endNet s x.id.net 1 e

/-- R119, R358, R359: a level-G fault at the commit point: entered, at level S a double fault; ECCFATAL halts the region. -/
def takeG (s : State) (i : Nat) (f : FaultRec) : State :=
  if f.cause == .eccfatal then haltRegion s (regionOf (tileOf i)) f.cause.code 2
  else if (s.slot i).atS then doubleFault s i f.cause false
  else enterTrap s i f

/-- R119: a level-G fault: taken at once at the commit point, else when every older word has retired. -/
def raiseG (s : State) (i : Nat) (cause : Cause) (pc fw : Word) (va : Option Word) (seg : Option Nat) : State :=
  let x := s.slot i
  let f : FaultRec := { cause := cause, lvlE := false, pc := pc, epc := pc, eseq := x.bank.eseq, fword := fw, iter := 0, va := va, seg := seg }
  if x.committed then takeG s i f
  else s.modSlot i fun x => { x with gen := { x.gen with gfault := some f, wait := .fault } }

/-- R189 step 4, R197: a pattern word's fault leaves its position in RPAT and RIDX. -/
def markPattern (s : State) (i : Nat) (w : QEntry) : State :=
  match (s.slot i).eng.replay with
  | some r =>
    if w.sub < 2 then s else
    s.modSlot i fun x => { x with tr := { x.tr with
      rpat := 1#1 ++ 0#32 ++ BitVec.ofNat 2 (queueNum r.q) ++ w.iter.extractLsb' 48 8 ++ BitVec.ofNat 21 r.pat
      ridx := (List.range 6).foldl (fun t k => Sparse.set 0 t k (w.iter.extractLsb' (8 * k) 8)) [] } }
  | none => s

/-- R189: a level-E fault of a word of the slot, with FAULTWORD given: the generator unwinds to its emit, and the supervisor is
entered once the older words have retired. -/
def raiseEW (s : State) (i : Nat) (w : QEntry) (cause : Cause) (fw : Word) (va : Option Word) : State :=
  let x := s.slot i
  if cause == .eccfatal then haltRegion s (regionOf (tileOf i)) cause.code 2
  else if x.atS then doubleFault s i cause true
  else
    let f : FaultRec := { cause := cause, lvlE := true, pc := w.epc, epc := w.epc, eseq := w.eseq, fword := fw, iter := w.iter, va := va }
    let s := unwindTo (markPattern s i w) i w.pos w.sub w.eseq w.mask0
    if (s.slot i).committed then enterTrap (commitSlot s i) i f
    else s.modSlot i fun x => { x with gen := { x.gen with entering := some f } }

/-- R189, R190: a level-E fault: FAULTWORD is the word as it started. -/
def raiseE (s : State) (i : Nat) (w : QEntry) (cause : Cause) (va : Option Word) : State := raiseEW s i w cause w.word va

/-- R364: the wait descriptor of a wait. -/
def Wait.desc : Wait → Word
  | .barrier g e => BitVec.ofNat 64 (1 + 4 * g.toNat + 1024 * (e % 2 ^ 32))
  | .phase g e => BitVec.ofNat 64 (2 + 4 * g.toNat + 1024 * (e % 2 ^ 32))
  | _ => 0

/-- R364: the wait that a descriptor names. -/
def waitOf (d : Word) : Wait :=
  let g := d.extractLsb' 2 8
  let e := (d.extractLsb' 10 32).toNat
  if d.extractLsb' 0 2 = 1#2 then .barrier g e else if d.extractLsb' 0 2 = 2#2 then .phase g e else .none

/-- R360: the return: the level before the trap, at TRAPPC. Back at level P the slot re-enters the wait that a pre-emption had
abandoned (R327). -/
def leaveTrap (s : State) (i : Nat) : State :=
  s.modSlot i fun x =>
    let p := x.id.plevel = 0
    { x with id := { x.id with level := x.id.plevel }
             tr := { x.tr with waitd := if p then 0 else x.tr.waitd }
             gen := { x.gen with pc := x.tr.pc.zeroExtend 64, wait := if p then waitOf x.tr.waitd else .none, icnt := x.gen.icnt + 1 } }

/-- R341: PHASECONFLICT at the end of a `phase`, with FAULTWORD and FAULTVA for the first conflicting byte. -/
def raiseConflict (s : State) (i va : Nat) : State :=
  raiseG s i .phaseconflict (s.slot i).gen.pc (BitVec.ofNat 64 va) (some (faultVa va .conflict)) none

/-- R341, log 51: a process back at level P takes the PHASECONFLICT of a boundary that was merged while it could not take it. -/
def takePending (s : State) (i : Nat) : State :=
  match s.procOf i with
  | some (k, _, p) =>
    match p.pend with
    | some va => raiseConflict (s.modNet k fun n => n.modProc p.pid fun p => { p with pend := none }) i va
    | none => s
  | none => s

/-- R360, R341: the return from a trap, with the PHASECONFLICT that stood over. -/
def returnTrap (s : State) (i : Nat) : State := takePending (leaveTrap s i) i

/-! ## The emit-side open mask (R262) -/

/-- The change one MQ word makes to the open mask. -/
def maskStep (m : BitVec 8) (w : Word) : BitVec 8 :=
  match decodeEng w with
  | .ok (.mstep f) => m ||| (1#8 <<< f.batch.toNat)
  | .ok (.mcommit f) => m &&& ~~~(1#8 <<< f.batch.toNat)
  | _ => m

/-- Insertion by age. -/
def insertByPos (w : QEntry) : List QEntry → List QEntry
  | [] => [w]
  | v :: l => if w.before v then w :: v :: l else v :: insertByPos w l

/-- The unretired words of a slot, oldest first. -/
def Eng.ordered (e : Eng) : List QEntry := e.words.foldr insertByPos []

/-- R262: at the retirement of a replay carried on MQ the mask becomes known: `m` is its value after the pattern, the words
emitted since then change it in order, up to the next such replay. Every such word's own record of the mask is set. -/
def rebuildMask (x : Slot) (pos : Nat) (m : BitVec 8) : Slot :=
  let e := x.eng
  let next := (e.mq.find? fun w => pos < w.pos && isReplay w.word).map (·.pos)
  let mine := e.mq.filter fun w => pos < w.pos && passedCommit next w.pos
  let at_ (p : Nat) : BitVec 8 := (mine.filter fun w => w.pos < p).foldl (fun m w => maskStep m w.word) m
  let fix (w : QEntry) : QEntry :=
    if pos < w.pos && passedCommit (next.map (· + 1)) w.pos then { w with mask0 := at_ w.pos } else w
  { x with eng := { e with vq := e.vq.map fix, mq := e.mq.map fix, xq := e.xq.map fix, out := e.out.map fix
                           omask := mine.foldl (fun m w => maskStep m w.word) m } }

end Sys2Proof.Machine
end

