-- ==== Sys2Proof/Machine/Operands.lean ====
section
/-! DEFINITION. The operand forms of a generator instruction (R41, R44, R133-R137) and the frame every generator
instruction shares: the checks of R45, the wait state, taking the operands, writing the destination, reaching the commit
point. -/

namespace Sys2Proof.Machine

/-- The outcome of a step of this machine. -/
abbrev Out := Host.Outcome State Fault Refusal

/-- R41: an operand number that names nothing. -/
def opReserved (o : Opnd) : Bool := 48 ≤ o.toNat
/-- R41: an operand number that names a port. -/
def opIsPort (o : Opnd) : Bool := 32 ≤ o.toNat && o.toNat < 48
/-- R41: the port an operand names. -/
def opPort (o : Opnd) : Nat := o.toNat - 32

/-- What the body of an instruction does: it is performed, with a value for gd and the next pc; it traps; it raises the
MEMFAULT of a FAILED segment (R111); it waits. -/
inductive Body
  | ok (val : Word) (pc : Word) (s : State)
  | trap (c : Cause) (fw : Word) (va : Option Word)
  | failed (seg : Nat)
  | wait (w : Wait)

/-- R117: a byte as the slot's own held stores leave it. -/
def State.loadByte (s : State) (i a : Nat) : Byte :=
  match (s.slot i).eng.stores.reverse.find? fun h => h.addr ≤ a && a < h.addr + h.data.length with
  | some h => h.data.getD (a - h.addr) 0
  | none => s.byteAt i a
/-- R117: the bytes of a load. -/
def State.loadBytes (s : State) (i a n : Nat) : List Byte := (List.range n).map fun k => s.loadByte i (a + k)
/-- R117: the value of a load. -/
def State.loadNat (s : State) (i a n : Nat) : Nat := leNat (s.loadBytes i a n)

/-- The pc of the slot that moves. -/
def State.pc (s : State) : Word := s.me.gen.pc
/-- The instruction word at the pc, as the slot's own older stores leave it (R117, log 32); FAULTWORD of R357. -/
def State.instrWord (s : State) : Word := BitVec.ofNat 64 (s.loadNat s.cur s.pc.toNat 4)
/-- A level-G fault of the instruction being executed. -/
def trapG (s : State) (c : Cause) (fw : Word) (va : Option Word) : Out := .next (raiseG s s.cur c s.pc fw va none)
/-- R111, R129: the MEMFAULT of a FAILED segment: FAULTWORD is the address of its request, FAULTVA adds the kind. -/
def failSeg (s : State) (k : Nat) : Out :=
  let f := (s.me.seg k).fva
  .next (raiseG s s.cur .memfault s.pc ((f.extractLsb' 0 57).zeroExtend 64) (some f) (some k))
/-- The slot enters its wait state (R24); the instruction is evaluated again when it is released. -/
def waitG (s : State) (w : Wait) : Out := .next (s.modMe fun x => { x with gen := { x.gen with wait := w } })

/-- R100: the slot is the one of its tile that has issued most recently. -/
def issued (s : State) : State := s.modTile (tileOf s.cur) fun t => { t with last := s.cur % 4 }

/-- The instruction has issued: the pc moves on, the slot is ready, and what stands at the commit point is performed. -/
def finishG (s : State) (pc : Word) : State :=
  let s := s.modMe fun x => { x with gen := { x.gen with pc := pc, icnt := x.gen.icnt + 1, wait := .none } }
  let s := issued s
  commitSlot s s.cur

/-- R297, R137: this process has closed the write port, or a held `close` or a queued `xstream` or `xgather` with CLOSE
will. A CLOSE in the pattern of an unretired `replay` is not looked at: R297 has `emit` set the flag, and that word is not emitted (DESIGN
CHOICE, log 68). -/
def Slot.writeClosed (x : Slot) (port : Nat) : Bool :=
  (x.port port).closed
    || x.eng.hist.any (fun h => match h.act with | .close p => p == port | _ => false)
    || x.eng.xq.any fun w => match decodeEng w.word with
      | .ok (.xstream f) => f.mode.getLsbD 0 && f.imm.toNat == port
      | .ok (.xgather f) => f.mode.getLsbD 0 && f.mode.getLsbD 1 && f.imm.toNat == port
      | _ => false

/-- R133, R134: the static checks of one port operand, in order. -/
def portCheck (s : State) (i port : Nat) (wr : Bool) : Option Cause :=
  let x := s.slot i
  let p := x.port port
  if !p.bound || p.isW != wr || portMapped x.vec.smap port then some .portunbound
  else match s.chan? p.net p.ch with
    | none => some .portunbound
    | some c =>
      if c.size ≠ 8 then some .portsize
      else if wr && x.writeClosed port then some .endstream
      else none

/-- R134: the first operand, in the order of R44, whose port check fails. -/
def portChecks (s : State) (srcs : List Opnd) (dst : Option Opnd) : Option (Cause × Nat) :=
  let f (wr : Bool) (o : Opnd) : Option (Cause × Nat) :=
    if opIsPort o then (portCheck s s.cur (opPort o) wr).map fun c => (c, opPort o) else none
  match srcs.findSome? (f false) with
  | some r => some r
  | none => dst.bind (f true)

/-- What keeps an instruction from issuing. -/
inductive Ready
  | go | wait (w : Wait) | trap (c : Cause) (fw : Word)

/-- R135, R136: the state of a read port for its `n`-th naming. -/
def readReady (s : State) (i port n : Nat) : Ready :=
  let p := (s.slot i).port port
  match s.chan? p.net p.ch with
  | none => .trap .portunbound (BitVec.ofNat 64 port)
  | some c =>
    match p.readAt c (p.k + n) with
    | .data => .go
    | .fin => if c.eostol then .go else .trap .endstream (BitVec.ofNat 64 port)
    | .diff => .trap .mirrordiff (BitVec.ofNat 64 c.chid)
    | .sev => .trap .severed (BitVec.ofNat 64 port)
    | .empty => .wait (.readPort port n)

/-- R135, R136: the state of a write port. -/
def writeReady (s : State) (i port : Nat) : Ready :=
  let p := (s.slot i).port port
  match s.chan? p.net p.ch, s.nets[p.net]? with
  | some c, some n =>
    if p.sev then .trap .severed (BitVec.ofNat 64 port)
    else match p.freeCount c n with
      | none => .go
      | some f => if 0 < f then .go else .wait (.writePort port)
  | _, _ => .trap .portunbound (BitVec.ofNat 64 port)

/-- R135: every read port in operand order, then the write port. The first that is not satisfied decides: an instruction that waits for
it does not look at a later one (DEDUCED, log 53). -/
def portsReady (s : State) (srcs : List Opnd) (dst : Option Opnd) : Ready :=
  let rec go : List Opnd → List Opnd → Ready
    | _, [] => match dst with
      | some o => if opIsPort o then writeReady s s.cur (opPort o) else .go
      | none => .go
    | seen, o :: os =>
      if opIsPort o then
        match readReady s s.cur (opPort o) (seen.countP fun x => x == o) with
        | .go => go (o :: seen) os
        | r => r
      else go (o :: seen) os
  go [] srcs

/-- R136, R137: one slot of 8 bytes taken at a read port, or zero at the end mark. -/
def takePort (s : State) (i port : Nat) : Word × State :=
  let p := (s.slot i).port port
  match s.chan? p.net p.ch with
  | none => (0, s)
  | some c =>
    match p.readAt c p.k with
    | .data =>
      (BitVec.ofNat 64 (leNat (s.slotBytes i c p.k)),
        s.modSlot i fun x => (x.log (.read port 1)).modPort port fun p => { p with k := p.k + 1 })
    | _ =>
      (0, s.modSlot i fun x =>
        let x := x.log (.eos port (x.vec.eos.getLsbD port))
        { x with vec := { x.vec with eos := x.vec.eos ||| (1#16 <<< port) } })

/-- R41, R136: the value of a source operand, and the state after it is taken. -/
def takeSrc (s : State) (o : Opnd) : Word × State :=
  if opIsPort o then takePort s s.cur (opPort o) else (s.me.bank.readG o.toNat, s)

/-- R44: the sources taken in order. -/
def takeSrcs (s : State) : List Opnd → List Word × State
  | [] => ([], s)
  | o :: os =>
    let (v, s) := takeSrc s o
    let (vs, s) := takeSrcs s os
    (v :: vs, s)

/-- A g register written by the slot that moves, the old value logged (R105); g0 discards the write and logs nothing. -/
def putG (s : State) (r : Nat) (v : Word) : State :=
  if r = 0 then s else
  s.modMe fun x => (x.log (.greg x.atS r (x.bank.readG r))).modBank fun b => b.writeG r v

/-- R41, R137: the destination: a g register, or one slot sent. -/
def putDst (s : State) (o : Opnd) (v : Word) : State :=
  if opIsPort o then
    s.modMe fun x => (x.log (.send (opPort o) (natLe v.toNat 8))).modPort (opPort o) fun p => p.takeFree
  else putG s o.toNat v

/-- R105, R137, R186: history entries an instruction needs: one for each slot read, each send and each g register written. A write to a
port takes the entry of R137; R105 gives it none for a register's old value (DEDUCED, log 57). -/
def histNeed (srcs : List Opnd) (dst : Option Opnd) : Nat :=
  srcs.countP opIsPort + (match dst with | some o => if o == 0 then 0 else 1 | none => 0)

/-- R105: the history buffer cannot take `n` entries more. With no word unretired an entry frees as it is made. -/
def Slot.histFull (x : Slot) (n : Nat) : Bool := !x.committed && Config.histDepth < x.eng.hist.length + n

/-- The frame of a generator instruction whose operands are `srcs`, in the order of R44, and `dst`: BADOPND, the port
checks, the wait for ports, the history buffer, then the body on the values taken. A trap leaves the state as it was
(R44). -/
def genOp (s : State) (srcs : List Opnd) (dst : Option Opnd) (k : List Word → State → Body) : Out :=
  if (srcs ++ dst.toList).any opReserved then trapG s .badopnd s.instrWord none
  else match portChecks s srcs dst with
  | some (c, p) => trapG s c (BitVec.ofNat 64 p) none
  | none =>
    match portsReady s srcs dst with
    | .trap c fw => trapG s c fw none
    | .wait w => waitG s w
    | .go =>
      if s.me.histFull (histNeed srcs dst) then waitG s .engine
      else
        let (vs, s1) := takeSrcs s srcs
        match k vs s1 with
        | .trap c fw va => trapG s c fw va
        | .failed k => failSeg s k
        | .wait w => waitG s w
        | .ok v pc s2 => .next (finishG (match dst with | some o => putDst s2 o v | none => s2) pc)

/-- The address of the next instruction. -/
def State.pcNext (s : State) : Word := s.pc + 4

/-- A computation of one source. -/
def genUn (s : State) (d a : Opnd) (f : Word → Word) : Out :=
  genOp s [a] (some d) fun vs t => .ok (f (vs.getD 0 0)) s.pcNext t
/-- A computation of two sources. -/
def genBin (s : State) (d a b : Opnd) (f : Word → Word → Word) : Out :=
  genOp s [a, b] (some d) fun vs t => .ok (f (vs.getD 0 0) (vs.getD 1 0)) s.pcNext t

/-! ## Scalar accesses (R107, R115-R118) -/

/-- R118: the access meets the hull of an unretired word; a store's word matters to a load, any word to none other. -/
def Slot.hullBlocks (x : Slot) (a n : Nat) : Bool :=
  x.eng.words.any fun w => w.hulls.any fun h => h.wr && h.lo ≤ sector (a + n - 1) && sector a ≤ h.hi

/-- What a scalar access meets after its checks. -/
inductive Access
  | trap (c : Cause) | wait (w : Wait) | ecc | go
deriving DecidableEq, Repr

/-- R107, R115, R118, R109: a scalar load of `n` bytes. -/
def loadAccess (s : State) (i a n : Nat) : Access :=
  if a % n ≠ 0 then .trap .align
  else if s.badRange i a n false then .trap .window
  else if (s.slot i).waitsSeg a n then .wait .segment
  else if (s.slot i).hullBlocks a n then .wait .engine
  else if s.eccAt i a n then .ecc
  else .go

/-- R177: scoreboard entries a slot holds: one for each hull of a queued word and for each held store. A replay's declared hull takes
one entry, and the words that its sequencer issues take none of their own (DEDUCED, log 54). -/
def Slot.scoreUsed (x : Slot) : Nat := ((x.eng.vq ++ x.eng.mq ++ x.eng.xq).map fun w => w.hulls.length).sum + x.eng.stores.length

/-- R177: `n` more entries fit: sixteen are the slot's own, the rest of 256 is shared by the tile's loaded slots. -/
def State.scoreRoom (s : State) (i n : Nat) : Bool :=
  let loaded := (slotsOf (tileOf i)).filter fun j => (s.slot j).id.loaded
  let past (u : Nat) : Nat := u - 16
  let used := (loaded.map fun j => past (s.slot j).scoreUsed).sum
  let mine := (s.slot i).scoreUsed
  used + (past (mine + n) - past mine) ≤ Config.scoreboardDepth - 16 * loaded.length

/-- R107, R116, R117: a scalar store of `n` bytes. -/
def storeAccess (s : State) (i a n : Nat) : Access :=
  if a % n ≠ 0 then .trap .align
  else if s.badRange i a n true then .trap .window
  else if !(s.slot i).committed &&
      (Config.storeDepth ≤ (s.slot i).eng.stores.length || !s.scoreRoom i 1) then .wait .engine
  else if (s.slot i).committed && n < 8 && s.eccAt i a n then .ecc
  else .go

/-- R116: a store held in the store buffer; the commit performs it. -/
def State.holdStore (s : State) (i a : Nat) (data : List Byte) : State :=
  s.modSlot i fun x => { x with eng := { x.eng with stores := x.eng.stores ++ [⟨x.gen.icnt, a, data⟩] } }

/-- The body that an access outcome gives. -/
def Access.body (r : Access) (a : Word) (k : Unit → Body) : Body :=
  match r with
  | .trap c => .trap c a none
  | .ecc => .trap .eccfatal 0 none
  | .wait w => .wait w
  | .go => k ()

end Sys2Proof.Machine
end

