-- ==== Sys2Proof/Machine/Alu.lean ====
section
/-! DEFINITION. The generator's integer instructions (R120-R122): a meaning for each over the shared frames `genUn`, `genBin`. -/

namespace Sys2Proof.Machine

/-- R82: the signed quotient, truncated toward zero; division by zero gives all ones, -2^63 / -1 gives -2^63. -/
def divS (a b : Word) : Word := if b = 0 then BitVec.allOnes 64 else wordOfInt (Int.tdiv a.toInt b.toInt)
/-- R82: the signed remainder, with the dividend's sign; by zero it is the dividend. -/
def remS (a b : Word) : Word := if b = 0 then a else wordOfInt (Int.tmod a.toInt b.toInt)
/-- R82: the unsigned quotient. -/
def divU (a b : Word) : Word := if b = 0 then BitVec.allOnes 64 else a / b
/-- R82: the unsigned remainder. -/
def remU (a b : Word) : Word := if b = 0 then a else a % b
/-- R120: one for true. -/
def boolWord (b : Bool) : Word := if b then 1 else 0
/-- R120: number of leading zero bits; 64 for 0. -/
def clzW (a : Word) : Word := BitVec.ofNat 64 (64 - bitLen a.toNat)
/-- Trailing zeros among `n` bits from bit `k`. -/
def ctzGo (a : Word) : Nat → Nat → Nat
  | 0, k => k
  | n + 1, k => if a.getLsbD k then k else ctzGo a n (k + 1)
/-- R120: number of trailing zero bits; 64 for 0. -/
def ctzW (a : Word) : Word := BitVec.ofNat 64 (ctzGo a 64 0)
/-- R120: number of one bits. -/
def popcW (a : Word) : Word := BitVec.ofNat 64 ((List.range 64).countP fun k => a.getLsbD k)
/-- R10: SEXT of the low `n` bits. -/
def sext (n : Nat) (a : Word) : Word := (a.setWidth n).signExtend 64
/-- R10: ZEXT of the low `n` bits. -/
def zext (n : Nat) (a : Word) : Word := (a.setWidth n).zeroExtend 64
/-- R42: imm14 sign-extended. -/
def sx14 (i : BitVec 14) : Word := i.signExtend 64
/-- R42: imm20 sign-extended. -/
def sx20 (i : BitVec 20) : Word := i.signExtend 64

/-- R120: add. -/
def execAdd (d a b : Opnd) (s : State) : Out := genBin s d a b fun x y => x + y
/-- R120: sub. -/
def execSub (d a b : Opnd) (s : State) : Out := genBin s d a b fun x y => x - y
/-- R120: and. -/
def execAnd (d a b : Opnd) (s : State) : Out := genBin s d a b fun x y => x &&& y
/-- R120: or. -/
def execOr (d a b : Opnd) (s : State) : Out := genBin s d a b fun x y => x ||| y
/-- R120: xor. -/
def execXor (d a b : Opnd) (s : State) : Out := genBin s d a b fun x y => x ^^^ y
/-- R120: andn. -/
def execAndn (d a b : Opnd) (s : State) : Out := genBin s d a b fun x y => x &&& ~~~y
/-- R120: sll. -/
def execSll (d a b : Opnd) (s : State) : Out := genBin s d a b fun x y => x <<< (y.toNat % 64)
/-- R120: srl. -/
def execSrl (d a b : Opnd) (s : State) : Out := genBin s d a b fun x y => x >>> (y.toNat % 64)
/-- R120: sra. -/
def execSra (d a b : Opnd) (s : State) : Out := genBin s d a b fun x y => x.sshiftRight (y.toNat % 64)
/-- R120: slt. -/
def execSlt (d a b : Opnd) (s : State) : Out := genBin s d a b fun x y => boolWord (x.slt y)
/-- R120: sltu. -/
def execSltu (d a b : Opnd) (s : State) : Out := genBin s d a b fun x y => boolWord (x.ult y)
/-- R120: min. -/
def execMin (d a b : Opnd) (s : State) : Out := genBin s d a b fun x y => if x.slt y then x else y
/-- R120: max. -/
def execMax (d a b : Opnd) (s : State) : Out := genBin s d a b fun x y => if x.slt y then y else x
/-- R120: minu. -/
def execMinu (d a b : Opnd) (s : State) : Out := genBin s d a b fun x y => if x.ult y then x else y
/-- R120: maxu. -/
def execMaxu (d a b : Opnd) (s : State) : Out := genBin s d a b fun x y => if x.ult y then y else x
/-- R120: mul. -/
def execMul (d a b : Opnd) (s : State) : Out := genBin s d a b fun x y => x * y
/-- R120: mulh. -/
def execMulh (d a b : Opnd) (s : State) : Out := genBin s d a b fun x y => wordOfInt (x.toInt * y.toInt / 2 ^ 64)
/-- R120: mulhu. -/
def execMulhu (d a b : Opnd) (s : State) : Out := genBin s d a b fun x y => BitVec.ofNat 64 (x.toNat * y.toNat / 2 ^ 64)
/-- R120: div. -/
def execDiv (d a b : Opnd) (s : State) : Out := genBin s d a b fun x y => divS x y
/-- R120: divu. -/
def execDivu (d a b : Opnd) (s : State) : Out := genBin s d a b fun x y => divU x y
/-- R120: rem. -/
def execRem (d a b : Opnd) (s : State) : Out := genBin s d a b fun x y => remS x y
/-- R120: remu. -/
def execRemu (d a b : Opnd) (s : State) : Out := genBin s d a b fun x y => remU x y
/-- R120: clz. -/
def execClz (d a : Opnd) (s : State) : Out := genUn s d a fun x => clzW x
/-- R120: ctz. -/
def execCtz (d a : Opnd) (s : State) : Out := genUn s d a fun x => ctzW x
/-- R120: popc. -/
def execPopc (d a : Opnd) (s : State) : Out := genUn s d a fun x => popcW x
/-- R120: sextb. -/
def execSextb (d a : Opnd) (s : State) : Out := genUn s d a fun x => sext 8 x
/-- R120: sexth. -/
def execSexth (d a : Opnd) (s : State) : Out := genUn s d a fun x => sext 16 x
/-- R120: sextw. -/
def execSextw (d a : Opnd) (s : State) : Out := genUn s d a fun x => sext 32 x
/-- R120: zextb. -/
def execZextb (d a : Opnd) (s : State) : Out := genUn s d a fun x => zext 8 x
/-- R120: zexth. -/
def execZexth (d a : Opnd) (s : State) : Out := genUn s d a fun x => zext 16 x
/-- R120: zextw. -/
def execZextw (d a : Opnd) (s : State) : Out := genUn s d a fun x => zext 32 x
/-- R121: addi. -/
def execAddi (d a : Opnd) (i : BitVec 14) (s : State) : Out := genUn s d a fun x => x + sx14 i
/-- R121: andi. -/
def execAndi (d a : Opnd) (i : BitVec 14) (s : State) : Out := genUn s d a fun x => x &&& sx14 i
/-- R121: ori. -/
def execOri (d a : Opnd) (i : BitVec 14) (s : State) : Out := genUn s d a fun x => x ||| sx14 i
/-- R121: xori. -/
def execXori (d a : Opnd) (i : BitVec 14) (s : State) : Out := genUn s d a fun x => x ^^^ sx14 i
/-- R121: slti. -/
def execSlti (d a : Opnd) (i : BitVec 14) (s : State) : Out := genUn s d a fun x => boolWord (x.slt (sx14 i))
/-- R121: sltiu. -/
def execSltiu (d a : Opnd) (i : BitVec 14) (s : State) : Out := genUn s d a fun x => boolWord (x.ult (sx14 i))
/-- R121: slli. -/
def execSlli (d a : Opnd) (i : BitVec 6) (s : State) : Out := genUn s d a fun x => x <<< i.toNat
/-- R121: srli. -/
def execSrli (d a : Opnd) (i : BitVec 6) (s : State) : Out := genUn s d a fun x => x >>> i.toNat
/-- R121: srai. -/
def execSrai (d a : Opnd) (i : BitVec 6) (s : State) : Out := genUn s d a fun x => x.sshiftRight i.toNat
/-- R122: lsi. -/
def execLsi (d : Opnd) (i : BitVec 20) (s : State) : Out :=
  genOp s [] (some d) fun _ t => .ok (sx20 i <<< 14) s.pcNext t
/-- R122: addpc. -/
def execAddpc (d : Opnd) (i : BitVec 20) (s : State) : Out :=
  genOp s [] (some d) fun _ t => .ok (s.pc + sx20 i * 4) s.pcNext t

end Sys2Proof.Machine
end

