-- ==== Sys2Proof/Machine/LoadStore.lean ====
section
/-! DEFINITION. Scalar loads and stores (R123-R125) and the templates (R175). -/

namespace Sys2Proof.Machine

/-- R123: a load of `n` bytes at ga + SEXT(imm14), its value formed by `f` from the bytes. -/
def loadOp (s : State) (d a : Opnd) (i : BitVec 14) (n : Nat) (f : Nat → Word) : Out :=
  genOp s [a] (some d) fun vs t =>
    let ea := vs.getD 0 0 + sx14 i
    (loadAccess t s.cur ea.toNat n).body ea fun _ => .ok (f (t.loadNat s.cur ea.toNat n)) s.pcNext t

/-- R123: ldb. -/
def execLdb (d a : Opnd) (i : BitVec 14) (s : State) : Out := loadOp s d a i 1 fun x => sext 8 (BitVec.ofNat 64 x)
/-- R123: ldbu. -/
def execLdbu (d a : Opnd) (i : BitVec 14) (s : State) : Out := loadOp s d a i 1 fun x => BitVec.ofNat 64 x
/-- R123: ldh. -/
def execLdh (d a : Opnd) (i : BitVec 14) (s : State) : Out := loadOp s d a i 2 fun x => sext 16 (BitVec.ofNat 64 x)
/-- R123: ldhu. -/
def execLdhu (d a : Opnd) (i : BitVec 14) (s : State) : Out := loadOp s d a i 2 fun x => BitVec.ofNat 64 x
/-- R123: ldw. -/
def execLdw (d a : Opnd) (i : BitVec 14) (s : State) : Out := loadOp s d a i 4 fun x => sext 32 (BitVec.ofNat 64 x)
/-- R123: ldwu. -/
def execLdwu (d a : Opnd) (i : BitVec 14) (s : State) : Out := loadOp s d a i 4 fun x => BitVec.ofNat 64 x
/-- R123: ldd. -/
def execLdd (d a : Opnd) (i : BitVec 14) (s : State) : Out := loadOp s d a i 8 fun x => BitVec.ofNat 64 x

/-- R43: the dword that `ldpc` and `emitl` name. -/
def literalAddr (pc off : Word) : Word := (pc &&& ~~~7#64) + off * 8

/-- R124: the access of a literal: WINDOW by R107 rule 2 only; it waits for an INFLIGHT segment and for older hulls. -/
def literalAccess (s : State) (i : Nat) (a : Nat) : Access :=
  let x := s.slot i
  let bad :=
    if x.atS then (if a < 0x200000 then Config.supSize < a + 8
      else 0x400000 ≤ a || x.id.size * 4096 < a - 0x200000 + 8)
    else x.id.size * 4096 < a + 8
  if bad then .trap .window
  else if x.waitsSeg a 8 then .wait .segment
  else if x.hullBlocks a 8 then .wait .engine
  else if s.eccAt i a 8 then .ecc
  else .go

/-- R124: ldpc. -/
def execLdpc (d : Opnd) (i : BitVec 20) (s : State) : Out :=
  genOp s [] (some d) fun _ t =>
    let ea := literalAddr s.pc (sx20 i)
    (literalAccess t s.cur ea.toNat).body ea fun _ => .ok (BitVec.ofNat 64 (t.loadNat s.cur ea.toNat 8)) s.pcNext t

/-- R125: a store of `n` bytes: ga, then the data register, are read; the store is held until its commit (R116). -/
def storeOp (s : State) (v a : Opnd) (i : BitVec 14) (n : Nat) : Out :=
  genOp s [a, v] none fun vs t =>
    let ea := vs.getD 0 0 + sx14 i
    (storeAccess t s.cur ea.toNat n).body ea fun _ =>
      .ok 0 s.pcNext (t.holdStore s.cur ea.toNat (natLe (vs.getD 1 0).toNat n))

/-- R125: stb. -/
def execStb (v a : Opnd) (i : BitVec 14) (s : State) : Out := storeOp s v a i 1
/-- R125: sth. -/
def execSth (v a : Opnd) (i : BitVec 14) (s : State) : Out := storeOp s v a i 2
/-- R125: stw. -/
def execStw (v a : Opnd) (i : BitVec 14) (s : State) : Out := storeOp s v a i 4
/-- R125: std. -/
def execStd (v a : Opnd) (i : BitVec 14) (s : State) : Out := storeOp s v a i 8

/-- R175: a template written, the old value logged. -/
def putT (s : State) (r : Nat) (v : Word) : State :=
  s.modMe fun x => (x.log (.tmpl x.atS r (x.bank.readT r))).modBank fun b => b.writeT r v

/-- R105: the history entry of a template write must fit besides those of the ports. -/
def tmplFull (s : State) (srcs : List Opnd) : Bool := s.me.histFull (histNeed srcs none + 1)

/-- R175: tset. -/
def execTset (t : BitVec 4) (a b : Opnd) (s : State) : Out :=
  genOp s [a, b] none fun vs u =>
    if tmplFull s [a, b] then .wait .engine else
    .ok 0 s.pcNext (putT u t.toNat ((vs.getD 1 0).extractLsb' 0 32 ++ (vs.getD 0 0).extractLsb' 0 32))

/-- R175: tld: ALIGN unless 8-aligned, WINDOW by R107 rules 2 and 3. -/
def execTld (t : BitVec 4) (a : Opnd) (i : BitVec 14) (s : State) : Out :=
  genOp s [a] none fun vs u =>
    let ea := vs.getD 0 0 + sx14 i
    (loadAccess u s.cur ea.toNat 8).body ea fun _ =>
      if tmplFull s [a] then .wait .engine else
      .ok 0 s.pcNext (putT u t.toNat (BitVec.ofNat 64 (u.loadNat s.cur ea.toNat 8)))

end Sys2Proof.Machine
end

