-- ==== Sys2Proof/Machine/Branch.lean ====
section
/-! DEFINITION. Branches and jumps (R126-R128) and code overlay (R129, R130). -/

namespace Sys2Proof.Machine

/-- R43, R126: a conditional branch. -/
def branchOp (s : State) (a b : Opnd) (o : BitVec 14) (c : Word → Word → Bool) : Out :=
  genOp s [a, b] none fun vs t =>
    .ok 0 (if c (vs.getD 0 0) (vs.getD 1 0) then s.pc + sx14 o * 4 else s.pcNext) t

/-- R126: beq. -/
def execBeq (a b : Opnd) (o : BitVec 14) (s : State) : Out := branchOp s a b o fun x y => x == y
/-- R126: bne. -/
def execBne (a b : Opnd) (o : BitVec 14) (s : State) : Out := branchOp s a b o fun x y => x != y
/-- R126: blt. -/
def execBlt (a b : Opnd) (o : BitVec 14) (s : State) : Out := branchOp s a b o fun x y => x.slt y
/-- R126: bge. -/
def execBge (a b : Opnd) (o : BitVec 14) (s : State) : Out := branchOp s a b o fun x y => !x.slt y
/-- R126: bltu. -/
def execBltu (a b : Opnd) (o : BitVec 14) (s : State) : Out := branchOp s a b o fun x y => x.ult y
/-- R126: bgeu. -/
def execBgeu (a b : Opnd) (o : BitVec 14) (s : State) : Out := branchOp s a b o fun x y => !x.ult y

/-- R127: jal. -/
def execJal (d : Opnd) (i : BitVec 20) (s : State) : Out :=
  genOp s [] (some d) fun _ t => .ok s.pcNext (s.pc + sx20 i * 4) t

/-- R127: jalr. -/
def execJalr (d a : Opnd) (i : BitVec 14) (s : State) : Out :=
  genOp s [a] (some d) fun vs t =>
    let target := vs.getD 0 0 + sx14 i
    if target.extractLsb' 0 2 ≠ 0 then .trap .align target none else .ok s.pcNext target t

/-- R111: the state of a segment, as an instruction that must not meet it INVALID, FAILED or INFLIGHT finds it. -/
def segBody (s : State) (k : Nat) (go : Body) : Body :=
  match (s.me.seg k).st with
  | .inflight => .wait .segment
  | .invalid => .trap .codemiss (BitVec.ofNat 64 k) none
  | .failed => .failed k
  | .valid => go

/-- R128, R351: jmpf. At S it makes no segment check, and its target must lie in the supervisor partition. -/
def execJmpf (d a : Opnd) (i : BitVec 14) (s : State) : Out :=
  genOp s [a] (some d) fun vs t =>
    let target := vs.getD 0 0 + sx14 i
    if target.extractLsb' 0 2 ≠ 0 then .trap .align target none
    else if s.me.atS then
      (if Config.supSize ≤ target.toNat then .trap .window target none else .ok s.pcNext target t)
    else if s.me.codeSegs * 4096 ≤ target.toNat then .trap .window target none
    else segBody s (target.toNat / 4096) (.ok s.pcNext target t)

/-- R129: the segment becomes INFLIGHT, logged; its request is queued and sent at commit. -/
def startFetch (s : State) (k : Nat) (va : Word) : State :=
  s.modMe fun x => (x.log (.seg k (x.seg k).st)).modSeg k fun g =>
    { g with st := .inflight, reqs := g.reqs ++ [{ pos := x.gen.icnt, va := va, sent := false, image := none, paged := false }] }

/-- R129: cfetch. -/
def execCfetch (a b : Opnd) (s : State) : Out :=
  genOp s [a, b] none fun vs t =>
    let k := vs.getD 0 0
    let d := vs.getD 1 0
    if d.extractLsb' 0 12 ≠ 0 || d.extractLsb' 57 7 ≠ 0 then .trap .align d none
    else if s.me.codeSegs ≤ k.toNat then .trap .window k none
    else if !s.me.atS && s.pc.toNat / 4096 = k.toNat then .trap .window k none
    else if s.me.histFull (histNeed [a, b] none + 1) then .wait .engine
    else .ok 0 s.pcNext (startFetch t k.toNat d)

/-- R130, R351: cwait. At S a FAILED segment is left FAILED and the wait completes. -/
def execCwait (a : Opnd) (s : State) : Out :=
  genOp s [a] none fun vs t =>
    let k := vs.getD 0 0
    if s.me.codeSegs ≤ k.toNat then .trap .window k none
    else match (s.me.seg k.toNat).st with
      | .inflight => .wait .segment
      | .failed => if s.me.atS then .ok 0 s.pcNext t else .failed k.toNat
      | .invalid | .valid => .ok 0 s.pcNext t

end Sys2Proof.Machine
end

