-- ==== Sys2Proof/Machine/Words.lean ====
section
/-! DEFINITION. What an engine word names, read from its fields alone: the vector registers it reads and writes (R139, R180,
R223, R255), its window (R231), its SRAM operands (R254, R256), its copy descriptor or parameter block (R288, R298). -/

namespace Sys2Proof.Machine

/-! ## Vector registers -/

/-- R139: the vector registers that a word reads by a whole-register field, in the order in which streams are taken. -/
def vsources : Instr → List Nat
  | .vadd f | .vsub f | .vmul f | .vdiv f | .vmin f | .vmax f | .vcmp f | .vicmp f | .viadd f | .visub f | .vimul f
  | .vimulh f | .vimin f | .vimax f | .viminu f | .vimaxu f | .vand f | .vor f | .vxor f | .vshl f | .vshr f | .vsra f =>
    if f.isImm then [f.va.toNat] else [f.va.toNat, f.vb.toNat]
  | .vfma f | .vfms f | .vfnma f =>
    if f.isImm then [f.va.toNat, f.vc.toNat] else [f.va.toNat, f.vb.toNat, f.vc.toNat]
  | .vsqrt f | .vrcp f | .vrsqrt f | .vexp2 f | .vlog2 f | .vabs f | .vneg f | .vcvt f | .vredsum f | .vredmax f
  | .vredmin f | .viredsum f | .vmv f | .vnorm f => [f.va.toNat]
  | .vsel f | .vmrg f => [f.va.toNat, f.vb.toNat]
  | .vbcast f => if f.sub = 0 then [f.va.toNat] else []
  | .vsetvl f => if f.sub = 1 then [f.va.toNat] else []
  | .vst f | .vsts f => [f.vd.toNat]
  | .vldx f => [f.vi.toNat]
  | .vstx f | .vscadd f => [f.vd.toNat, f.vi.toNat]
  | .vperm f => [(f.off.extractLsb' 16 6).toNat, f.vi.toNat]
  | .vrot f | .vslide f | .vcompress f => [(f.off.extractLsb' 16 6).toNat]
  | _ => []

/-- The vector register that a VQ word writes by its vd field. -/
def vdest : Instr → Option Nat
  | .vadd f | .vsub f | .vmul f | .vfma f | .vfms f | .vfnma f | .vdiv f | .vsqrt f | .vrcp f | .vrsqrt f | .vexp2 f
  | .vlog2 f | .vmin f | .vmax f | .vabs f | .vneg f | .vsel f | .vcvt f | .viadd f | .visub f | .vimul f | .vimulh f
  | .vimin f | .vimax f | .viminu f | .vimaxu f | .vand f | .vor f | .vxor f | .vshl f | .vshr f | .vsra f
  | .vredsum f | .vredmax f | .vredmin f | .viredsum f | .viota f | .vbcast f | .vmv f | .vmrg f | .vnorm f => some f.vd.toNat
  | .vld f | .vlds f | .vldx f | .vperm f | .vrot f | .vslide f | .vcompress f => some f.vd.toNat
  | _ => none

/-- R223: registers of a triple group beyond the first: T = 64 / VLMAX. -/
def groupT (vlmax : Nat) : Nat := 64 / vlmax

/-- R223: a field of `vmrg` or `vnorm` names a stream-bound register, or a group of `n` registers in place. -/
def groupOk (smap : Word) (v n : Nat) : Bool :=
  streamEn smap v || (v + n ≤ 64 && !(List.range n).any fun k => streamEn smap (v + k))

/-- R251, R255: bytes of an element of an operand, A (`true`) or B, of a format. -/
def matSize (fmt : BitVec 4) (a : Bool) : Nat :=
  match fmt.toNat with
  | 0 | 1 => 2
  | 2 | 3 => 1
  | _ => if a then 2 else 1

/-- R51: d. -/
def matDepth (f : MatF) : Nat := f.depth.toNat + 1

/-- R255: vector registers that an operand of `d` rows occupies. -/
def matRegs (d n vlmax : Nat) : Nat := (d * 64 * n + 4 * vlmax - 1) / (4 * vlmax)

/-- R180: the vector registers a word reads, as (first, number). -/
def vreads (smap : Word) (vlmax : Nat) (i : Instr) : List (Nat × Nat) :=
  match i with
  | .vmrg _ | .vnorm _ => (vsources i).map fun v => (v, if streamEn smap v then 1 else groupT vlmax + 1)
  | .mstep f =>
    (if f.asrc = 1 then [(f.a.toNat, matRegs (matDepth f) (matSize f.fmt true) vlmax)] else []) ++
    (if f.bsrc = 1 then [(f.b.toNat, matRegs (matDepth f) (matSize f.fmt false) vlmax)] else [])
  | _ => (vsources i).map fun v => (v, 1)

/-- R180: the vector registers a word writes. -/
def vwrites (smap : Word) (vlmax : Nat) (i : Instr) : List (Nat × Nat) :=
  match i with
  | .vmrg f => [(f.vd.toNat, if streamEn smap f.vd.toNat then 1 else groupT vlmax + 1)]
  | .vnorm f => [(f.vd.toNat, if streamEn smap f.vd.toNat then 1 else groupT vlmax)]
  | .mrd f => [(f.a.toNat, matDepth f * groupT vlmax)]
  | _ => (vdest i).toList.map fun v => (v, 1)

/-- Two lists of intervals share a register. -/
def regsMeet (a b : List (Nat × Nat)) : Bool :=
  a.any fun x => b.any fun y => x.1 < y.1 + y.2 && y.1 < x.1 + x.2

/-- R145: an unretired VQ word of the slot reads a port through STREAMMAP. A replay on VQ counts while it is unretired: its
words are VQ words (log 30). -/
def Slot.streamReader (x : Slot) (port : Nat) : Bool :=
  x.eng.vq.any fun w =>
    match decodeEng w.word with
    | .ok (.replay _ _) => (List.range 8).any fun k => streamEn x.vec.smap (56 + k) && streamPort x.vec.smap (56 + k) == port
    | .ok i => (vsources i).any fun v => streamEn x.vec.smap v && streamPort x.vec.smap v == port
    | .error _ => false

/-! ## Partition and windows -/

/-- The bytes [a, a + n) leave the partition: the process partition, or at S those of R351. -/
def Slot.outside (x : Slot) (a n : Nat) : Bool :=
  if x.atS then
    if a < 0x200000 then Config.supSize < a + n
    else 0x400000 ≤ a || x.id.size * 4096 < a - 0x200000 + n
  else x.id.size * 4096 < a + n

/-- The size of the partition that offset 0 stands in: window 0 covers it, at level S the supervisor's (R231, R351; DEDUCED, log 61). -/
def Slot.partSize (x : Slot) : Nat := if x.atS then Config.supSize else x.id.size * 4096

/-- R231: a window of a slot. -/
def Slot.window (x : Slot) (n : Nat) : Win := winOf n (Sparse.get 0 x.vec.win n) x.partSize

/-! ## SRAM operands of the matrix unit (R254) -/

/-- R254: an operand pair, with whether a field marked zero is set. -/
structure Panel where
  base : Nat
  pitch : Nat
  nel : Nat
  rot : Nat
  tile : Nat
  bad : Bool
deriving DecidableEq, Repr

/-- R254: the pair of two engine registers. -/
def panelOf (e0 e1 : Word) : Panel :=
  { base := (e0.extractLsb' 0 21).toNat, pitch := (e0.extractLsb' 21 21).toNat
    nel := (e1.extractLsb' 0 7).toNat, rot := (e1.extractLsb' 8 5).toNat, tile := (e1.extractLsb' 16 21).toNat
    bad := e0.extractLsb' 42 22 != 0 || e1.getLsbD 7 || e1.extractLsb' 13 3 != 0 || e1.extractLsb' 37 27 != 0 }

/-- R254: the address of element `i` of row `k`. -/
def Panel.addr (p : Panel) (n k i : Nat) : Nat :=
  p.base + k * p.pitch + (i / 8) * p.tile + ((k * p.rot) % 32) * 64 + (i % 8) * n

/-- R258: BASE, ROWPITCH and TILEPITCH are multiples of the element size. -/
def Panel.aligned (p : Panel) (n : Nat) : Bool := p.base % n == 0 && p.pitch % n == 0 && p.tile % n == 0

/-- R256: the hull of `d` rows. -/
def Panel.hull (p : Panel) (d n : Nat) (rot wr : Bool) : Hull :=
  let last := p.base + (d - 1) * p.pitch + ((p.nel - 1) / 8) * p.tile + (if rot && p.rot ≠ 0 then 31 * 64 else 0) + 8 * n - 1
  ⟨sector p.base, sector last, wr⟩

/-! ## Copy descriptors (R288) and parameter blocks (R298) -/

/-- R288: one dimension. -/
structure Dim where
  cnt : Nat
  idx : Nat
  ss : Word
  ds : Word
deriving DecidableEq, Repr

/-- R288: a copy descriptor. -/
structure Desc where
  src : Word
  dst : Word
  esz : Nat
  res : Bool
  dims : List Dim
deriving DecidableEq, Repr

/-- R288: bytes of an element. -/
def Desc.size (d : Desc) : Nat := 2 ^ d.esz
/-- R288: bytes of the descriptor. -/
def Desc.len (d : Desc) : Nat := 32 + 24 * d.dims.length
/-- Number of elements in the full index space. -/
def Desc.count (d : Desc) : Nat := d.dims.foldl (fun n x => n * x.cnt) 1

/-- A dword read through a byte function. -/
def dwordBy (rd : Nat → Byte) (a : Nat) : Word := BitVec.ofNat 64 (leNat ((List.range 8).map fun k => rd (a + k)))

/-- R288: the descriptor at `a`, if it is well formed; `out` says which ranges leave the partition. -/
def readDesc (rd : Nat → Byte) (out : Nat → Nat → Bool) (a : Nat) : Option Desc :=
  if out a 32 then none else
  let h := dwordBy rd (a + 16)
  let nd := (h.extractLsb' 0 4).toNat
  if nd = 0 || 14 < nd || (h.extractLsb' 4 3).toNat = 7 || h.getLsbD 7 || h.extractLsb' 9 55 != 0
      || dwordBy rd (a + 24) != 0 || out a (32 + 24 * nd) then none
  else
    let dims := (List.range nd).map fun k =>
      let c := dwordBy rd (a + 32 + 24 * k)
      { cnt := (c.extractLsb' 0 32).toNat, idx := (c.extractLsb' 32 32).toNat
        ss := dwordBy rd (a + 40 + 24 * k), ds := dwordBy rd (a + 48 + 24 * k) : Dim }
    if dims.any fun d => d.cnt == 0 then none
    else some { src := dwordBy rd a, dst := dwordBy rd (a + 8), esz := (h.extractLsb' 4 3).toNat, res := h.getLsbD 8, dims := dims }

/-- R291: the interval of a side over the full index space. -/
def span (base : Word) (dims : List Dim) (str : Dim → Word) (n : Nat) : Int × Int :=
  dims.foldl (fun (a : Int × Int) d =>
    let e := ((d.cnt - 1 : Nat) : Int) * (str d).toInt
    (a.1 + min 0 e, a.2 + max 0 e)) ((base.toNat : Int), (base.toNat : Int) + n - 1)

/-- R178: the sectors of an interval. -/
def spanHull (a : Int × Int) (wr : Bool) : Hull := ⟨sector a.1.toNat, sector a.2.toNat, wr⟩
/-- R293: the addresses of an interval. -/
def spanAddr (a : Int × Int) (wr : Bool) : Hull := ⟨a.1.toNat, a.2.toNat, wr⟩

/-- R290: the index vector of the `n`-th element, dimension 0 innermost. -/
def idxVec (dims : List Dim) (n : Nat) : List Nat :=
  match dims with
  | [] => []
  | d :: ds => (n % d.cnt) :: idxVec ds (n / d.cnt)

/-- R290: the number of elements before an index vector. -/
def idxPos : List Dim → List Nat → Nat
  | d :: ds, i :: is => i + d.cnt * idxPos ds is
  | _, _ => 0

/-- R290: the address of a side at an index vector, mod 2^64. -/
def sideAddr (base : Word) (dims : List Dim) (str : Dim → Word) (i : List Nat) : Word :=
  (dims.zip i).foldl (fun a (d, k) => a + BitVec.ofNat 64 k * str d) base

/-- R290: the elements already completed: those of IDX when RES = 1. -/
def Desc.start (d : Desc) : Nat := if d.res then idxPos d.dims (d.dims.map (·.idx)) else 0

/-- R298: a parameter block. -/
structure Gather where
  ibase : Word
  dbase : Word
  dst : Word
  count : Nat
  idx : Nat
  ifmt : Nat
  res : Bool
  rowlen : Nat
  stride : Word
  pitch : Word
deriving DecidableEq, Repr

/-- R298, R299: the parameter block at `a`, if it is well formed for its DEST. -/
def readGather (rd : Nat → Byte) (out : Nat → Nat → Bool) (a : Nat) (chan : Bool) : Option Gather :=
  if out a 64 then none else
  let c := dwordBy rd (a + 24)
  let m := dwordBy rd (a + 32)
  let g : Gather :=
    { ibase := dwordBy rd a, dbase := dwordBy rd (a + 8), dst := dwordBy rd (a + 16)
      count := (c.extractLsb' 0 32).toNat, idx := (c.extractLsb' 32 32).toNat
      ifmt := (m.extractLsb' 0 2).toNat, res := m.getLsbD 2, rowlen := (m.extractLsb' 8 13).toNat
      stride := dwordBy rd (a + 40), pitch := dwordBy rd (a + 48) }
  if g.count = 0 || 65536 < g.count || g.ifmt = 3 || m.extractLsb' 3 5 != 0 || m.extractLsb' 21 43 != 0
      || g.rowlen = 0 || 4096 < g.rowlen || dwordBy rd (a + 56) != 0
      || (chan && (g.dst != 0 || g.pitch != 0)) || (!chan && g.pitch.toInt < 0) then none
  else some g

/-- R298: bytes of an index. -/
def Gather.isize (g : Gather) : Nat := if g.ifmt = 2 then 8 else 4
/-- R299: the VA of a row, from its index. -/
def Gather.rowVa (g : Gather) (x : Word) : Word := g.dbase + x * g.stride
/-- R299: an index as read, extended to 64 bits. -/
def Gather.index (g : Gather) (bs : List Byte) : Word :=
  let v := leNat bs
  if g.ifmt = 1 then (BitVec.ofNat 32 v).signExtend 64 else BitVec.ofNat 64 v
/-- R299: the hull of the destination rows. -/
def Gather.dstHull (g : Gather) : Hull :=
  ⟨sector g.dst.toNat, sector (g.dst.toNat + (g.count - 1) * g.pitch.toNat + g.rowlen - 1), true⟩

/-! ## Patterns (R194) -/

/-- R194: a stride entry. -/
structure PStride where
  widx : Nat
  sel : Nat
  lvl : Nat
  by_ : Int
deriving DecidableEq, Repr

/-- R194: the header of a pattern: dwords 0-2. -/
structure PHead where
  nw : Nat
  nl : Nat
  nst : Nat
  hbase : Nat
  hlimit : Nat
  counts : List Nat
deriving DecidableEq, Repr

/-- R194: first dword of the flags. -/
def PHead.flagAt (h : PHead) : Nat := 3 + h.nst
/-- R194: first dword of the body words. -/
def PHead.bodyAt (h : PHead) : Nat := 3 + h.nst + (h.nw + 7) / 8
/-- R194: dwords of the pattern. -/
def PHead.total (h : PHead) : Nat := h.bodyAt + h.nw

/-- R194, R196: dwords 0-2 of the pattern at `p`, and whether the pattern lies in the partition; none where R196 raises. -/
def readPHead (rd : Nat → Byte) (out : Nat → Nat → Bool) (size p : Nat) : Option PHead :=
  if p % 8 ≠ 0 || out p 24 then none else
  let d0 := dwordBy rd p
  let d1 := dwordBy rd (p + 8)
  let d2 := dwordBy rd (p + 16)
  let h : PHead :=
    { nw := (d0.extractLsb' 0 8).toNat + 1, nl := (d0.extractLsb' 8 3).toNat, nst := (d0.extractLsb' 11 5).toNat
      hbase := (d1.extractLsb' 0 21).toNat, hlimit := (d1.extractLsb' 32 21).toNat
      counts := (List.range (d0.extractLsb' 8 3).toNat).map fun k => (d2.extractLsb' (8 * k) 8).toNat + 1 }
  if d0.extractLsb' 16 48 != 0 || h.nl = 7 || 24 < h.nst || d1.extractLsb' 21 11 != 0 || d1.extractLsb' 53 11 != 0
      || d2 >>> (8 * h.nl) != 0 || h.hlimit < h.hbase || size < h.hlimit || out p (8 * h.total) then none
  else some h

/-- R194, R196: the whole pattern's stride entries and flags are in order. -/
def patternOk (rd : Nat → Byte) (p : Nat) (h : PHead) : Bool :=
  ((List.range h.nst).all fun j =>
    let d := dwordBy rd (p + 24 + 8 * j)
    let sel := (d.extractLsb' 8 4).toNat
    sel ≠ 0 && sel ≠ 11 && (d.extractLsb' 0 8).toNat < h.nw && (d.extractLsb' 12 3).toNat < h.nl && d.extractLsb' 15 17 == 0) &&
  (List.range h.nw).all fun k =>
    let f := rd (p + 8 * h.flagAt + k)
    f.extractLsb' 5 3 == 0 && (f.extractLsb' 0 2 == 0 || (f.extractLsb' 2 3).toNat < h.nl)

/-- R194: the stride entries. -/
def strides (rd : Nat → Byte) (p : Nat) (h : PHead) : List PStride :=
  (List.range h.nst).map fun j =>
    let d := dwordBy rd (p + 24 + 8 * j)
    ⟨(d.extractLsb' 0 8).toNat, (d.extractLsb' 8 4).toNat, (d.extractLsb' 12 3).toNat, (d.extractLsb' 32 32).toInt⟩

/-- R56: the lowest bit and the width of a selector's field. -/
def selField (sel : Nat) : Nat × Nat :=
  match sel with
  | 1 => (46, 6) | 2 => (40, 6) | 3 => (34, 6) | 4 => (28, 6) | 5 => (0, 16) | 6 => (0, 22) | 7 => (41, 6) | 8 => (24, 3)
  | 9 => (0, 48) | 10 => (0, 32) | 11 => (32, 32) | 12 => (48, 4) | 13 => (25, 3) | 14 => (34, 3) | 15 => (0, 20)
  | _ => (0, 0)

/-- R55: a field of a word replaced by the low bits of a value. -/
def patch (w : Word) (sel : Nat) (v : Word) : Word :=
  let (lo, n) := selField sel
  let m : Word := BitVec.ofNat 64 ((2 ^ n - 1) * 2 ^ lo)
  (w &&& ~~~m) ||| ((v <<< lo) &&& m)

/-- R195: the body word at an index vector, strides applied. -/
def bodyWord (rd : Nat → Byte) (p : Nat) (h : PHead) (idx : List Nat) (k : Nat) : Word :=
  (strides rd p h).foldl (fun w e =>
    if e.widx = k then
      let (lo, n) := selField e.sel
      patch w e.sel (w.extractLsb' lo n |>.zeroExtend 64 |> (· + BitVec.ofInt 64 ((idx.getD e.lvl 0 : Int) * e.by_)))
    else w) (dwordBy rd (p + 8 * (h.bodyAt + k)))

/-- R195: the flags let a body word be issued at an index vector. -/
def bodyIssues (rd : Nat → Byte) (p : Nat) (h : PHead) (idx : List Nat) (k : Nat) : Bool :=
  let f := rd (p + 8 * h.flagAt + k)
  let l := (f.extractLsb' 2 3).toNat
  f.extractLsb' 0 2 == 0 || (f.getLsbD 0 && idx.getD l 0 == 0) || (f.getLsbD 1 && idx.getD l 0 + 1 == h.counts.getD l 1)

/-- R195: the next index vector, level 0 innermost; none after the last. -/
def nextIdx : List Nat → List Nat → Option (List Nat)
  | c :: cs, i :: is =>
    if i + 1 < c then some ((i + 1) :: is) else (nextIdx cs is).map fun r => 0 :: r
  | _, _ => none

end Sys2Proof.Machine
end

