-- ==== Sys2Proof/Machine/Emit.lean ====
section
/-! DEFINITION. Emit (R174): the word of each form (R55), its judgement at emit (R54, R209, R241, R249, R258, R287), its hulls
(R178, R193, R238, R256, R291), and the waits `gwait` (R182) and `mwaitb` (R263). The same judgement serves a word that the
replay sequencer issues, against the state that then stands. -/

namespace Sys2Proof.Machine

/-- What a word is judged against: engine registers (none: unknown, R173), VL (none: unknown, R226), the byte a read at this
point finds, the ranges on which such a read waits, and those that hold a double-bit error (R109). -/
structure Side where
  reg : Queue → Nat → Option Word
  vl : Option Nat
  byte : Nat → Byte
  blocked : Nat → Nat → Option Wait
  ecc : Nat → Nat → Bool

/-- The judgement of a word: queued with its hulls, refused, or to be judged again later. -/
inductive Judged
  | ok (hulls : List Hull) (dhull : List Hull)
  | bad (c : Cause) (fw : Word)
  | wait (w : Wait)

/-- R184: an engine register as some `eset` words leave it. -/
def esetFold (n : Nat) (v : Word) (l : List QEntry) : Word :=
  l.foldl (fun v w => match decodeEng w.word with
    | .ok (.esetL e imm) => if e.toNat = n then imm.zeroExtend 64 else v
    | .ok (.esetH e imm) => if e.toNat = n then imm ++ v.extractLsb' 0 48 else v
    | _ => v) v

/-- R173: the emit-side copy of an engine register: the register as the queued `eset` words of its queue will leave it;
unknown while a replay on that queue is unretired. -/
def Slot.emitReg (x : Slot) (q : Queue) (n : Nat) : Option Word :=
  let l := x.eng.queue q
  if l.any fun w => isReplay w.word then none else some (esetFold n (x.bank.readE q n) l)

/-- R226: the emit-side VL; unknown behind a register `vsetvl`, a first-fault load, or a replay on VQ (log 30). -/
def Slot.emitVl (x : Slot) : Option Nat :=
  x.eng.vq.foldl (fun v w => match decodeEng w.word with
    | .ok (.vsetvl f) => if f.sub = 1 then none else some (min f.imm.toNat x.id.vlmax)
    | .ok (.vld f) | .ok (.vlds f) | .ok (.vldx f) => if f.ff = 1 then none else v
    | .ok (.replay _ _) => none
    | _ => v) (some x.vec.vl)

/-- The side of an emit: emit-side copies, and scalar reads under R115, R117, R118. -/
def emitSide (s : State) (i : Nat) : Side :=
  let x := s.slot i
  { reg := x.emitReg, vl := x.emitVl, byte := s.loadByte i
    blocked := fun a n => if x.waitsSeg a n then some .segment else if x.hullBlocks a n then some .engine else none
    ecc := s.eccAt i }

/-- R118: a segment that a `cfetch` older than position `pos` has made INFLIGHT lies in the sectors from `lo` to `hi`, in the addresses
of R351. -/
def Slot.fetchOver (x : Slot) (pos lo hi : Nat) : Bool :=
  x.segs.any fun (k, g) => g.st == .inflight && (g.reqs.any fun r => r.pos < pos) &&
    (let a := (if x.atS then 0x200000 else 0) + k * 4096
     sector a ≤ hi && lo ≤ sector (a + 4095))

/-- R118, R178: the side of an issue by the replay sequencer, of the replay at position `pos`: everything as it stands; a read waits for
the words issued before it that write there, and for an older `cfetch`. -/
def issueSide (s : State) (i pos : Nat) : Side :=
  let x := s.slot i
  { reg := fun q n => some (x.bank.readE q n), vl := some x.vec.vl, byte := s.byteAt i
    blocked := fun a n =>
      if x.fetchOver pos (sector a) (sector (a + n - 1)) then some .segment
      else if x.eng.out.any fun o => o.hulls.any fun h => h.wr && sector a ≤ h.hi && h.lo ≤ sector (a + n - 1) then some .engine
      else none
    ecc := s.eccAt i }

/-! ## Judging by class -/

/-- R209: the emit-time conditions of an ECLS 0 word. -/
def judgeVec (x : Slot) (w : Word) (i : Instr) : Judged :=
  let t := groupT x.id.vlmax
  let ok :=
    match i with
    | .vbcast f => f.sub != 0 || f.imm.toNat < x.id.vlmax
    | .vmrg f => groupOk x.vec.smap f.va.toNat (t + 1) && groupOk x.vec.smap f.vb.toNat (t + 1)
        && groupOk x.vec.smap f.vd.toNat (t + 1)
    | .vnorm f => f.imm.toNat < x.id.vlmax && groupOk x.vec.smap f.va.toNat (t + 1) && groupOk x.vec.smap f.vd.toNat t
    | _ => true
  if ok then .ok [] [] else .bad .badword w

/-- R235: the base address A of an access word. -/
def accessBase (e : Word) (off : BitVec 22) : Word := e + off.signExtend 64

/-- R241, R238: an access word of ECLS 1. `str` is set for a strided form, `ind` for an indexed one, `wr` for a store. -/
def judgeAccess (x : Slot) (sd : Side) (w : Word) (f : MemF) (str ind wr scadd : Bool) : Judged :=
  let win := x.window f.win.toNat
  if !win.en || (scadd && (f.win == 0 || win.fmt == .tap8)) then .bad .badword w else
  match sd.reg .vq f.eb.toNat, (if str then sd.reg .vq f.es.toNat else some 0), sd.vl with
  | some e, some st, some vl =>
    let n := win.fmt.size
    let a := accessBase e f.off
    if a.toNat % n ≠ 0 || st.toNat % n ≠ 0 then .bad .align a
    else if vl = 0 then .ok [] []
    else if ind then
      .ok (if win.base < win.limit then [⟨sector win.base, sector (win.limit - 1), wr⟩] else []) []
    else
      let z := (a + BitVec.ofNat 64 (vl - 1) * st).toNat
      if str then .ok [⟨sector (min a.toNat z), sector (max a.toNat z + n - 1), wr⟩] []
      else .ok [⟨sector a.toNat, sector (a.toNat + vl * n - 1), wr⟩] []
  | _, _, _ => .wait .engine

/-- R258, R256: one SRAM operand of a step. FAULTWORD of ALIGN is BASE, also where ROWPITCH or TILEPITCH alone is misaligned, here and for
`mst` (DESIGN CHOICE, log 67). -/
def judgePanel (sd : Side) (src : BitVec 1) (e : Nat) (d n : Nat) : Judged :=
  if src = 1 then .ok [] [] else
  match sd.reg .mq e, sd.reg .mq (e + 1) with
  | some e0, some e1 =>
    let p := panelOf e0 e1
    if p.aligned n then .ok [p.hull d n true false] [] else .bad .align (BitVec.ofNat 64 p.base)
  | _, _ => .wait .engine

/-- Two judgements, the first failure first. -/
def Judged.both (a b : Judged) : Judged :=
  match a, b with
  | .ok h d, .ok h2 d2 => .ok (h ++ h2) (d ++ d2)
  | .ok _ _, r => r
  | r, _ => r

/-- R258: the registers of a vector operand of a step. -/
def matRegsOk (x : Slot) (src : BitVec 1) (v d n : Nat) : Bool :=
  src = 0 || (let k := matRegs d n x.id.vlmax
    v + k ≤ 64 && !(List.range k).any fun j => streamEn x.vec.smap (v + j))

/-- R249, R258, R256, R265, R267: an ECLS 2 word. `iw` is FAULTWORD of MATRIXNOTOWNED (R357). -/
def judgeMat (s : State) (j : Nat) (sd : Side) (w iw : Word) (i : Instr) : Judged :=
  let x := s.slot j
  let block (e : BitVec 6) (wr : Bool) : Judged :=
    match sd.reg .mq (e.toNat % 16) with
    | none => .wait .engine
    | some v =>
      let b := (v.extractLsb' 0 21).toNat
      if b % 64 ≠ 0 then .bad .align (BitVec.ofNat 64 b) else .ok [⟨sector b, sector (b + 49216 - 1), wr⟩] []
  if !s.ownsMatrix j then .bad .matrixnotowned iw else
  match i with
  | .mstep f =>
    let d := matDepth f
    let na := matSize f.fmt true
    let nb := matSize f.fmt false
    if !matRegsOk x f.asrc f.a.toNat d na || !matRegsOk x f.bsrc f.b.toNat d nb then .bad .badword w
    else (judgePanel sd f.asrc f.a.toNat d na).both (judgePanel sd f.bsrc f.b.toNat d nb)
  | .mrd f =>
    let k := matDepth f * groupT x.id.vlmax
    if f.a.toNat + k ≤ 64 && !(List.range k).any fun r => streamEn x.vec.smap (f.a.toNat + r) then .ok [] []
    else .bad .badword w
  | .mst f =>
    let win := x.window f.flags.toNat
    if !win.en then .bad .badword w else
    match sd.reg .mq f.a.toNat, sd.reg .mq (f.a.toNat + 1) with
    | some e0, some e1 =>
      let p := panelOf e0 e1
      let n := win.fmt.size
      if p.aligned n then .ok [p.hull (matDepth f) n false true] [] else .bad .align (BitVec.ofNat 64 p.base)
    | _, _ => .wait .engine
  | .msave f => block f.a true
  | .mload f => block f.a false
  | _ => .ok [] []

/-- R291, R293: a copy word's own ranges; its descriptor stands at `a`. -/
def judgeCopyAt (x : Slot) (sd : Side) (i : Instr) (a : Nat) : Judged :=
  let out := x.outside
  let first : Judged := .ok [⟨sector a, sector (a + 31), true⟩] []
  let nd := ((dwordBy sd.byte (a + 16)).extractLsb' 0 4).toNat
  let len := match i with | .xgather _ => 64 | _ => 32 + 24 * nd
  match (if out a 32 then none else match sd.blocked a 32 with | some w => some w | none => if out a len then none else sd.blocked a len) with
  | some w => .wait w
  | none =>
    if !out a len && sd.ecc a len then .bad .eccfatal 0 else
    match i with
    | .xgather f =>
      match readGather sd.byte out a (f.mode.getLsbD 0) with
      | none => first
      | some g => .ok (⟨sector a, sector (a + 63), true⟩ :: (if f.mode.getLsbD 0 then [] else [g.dstHull])) [⟨0, 2 ^ 57 - 1, false⟩]
    | _ =>
      match readDesc sd.byte out a with
      | none => first
      | some d =>
        let s := span d.src d.dims (·.ss) d.size
        let t := span d.dst d.dims (·.ds) d.size
        let own : Hull := ⟨sector a, sector (a + d.len - 1), true⟩
        match i with
        | .xcopy _ => .ok [own, spanHull s false, spanHull t true] []
        | .xget _ => .ok [own, spanHull t true] [spanAddr s false]
        | .xput _ | .xatom _ => .ok [own, spanHull s false] [spanAddr t true]
        | _ => .ok [own] [spanAddr s false]

/-- R287: an ECLS 3 word. -/
def judgeCopy (s : State) (j : Nat) (sd : Side) (w iw : Word) (f : CopyF) (i : Instr) : Judged :=
  match sd.reg .xq f.ed.toNat, sd.reg .xq f.ef.toNat with
  | some d, some fw =>
    let fo : Judged :=
      if f.fo = 0 then .ok [] [] else
      if !s.ownsMatrix j then .bad .matrixnotowned iw else
      match decodeEng fw with
      | .ok (.mstep m) => judgeMat s j sd fw iw (.mstep m)
      | _ => .bad .badword w
    match fo with
    | .ok _ _ =>
      if d.toNat % 8 ≠ 0 then .bad .align d else judgeCopyAt (s.slot j) sd i d.toNat
    | .bad .badword _ => .bad .badword w
    | r => r
  | _, _ => .wait .engine

/-- R193, R196: a replay word's hulls. -/
def judgeReplay (x : Slot) (sd : Side) (q : Queue) (e : Nat) : Judged :=
  match sd.reg q e with
  | none => .wait .engine
  | some v =>
    let p := v.toNat
    let first : Judged := .ok [⟨sector p, sector (p + 23), false⟩] []
    if x.outside p 24 then first else
    match sd.blocked p 24 with
    | some w => .wait w
    | none =>
      if sd.ecc p 24 then .bad .eccfatal 0 else
      match readPHead sd.byte x.outside x.partSize p with
      | none => first
      | some h => .ok (⟨sector p, sector (p + 8 * h.total - 1), false⟩ ::
          (if h.hbase < h.hlimit then [⟨sector h.hbase, sector (h.hlimit - 1), true⟩] else [])) []

/-- R54 and the entries of the classes: the judgement of a decoded word on queue `q`. -/
def judgeInstr (s : State) (j : Nat) (sd : Side) (q : Queue) (w iw : Word) (i : Instr) : Judged :=
  let x := s.slot j
  match i with
  | .vld f => judgeAccess x sd w f false false false false
  | .vlds f => judgeAccess x sd w f true false false false
  | .vldx f => judgeAccess x sd w f false true false false
  | .vst f => judgeAccess x sd w f false false true false
  | .vsts f => judgeAccess x sd w f true false true false
  | .vstx f => judgeAccess x sd w f false true true false
  | .vscadd f => judgeAccess x sd w f false true true true
  | .mzero _ | .mstep _ | .mcommit _ | .mrd _ | .mst _ | .mcfg _ | .msave _ | .mload _ => judgeMat s j sd w iw i
  | .xcopy f | .xget f | .xput f | .xstream f | .xgather f | .xatom f => judgeCopy s j sd w iw f i
  | .replay e _ => judgeReplay x sd q e.toNat
  | _ => judgeVec x w i

/-- R54: a word as emitted into a queue, or refused. A word that is refused for several causes is BADWORD by R54 first; of ECLS 2 it is
then MATRIXNOTOWNED, and then what R258 has besides (DESIGN CHOICE, log 67). -/
def judgeWord (s : State) (j : Nat) (sd : Side) (q : Queue) (w iw : Word) : Judged :=
  match decodeEng w with
  | .error _ => .bad .badword w
  | .ok i => if classFits w q then judgeInstr s j sd q w iw i else .bad .badword w

/-- R181: the follow-on word of a copy, by the emit-side XQ registers. -/
def followOn (sd : Side) (w : Word) : Option Word :=
  match decodeEng w with
  | .ok (.xcopy f) | .ok (.xget f) | .ok (.xgather f) => if f.fo = 1 then sd.reg .xq f.ef.toNat else none
  | _ => none

/-- R295: the hulls of a follow-on. -/
def foHulls (s : State) (j : Nat) (sd : Side) (fw : Word) : List Hull :=
  match judgeWord s j sd .mq fw 0 with
  | .ok h _ => h
  | _ => []

/-! ## Queueing -/

/-- R262: a replay on MQ is unretired, so the emit-side open mask is unknown. -/
def Slot.maskUnknown (x : Slot) : Bool := x.eng.mq.any fun w => isReplay w.word

/-- A word appended to its queue, its follow-on's entry reserved, ESEQ counted (R169, R174, R181, R262). -/
def enqueue (s : State) (i : Nat) (q : Queue) (w : Word) (hulls dhull : List Hull) (fo : Option Word) (foh : List Hull) : State :=
  s.modSlot i fun x =>
    let e : QEntry :=
      { word := w, epc := x.gen.pc, eseq := x.bank.eseq, pos := x.gen.icnt, rm := x.vec.fcsr, mask0 := x.eng.omask, hulls := hulls
        dhull := dhull, fo := fo, sub := 0, stat := .queued, prog := {}, iter := 0, q := q }
    let eng := x.eng.setQueue q (x.eng.queue q ++ [e])
    let eng := match fo with
      | some fw => { eng with mq := eng.mq ++ [{ e with word := fw, hulls := foh, dhull := [], fo := none, sub := 1, stat := .reserved, q := .mq }] }
      | none => eng
    let m := if x.maskUnknown then x.eng.omask else maskStep (maskStep x.eng.omask w) (fo.getD 0x4040000000000000)
    { x.modBank fun b => { b with eseq := b.eseq + 1 } with eng := { eng with omask := m } }

/-- R297: the port that a copy word streams to, where this process has closed it: ENDSTREAM at its emit. -/
def streamClosed (x : Slot) (w : Word) : Option Nat :=
  let closed (n : Nat) : Option Nat := if x.writeClosed n then some n else none
  match decodeEng w with
  | .ok (.xstream f) => closed f.imm.toNat
  | .ok (.xgather f) => if f.mode.getLsbD 0 then closed f.imm.toNat else none
  | _ => none

/-- R174: EMIT, as the body of an emit instruction; `t` is the state after its operands are taken, `iw` the instruction's own
word. -/
def emitBody (s t : State) (q : Queue) (w : Word) : Body :=
  let iw := s.instrWord
  let x := t.me
  let sd := emitSide t t.cur
  match judgeWord t t.cur sd q w iw with
  | .bad c fw => .trap c fw none
  | .wait r => .wait r
  | .ok hulls dhull =>
    match streamClosed x w with
    | some port => .trap .endstream (BitVec.ofNat 64 port) none
    | none =>
    let fo := followOn sd w
    let foh := match fo with | some fw => foHulls t t.cur sd fw | none => []
    if Config.queueDepth ≤ (x.eng.queue q).length then .wait .engine
    else if fo.isSome && Config.queueDepth ≤ x.eng.mq.length then .wait .engine
    else if !t.scoreRoom t.cur (hulls.length + foh.length) then .wait .engine
    else .ok 0 s.pcNext (enqueue t t.cur q w hulls dhull fo foh)

/-- R55, R174: emit. -/
def execEmit (q : BitVec 2) (a b : Opnd) (s : State) : Out :=
  genOp s [a, b] none fun vs t =>
    emitBody s t (queueOf q) ((vs.getD 1 0).extractLsb' 0 32 ++ (vs.getD 0 0).extractLsb' 0 32)

/-- R55, R56, R174: emitt. A selector of 0 leaves its operand unused. -/
def execEmitt (q : BitVec 2) (n : BitVec 4) (a b : Opnd) (x y : BitVec 4) (s : State) : Out :=
  genOp s [a, b] none fun vs t =>
    emitBody s t (queueOf q) (patch (patch (s.me.bank.readT n.toNat) x.toNat (vs.getD 0 0)) y.toNat (vs.getD 1 0))

/-- R55, R43, R174: emitl. The literal is read as `ldpc` reads (R114, R115), under rule 2 of R107 only (DEDUCED, log 59). -/
def execEmitl (q : BitVec 2) (o : BitVec 24) (s : State) : Out :=
  genOp s [] none fun _ t =>
    let ea := literalAddr s.pc (o.signExtend 64)
    (literalAccess t s.cur ea.toNat).body ea fun _ =>
      emitBody s t (queueOf q) (BitVec.ofNat 64 (t.loadNat s.cur ea.toNat 8))

/-- R53: a word of ECLS 3 with its FO bit set. -/
def foBit (w : Word) : Bool := fEcls w == 3 && w.getLsbD 43

/-- R56, R195: a body word, patched through the selectors `sels`, may be a copy with a follow-on: it has the FO bit, or a selector reaches
that bit or the class. -/
def bodyFollows (w : Word) (sels : List Nat) : Bool :=
  foBit w || sels.any fun n => n == 11 || ((n == 2 || n == 7 || n == 9) && fEcls w == 3)

/-- R195: the pattern of a replay on XQ: where the sequencer has started, its place there, else as XQ's registers will have it. -/
def Slot.replayPlace (x : Slot) (w : QEntry) (e : Nat) : Nat :=
  if w.stat == .waiting then (w.prog.idx.headD 0).toNat
  else (esetFold e (x.bank.readE .xq e) (x.eng.xq.takeWhile fun o => o.pos < w.pos)).toNat

/-- R181, R195: an XQ replay of a slot has words still to issue, and its pattern, or an older word that still writes there, may make
one of them a copy with a follow-on (DEDUCED, log 30). -/
def State.followsAhead (s : State) (i : Nat) : Bool :=
  let x := s.slot i
  let rd := s.loadByte i
  x.eng.xq.any fun w => match decodeEng w.word with
    | .ok (.replay e _) =>
      w.stat != .passed && (let p := x.replayPlace w e.toNat
       match readPHead rd x.outside x.partSize p with
       | none => false
       | some h =>
         (x.eng.words.any fun o => o.pos < w.pos && o.hulls.any fun g => g.wr && sector p ≤ g.hi && g.lo ≤ sector (p + 8 * h.total - 1)) ||
           (List.range h.nw).any fun k => bodyFollows (dwordBy rd (p + 8 * (h.bodyAt + k))) (((strides rd p h).filter (·.widx == k)).map (·.sel)))
    | _ => false

/-- A word of a queue that the mask names is unretired. The follow-on of a copy is an MQ word whether its copy was emitted or issued by
the replay sequencer, also where that copy is still to be issued (DEDUCED, log 30). -/
def State.queueBusy (s : State) (i : Nat) (m : BitVec 3) : Bool :=
  ((s.slot i).eng.words.any fun w => m.getLsbD (queueNum w.q)) || (m.getLsbD (queueNum .mq) && s.followsAhead i)

/-- R182: gwait. -/
def execGwait (m : BitVec 3) (s : State) : Out :=
  genOp s [] none fun _ t => if t.queueBusy t.cur m then .wait .engine else .ok 0 s.pcNext t

/-- R263: a word belongs to batch `b`, as an `mstep` or an `mcommit`. -/
def ofBatch (b : BitVec 3) (w : Word) : Bool :=
  match decodeEng w with
  | .ok (.mstep f) | .ok (.mcommit f) => f.batch == b
  | _ => false

/-- R249, R263: mwaitb. -/
def execMwaitb (b : BitVec 3) (s : State) : Out :=
  genOp s [] none fun _ t =>
    if !t.ownsMatrix t.cur then .trap .matrixnotowned s.instrWord none
    else if t.me.maskUnknown then .wait .engine
    else if t.me.eng.omask.getLsbD b.toNat then .trap .accopen (b.zeroExtend 64) none
    else if (t.me.eng.words.any fun w => ofBatch b w.word) || t.followsAhead t.cur then .wait .engine
    else .ok 0 s.pcNext t

end Sys2Proof.Machine
end

