-- ==== Sys2Proof/Machine/ChannelInstr.lean ====
section
/-! DEFINITION. The burst instructions (R142, R143) and `chctl` (R145). -/

namespace Sys2Proof.Machine

/-- The channel of a port of the slot that moves. -/
def State.portChan (s : State) (port : Nat) : Option Chan :=
  let p := s.me.port port
  if p.bound then s.chan? p.net p.ch else none

/-- R143: one slot has moved: ga and gb are permanent at once. -/
def burstStep (s : State) (a b : Opnd) (size : Nat) : State :=
  s.modMe fun x => x.modBank fun k =>
    (k.writeG a.toNat (k.readG a.toNat + BitVec.ofNat 64 size)).writeG b.toNat (k.readG b.toNat - 1)

/-- R143: one slot received into SRAM, its credit returned. -/
def recvOne (s : State) (port : Nat) (c : Chan) (a b : Opnd) : State :=
  let p := s.me.port port
  let data := s.slotBytes s.cur c p.k
  let addr := (s.me.bank.readG a.toNat).toNat
  let s := s.modMe fun x => x.modPort port fun p => { p with k := p.k + 1 }
  let s := commitRead s s.cur port 1
  burstStep (s.putBytesAt s.cur addr data) a b c.size

/-- R143: one slot sent from SRAM. -/
def sendOne (s : State) (port : Nat) (c : Chan) (a b : Opnd) : State :=
  let data := s.bytesAt s.cur (s.me.bank.readG a.toNat).toNat c.size
  let s := s.modMe fun x => x.modPort port fun p => p.takeFree
  burstStep (transmit s s.cur port data) a b c.size

/-- R146: an EOSBITS bit set. -/
def setEos (s : State) (port : Nat) : State :=
  s.modMe fun x => { x with vec := { x.vec with eos := x.vec.eos ||| (1#16 <<< port) } }

/-- R143: the loop of `recvb` over `n` slots: what is at hand moves, then the slot waits, faults or completes. -/
def recvLoop (port : Nat) (a b : Opnd) : Nat → State → Out
  | 0, s => .next (finishG s s.pcNext)
  | n + 1, s =>
    match s.portChan port with
    | none => trapG s .portunbound (BitVec.ofNat 64 port) none
    | some c =>
      match (s.me.port port).readAt c (s.me.port port).k with
      | .data => recvLoop port a b n (recvOne s port c a b)
      | .fin =>
        if c.eostol then .next (finishG (setEos s port) s.pcNext) else trapG s .endstream (BitVec.ofNat 64 port) none
      | .diff => trapG s .mirrordiff (BitVec.ofNat 64 c.chid) none
      | .sev => trapG s .severed (BitVec.ofNat 64 port) none
      | .empty => waitG s (.readPort port 0)

/-- R143: the loop of `sendb`. -/
def sendLoop (port : Nat) (a b : Opnd) : Nat → State → Out
  | 0, s => .next (finishG s s.pcNext)
  | n + 1, s =>
    match s.portChan port with
    | none => trapG s .portunbound (BitVec.ofNat 64 port) none
    | some c =>
      match writeReady s s.cur port with
      | .go => sendLoop port a b n (sendOne s port c a b)
      | .trap cause fw => trapG s cause fw none
      | .wait w => waitG s w

/-- R143: the frame of a burst: the commit point, the port checks, ALIGN, the range, then the loop. The whole range is checked before the
first slot moves, so no slot wraps in it (R144). An empty range holds no
byte that could break R107. DEDUCED (log 53): a port mapped in STREAMMAP may be named, since R133 speaks of operands that read or
write their port. -/
def burst (s : State) (p a b : Opnd) (wr : Bool) : Out :=
  if opReserved p then trapG s .badopnd s.instrWord none
  else if !s.me.committed then waitG s .engine
  else
    let port := opPort p
    match s.portChan port with
    | none => trapG s .portunbound (BitVec.ofNat 64 port) none
    | some c =>
      let ga := s.me.bank.readG a.toNat
      let n := (s.me.bank.readG b.toNat).toNat
      if (s.me.port port).isW != wr then trapG s .portunbound (BitVec.ofNat 64 port) none
      else if wr && s.me.writeClosed port then trapG s .endstream (BitVec.ofNat 64 port) none
      else if ga.extractLsb' 0 3 ≠ 0 then trapG s .align ga none
      else if 0 < n && s.badRange s.cur ga.toNat (n * c.size) (!wr) then trapG s .window ga none
      else if wr && s.me.waitsSeg ga.toNat (n * c.size) then waitG s .segment
      else if wr && 0 < n && s.eccAt s.cur ga.toNat (n * c.size) then trapG s .eccfatal 0 none
      else if wr then sendLoop port a b n s else recvLoop port a b n s

/-- R143: recvb. -/
def execRecvb (p a b : Opnd) (s : State) : Out := burst s p a b false
/-- R143: sendb. -/
def execSendb (p a b : Opnd) (s : State) : Out := burst s p a b true

/-- R145: the port that a `chctl` names, of the direction it requires. -/
def chctlPort (s : State) (p : Opnd) (wr : Bool) : Option Port :=
  let q := s.me.port (opPort p)
  if q.bound && q.isW == wr then some q else none

/-- R145, R137, R159: chctl close. -/
def execChctlClose (p : Opnd) (s : State) : Out :=
  if opReserved p then trapG s .badopnd s.instrWord none else
  genOp s [] none fun _ t =>
    match chctlPort t p true with
    | none => .trap .portunbound (BitVec.ofNat 64 (opPort p)) none
    | some q =>
      if t.me.writeClosed (opPort p) then .ok 0 s.pcNext t
      else if q.sev then .trap .severed (BitVec.ofNat 64 (opPort p)) none
      else if t.me.histFull 1 then .wait .engine
      else .ok 0 s.pcNext (t.modMe fun x => x.log (.close (opPort p)))

/-- R145: chctl eosrd: the checks of chN, then those of a port in gd (R44, R134). -/
def execChctlEosrd (d p : Opnd) (s : State) : Out :=
  if opReserved p || opReserved d then trapG s .badopnd s.instrWord none else
  match chctlPort s p false with
  | none => trapG s .portunbound (BitVec.ofNat 64 (opPort p)) none
  | some _ =>
    genOp s [] (some d) fun _ t =>
      if t.me.streamReader (opPort p) then .wait .engine
      else .ok (boolWord (t.me.vec.eos.getLsbD (opPort p))) s.pcNext t

/-- R145: chctl eosclr. -/
def execChctlEosclr (p : Opnd) (s : State) : Out :=
  if opReserved p then trapG s .badopnd s.instrWord none else
  genOp s [] none fun _ t =>
    match chctlPort t p false with
    | none => .trap .portunbound (BitVec.ofNat 64 (opPort p)) none
    | some _ =>
      if t.me.streamReader (opPort p) then .wait .engine
      else if t.me.histFull 1 then .wait .engine
      else .ok 0 s.pcNext (t.modMe fun x =>
        let x := x.log (.eos (opPort p) (x.vec.eos.getLsbD (opPort p)))
        { x with vec := { x.vec with eos := x.vec.eos &&& ~~~(1#16 <<< (opPort p)) } })

end Sys2Proof.Machine
end

