-- ==== Sys2Proof/Machine/Sync.lean ====
section
/-! DEFINITION. Barriers and phases: `gbar` (R326), `phase` (R337), the release of a barrier (R326, R328), the boundary and its
merge (R338-R344). -/

namespace Sys2Proof.Machine

/-- R324: a group of a network. -/
def Net.group? (n : Net) (gid : Nat) : Option Group := n.groups.find? fun g => g.gid == gid

/-- R324: a group of a network, changed. -/
def Net.modGroup (n : Net) (gid : Nat) (f : Group → Group) : Net :=
  { n with groups := n.groups.map fun g => if g.gid == gid then f g else g }

/-- R326, R337: the slot belongs to the group it names. The control tile belongs to no network (log 7). -/
def State.inGroup (s : State) (gid : BitVec 8) : Bool :=
  s.cur != Config.controlSlot && match s.nets[s.me.id.net]? with
  | none => false
  | some n => (n.group? gid.toNat).isSome && (gid == 0 || s.me.id.gids.contains gid)

/-- The frame of `gbar` and `phase`: GROUP, the commit point, then the arrival, which is permanent; the slot waits with its pc
already past the instruction. -/
def arriveAt (s : State) (gid : BitVec 8) (k : State → State × Wait) : Out :=
  if !s.inGroup gid then trapG s .group (gid.zeroExtend 64) none
  else if !s.me.committed then waitG s .engine
  else
    let (t, w) := k (finishG s s.pcNext)
    .next (t.modMe fun x => { x with gen := { x.gen with wait := w } })

/-- R326: gbar. -/
def execGbar (g : BitVec 8) (s : State) : Out :=
  arriveAt s g fun s =>
    let pid := s.me.id.pid.toNat
    let e := match (s.nets[s.me.id.net]?).bind fun n => n.group? g.toNat with
      | some r => Sparse.get 0 r.bar pid + 1
      | none => 1
    (s.modNet s.me.id.net fun n => n.modGroup g.toNat fun r => { r with bar := Sparse.set 0 r.bar pid e }, .barrier g e)

/-- R335, R337: the number of episodes of a group that a process knows, by network and PID. -/
def State.episodes (s : State) (net pid gid : Nat) : Nat :=
  match (s.nets[net]?).bind fun n => n.procs.find? fun p => p.pid == pid with
  | some p => knows p.know gid
  | none => 0

/-- R337: phase. -/
def execPhase (g : BitVec 8) (s : State) : Out :=
  arriveAt s g fun s =>
    let pid := s.me.id.pid.toNat
    let e := s.episodes s.me.id.net pid g.toNat + 1
    (s.modNet s.me.id.net fun n => n.modGroup g.toNat fun r => { r with ph := Sparse.set 0 r.ph pid e }, .phase g e)

/-- Insertion into a list kept in order by a key. -/
def insertBy {α : Type} (lt : α → α → Bool) (x : α) : List α → List α
  | [] => [x]
  | y :: l => if lt x y then x :: y :: l else y :: insertBy lt x l

/-- Processes in increasing PID. -/
def byPid (ps : List Proc) : List Proc := ps.foldr (insertBy fun p q => p.pid < q.pid) []

/-- The processes of a group, in increasing PID. -/
def Net.members (n : Net) (g : Group) : List Proc := byPid (n.procs.filter fun p => g.members.contains p.pid)

/-- The slot a resident process of a network stands in. -/
def Proc.slotNo (p : Proc) : Nat := 4 * p.tile + p.slot

/-- R326, R327: the slots of a group that a wait holds are made ready. -/
def releaseWaits (s : State) (ps : List Proc) (w : Wait) : State :=
  ps.foldl (fun s p =>
    if !p.saved && (s.slot p.slotNo).gen.wait == w then
      s.modSlot p.slotNo fun x => { x with gen := { x.gen with wait := .none } }
    else s) s

/-- R326, R324: the barrier of a group is released when every member has registered the episode or has exited: EPOCH rises and
every waiting member is ready. -/
def execBarrierRelease (net gid : Nat) (s : State) : Out :=
  match s.nets[net]? with
  | none => .next s
  | some n =>
    match n.group? gid with
    | none => .next s
    | some g =>
      let mem := n.members g
      let e := g.epoch + 1
      let here (p : Proc) : Bool := e ≤ Sparse.get 0 g.bar p.pid
      if mem.any here && mem.all fun p => here p || p.exited then
        .next (releaseWaits (s.modNet net fun n => n.modGroup gid fun g => { g with epoch := e }) mem (.barrier (BitVec.ofNat 8 gid) e))
      else .next s

/-! ## Boundaries (R338) -/

/-- R338: the pointwise maximum of knowledge vectors. -/
def joinKnow (ks : List (Sparse Nat)) : Sparse Nat :=
  ks.foldl (fun a k => k.foldl (fun a (g, e) => Sparse.set 0 a g (max (knows a g) e)) a) []

/-- R338: the bytes that some of the processes wrote, in VA order, with the writers in increasing PID: the first
value is merged. -/
def mergeSets (ps : List Proc) : List (Nat × Byte × Proc × Option Proc) :=
  ps.foldl (fun acc p =>
    p.wset.foldl (fun acc (va, b) =>
      match b with
      | none => acc
      | some b =>
        if acc.any fun x => x.1 == va then
          acc.map fun x => if x.1 == va && x.2.2.2.isNone then (x.1, x.2.1, x.2.2.1, some p) else x
        else insertBy (fun x y => x.1 < y.1) (va, b, p, none) acc) acc) []

/-- R338, R342: the merge of the write sets under stamp (gid, e): the versions, and the conflicts of kind 0. -/
def mergeVersions (gid e : Nat) (ps : List Proc) : List Version × List (Nat × Conflict) :=
  let m := mergeSets ps
  (m.map fun (va, b, p, _) => ⟨va, b, gid, e, p.pid, p.know⟩,
   m.filterMap fun (va, _, p, q) => q.map fun q =>
     (va, ⟨0, va / 64, 1#64 <<< (va % 64), p.pid, q.pid, gid, e, (gid, e), (gid, e)⟩))

/-- R300: one contribution combined. -/
def combine (op : Nat) (x v : BitVec 32) : BitVec 32 :=
  match op with
  | 0 => BitVec.ofNat 32 (addF .rne x.toNat v.toNat).1
  | 1 => x + v
  | 2 => BitVec.ofNat 32 (minMax true x.toNat v.toNat).1
  | _ => BitVec.ofNat 32 (minMax false x.toNat v.toNat).1

/-- R336: VIEW of a byte of a network under a knowledge vector, from the frame where no version is known. -/
def viewByte (s : State) (n : Net) (know : Sparse Nat) (va : Nat) : Byte :=
  match viewVersions n know va with
  | some b => b
  | none => (rawByte s n.tenant va).getD 0

/-- R338, R300: the addresses that received contributions from the processes, with each one's contributions in order. -/
def contribAddrs (ps : List Proc) : List Nat :=
  (ps.flatMap fun p => p.contribs.map (·.va)).foldl (fun l a => if l.contains a then l else insertBy (fun a b => a < b) a l) []

/-- R338, R300: the `xatom` step at one address: the four bytes under K, combined, become versions stamped (gid, e). -/
def atomStep (s : State) (net gid e : Nat) (know : Sparse Nat) (ps : List Proc) (a : Nat) : State :=
  match s.nets[net]? with
  | none => s
  | some n =>
    let viewer : Proc := { pid := 0, tile := 0, slot := 0, timing := false, matrix := false, world := false, vlmax := 0, base := 0
                           size := 0, entry := 0, gids := [], extents := [], tmpl := 0, winoff := 0, cseg := 0, saved := false
                           exited := false, stopped := false, wset := [], contribs := [], know := know, use := [] }
    let cs := (List.range 4).filterMap fun k => viewConflict n viewer (a + k)
    let s := noteConflicts s net cs
    let x := BitVec.ofNat 32 (leNat ((List.range 4).map fun k => viewByte s n know (a + k)))
    let mine := ps.filter fun p => p.contribs.any fun c => c.va == a
    let v := (mine.flatMap fun p => p.contribs.filter fun c => c.va == a).foldl (fun x c => combine c.op x c.val) x
    let w := match mine with | p :: _ => p.pid | [] => 0
    let vs : List Version := (List.range 4).map fun k => ⟨a + k, v.extractLsb' (8 * k) 8, gid, e, w, know⟩
    s.modNet net fun n => { n with versions := (n.versions.filter fun u =>
      !(a ≤ u.va && u.va < a + 4 && u.gid == gid && u.ep == e)) ++ vs }

/-- The writers of the versions of a byte that are concurrent under a knowledge vector, with its VA. -/
def concurrent (n : Net) (know : Sparse Nat) (va : Nat) : List (Nat × Nat) :=
  let c := candidates n.versions know va
  if 1 < c.length then c.map fun v => (v.wpid, va) else []

/-- R338, R341: the `xatom` step over every address that received a contribution, in VA order; at a boundary of group 0 with the
writers of the concurrent versions that it reads. At another group's boundary such a conflict is only logged, in strict mode too: no word
reads there, and R341 charges the writers at group 0 alone (DESIGN CHOICE, log 65). -/
def atomSteps (s : State) (net gid e : Nat) (know : Sparse Nat) (ps : List Proc) : List Nat → List (Nat × Nat) → State × List (Nat × Nat)
  | [], wrote => (s, wrote)
  | a :: l, wrote =>
    let mine := if gid = 0 then
        match s.nets[net]? with
        | some n => (List.range 4).flatMap fun k => concurrent n know (a + k)
        | none => []
      else []
    atomSteps (atomStep s net gid e know ps a) net gid e know ps l (wrote ++ mine)

/-- Lists in lexicographic order. -/
def listBefore : List Nat → List Nat → Bool
  | x :: l, y :: m => x < y || (x == y && listBefore l m)
  | _, _ => false

/-- R342: what the conflict log is sorted by: (GID, EPISODE, KIND, SECTOR); entries that are equal there by what else tells them apart, the
first conflicting byte, the PIDs, the stamps of the pair (DEDUCED, log 29). -/
def Conflict.sortKey (c : Conflict) : List Nat :=
  [c.gid, c.ep, c.kind, c.sec, ((List.range 64).find? fun k => c.bytes.getLsbD k).getD 64, c.wpid, c.lpid, c.wst.1, c.wst.2, c.lst.1, c.lst.2]

/-- R342: the order of the conflict log. -/
def Conflict.before (a b : Conflict) : Bool := listBefore a.sortKey b.sortKey

/-- R342: a log entry's 32 bytes. -/
def Conflict.bytesOf (c : Conflict) : List Byte :=
  natLe (c.sec % 2 ^ 51 * 64) 8 ++ natLe c.bytes.toNat 8 ++
  natLe (c.wpid % 2 ^ 16 + c.lpid % 2 ^ 16 * 2 ^ 16 + c.gid % 2 ^ 8 * 2 ^ 32 + c.kind % 2 * 2 ^ 40) 8 ++ natLe (c.ep % 2 ^ 32) 8

/-- R342: the log written to the tenant's memory: sorted, its first LOGMAX entries. -/
def writeLog (s : State) (net : Nat) : State :=
  match s.nets[net]? with
  | none => s
  | some n =>
    let l := (n.log.foldl (fun l c => insertBy Conflict.before c l) []).take n.logMax.toNat
    rawStore s n.tenant n.logVa.toNat (l.flatMap Conflict.bytesOf)

/-- R345: the image of a tenant is published: what it has stored to its frames since its last publication is seen; what no word under way
still reads is let go. -/
def publish (s : State) (tenant : Nat) : State :=
  let close (o : OldGranule) : OldGranule := if o.owner == some tenant then { o with pub := s.pub, owner := none } else o
  let needed (o : OldGranule) : Bool := o.owner.isSome || s.slots.any fun (_, x) => x.eng.words.any fun w =>
    w.stat == .passed && fEcls w.word == 3 && w.prog.pub ≤ o.pub
  { s with pub := s.pub + 1, pubLog := (s.pubLog.map close).filter needed }

/-- R129: a tenant's image is about to be written to its frames: the requests of its `cfetch`es that still await their page keep the bytes
that stand there. -/
def holdViews (s : State) (tenant : Nat) (vas : List Nat) : State :=
  let old (r : SegReq) (va : Nat) : Option (Nat × Byte) :=
    if r.va.toNat ≤ va && va < r.va.toNat + 4096 && !r.view.any fun v => v.1 == va then (rawByte s tenant va).map fun b => (va, b) else none
  let hold (r : SegReq) : SegReq :=
    if r.sent && r.image.isNone && r.fail.isNone then { r with view := r.view ++ vas.filterMap (old r) } else r
  (s.slots.map (·.1)).foldl (fun s i => s.modSlot i fun x =>
    if x.id.tenant == tenant && x.segs.any fun (_, g) => g.st == .inflight then
      { x with segs := x.segs.map fun (k, g) => (k, { g with reqs := g.reqs.map hold }) }
    else x) s

/-- R37: a network's processes still read and write: it runs, or its last boundaries are still to be merged. -/
def Net.views (n : Net) : Bool := n.st == .running || (n.st == .bindoff && !n.closing)

/-- R28, R335, R336: the image of one network of a tenant is about to be written: the tenant's other networks that still read keep, of each
byte, the contents of their cast-on (DEDUCED, log 31). -/
def holdBase (s : State) (net tenant : Nat) (vas : List Nat) : State :=
  let keep (b : Sparse (Option Byte)) (va : Nat) : Sparse (Option Byte) :=
    if (Sparse.get none b va).isSome then b else Sparse.set none b va (rawByte s tenant va)
  (List.range s.nets.length).foldl (fun t k => if k = net then t else t.modNet k fun n =>
    if n.tenant == tenant && n.views then { n with base := vas.foldl keep n.base } else n) s

/-- R285: the writes of a boundary, metered by sector where each page's frame lies. -/
def chargeImage (s : State) (tenant : Nat) (vas : List Nat) : State :=
  (vas.foldl (fun (l : List Nat) va => if l.contains (sector va) then l else sector va :: l) []).foldl
    (fun s x => chargeVa s tenant (64 * x) 64) s

/-- R340, R345: the tenant image point: for each byte the version of VIEW under full knowledge is kept and written to its frame, the
others are released; conflicts of kind 1 found here are logged, the log is written, and the image is published with it. Answers the state and the writers of
each conflict found. -/
def tenantImage (s : State) (net : Nat) (know : Sparse Nat) : State × List (Nat × Nat) :=
  match s.nets[net]? with
  | none => (s, [])
  | some n =>
    let vas := n.versions.foldl (fun l v => if l.contains v.va then l else insertBy (fun a b => a < b) v.va l) ([] : List Nat)
    let keep := vas.filterMap fun va => lowestWriter (candidates n.versions know va)
    let viewer (p : Proc) : Proc := { p with wset := [], know := know }
    let cs := match n.procs with
      | [] => []
      | p :: _ => vas.filterMap fun va => viewConflict n (viewer p) va
    let s := noteConflicts s net cs
    let vas' := keep.map (·.va)
    let s := holdBase (holdViews (chargeImage s n.tenant vas') n.tenant vas') net n.tenant vas'
    let s := writeLog (keep.foldl (fun s v => rawStore s n.tenant v.va [v.val]) s) net
    ((publish s n.tenant).modNet net fun n => { n with versions := keep }, vas.flatMap fun va => concurrent n know va)

/-- The first byte, in VA order, among those a PID is charged with. -/
def firstOf (l : List (Nat × Nat)) (pid : Nat) : Option Nat :=
  l.foldl (fun o (p, va) => if p = pid then (match o with | none => some va | some v => some (min v va)) else o) none

/-- R338, R340: what the members know after the boundary: what one of them knew, with this episode; after one of group 0 every
completed episode, those of processes that have exited too. -/
def knowAfter (n : Net) (gid e : Nat) (ps : List Proc) : Sparse Nat :=
  Sparse.set 0 (joinKnow ((if gid = 0 then n.procs else ps).map (·.know))) gid e

/-- R338, R339, R340: the boundary of episode `e` of a group, for the processes `ps`, taken in increasing PID. Answers the state after
the merge and, for each conflict that charges its writers (R341), who wrote the byte. -/
def boundaryMerge (s : State) (net gid e : Nat) (ps : List Proc) : State × List (Nat × Nat) :=
  let ps := byPid ps
  let know := Sparse.set 0 (joinKnow (ps.map (·.know))) gid e
  let (vs, cs) := mergeVersions gid e ps
  let s := s.modNet net fun n => { n with versions := n.versions ++ vs }
  let s := noteConflicts s net (cs.map (·.2))
  let wrote := cs.flatMap fun (va, _) =>
    (ps.filter fun p => (Sparse.get none p.wset va).isSome).map fun p => (p.pid, va)
  let (s, wrote) := atomSteps s net gid e know ps (contribAddrs ps) wrote
  let pids := ps.map (·.pid)
  let after := match s.nets[net]? with | some n => knowAfter n gid e ps | none => know
  let done (p : Proc) : Proc :=
    if pids.contains p.pid then { p with know := after, wset := [], contribs := [], use := if gid = 0 then [] else p.use } else p
  let s := s.modNet net fun n => { n with procs := n.procs.map done }
  if gid = 0 then
    let (s, more) := tenantImage s net after
    (s, wrote ++ more)
  else (s, wrote)

/-- R341: a process that wrote a conflicting byte takes PHASECONFLICT, now at the end of its `phase`, or, where it is saved or in a
handler, when it is back at level P (log 51). One that has stopped takes no fault (R349). -/
def chargeConflict (s : State) (net : Nat) (p : Proc) (va : Nat) : State :=
  if p.stopped then s
  else if p.saved || !(s.slot p.slotNo).atP then s.modNet net fun n => n.modProc p.pid fun p => { p with pend := some va }
  else raiseConflict s p.slotNo va

/-- R337, R338: the boundary that a group is to take: every member has registered its arrival or has exited. Its episode, and the
members that arrived. -/
def Net.boundaryDue (n : Net) (g : Group) : Option (Nat × List Proc) :=
  let live := (n.members g).filter fun p => !p.exited
  match live with
  | [] => none
  | p :: _ =>
    if live.all fun p => Sparse.get 0 g.ph p.pid == knows p.know g.gid + 1 then some (knows p.know g.gid + 1, live) else none

/-- R337, R338, R341: a boundary that is due happens: the merge, the release of every waiting member, and in strict mode PHASECONFLICT
for those that wrote a conflicting byte. -/
def execBoundary (net gid : Nat) (s : State) : Out :=
  match s.nets[net]? with
  | none => .next s
  | some n =>
    match n.group? gid with
    | none => .next s
    | some g =>
      match n.boundaryDue g with
      | none => .next s
      | some (e, live) =>
        let (s, wrote) := boundaryMerge s net gid e live
        let s := releaseWaits s (n.members g) (.phase (BitVec.ofNat 8 gid) e)
        if n.strict then
          .next (live.foldl (fun s p =>
            match firstOf wrote p.pid with
            | none => s
            | some va => chargeConflict s net p va) s)
        else .next s

/-- R349: the boundaries of a network that are due are merged. -/
def mergeDue (s : State) (net : Nat) : State :=
  match s.nets[net]? with
  | none => s
  | some n => n.groups.foldl (fun s g =>
      match (s.nets[net]?).bind fun n => n.boundaryDue g with
      | some (e, live) => (boundaryMerge s net g.gid e live).1
      | none => s) s

end Sys2Proof.Machine
end

