-- ==== Sys2Proof/Machine/Save.lean ====
section
/-! DEFINITION. The save engine (R364, R365): the slot record, its writing and its restoring. -/

namespace Sys2Proof.Machine

/-- R112: the VALID segments, one bit each. -/
def Slot.csegvalid (x : Slot) : Word :=
  BitVec.ofNat 64 ((List.range x.codeSegs).foldl (fun n k => if (x.seg k).st == .valid then n + 2 ^ k else n) 0)

/-- R354: STATUS. -/
def Slot.status (x : Slot) : Word :=
  0#58 ++ BitVec.ofBool x.id.world ++ BitVec.ofBool x.id.timing ++ x.id.plevel ++ x.id.level

/-- Dwords as bytes. -/
def dwordBytes (l : List Word) : List Byte := l.flatMap fun w => natLe w.toNat 8

/-! ## Ports (R161, R364) -/

/-- R364: slots in a turn of a reader's buffer. -/
def Chan.turn (c : Chan) : Nat := c.cap0 * c.legs

/-- R150, R364: slots that have arrived in a reader's buffer and are not yet read: legs of results not yet whole, and the slots of both
halves of a mirrored buffer, among them. -/
def Port.unread (p : Port) (c : Chan) : Nat := p.arr.sum - (if c.mirror then 2 * p.kc else p.kc)

/-- R364, log 27: the counts of arrivals of a reader at cursor `k` with `n` slots unread, taken in the order of their positions. -/
def Chan.arrAt (c : Chan) (k n : Nat) : List Nat :=
  if c.mirror then [k + (n + 1) / 2, k + n / 2] else (List.range c.legs).map fun j => (k + n + c.legs - 1 - j) / c.legs

/-- R364: the two dwords of a port. -/
def portRecord (s : State) (p : Port) : List Word :=
  match (if p.bound then s.chan? p.net p.ch else none), s.nets[p.net]? with
  | some c, some n =>
    let low := if p.isW then (p.freeCount c n).getD 0 else p.kc % c.turn
    let flags := p.closed.toNat * 2 ^ 32 + p.closed.toNat * 2 ^ 33 + p.gen.toNat * 2 ^ 34
    [BitVec.ofNat 64 (low % 2 ^ 32 + flags),
     BitVec.ofNat 64 (if p.isW then p.seq % 2 ^ 24 else p.unread c % 2 ^ 32)]
  | _, _ => [0, 0]

/-- Log 27: what the record of a port does not hold. -/
def portKept (c : Chan) (p : Port) : List Nat :=
  let opt (o : Option Nat) : Nat := match o with | some k => k + 1 | none => 0
  if p.isW then [p.seq / 2 ^ 24, p.sev.toNat] ++ p.free
  else [p.kc / c.turn, p.sev.toNat, opt p.fin, opt p.diff, p.unread c, 0] ++ p.arr

/-- R161: every credit that reader `r` of a channel owes at its port goes out. -/
def flushPort (s : State) (net : Nat) (c : Chan) (r : Nat) (p : Port) : State :=
  let most := p.owed.foldl (fun m (_, n) => max m n) 0
  (List.range (most / 255 + 1)).foldl (fun s _ => sendCredits s net c r) s

/-- R161: every credit that the readers of a slot owe goes out. -/
def flushCredits (s : State) (i : Nat) : State :=
  (s.slot i).ports.foldl (fun s (_, p) =>
    match (if p.bound && !p.isW then s.chan? p.net p.ch else none) with
    | some c => flushPort s p.net c p.ix p
    | none => s) s

/-- Log 27: the channels keep what the records of a slot's ports do not hold. -/
def keepPorts (s : State) (i : Nat) : State :=
  (s.slot i).ports.foldl (fun s (_, p) =>
    if !p.bound then s else
    s.modChan p.net p.ch fun c =>
      { c with kept := Sparse.set [] c.kept (2 * p.ix + p.isW.toNat) (portKept c p) }) s

/-- R364, R365: a port restored from its two dwords; the generation is the binding's. -/
def restorePort (s : State) (p : Port) (d0 d1 : Word) : Port :=
  match (if p.bound then s.chan? p.net p.ch else none) with
  | none => p
  | some c =>
    let low := (d0.extractLsb' 0 32).toNat
    let kept := Sparse.get [] c.kept (2 * p.ix + p.isW.toNat)
    let opt (n : Nat) : Option Nat := if n = 0 then none else some (n - 1)
    let p := { p with gen := c.gen, closed := d0.getLsbD 32, sev := kept.getD 1 0 == 1, owed := [] }
    if p.isW then
      -- the readers' own counts, with the least of them as the record has it
      let fs := kept.drop 2
      let least := fs.foldl min (fs.headD low)
      { p with seq := kept.headD 0 * 2 ^ 24 + (d1.extractLsb' 0 24).toNat
               free := (List.range (max 1 c.readers.length)).map fun r => low + (fs.getD r least - least) }
    else
      let k := kept.headD 0 * c.turn + low % c.turn
      let n := (d1.extractLsb' 0 32).toNat
      -- the counts of the several legs or halves, where the record still has their sum
      { p with k := k, kc := k, fin := opt (kept.getD 2 0), diff := opt (kept.getD 3 0)
               arr := if c.streams ≠ 1 && kept.getD 4 (n + 1) = n then kept.drop 6 else c.arrAt k n }

/-! ## The record -/

/-- R364: the state part of a slot's record, as pieces at their offsets. -/
def recordParts (s : State) (i : Nat) : List (Nat × List Byte) :=
  let x := s.slot i
  let b := x.pb
  let v := x.vec
  let num (n : Nat) (f : Nat → Word) : List Byte := dwordBytes ((List.range n).map f)
  [(0x000, dwordBytes [x.status, x.tr.pc.zeroExtend 64, b.eseq.zeroExtend 64, x.tr.waitd]),
   (0x040, num 31 fun k => b.readG (k + 1)),
   (0x140, num 16 b.readT),
   (0x1C0, num 16 (b.readE .vq)),
   (0x240, num 16 (b.readE .mq)),
   (0x2C0, num 16 (b.readE .xq)),
   (0x340, dwordBytes [x.tr.rpat] ++ num 6 fun k => (Sparse.get 0 x.tr.ridx k).zeroExtend 64),
   (0x380, dwordBytes [v.fflags.zeroExtend 64, v.fcsr.zeroExtend 64, BitVec.ofNat 64 v.vl, x.csegvalid, v.smap, v.eos.zeroExtend 64,
      BitVec.ofNat 64 v.closedwr, BitVec.ofNat 64 v.staledrop, (s.accov i).zeroExtend 64]),
   (0x3C8, num 7 fun k => Sparse.get 0 v.win (k + 1)),
   (0x400, (List.range 16).flatMap fun k => dwordBytes (portRecord s (x.port k))),
   (0x500, num 7 fun k => Sparse.get 0 v.m (k + 1)),
   (0x600, (List.range 64).flatMap fun k => natLe (Sparse.get 0 v.v k).toNat (4 * x.id.vlmax))]

/-- R364: the partition of a slot. -/
def partBytes (s : State) (i : Nat) : List Byte :=
  let x := s.slot i
  (s.tile (tileOf i)).sram.bytes (x.id.base * 4096) (x.id.size * 4096)

/-- R365: what the translation of the save area gives. -/
inductive SaveRes
  | ok (leaves : List (Nat × Word)) | page (vpn : Nat) | bad

/-- R365: the pages of the save area, translated as the tenant. -/
def savePages (s : State) (i : Nat) (d : Ident) (wr : Bool) : List Nat → List (Nat × Word) → SaveRes × State
  | [], ls => (.ok ls, s)
  | vpn :: l, ls =>
    if 2 ^ 36 ≤ vpn then (.bad, s) else
    match translate s (tileOf i) d.tenant d.world vpn wr false with
    | (.ok f, s) => savePages s i d wr l (ls ++ [(vpn, f)])
    | (.bad _, s) => (.bad, s)
    | (.page, s) => (.page vpn, s)

/-- R365: the pages of the record at SAVEVA. -/
def Slot.saveVpns (x : Slot) : List Nat :=
  let va := x.tr.saveva.toNat
  let last := if x.tr.savepart then va + 0x8000 + x.id.size * 4096 - 1 else va + 0x600 + 256 * x.id.vlmax - 1
  (List.range (vpnOf last + 1 - vpnOf va)).map fun k => vpnOf va + k

/-- A byte stored through one of the leaves. -/
def storeLeaf (s : State) (ls : List (Nat × Word)) (va : Nat) : List Byte → State
  | [] => s
  | b :: bs =>
    let s := match ls.find? fun p => p.1 == vpnOf va with
      | some (_, l) => pageStore s l (va % 2 ^ 21) b
      | none => s
    storeLeaf s ls (va + 1) bs
/-- A byte read through one of the leaves. -/
def loadLeaf (s : State) (ls : List (Nat × Word)) (va : Nat) : Byte :=
  match ls.find? fun p => p.1 == vpnOf va with
  | some (_, l) => (pageByte s none l (va % 2 ^ 21)).1
  | none => 0

/-- R285, R365: a record moves under the token bucket. -/
def chargeRecord (s : State) (i : Nat) (ls : List (Nat × Word)) : State :=
  let x := s.slot i
  let n := if x.tr.savepart then 0x8000 + x.id.size * 4096 else 0x600 + 256 * x.id.vlmax
  chargeRange s x.id.tenant ls x.tr.saveva.toNat n

/-- R364, R365: the record is written. -/
def writeRecord (s : State) (i : Nat) (ls : List (Nat × Word)) : State :=
  let s := keepPorts (flushCredits (chargeRecord s i ls) i) i
  let x := s.slot i
  let va := x.tr.saveva.toNat
  let s1 := (recordParts s i).foldl (fun t (o, bs) => storeLeaf t ls (va + o) bs) s
  if x.tr.savepart then storeLeaf s1 ls (va + 0x8000) (partBytes s i) else s1

/-- A sparse table of `n` registers from dwords read by number. -/
def tableOf (lo n : Nat) (f : Nat → Word) : Sparse Word :=
  (List.range n).foldl (fun t k => Sparse.set 0 t (lo + k) (f k)) []

/-- R232: a window register as it is stored. -/
def winStored (size : Nat) (v : Word) : Word :=
  let w := v &&& 0x80FFFFFFFF1FFFFF
  if winOk w size then w else w &&& 0x7FFFFFFFFFFFFFFF

/-- R364, R365: the state of a slot from a record that `rd` reads; fields keep their own forms. A segment that was FAILED is INVALID after
it, for CSEGVALID does not tell the two apart (DEDUCED, log 27). -/
def Slot.fromRecord (x : Slot) (s : State) (rd : Nat → Byte) : Slot :=
  let d (o : Nat) : Word := dwordBy rd o
  { x with
    id := { x.id with plevel := (d 0).extractLsb' 2 2 }
    pb := { g := tableOf 1 31 fun k => d (0x040 + 8 * k)
            t := tableOf 0 16 fun k => d (0x140 + 8 * k)
            ev := tableOf 0 16 fun k => d (0x1C0 + 8 * k)
            em := tableOf 0 16 fun k => d (0x240 + 8 * k)
            ex := tableOf 0 16 fun k => d (0x2C0 + 8 * k)
            eseq := (d 0x10).extractLsb' 0 32 }
    tr := { x.tr with pc := (d 8).extractLsb' 2 19 ++ 0#2, waitd := (d 0x18) &&& 0x3FFFFFFFFFF
                      rpat := d 0x340 &&& 0x800000007FFFFFFF
                      ridx := (List.range 6).foldl (fun t k => Sparse.set 0 t k ((d (0x348 + 8 * k)).extractLsb' 0 8)) [] }
    vec := { vl := min (d 0x390).toNat x.id.vlmax
             v := (List.range 64).foldl (fun t k => Sparse.set 0 t k
               (BitVec.ofNat 2048 (leNat ((List.range (4 * x.id.vlmax)).map fun j => rd (0x600 + 4 * x.id.vlmax * k + j))))) []
             m := tableOf 1 7 fun k => d (0x500 + 8 * k) &&& BitVec.ofNat 64 (2 ^ x.id.vlmax - 1)
             win := tableOf 1 7 fun k => winStored (x.id.size * 4096) (d (0x3C8 + 8 * k))
             fflags := (d 0x380).extractLsb' 0 5
             fcsr := if 5 ≤ ((d 0x388).extractLsb' 0 3).toNat then 0 else (d 0x388).extractLsb' 0 3
             smap := d 0x3A0 &&& 0x8F8F8F8F8F8F8F8F
             eos := (d 0x3A8).extractLsb' 0 16
             closedwr := ((d 0x3B0).extractLsb' 0 32).toNat
             staledrop := ((d 0x3B8).extractLsb' 0 32).toNat }
    segs := (List.range x.codeSegs).foldl (fun t k =>
      Sparse.set {} t k { st := if (d 0x398).getLsbD k then .valid else .invalid }) []
    ports := (List.range 16).foldl (fun t k =>
      Sparse.set {} t k (restorePort s (x.port k) (d (0x400 + 16 * k)) (d (0x408 + 16 * k)))) [] }

/-- R364, R365: the record is read back. -/
def readRecord (s : State) (i : Nat) (ls : List (Nat × Word)) : State :=
  let s := chargeRecord s i ls
  let x := s.slot i
  let va := x.tr.saveva.toNat
  let rd (o : Nat) : Byte := loadLeaf s ls (va + o)
  let ov := dwordBy rd 0x3C0
  let t := s.modSlot i fun x => x.fromRecord s rd
  let t := if s.ownsMatrix i then t.putAccov i (ov.extractLsb' 0 2) else t
  if x.tr.savepart then
    t.modTile (tileOf i) fun tl =>
      { tl with sram := tl.sram.putBytes (x.id.base * 4096) ((List.range (x.id.size * 4096)).map fun k => rd (0x8000 + k)) }
  else t

/-- R365: the operation that SAVECTL has started, as far as it gets: a save awaits the segments in flight (R115); a missing page
is requested and awaited (R282); else the record moves, or the save area gives a MEMFAULT. -/
def saveRun (s : State) (i : Nat) : State :=
  let x := s.slot i
  let fin (s : State) (st : BitVec 2) : State :=
    s.modSlot i fun x => { x with tr := { x.tr with saveop := 3, savest := st, savewant := none } }
  if x.tr.saveop ≠ 1 ∧ x.tr.saveop ≠ 2 then s
  else if x.tr.savewant.isSome then s
  else if x.tr.saveop = 1 ∧ x.segs.any (fun (_, g) => g.st == .inflight) then s
  else
    match savePages s i x.id (x.tr.saveop = 1) x.saveVpns [] with
    | (.bad, t) => fin t 1
    | (.page vpn, t) =>
      (pageRequest t ⟨x.id.tenant, x.tr.saveop = 1, false, false, i, 0⟩ vpn).modSlot i fun x =>
        { x with tr := { x.tr with savewant := some vpn } }
    | (.ok ls, t) => fin (if x.tr.saveop = 1 then writeRecord t i ls else readRecord t i ls) 0

/-- R365: a write of SAVECTL with OP 1 or 2. -/
def startSave (s : State) (i op : Nat) (part : Bool) : State :=
  saveRun (s.modSlot i fun x => { x with tr := { x.tr with saveop := op, savepart := part, savewant := none } }) i

/-- R365: a save as a step of its own; one that finds an operation running waits. -/
def execSaveSlotRecord (part : Bool) (s : State) : Out :=
  if s.me.tr.saveop ≠ 0 then .next s else .next (startSave s s.cur 1 part)
/-- R365: a restore as a step of its own. -/
def execRestoreSlotRecord (part : Bool) (s : State) : Out :=
  if s.me.tr.saveop ≠ 0 then .next s else .next (startSave s s.cur 2 part)

/-- R365: the operation ends: what it awaited has come and everything has moved, or it failed; SAVECTL reads its STATE. -/
def execSavectlDone (s : State) : Out :=
  let t := saveRun s s.cur
  if t.me.tr.saveop = 3 then .next (t.modMe fun x => { x with tr := { x.tr with saveop := 0 } }) else .next t

end Sys2Proof.Machine
end

