-- ==== Sys2Proof/Machine/Sys.lean ====
section
/-! DEFINITION. The system registers (R352-R356 and the layouts they name), `sysr`, `sysw` and its two other forms (R353), the
writes that firmware makes as steps of their own, `trap` (R361), `sret` (R360) and `exit` (R36, R362). -/

namespace Sys2Proof.Machine

/-! ## Levels (R352) -/

/-- R352: the Read column: 0 P, 1 S, 2 C. -/
def readLevel (r : Nat) : Nat := if r < 0x040 then 0 else if r < 0x100 then 1 else 2

/-- R352: the Write column; none for "—". -/
def writeLevel (r : Nat) : Option Nat :=
  if r = 0x003 ∨ r = 0x00E then some 1
  else if r = 0x006 ∨ r = 0x008 ∨ r = 0x009 ∨ r = 0x00F ∨ r = 0x010 ∨ (0x021 ≤ r ∧ r ≤ 0x027) then some 0
  else if (0x040 ≤ r ∧ r ≤ 0x04D) ∨ r = 0x051 ∨ r = 0x052 then some 1
  else if r = 0x050 ∨ r = 0x100 ∨ (0x102 ≤ r ∧ r ≤ 0x108) ∨ r = 0x10B ∨ r = 0x10D then some 2
  else none

/-- R352: the level of the slot that moves reaches `need`. Level C exists only on the control tile (R350). -/
def State.levelOk (s : State) (need : Nat) : Bool :=
  need ≤ s.me.id.level.toNat && (need < 2 || s.cur = Config.controlSlot)

/-! ## What the registers select and hold -/

/-- R352, R367: the tenant whose registers are meant: the slot's own, at C that of CSEL; none for CSEL.TENANT 17-31. -/
def State.selTenant (s : State) : Option Nat :=
  if s.levelOk 2 then (if (s.die.csel.extractLsb' 0 5).toNat ≤ 16 then some (s.die.csel.extractLsb' 0 5).toNat else none)
  else some s.me.id.tenant
/-- R367: CSEL.REGION. -/
def State.selRegion (s : State) : Nat := (s.die.csel.extractLsb' 5 4).toNat
/-- R367: CSEL.STACK, with the tenant: the bucket meant; none where either selects nothing. -/
def State.selBucket (s : State) : Option Nat :=
  match s.selTenant with
  | none => none
  | some t => if (s.die.csel.extractLsb' 9 4).toNat ≤ 11 then some (32 * (s.die.csel.extractLsb' 9 4).toNat + t) else none
/-- R367: CSEL.WINDEX. -/
def State.selWindow (s : State) : Nat := (s.die.csel.extractLsb' 13 6).toNat

/-- R368: STATE of a region. -/
def RgnSt.code : RgnSt → Nat
  | .free => 0 | .assigned => 1 | .running => 2 | .halted => 3 | .scrubbing => 4 | .reset => 5

/-- R368: RGNSTATE. -/
def Region.word (r : Region) : Word :=
  BitVec.ofNat 64 (r.st.code + 8 * (r.tenant % 32) + 2 ^ 8 * r.world.toNat + 2 ^ 9 * ((r.ctxs.length - 1) % 4)
    + 2 ^ 16 * r.ctag.toNat + 2 ^ 24 * r.hcause.toNat)

/-- R25: the timing gates are open: above level P, or with the grant. -/
def Slot.seesTime (x : Slot) : Bool := !x.atP || x.id.timing

/-- R203: index of the slot's lane group: loaded slots of the tile numbered below it. -/
def State.laneGroup (s : State) (i : Nat) : Nat :=
  ((slotsOf (tileOf i)).filter fun j => j < i && (s.slot j).id.loaded).length

/-- R203: LANEPART.GROUPS. -/
def laneGroups (vlmax : Nat) : Nat := if vlmax = 64 then 0 else if vlmax = 32 then 1 else 2

/-- R395, R17: the arbiter's fraction in force and the region's n. -/
def Region.arb (r : Region) : Nat := if r.hot then 1 else r.arbfrac.toNat
/-- R17: the clock fraction. -/
def Region.frac (r : Region) : Nat := min r.hvfrac.toNat r.arb

/-- R252: ACCOWN as a slot reads it. -/
def State.accown (s : State) (i : Nat) : Word :=
  let x := s.slot i
  let t := s.tile (tileOf i)
  let own := match t.owner with | some k => 2 + (if x.seesTime then 4 * (k % 4) else 0) | none => 0
  BitVec.ofNat 64 ((s.ownsMatrix i).toNat + own +
    (if x.atP then 0 else 2 ^ 8 * t.acc0.tag.toNat + 2 ^ 16 * t.acc1.tag.toNat + 2 ^ 24 * t.ctag.toNat))

/-- R343: PHCONFLICT. -/
def Tenant.phconflict (t : Tenant) : Word :=
  BitVec.ofNat 64 (t.phcount + 2 ^ 32 * t.strict.toNat + 2 ^ 33 * t.logfull.toNat)

/-- R285: TBCFG. -/
def Bucket.word (b : Bucket) : Word := BitVec.ofNat 64 (b.rate.toNat + 2 ^ 24 * b.burst.toNat + 2 ^ 63 * b.en.toNat)

/-- R385: page scrubbing is under way. -/
def Die.dramBusy (d : Die) : Bool := (d.scrub == 1 || d.scrub == 2) && d.dramg < 512 * d.scrubPages.length
/-- R385: SCRUBSTATE. -/
def Die.scrubstate (d : Die) : Word := BitVec.ofNat 64 (d.scrub % 4 + 4 * (d.scrubRgn % 16) + 64 * d.dramBusy.toNat)

/-- R424: a 4 KiB granule of a frame zeroed, in clear. -/
def zeroGranule (s : State) (st frame k : Nat) : State :=
  let lo := dramKey st (frame * 2 ^ 21 + k * 4096)
  { s with dram := s.dram.filter fun c => !(lo ≤ c.1 && c.1 < lo + 4096)
           ktags := s.ktags.filter fun c => !(lo / 256 ≤ c.1 && c.1 < lo / 256 + 16)
           dramEcc := s.dramEcc.filter fun c => !(lo ≤ c && c < lo + 4096) }

/-- R386: the page part of a scrub goes on to `n` granules. -/
def scrubPagesTo (s : State) (n : Nat) : State :=
  let t := (List.range (n - s.die.dramg)).foldl (fun t j =>
    let g := s.die.dramg + j
    match s.die.scrubPages[g / 512]? with
    | some (some (st, f)) => zeroGranule t st f (g % 512)
    | _ => t) s
  { t with die := { t.die with dramg := max s.die.dramg n } }

/-- R386: a running scrub as it is found when its registers are read: further on by free amounts, never at its end, which is
SCRUBDONE; a paused one moves its pages only (log 20). -/
def scrubAdvance (s : State) : State :=
  if s.die.scrub == 1 || s.die.scrub == 2 then
    let (a, s) := s.fresh
    let (b, s) := s.fresh
    let sram := if s.die.scrub == 1 then s.die.sramg + a.toNat % (32768 - s.die.sramg) else s.die.sramg
    let s := { s with die := { s.die with sramg := sram } }
    scrubPagesTo s (s.die.dramg + b.toNat % (512 * s.die.scrubPages.length - s.die.dramg + 1))
  else s

/-- R355: a time counter: a free value where the process may see time, else zero (log 6). -/
def timeValue (s : State) : Word × State := if s.me.seesTime then s.fresh else (0, s)

/-- The value of a register of a tenant that CSEL or the slot selects. -/
def tenantValue (s : State) (f : Tenant → Word) : Word :=
  match s.selTenant with
  | some t => f (s.tenant t)
  | none => 0

/-- R352-R356: the value of a system register, R25's gates applied. A time register and the scrub's progress take free values. -/
def sysValue (s : State) (r : Nat) : Word × State :=
  let x := s.me
  let i := s.cur
  let t := s.tile (tileOf i)
  let timed (v : Word) : Word := if x.seesTime then v else 0
  let g := s.region s.selRegion
  match r with
  | 0x000 => (timed (BitVec.ofNat 64 (tileOf i % 2 ^ 10)), s)
  | 0x001 => (timed (BitVec.ofNat 64 (i % 4)), s)
  | 0x002 => (x.id.pid.zeroExtend 64, s)
  | 0x003 => (x.status, s)
  | 0x004 => (timed (BitVec.ofNat 64 (x.id.base * 4096)), s)
  | 0x005 => (BitVec.ofNat 64 (x.id.size * 4096), s)
  | 0x006 => (x.csegvalid, s)
  | 0x008 => (x.vec.fflags.zeroExtend 64, s)
  | 0x009 => (x.vec.fcsr.zeroExtend 64, s)
  | 0x00A => (BitVec.ofNat 64 x.vec.vl, s)
  | 0x00B => (BitVec.ofNat 64 x.id.vlmax, s)
  | 0x00C => (BitVec.ofNat 64 (laneGroups x.id.vlmax + if x.seesTime then 4 * s.laneGroup i else 0), s)
  | 0x00D => (BitVec.ofNat 64 Config.mtl, s)
  | 0x00E => (s.accown i, s)
  | 0x00F => ((s.accov i).zeroExtend 64, s)
  | 0x010 => (x.vec.smap, s)
  | 0x011 => (x.vec.eos.zeroExtend 64, s)
  | 0x012 => (timed (BitVec.ofNat 64 x.vec.closedwr), s)
  | 0x013 => (timed (BitVec.ofNat 64 x.vec.staledrop), s)
  | 0x018 | 0x019 | 0x01A | 0x01B | 0x01C => timeValue s
  | 0x01D =>
    let rg := s.region (regionOf (tileOf i))
    (timed (BitVec.ofNat 64 (rg.frac + 16 * rg.hvfrac.toNat + 256 * rg.arb)), s)
  | 0x021 | 0x022 | 0x023 | 0x024 | 0x025 | 0x026 | 0x027 => (Sparse.get 0 x.vec.win (r - 0x020), s)
  | 0x040 => (x.tr.cause.zeroExtend 64, s)
  | 0x041 => (x.tr.pc.zeroExtend 64, s)
  | 0x042 => (x.tr.fepc.zeroExtend 64, s)
  | 0x043 => (x.tr.feseq.zeroExtend 64, s)
  | 0x044 => (x.tr.fword, s)
  | 0x045 => (x.tr.fiter, s)
  | 0x046 => (x.tr.fva, s)
  | 0x047 => (x.tr.rpat, s)
  | 0x048 | 0x049 | 0x04A | 0x04B | 0x04C | 0x04D => ((Sparse.get 0 x.tr.ridx (r - 0x048)).zeroExtend 64, s)
  | 0x050 => (t.svec, s)
  | 0x051 => (x.tr.savest.zeroExtend 64, s)
  | 0x052 => (x.tr.saveva, s)
  | 0x080 => (tenantValue s (·.dlstat), s)
  | 0x081 => (tenantValue s (·.dlchan), s)
  | 0x082 => (tenantValue s (·.dlwaves), s)
  | 0x083 => (tenantValue s (·.phconflict), s)
  | 0x100 => (s.die.csel, s)
  | 0x101 => (g.word, s)
  | 0x102 => (BitVec.ofNat 64 (g.grant.toNat + 2 ^ 16 * g.floor.toNat + 2 ^ 32 * g.hvfrac.toNat + 2 ^ 36 * g.arb), s)
  | 0x103 => (tenantValue s (·.troot), s)
  | 0x104 => ((match s.selBucket with | some b => (Sparse.get {} s.buckets b).word | none => 0), s)
  | 0x105 => (s.die.hvpolicy, s)
  | 0x106 => (s.die.arblimit, s)
  | 0x107 => (g.tslice, s)
  | 0x108 => (g.tscap, s)
  | 0x109 => let t := scrubAdvance s; (t.die.scrubstate, t)
  | 0x10A =>
    let t := scrubAdvance s
    (BitVec.ofNat 64 (t.die.sramg % 2 ^ 32 + 2 ^ 32 * (t.die.dramg % 2 ^ 32)), t)
  | 0x10B => (s.die.scrubList, s)
  | 0x10C => (BitVec.ofNat 64 ((List.range 32).foldl (fun n k => if (s.key k).full then n + 2 ^ k else n) 0), s)
  | 0x10D => (Sparse.get 0 s.die.wintab s.selWindow, s)
  | _ => (0, s)

/-! ## Waits (R79, R112, R138, R146, R203, R233, R253, R365) -/

/-- An unretired word on a queue is awaited. -/
def awaitWords (b : Bool) : Option Wait := if b then none else some .engine

/-- The read wait of a register, in the slot that moves. -/
def readWait (s : State) (r : Nat) : Option Wait :=
  let x := s.me
  if r = 0x006 then (if x.segs.any fun (_, g) => g.st == .inflight then some .segment else none)
  else if r = 0x008 then awaitWords (!s.queueBusy s.cur 3)
  else if r = 0x00A then awaitWords x.eng.vq.isEmpty
  else if r = 0x00F then awaitWords (!s.queueBusy s.cur 2)
  else if r = 0x011 then awaitWords (!(List.range 16).any fun p => x.streamReader p)
  else if r = 0x051 then awaitWords (x.tr.saveop == 0)
  else none

/-- The write wait of a register, in the slot that moves. -/
def writeWait (s : State) (r : Nat) : Option Wait :=
  let x := s.me
  if r = 0x008 then awaitWords (!s.queueBusy s.cur 3)
  else if r = 0x00F || (0x021 ≤ r && r ≤ 0x027) then awaitWords x.committed
  else if r = 0x010 then awaitWords x.eng.vq.isEmpty
  else if r = 0x051 then awaitWords (x.tr.saveop == 0)
  else none

/-- R186: the sysregs whose old value is logged. -/
def sysLogged (r : Nat) : Bool := r = 0x006 || r = 0x008 || r = 0x009 || r = 0x010

/-! ## Writes -/

/-- R111, R112: a write to CSEGVALID: an INFLIGHT segment keeps its state; the changes are logged as one entry. -/
def writeCsegvalid (x : Slot) (v : Word) : Slot :=
  let ks := (List.range x.codeSegs).filter fun k =>
    (x.seg k).st != .inflight && (x.seg k).st != (if v.getLsbD k then .valid else .invalid)
  let y := x.log (.segs (ks.map fun k => (k, (x.seg k).st)))
  ks.foldl (fun y k => y.modSeg k fun g => { g with st := if v.getLsbD k then .valid else .invalid }) y

/-- R78: a write to FFLAGS. -/
def writeFflags (x : Slot) (v : Word) : Slot :=
  let y := x.log (.fflags x.vec.fflags)
  { y with vec := { y.vec with fflags := v.extractLsb' 0 5 } }

/-- R78: a write to FCSR; 5, 6 and 7 store 0. -/
def writeFcsr (x : Slot) (v : Word) : Slot :=
  let y := x.log (.fcsr x.vec.fcsr)
  { y with vec := { y.vec with fcsr := if 5 ≤ (v.extractLsb' 0 3).toNat then 0 else v.extractLsb' 0 3 } }

/-- R138: a write to STREAMMAP. -/
def writeStreammap (x : Slot) (v : Word) : Slot :=
  let y := x.log (.smap x.vec.smap)
  { y with vec := { y.vec with smap := v &&& 0x8F8F8F8F8F8F8F8F } }

/-- R232, R233: a write to WINn; EN is cleared where the window is not well formed. -/
def writeWin (x : Slot) (n : Nat) (v : Word) : Slot :=
  { x with vec := { x.vec with win := Sparse.set 0 x.vec.win n (winStored (x.id.size * 4096) v) } }

/-- R252: a write to ACCOWN. ACCOV of the tile's owner stays what it was (R253, R269). -/
def writeAccown (s : State) (i : Nat) (v : Word) : State :=
  let t := s.modTile (tileOf i) fun t =>
    { t with acc0 := { t.acc0 with tag := v.extractLsb' 8 8 }, acc1 := { t.acc1 with tag := v.extractLsb' 16 8 }
             ctag := v.extractLsb' 24 8 }
  match (s.tile (tileOf i)).owner with
  | some k => t.putAccov (4 * tileOf i + k) (s.accov (4 * tileOf i + k))
  | none => t

/-- R253: a write to ACCOV; one by a slot that does not own the unit is ignored. -/
def writeAccov (s : State) (i : Nat) (v : Word) : State :=
  if s.ownsMatrix i then s.putAccov i (v.extractLsb' 0 2) else s

/-- R285: a write to TBCFG: TOK takes the effective BURST. -/
def writeTbcfg (s : State) (v : Word) : State :=
  match s.selBucket with
  | none => s
  | some k =>
    let b : Bucket := { rate := v.extractLsb' 0 24, burst := v.extractLsb' 24 24, en := v.getLsbD 63 }
    { s with buckets := Sparse.set {} s.buckets k { b with tok := b.depth } }

/-! ### The window table (R377, R378) -/

/-- R378: some pair of endpoints of a channel needs an entry and is admitted by this one. -/
def entryUsed (s : State) (e : Word) (n : Net) (c : Chan) : Bool :=
  c.writers.any fun w => c.readers.any fun r =>
    s.needsEntry n.tenant n.regions w r && s.entryAdmits n.tenant n.regions e w r

/-- The region that a SEVERED event names where no region is lost: that of the first writer (DESIGN CHOICE, log 55). -/
def Chan.eventRegion (c : Chan) : Nat := match c.writers with | w :: _ => regionOf w.tile | [] => 0

/-- R159, R376: a channel severed, with its event. -/
def severNoted (s : State) (net : Nat) (n : Net) (c : Chan) : State :=
  regionEvent (severChan s net c.chid) n.tenant (eventRec c.eventRegion 5 n.tenant 10 c.chid 0)

/-- R378, R159: every channel that an entry admitted is severed. -/
def severAdmitted (s : State) (e : Word) : State :=
  (List.range s.nets.length).foldl (fun t k =>
    match s.nets[k]? with
    | none => t
    | some n =>
      if n.st == .running || n.st == .loading || n.st == .bindoff then
        n.chans.foldl (fun t c => if entryUsed s e n c && !c.sev then severNoted t k n c else t) t
      else t) s

/-- R377, R378: a write to WINTAB. KIND 0 is ignored; an entry of kind DOWNGRADE is written or cleared in the secure state only;
the channels that the entry admitted are severed. -/
def writeWintab (s : State) (v : Word) : State :=
  let k := s.selWindow
  let old := Sparse.get 0 s.die.wintab k
  let new := v &&& 0x00001FFFFFFFFFFF
  let down (e : Word) : Bool := e.extractLsb' 1 2 == 2#2
  let secure := (s.slot Config.controlSlot).id.world
  if new.extractLsb' 1 2 == 0#2 then s
  else if !secure && (down new || (down old && old.getLsbD 0)) then s
  else if new = old then s
  else
    let s := severAdmitted s old
    { s with die := { s.die with wintab := Sparse.set 0 s.die.wintab k new } }

/-- R395: HVFRAC; a value outside 1-12 stores 12. -/
def fracField (v : BitVec 4) : BitVec 4 := if v = 0 || 12 < v.toNat then 12 else v

/-- A register of the selected tenant written. -/
def tenantWrite (s : State) (f : Tenant → Tenant) : State :=
  match s.selTenant with
  | some t => s.modTenant t f
  | none => s

/-- A trap register of the slot that moves written. -/
def trapWrite (s : State) (f : TrapRegs → TrapRegs) : State := s.modMe fun x => { x with tr := f x.tr }

/-- R353: `v` written into the RW fields of a register. GRANT of RGNBUDGET is taken as RW, as the Write column and the
sentence that names it beside ARBLIMIT have it (DEDUCED, log 24). -/
def writeSys (s : State) (r : Nat) (v : Word) : State :=
  let g := s.selRegion
  match r with
  | 0x003 => s.modMe fun x => { x with id := { x.id with plevel := v.extractLsb' 2 2 } }
  | 0x006 => s.modMe fun x => writeCsegvalid x v
  | 0x008 => s.modMe fun x => writeFflags x v
  | 0x009 => s.modMe fun x => writeFcsr x v
  | 0x00E => writeAccown s s.cur v
  | 0x00F => writeAccov s s.cur v
  | 0x010 => s.modMe fun x => writeStreammap x v
  | 0x021 | 0x022 | 0x023 | 0x024 | 0x025 | 0x026 | 0x027 => s.modMe fun x => writeWin x (r - 0x020) v
  | 0x040 => trapWrite s fun t => { t with cause := v.extractLsb' 0 9 }
  | 0x041 => trapWrite s fun t => { t with pc := v.extractLsb' 2 19 ++ 0#2 }
  | 0x042 => trapWrite s fun t => { t with fepc := v.extractLsb' 0 21 }
  | 0x043 => trapWrite s fun t => { t with feseq := v.extractLsb' 0 32 }
  | 0x044 => trapWrite s fun t => { t with fword := v }
  | 0x045 => trapWrite s fun t => { t with fiter := v &&& 0x80FFFFFFFFFFFFFF }
  | 0x046 => trapWrite s fun t => { t with fva := v &&& 0x8FFFFFFFFFFFFFFF }
  | 0x047 => trapWrite s fun t => { t with rpat := v &&& 0x800000007FFFFFFF }
  | 0x048 | 0x049 | 0x04A | 0x04B | 0x04C | 0x04D =>
    trapWrite s fun t => { t with ridx := Sparse.set 0 t.ridx (r - 0x048) (v.extractLsb' 0 8) }
  | 0x050 => s.modTile (tileOf s.cur) fun t => { t with svec := v &&& 0x7FFC }
  | 0x051 =>
    let op := (v.extractLsb' 0 2).toNat
    if op = 1 ∨ op = 2 then startSave s s.cur op (v.getLsbD 2) else s
  | 0x052 => trapWrite s fun t => { t with saveva := v &&& 0x01FFFFFFFFFFFFFF }
  | 0x100 => { s with die := { s.die with csel := v &&& 0x7FFFF } }
  | 0x102 => s.modRegion g fun x =>
      { x with grant := v.extractLsb' 0 16, floor := v.extractLsb' 16 16, hvfrac := fracField (v.extractLsb' 32 4) }
  | 0x103 => tenantWrite s fun t => { t with troot := v &&& 0x1FFFFFF001 }
  | 0x104 => writeTbcfg s v
  | 0x105 => { s with die := { s.die with hvpolicy := v &&& 7 } }
  | 0x106 => { s with die := { s.die with arblimit := v &&& 0xFFFF } }
  | 0x107 => s.modRegion g fun x => { x with tslice := v &&& 0xFFFFFFFFFF }
  | 0x108 => s.modRegion g fun x => { x with tscap := v &&& 0xFFFFFFFF }
  | 0x10B => { s with die := { s.die with scrubList := v } }
  | 0x10D => writeWintab s v
  | _ => s

/-! ## The instructions -/

/-- R353: sysr. -/
def execSysr (d : Opnd) (r : BitVec 12) (s : State) : Out :=
  if !s.levelOk (readLevel r.toNat) then trapG s .priv s.instrWord none else
  genOp s [] (some d) fun _ t =>
    match readWait t r.toNat with
    | some w => .wait w
    | none =>
      let (v, t) := sysValue t r.toNat
      .ok v s.pcNext t

/-- R353: the frame of the three forms of `sysw`; `f` forms the value from the old one and ga. A "—" register is checked
against its Read column and its write ignored (R352). -/
def syswOp (s : State) (a : Opnd) (r : Nat) (f : Word → Word → Word) : Out :=
  if !s.levelOk ((writeLevel r).getD (readLevel r)) then trapG s .priv s.instrWord none else
  genOp s [a] none fun vs t =>
    if (writeLevel r).isNone then .ok 0 s.pcNext t else
    match writeWait t r with
    | some w => .wait w
    | none =>
      if sysLogged r && s.me.histFull (histNeed [a] none + 1) then .wait .engine
      else .ok 0 s.pcNext (writeSys t r (f (sysValue t r).1 (vs.getD 0 0)))

/-- R353: sysw. -/
def execSysw (a : Opnd) (r : BitVec 12) (s : State) : Out := syswOp s a r.toNat fun _ x => x
/-- R353: sysw.set. SAVECTL's OP is WO, so its old value is zero (R8). -/
def execSyswSet (a : Opnd) (r : BitVec 12) (s : State) : Out :=
  syswOp s a r.toNat fun old x => (if r = 0x051#12 then 0 else old) ||| x
/-- R353: sysw.clr. -/
def execSyswClr (a : Opnd) (r : BitVec 12) (s : State) : Out :=
  syswOp s a r.toNat fun old x => (if r = 0x051#12 then 0 else old) &&& ~~~x

/-- R361: trap. -/
def execTrap (code : BitVec 14) (s : State) : Out :=
  .next (raiseG s s.cur .trapinsn s.pcNext (code.zeroExtend 64) none none)

/-- R360: sret. -/
def execSret (s : State) : Out :=
  if s.me.atP then trapG s .priv s.instrWord none
  else if !s.me.committed then waitG s .engine
  else .next (returnTrap (issued (commitSlot s s.cur)) s.cur)

/-- R362: `exit` at S ends the network with the trap being handled as its ending fault. -/
def exitAtS (s : State) : State :=
  let x := s.me
  let code := if x.tr.cause.extractLsb' 0 8 = 20#8 then 2 else 1
  endNet s x.id.net code (some ⟨x.id.pid, x.tr.cause, x.tr.pc.zeroExtend 64, x.tr.fword⟩)

/-- R36, R362: exit. At P it is held until its commit. -/
def execExit (s : State) : Out :=
  if s.me.atS then (if s.me.committed then .next (exitAtS s) else waitG s .engine)
  else if s.me.atP then
    let done := s.me.committed
    let t := finishG (s.modMe fun x => { x with gen := { x.gen with heldExit := true } }) s.pcNext
    if done then .next t else waitG t .engine
  else trapG s .illegal s.instrWord none

/-! ## The writes of firmware as steps of their own

An event acts on the slot that moves, under the same waits; one whose wait has not ended changes nothing. -/

/-- The frame of these events: the wait of the register, the write, the commit of what it logged. -/
def sysEvent (s : State) (r : Nat) (v : Word) : Out :=
  match writeWait s r with
  | some _ => .next s
  | none =>
    if sysLogged r && s.me.histFull 1 then .next s else .next (commitSlot (writeSys s r v) s.cur)

/-- R111, R112: CSEGVALID written. -/
def execCsegvalidWrite (x : Word) (s : State) : Out := sysEvent s 0x006 x
/-- R138: STREAMMAP written. -/
def execStreammapWrite (x : Word) (s : State) : Out := sysEvent s 0x010 x
/-- R233: WINn written, n 1 to 7. -/
def execWinWrite (n : Nat) (x : Word) (s : State) : Out :=
  if 1 ≤ n ∧ n ≤ 7 then sysEvent s (0x020 + n) x else .next s
/-- R79: FFLAGS written. -/
def execFflagsWrite (x : Word) (s : State) : Out := sysEvent s 0x008 x
/-- R253: ACCOV written. -/
def execAccovWrite (x : Word) (s : State) : Out := sysEvent s 0x00F x
/-- R285: TBCFG of the selected tenant and stack written. -/
def execTbcfgWrite (x : Word) (s : State) : Out := sysEvent s 0x104 x
/-- R377, R378: the selected entry of WINTAB written. -/
def execWintabWrite (x : Word) (s : State) : Out := sysEvent s 0x10D x

end Sys2Proof.Machine
end

