-- ==== Sys2Proof/Machine/Fetch.lean ====
section
/-! DEFINITION. Instruction fetch (R113, R351) and the decode check of a fetched word (R45). -/

namespace Sys2Proof.Machine

/-- What a fetch gives. -/
inductive Fetched
  | ok (i : Instr) | trap (c : Cause) (fw : Word) | failed (seg : Nat)
deriving DecidableEq, Repr

/-- R370: the command field of a `rgncmd` chooses among the six rows that share one word; 6 and 7 return BADARG, which every
row does for them (log 15). -/
def refineRegion (x : Word) : Instr → Instr
  | .rgncmdAssign d a =>
    match (x.extractLsb' 4 3).toNat with
    | 1 => .rgncmdHalt d a
    | 2 => .rgncmdReset d a
    | 3 => .rgncmdScrub d a
    | 4 => .rgncmdSwitch d a
    | 5 => .rgncmdRelease d a
    | _ => .rgncmdAssign d a
  | i => i

/-- The value that a source operand would supply, without taking it; 0 for a port with nothing to give. -/
def peekSrc (s : State) (o : Opnd) : Word :=
  match readReady s s.cur (opPort o) 0 with
  | .go => (takeSrc s o).1
  | _ => if opIsPort o then 0 else (takeSrc s o).1

/-- The argument operand of a word that is a `rgncmd`. -/
def regionArg (s : State) : Instr → Word
  | .rgncmdAssign _ a => peekSrc s a
  | _ => 0

/-- R113, R351: the fetch at the pc of the slot that moves. -/
def fetch (s : State) : Fetched :=
  let x := s.me
  let pc := x.gen.pc.toNat
  let k := pc / 4096
  let read : Fetched :=
    if s.eccAt s.cur pc 4 then .trap .eccfatal 0 else
    match decodeGen (BitVec.ofNat 32 (s.loadNat s.cur pc 4)) with
    | .error _ => .trap .illegal s.instrWord
    | .ok i => .ok (refineRegion (regionArg s i) i)
  if x.atS then (if Config.supSize ≤ pc then .trap .window x.gen.pc else read)
  else if x.codeSegs * 4096 ≤ pc then .trap .window x.gen.pc
  else match (x.seg k).st with
    | .valid => read
    | .failed => .failed k
    | .invalid => .trap .codemiss (BitVec.ofNat 64 k)
    | .inflight => .trap .codemiss (BitVec.ofNat 64 (k + 256))

end Sys2Proof.Machine
end

