-- ==== Sys2Proof/Machine/Engine.lean ====
section
/-! DEFINITION. The start of an engine word (R170, R171, R178, R180, R293): which word may start next, what it waits for, the frame
of every meaning of an engine word; and the stream ports as such a word reads and writes them (R139-R141). -/

namespace Sys2Proof.Machine

/-! ## Which word starts -/

/-- The two are one entry. -/
def QEntry.same (a b : QEntry) : Bool := a.pos == b.pos && a.sub == b.sub

/-- One entry changed. -/
def Eng.mapWord (e : Eng) (w : QEntry) (f : QEntry → QEntry) : Eng :=
  let g := fun l : List QEntry => l.map fun a => if a.same w then f a else a
  { e with vq := g e.vq, mq := g e.mq, xq := g e.xq, out := g e.out }

/-- One entry of a slot changed. -/
def Slot.mapWord (x : Slot) (w : QEntry) (f : QEntry → QEntry) : Slot := { x with eng := x.eng.mapWord w f }

/-- R170, R193: the one word of a slot that may start next: the oldest that has not passed its fault point; while a replay
issues, only its own words. -/
def Eng.candidate (e : Eng) : Option QEntry :=
  match e.ordered.find? fun w => !w.isPast with
  | none => none
  | some w =>
    if w.stat == .reserved then none
    else if w.stat == .waiting && isReplay w.word then
      (e.out.foldr insertByPos []).find? fun a => !a.isPast && a.stat != .reserved
    else some w

/-- R192 step 2, R428: a pre-emption that has taken effect lets only pattern words and follow-ons start; so does a stop (R38), at any
level. -/
def Slot.parking (x : Slot) : Bool := x.gen.entering.isNone && ((x.gen.preempt && x.atP) || x.gen.stopping)

/-- R192 step 3: `w` is the youngest word of the slot that has started: no younger word, still queued or retired, has. -/
def youngestStarted (x : Slot) (w : QEntry) : Bool :=
  let young := x.eng.words.filter fun o => w.pos < o.pos && o.sub == 0
  young.all (fun o => o.stat == .queued) && BitVec.ofNat 32 young.length == x.bank.eseq - w.eseq - 1

/-- R293: two lists of ranges share a place and one of the two writes there. -/
def hullsMeet (a b : List Hull) : Bool :=
  a.any fun h => b.any fun g => (h.wr || g.wr) && h.lo ≤ g.hi && g.lo ≤ h.hi

/-- R170, R178, R180, R293: `o` is an older word that matters to `w`: the replay that issues `w` does not. -/
def QEntry.olderFor (o w : QEntry) : Bool := o.before w && !(o.pos == w.pos && o.sub == 0 && 2 ≤ w.sub)

/-- The vector registers that a word reads and writes (R180). -/
def wordRegs (x : Slot) (w : QEntry) : List (Nat × Nat) × List (Nat × Nat) :=
  match decodeEng w.word with
  | .ok i => (vreads x.vec.smap x.id.vlmax i, vwrites x.vec.smap x.id.vlmax i)
  | .error _ => ([], [])

/-- R180: an older word of another queue holds back a word by a vector register. -/
def regsBlock (x : Slot) (o w : QEntry) : Bool :=
  o.q != w.q &&
    (let a := wordRegs x o
     let b := wordRegs x w
     regsMeet a.2 (b.1 ++ b.2) || regsMeet a.1 b.2)

/-- R118: a held store of an older instruction, or a segment that an older `cfetch` has made INFLIGHT, meets a hull: the word waits for
the store to be performed or the segment to land. A write into a segment that has landed then faults (R236, R248, R292; log 18). -/
def scalarBlock (x : Slot) (w : QEntry) : Bool :=
  (w.hulls.any fun h => x.eng.stores.any fun st =>
    st.pos < w.pos && sector st.addr ≤ h.hi && h.lo ≤ sector (st.addr + st.data.length - 1)) ||
  w.hulls.any fun h => x.fetchOver w.pos h.lo h.hi

/-- R129, R293, log 18: an older `cfetch` whose image is not yet taken holds back a younger word that writes its DRAM bytes. -/
def fetchBlock (x : Slot) (w : QEntry) : Bool :=
  x.segs.any fun (_, g) => g.reqs.any fun r => r.pos < w.pos && r.image.isNone && g.st == .inflight &&
    w.dhull.any fun h => h.wr && h.lo ≤ r.va.toNat + 4095 && r.va.toNat ≤ h.hi

/-- R170: nothing but the word's own wait conditions keeps the candidate from starting. -/
def startReady (x : Slot) (w : QEntry) : Bool :=
  x.id.loaded && !x.id.stopped && !(x.parking && w.sub == 0) && (w.prog.want.isNone || w.prog.rej) &&
  !(x.eng.words.any fun o => o.olderFor w &&
    (hullsMeet o.hulls w.hulls || hullsMeet o.dhull w.dhull || regsBlock x o w)) &&
  !scalarBlock x w && !fetchBlock x w

/-- What the body of an engine word does: it passes its fault point, with the state it leaves its entry in; it raises a fault at
level E; it awaits something. -/
inductive EngRes
  | ok (s : State) (st : WStat) | fault (c : Cause) (va : Option Word) | faultIn (s : State) (c : Cause) (va : Option Word)
  | wait

/-- The word that `start` acts on: the candidate of the slot that moves, where it is on the queue named and may start. -/
def State.startable (s : State) : Option QEntry :=
  match s.me.eng.candidate with
  | none => none
  | some w => if w.q == s.curQ && startReady s.me w then some w else none

/-- The frame of an engine word: with none to start nothing changes; else its body, and its entry's new state. -/
def startWord (s : State) (k : QEntry → State → EngRes) : Out :=
  match s.startable with
  | none => .next s
  | some w =>
    match k w s with
    | .ok t st => .next (t.modMe fun x => x.mapWord w fun a => { a with stat := st })
    | .fault c va => .next (raiseE s s.cur w c va)
    | .faultIn t c va => .next (raiseE t s.cur w c va)
    | .wait => .next s

/-- R109: a double-bit error met by a word's accesses. -/
def eccRanges (s : State) (i : Nat) (l : List (Nat × Nat)) : Bool := l.any fun (a, n) => 0 < n && s.eccAt i a n

/-! ## Retiring -/

/-- R172: a word leaves its entry. A replay's words leave the list of what it has issued. -/
def Eng.dropWord (e : Eng) (w : QEntry) : Eng :=
  let g := fun l : List QEntry => l.filter fun a => !a.same w
  { e with vq := g e.vq, mq := g e.mq, xq := g e.xq, out := g e.out }

/-- R181, R295: the follow-on of a copy becomes a word like any other when its copy retires. -/
def Eng.wakeFollow (e : Eng) (w : QEntry) : Eng :=
  let f : QEntry := { w with sub := w.sub + 1 }
  e.mapWord f fun a => if a.stat == .reserved then { a with stat := .queued } else a

/-- R172, R187: the retirement of a word: its entry is freed, its follow-on placed, and what the commit point then passes is
performed. -/
def retireWord (s : State) (i : Nat) (w : QEntry) : State :=
  commitSlot (s.modSlot i fun x => { x with eng := (x.eng.dropWord w).wakeFollow w }) i

/-- The frame of a word that retires in the step in which it starts (R172). -/
def startAndRetire (s : State) (k : QEntry → State → State) : Out :=
  match s.startable with
  | none => .next s
  | some w => .next (retireWord (k w s) s.cur w)

/-! ## Stream ports (R139-R141) -/

/-- A lane of a vector register. -/
def lane (v : VReg) (k : Nat) : Nat := (v.extractLsb' (32 * k) 32).toNat
/-- A vector register from its lanes. -/
def ofLanes (l : List Nat) : VReg := BitVec.ofNat 2048 (l.foldr (fun x n => x % 2 ^ 32 + 2 ^ 32 * n) 0)
/-- The lanes of a vector register. -/
def lanesOf (v : VReg) (n : Nat) : List Nat := (List.range n).map (lane v)
/-- Words from bytes. -/
def wordsOf (bs : List Byte) (n : Nat) : List Nat := (List.range n).map fun k => leNat ((bs.drop (4 * k)).take 4)
/-- Bytes from words. -/
def bytesOf (l : List Nat) : List Byte := l.flatMap fun x => natLe x 4

/-- One stream-bound source of a word: its port, the slots before it that the word takes there, the slots it takes. -/
structure StreamSrc where
  port : Nat
  skip : Nat
  num : Nat
deriving DecidableEq, Repr

/-- R139: the bytes that one read of a source takes: a triple of 272, or the lanes of the group. -/
def readBytes (i : Instr) (vlmax : Nat) : Nat :=
  match i with
  | .vmrg _ | .vnorm _ => 272
  | _ => 4 * vlmax

/-- R139, R140: a channel's slot size fits an access of `n` bytes. -/
def sizeFits (size n : Nat) : Bool := if n = 272 then size == 272 else size != 272 && n % size == 0

/-- R139, R141: the stream sources of a word, each source field in turn, or the cause that a port's binding or size gives. -/
def streamSrcs (s : State) (i : Nat) (n : Nat) : List Nat → List StreamSrc → Except Cause (List (Option StreamSrc))
  | [], _ => .ok []
  | v :: vs, seen =>
    let x := s.slot i
    if !streamEn x.vec.smap v then
      (streamSrcs s i n vs seen).map fun r => none :: r
    else
      let port := streamPort x.vec.smap v
      let p := x.port port
      if !p.bound || p.isW then .error .portunbound
      else match s.chan? p.net p.ch with
        | none => .error .portunbound
        | some c =>
          if !sizeFits c.size n then .error .portsize else
          let skip := (seen.filter fun a => a.port == port).foldl (fun k a => k + a.num) 0
          let src : StreamSrc := ⟨port, skip, n / c.size⟩
          (streamSrcs s i n vs (src :: seen)).map fun r => some src :: r

/-- R139, R170: the stream sources of a word whose ports are bound and whose sizes fit: those that it waits for. -/
def fitSrcs (s : State) (i : Nat) (n : Nat) : List Nat → List StreamSrc → List (Option StreamSrc)
  | [], _ => []
  | v :: vs, seen =>
    match streamSrcs s i n [v] seen with
    | .ok (some a :: _) => some a :: fitSrcs s i n vs (a :: seen)
    | _ => none :: fitSrcs s i n vs seen

/-- What one stream source finds. -/
inductive StreamIn
  | data (bs : List Byte) (taken : Nat) (eos : Bool) | wait | fault (c : Cause)

/-- R139, R165: what a stream read finds at a position: the slots of the skein are the channel's too. -/
def Port.streamAt (p : Port) (c : Chan) (pos : Nat) : ReadSt :=
  { p with arr := (List.range c.streams).map (p.come c) }.readAt { c with skein := [] } pos

/-- R139: the slots of a source from a position on; past the end mark every byte is zero. -/
def streamTake (s : State) (i : Nat) (c : Chan) (p : Port) : Nat → Nat → StreamIn
  | _, 0 => .data [] 0 false
  | pos, n + 1 =>
    match p.streamAt c pos with
    | .empty => .wait
    | .sev => .fault .severed
    | .diff => .fault .mirrordiff
    | .fin => if c.eostol then .data (List.replicate ((n + 1) * c.size) 0) 0 true else .fault .endstream
    | .data =>
      match streamTake s i c p (pos + 1) n with
      | .data bs k e => .data (s.comeBytes i c p (pos % c.legs) (pos / c.legs) pos ++ bs) (k + 1) e
      | r => r

/-- R139: one source of a word. -/
def streamRead (s : State) (i : Nat) (a : StreamSrc) : StreamIn :=
  let p := (s.slot i).port a.port
  match s.chan? p.net p.ch with
  | none => .fault .portunbound
  | some c => streamTake s i c p (p.k + a.skip) a.num

/-- R139, R170: every source at hand: a word starts only then. A source that can only fault does not hold it back. -/
def streamsReady (s : State) (i : Nat) (l : List (Option StreamSrc)) : Bool :=
  l.all fun o => match o with
    | none => true
    | some a => match streamRead s i a with | .wait => false | _ => true

/-- R139: the first fault among the sources. -/
def streamFault (s : State) (i : Nat) (l : List (Option StreamSrc)) : Option Cause :=
  l.findSome? fun o => match o with
    | none => none
    | some a => match streamRead s i a with | .fault c => some c | _ => none

/-- The bytes of a stream source. -/
def streamBytes (s : State) (i : Nat) (a : StreamSrc) : List Byte :=
  match streamRead s i a with
  | .data bs _ _ => bs
  | _ => []

/-- The first `n` elements that `f` accepts left out. -/
def dropFirst {α : Type} (f : α → Bool) : List α → Nat → List α
  | [], _ => []
  | l, 0 => l
  | x :: l, n + 1 => if f x then dropFirst f l n else x :: dropFirst f l (n + 1)

/-- R165: slots that a stream read has consumed past the buffer leave the skein. -/
def skeinConsumed (s : State) (i port : Nat) : State :=
  let p := (s.slot i).port port
  match s.chan? p.net p.ch with
  | none => s
  | some c =>
    let used (st : Nat) : Nat := (p.kc + (c.legs - 1 - st)) / c.legs
    let l := (List.range c.streams).filter fun st => p.arr.getD st 0 < used st
    if l.isEmpty then s else
    let sk := l.foldl (fun k st => dropFirst (fun x => x.rd == p.ix && x.half == st) k (used st - p.arr.getD st 0)) c.skein
    (s.modChan p.net p.ch fun c => { c with skein := sk }).modSlot i fun x => x.modPort port fun p =>
      { p with arr := (List.range c.streams).map fun st => max (p.arr.getD st 0) (used st) }

/-- R139: the slots of a source consumed, at the fault point: the cursor advances, the credits go back, a read that met the end
mark sets EOSBITS. -/
def streamConsume (s : State) (i : Nat) (l : List (Option StreamSrc)) (s0 : State) : State :=
  l.foldl (fun t o => match o with
    | none => t
    | some a => match streamRead s0 i a with
      | .data _ k e =>
        let t := commitRead (t.modSlot i fun x => x.modPort a.port fun p => { p with k := p.k + k }) i a.port k
        let t := skeinConsumed t i a.port
        if e then t.modSlot i fun x => { x with vec := { x.vec with eos := x.vec.eos ||| (1#16 <<< a.port) } } else t
      | _ => t) s

/-- R137, R297: this process closed the port by a `chctl close` or a copy word older than word `w`. -/
def Slot.closedFor (x : Slot) (port : Nat) (w : QEntry) : Bool :=
  (x.port port).closed
    || (x.eng.hist.any fun h => h.pos < w.pos && (match h.act with | .close p => p == port | _ => false))
    || x.eng.words.any fun o => o.olderFor w && (match decodeEng o.word with
      | .ok (.xstream f) => f.mode.getLsbD 0 && f.imm.toNat == port
      | .ok (.xgather f) => f.mode.getLsbD 0 && f.mode.getLsbD 1 && f.imm.toNat == port
      | _ => false)

/-- R140, R141: the checks of a stream-bound destination that takes `n` bytes: the port, or the cause. -/
def streamDst (s : State) (i : Nat) (w : QEntry) (v n : Nat) : Except Cause (Option Nat) :=
  let x := s.slot i
  if !streamEn x.vec.smap v then .ok none else
  let port := streamPort x.vec.smap v
  let p := x.port port
  if !p.bound || !p.isW then .error .portunbound
  else match s.chan? p.net p.ch with
    | none => .error .portunbound
    | some c =>
      if !sizeFits c.size n then .error .portsize
      else if x.closedFor port w then .error .endstream
      else if p.sev then .error .severed
      else .ok (some port)

/-- Bytes cut into slots of a size. -/
def cutSlots (size : Nat) : Nat → List Byte → List (List Byte)
  | 0, _ => []
  | n + 1, bs => bs.take size :: cutSlots size n (bs.drop size)

/-- R140: the value of a word bound for a port put into the stream hold buffer. -/
def holdSend (s : State) (i : Nat) (w : QEntry) (port : Nat) (bs : List Byte) : State :=
  let p := (s.slot i).port port
  match s.chan? p.net p.ch with
  | none => s
  | some c =>
    s.modSlot i fun x => { x with eng := { x.eng with
      hold := x.eng.hold ++ [⟨w.pos, w.sub, port, cutSlots c.size (bs.length / c.size) bs⟩] } }

/-- R140: the stream hold buffer has room. -/
def Slot.holdRoom (x : Slot) : Bool := x.eng.hold.length < Config.holdDepth

end Sys2Proof.Machine
end

