-- ==== Sys2Proof/Machine/VectorArith.lean ====
section
/-! DEFINITION. The ECLS 0 words (R204-R227): a meaning for each over the shared frames `vecWord` (stream sources and
destination, flags, write-back), `eachLane` (R204), `reduceLanes` (R220) and `maskLanes` (R205). -/

namespace Sys2Proof.Machine

/-! ## Frame -/

/-- R202, R205: a mask register of a slot; m0 is all ones over the group. -/
def Slot.mask (x : Slot) (n : Nat) : MReg :=
  if n = 0 then BitVec.ofNat 64 (2 ^ x.id.vlmax - 1) else Sparse.get 0 x.vec.m n

/-- R202: the bits of a mask register at or above VLMAX read as zero. -/
def Slot.setMask (x : Slot) (n : Nat) (v : MReg) : Slot :=
  if n = 0 then x else
  { x with vec := { x.vec with m := Sparse.set 0 x.vec.m n (v &&& BitVec.ofNat 64 (2 ^ x.id.vlmax - 1)) } }

/-- A vector register of a slot. -/
def Slot.vreg (x : Slot) (n : Nat) : VReg := Sparse.get 0 x.vec.v n
/-- A vector register written. -/
def Slot.setVreg (x : Slot) (n : Nat) (v : VReg) : Slot := { x with vec := { x.vec with v := Sparse.set 0 x.vec.v n v } }

/-- R204: lane i is active under mask field `m`. -/
def Slot.active (x : Slot) (m : BitVec 3) (i : Nat) : Bool := i < x.vec.vl && (x.mask m.toNat).getLsbD i

/-- R204: a register with the lanes that a word writes; the others keep their value. -/
def setLanes (old : VReg) (l : List (Option Nat)) : VReg :=
  let n := l.length
  old &&& ~~~BitVec.ofNat 2048 (2 ^ (32 * n) - 1) ||| ofLanes ((List.range n).map fun k => ((l.getD k none)).getD (lane old k))

/-- What an ECLS 0 or a permute word does: the lanes of vd it writes, or registers (a triple group, quotients) with the bytes a
stream-bound vd sends in their place; a mask register; VL; the flags it sets. -/
structure VecOut where
  lanes : Option (List (Option Nat)) := none
  regs : List (Nat × VReg) := []
  bytes : List Byte := []
  mask : Option (Nat × MReg) := none
  vl : Option Nat := none
  flags : Flags := 0

/-- A source as its word reads it. -/
inductive VSrc
  | reg (n : Nat) | bytes (bs : List Byte)

/-- The lanes of a source. -/
def VSrc.lanes (x : Slot) : VSrc → List Nat
  | .reg n => lanesOf (x.vreg n) x.id.vlmax
  | .bytes bs => wordsOf bs x.id.vlmax

/-- R223: the triple of a source: a slot, or a triple group. -/
def VSrc.triple (x : Slot) : VSrc → Triple
  | .bytes bs => tripleOf bs
  | .reg n =>
    let t := groupT x.id.vlmax
    { m := lane (x.vreg (n + t)) 0, l := lane (x.vreg (n + t)) 1
      o := (List.range t).flatMap fun q => lanesOf (x.vreg (n + q)) x.id.vlmax }

/-- R140, R224, R225: the bytes that a stream-bound destination sends. -/
def sendBytes (i : Instr) (vlmax : Nat) : Nat :=
  match i with
  | .vmrg _ => 272
  | .vnorm _ => 256
  | _ => 4 * vlmax

/-- R140: what goes to a stream-bound vd. -/
def VecOut.sent (o : VecOut) : List Byte :=
  match o.lanes with
  | some l => bytesOf (l.map fun x => x.getD 0)
  | none => o.bytes

/-- The registers, masks, VL and flags of a result written. -/
def VecOut.write (o : VecOut) (x : Slot) (v : Option Nat) (dp : Option Nat) : Slot :=
  let x := match dp, v, o.lanes with
    | none, some n, some l => x.setVreg n (setLanes (x.vreg n) l)
    | _, _, _ => x
  let x := match dp with
    | none => o.regs.foldl (fun (x : Slot) (r : Nat × VReg) => x.setVreg r.1 r.2) x
    | some _ => x
  let x := match o.mask with | some (n, m) => x.setMask n m | none => x
  let x := match o.vl with | some n => { x with vec := { x.vec with vl := n } } | none => x
  x.orFlags o.flags

/-- What the body of a vector word gives: its result, with the bytes it stores, or a fault of its own. -/
inductive VecRes
  | ok (o : VecOut) (stores : List (Nat × List Byte)) | fault (c : Cause)

/-- R139-R141, R170, R171: the frame of a word of ECLS 0 or 1: the wait for the slots of its sources; port checks of its sources, then of
its destination, then the faults of the slots at hand, and all these before a bad element (R237) and what else the word checks itself
(DESIGN CHOICE, log 58); the wait for the stream hold buffer; the word's own checks; then the result, the slots consumed. -/
def vecFrame (s : State) (i : Instr) (k : QEntry → State → List VSrc → VecRes) : Out :=
  startWord s fun w s =>
    let x := s.me
    if !streamsReady s s.cur (fitSrcs s s.cur (readBytes i x.id.vlmax) (vsources i) []) then .wait else
    match streamSrcs s s.cur (readBytes i x.id.vlmax) (vsources i) [] with
    | .error c => .fault c none
    | .ok srcs =>
      match (match vdest i with | none => Except.ok none | some v => streamDst s s.cur w v (sendBytes i x.id.vlmax)) with
      | .error c => .fault c none
      | .ok dp =>
        match streamFault s s.cur srcs with
        | some c => .fault c none
        | none =>
          if dp.isSome && !x.holdRoom then .wait else
          let vals := ((vsources i).zip srcs).map fun (v, o) => match o with
            | some a => VSrc.bytes (streamBytes s s.cur a)
            | none => VSrc.reg v
          match k w s vals with
          | .fault c => .fault c none
          | .ok o stores =>
            let t := streamConsume s s.cur srcs s
            let t := stores.foldl (fun t (a, bs) => t.putBytesAt t.cur a bs) t
            let t := t.modMe fun x => o.write x (vdest i) dp
            let t := match dp with | some p => holdSend t t.cur w p o.sent | none => t
            .ok t .done

/-- The frame of a word that cannot fault by itself (R209). -/
def vecWord (s : State) (i : Instr) (k : QEntry → Slot → List VSrc → VecOut) : Out :=
  vecFrame s i fun w s l => .ok (k w s.me l) []

/-- A source's lanes. -/
def srcLanes (x : Slot) (l : List VSrc) (k : Nat) : List Nat :=
  match l[k]? with
  | some v => v.lanes x
  | none => []

/-- R204: ELEMENTWISE. -/
def eachLane (x : Slot) (f : VecF) (op : Nat → FRes) : VecOut :=
  let res := (List.range x.id.vlmax).map fun i =>
    if x.active f.msk i then some (op i) else if i < x.vec.vl && f.mz = 1 then some (0, 0) else none
  { lanes := some (res.map fun r => r.map (·.1))
    flags := res.foldl (fun fl r => match r with | some r => fl ||| r.2 | none => fl) 0 }

/-- R208: the second operand at a lane: vb, or the immediate; `fl` makes it the high half of an FP32 pattern. -/
def secondOp (f : VecF) (fl : Bool) (b : List Nat) (i : Nat) : Nat :=
  if f.isImm then (if fl then f.imm.toNat * 65536 else (f.imm.signExtend 32).toNat) else b.getD i 0

/-- An element-wise word of one source. -/
def vecUn (s : State) (i : Instr) (f : VecF) (op : Rm → Nat → FRes) : Out :=
  vecWord s i fun w x l =>
    let a := srcLanes x l 0
    eachLane x f fun k => op (rmOf f.rm w.rm) (a.getD k 0)

/-- An element-wise word of two sources. -/
def vecBin (s : State) (i : Instr) (f : VecF) (fl : Bool) (op : Rm → Nat → Nat → FRes) : Out :=
  vecWord s i fun w x l =>
    let a := srcLanes x l 0
    let b := srcLanes x l 1
    eachLane x f fun k => op (rmOf f.rm w.rm) (a.getD k 0) (secondOp f fl b k)

/-- An integer word of two sources: no flag. -/
def vecInt (s : State) (i : Instr) (f : VecF) (op : BitVec 32 → BitVec 32 → BitVec 32) : Out :=
  vecBin s i f false fun _ a b => ((op (BitVec.ofNat 32 a) (BitVec.ofNat 32 b)).toNat, 0)

/-- An element-wise word of three sources; with S the immediate stands for vb and vc is the second field read. -/
def vecFused (s : State) (i : Instr) (f : VecF) (op : Rm → Nat → Nat → Nat → FRes) : Out :=
  vecWord s i fun w x l =>
    let a := srcLanes x l 0
    let b := srcLanes x l 1
    let c := srcLanes x l (if f.isImm then 1 else 2)
    eachLane x f fun k => op (rmOf f.rm w.rm) (a.getD k 0) (secondOp f true b k) (c.getD k 0)

/-- R205, R214, R219: a compare; a lane's bit fares as its lane would under R204. -/
def vecCmp (s : State) (i : Instr) (f : VecF) (fl : Bool) (op : Nat → Nat → Bool × Flags) : Out :=
  vecWord s i fun _ x l =>
    let a := srcLanes x l 0
    let b := srcLanes x l 1
    let md := f.vd.toNat
    (List.range x.id.vlmax).foldl (fun o k =>
      let m : MReg := match o.mask with | some (_, m) => m | none => x.mask md
      if x.active f.msk k then
        let r := op (a.getD k 0) (secondOp f fl b k)
        { o with mask := some (md, if r.1 then m ||| (1#64 <<< k) else m &&& ~~~(1#64 <<< k)), flags := o.flags ||| r.2 }
      else if k < x.vec.vl && f.mz = 1 then { o with mask := some (md, m &&& ~~~(1#64 <<< k)) }
      else o) {}

/-- R220: a reduction: TREE over the active lanes, the result in lane 0; nothing at VL = 0 (R206). One active lane is delivered as it is
and sets no flag, a NaN too: R91's TREE applies no operation to it (DEDUCED, log 56). -/
def vecReduce (s : State) (i : Instr) (f : VecF) (empty : Nat) (op : Rm → Nat → Nat → FRes) : Out :=
  vecWord s i fun w x l =>
    let a := srcLanes x l 0
    let rest := List.replicate (x.id.vlmax - 1) none
    if x.vec.vl = 0 then { lanes := some (none :: rest) } else
    let act : List FRes := ((List.range x.id.vlmax).filter fun k => x.active f.msk k).map fun k => (a.getD k 0, 0)
    let node (p q : FRes) : FRes :=
      let r := op (rmOf f.rm w.rm) p.1 q.1
      (r.1, p.2 ||| q.2 ||| r.2)
    let r := (tree node act).getD (empty, 0)
    { lanes := some (some r.1 :: rest), flags := r.2 }

/-- R227: a mask word, over the whole group. -/
def vecMask (s : State) (i : Instr) (f : VecF) (op : MReg → MReg → MReg) : Out :=
  vecWord s i fun _ x _ => { mask := some (f.vd.toNat, op (x.mask f.va.toNat) (x.mask f.vb.toNat)) }

/-! ## Lane operations -/

/-- R214: a compare condition on two FP32 values, with the flag it sets. -/
def cmpF (cond a b : Nat) : Bool × Flags :=
  let x := f32.dec a
  let y := f32.dec b
  if x.isNan || y.isNan then
    let quiet := cond = 0 || cond = 1 || cond = 6
    (cond = 1 || cond = 6, if !quiet || x.isSig || y.isSig then fNV else 0)
  else
    let c := fltCmp a b
    (match cond with
      | 0 => c == .eq
      | 1 => c != .eq
      | 2 => c == .lt
      | 3 => c != .gt
      | 4 => c == .gt
      | 5 => c != .lt
      | _ => false, 0)

/-- R219: a compare condition on two 32-bit integers. -/
def cmpI (cond : Nat) (a b : BitVec 32) : Bool :=
  match cond with
  | 0 => a == b
  | 1 => a != b
  | 2 => a.slt b
  | 3 => !b.slt a
  | 4 => b.slt a
  | 5 => !a.slt b
  | 6 => a.ult b
  | _ => !a.ult b

/-- R82: an exact value saturated to 32 bits, signed or unsigned. -/
def sat32 (uns : Bool) (v : Int) : BitVec 32 :=
  if uns then BitVec.ofInt 32 (max 0 (min v (2 ^ 32 - 1))) else BitVec.ofInt 32 (max (-(2 ^ 31)) (min v (2 ^ 31 - 1)))

/-- R217: the value of a lane under U. -/
def laneInt (uns : Bool) (a : BitVec 32) : Int := if uns then a.toNat else a.toInt

/-- R217: an exact integer operation, wrapped or saturated. -/
def intSat (f : VecF) (op : Int → Int → Int) (a b : BitVec 32) : BitVec 32 :=
  let uns := f.sub.getLsbD 0
  let v := op (laneInt uns a) (laneInt uns b)
  if f.sat = 1 then sat32 uns v else BitVec.ofInt 32 v

/-- R216: a conversion. -/
def convert (kind : Nat) (rm : Rm) (a : Nat) : FRes :=
  match kind with
  | 0 => f2i rm false a
  | 1 => f2i rm true a
  | 2 => i2f rm false a
  | 3 => i2f rm true a
  | _ => rint rm a

/-- FP32 operations of the unit on bit patterns. -/
def fmaF (rm : Rm) (na nc : Bool) (a b c : Nat) : FRes :=
  f32.fmaV rm (if na then (f32.dec a).negate else f32.dec a) (f32.dec b) (if nc then (f32.dec c).negate else f32.dec c)

/-! ## The words -/

/-- R210: vadd. -/
def execVadd (f : VecF) (s : State) : Out :=
  vecBin s (.vadd f) f true addF

/-- R210: vsub. -/
def execVsub (f : VecF) (s : State) : Out :=
  vecBin s (.vsub f) f true subF

/-- R210: vmul. -/
def execVmul (f : VecF) (s : State) : Out :=
  vecBin s (.vmul f) f true mulF

/-- R211: vfma. -/
def execVfma (f : VecF) (s : State) : Out :=
  vecFused s (.vfma f) f fun rm a b c => fmaF rm false false a b c

/-- R211: vfms. -/
def execVfms (f : VecF) (s : State) : Out :=
  vecFused s (.vfms f) f fun rm a b c => fmaF rm false true a b c

/-- R211: vfnma. -/
def execVfnma (f : VecF) (s : State) : Out :=
  vecFused s (.vfnma f) f fun rm a b c => fmaF rm true false a b c

/-- R212: vdiv. -/
def execVdiv (f : VecF) (s : State) : Out :=
  vecBin s (.vdiv f) f true fun _ a b => f32.divV (f32.dec a) (f32.dec b)

/-- R212: vsqrt. -/
def execVsqrt (f : VecF) (s : State) : Out :=
  vecUn s (.vsqrt f) f fun _ a => f32.sqrtV (f32.dec a)

/-- R212: vrcp. -/
def execVrcp (f : VecF) (s : State) : Out :=
  vecUn s (.vrcp f) f fun _ a => f32.rcpV (f32.dec a)

/-- R212: vrsqrt. -/
def execVrsqrt (f : VecF) (s : State) : Out :=
  vecUn s (.vrsqrt f) f fun _ a => f32.rsqrtV (f32.dec a)

/-- R212: vexp2. -/
def execVexp2 (f : VecF) (s : State) : Out :=
  vecUn s (.vexp2 f) f fun _ a => exp2F a

/-- R212: vlog2. -/
def execVlog2 (f : VecF) (s : State) : Out :=
  vecUn s (.vlog2 f) f fun _ a => log2V (f32.dec a)

/-- R210: vmin. -/
def execVmin (f : VecF) (s : State) : Out :=
  vecBin s (.vmin f) f true fun _ a b => minMax false a b

/-- R210: vmax. -/
def execVmax (f : VecF) (s : State) : Out :=
  vecBin s (.vmax f) f true fun _ a b => minMax true a b

/-- R213: vabs. -/
def execVabs (f : VecF) (s : State) : Out :=
  vecUn s (.vabs f) f fun _ a => (a % 2 ^ 31, 0)

/-- R213: vneg. -/
def execVneg (f : VecF) (s : State) : Out :=
  vecUn s (.vneg f) f fun _ a => ((a + 2 ^ 31) % 2 ^ 32, 0)

/-- R214: vcmp. -/
def execVcmp (f : VecF) (s : State) : Out :=
  vecCmp s (.vcmp f) f true fun a b => cmpF f.cond a b

/-- R215: vsel. -/
def execVsel (f : VecF) (s : State) : Out :=
  vecWord s (.vsel f) fun _ x l =>
    let a := srcLanes x l 0
    let b := srcLanes x l 1
    { lanes := some ((List.range x.id.vlmax).map fun k =>
        if k < x.vec.vl then some (if (x.mask f.msk.toNat).getLsbD k then a.getD k 0 else b.getD k 0) else none) }

/-- R216: vcvt. -/
def execVcvt (f : VecF) (s : State) : Out :=
  vecUn s (.vcvt f) f fun rm a => convert f.sub.toNat rm a

/-- R217: viadd. -/
def execViadd (f : VecF) (s : State) : Out :=
  vecInt s (.viadd f) f (intSat f fun a b => a + b)

/-- R217: visub. -/
def execVisub (f : VecF) (s : State) : Out :=
  vecInt s (.visub f) f (intSat f fun a b => a - b)

/-- R217: vimul. -/
def execVimul (f : VecF) (s : State) : Out :=
  vecInt s (.vimul f) f (intSat f fun a b => a * b)

/-- R217: vimulh. -/
def execVimulh (f : VecF) (s : State) : Out :=
  vecInt s (.vimulh f) f fun a b =>
    BitVec.ofInt 32 (laneInt (f.sub.getLsbD 0) a * laneInt (f.sub.getLsbD 0) b / 2 ^ 32)

/-- R217: vimin. -/
def execVimin (f : VecF) (s : State) : Out :=
  vecInt s (.vimin f) f fun a b => if b.slt a then b else a

/-- R217: vimax. -/
def execVimax (f : VecF) (s : State) : Out :=
  vecInt s (.vimax f) f fun a b => if a.slt b then b else a

/-- R217: viminu. -/
def execViminu (f : VecF) (s : State) : Out :=
  vecInt s (.viminu f) f fun a b => if b.ult a then b else a

/-- R217: vimaxu. -/
def execVimaxu (f : VecF) (s : State) : Out :=
  vecInt s (.vimaxu f) f fun a b => if a.ult b then b else a

/-- R218: vand. -/
def execVand (f : VecF) (s : State) : Out :=
  vecInt s (.vand f) f fun a b => a &&& b

/-- R218: vor. -/
def execVor (f : VecF) (s : State) : Out :=
  vecInt s (.vor f) f fun a b => a ||| b

/-- R218: vxor. -/
def execVxor (f : VecF) (s : State) : Out :=
  vecInt s (.vxor f) f fun a b => a ^^^ b

/-- R218: vshl. -/
def execVshl (f : VecF) (s : State) : Out :=
  vecInt s (.vshl f) f fun a b => a <<< (b.toNat % 32)

/-- R218: vshr. -/
def execVshr (f : VecF) (s : State) : Out :=
  vecInt s (.vshr f) f fun a b => a >>> (b.toNat % 32)

/-- R218: vsra. -/
def execVsra (f : VecF) (s : State) : Out :=
  vecInt s (.vsra f) f fun a b => a.sshiftRight (b.toNat % 32)

/-- R219: vicmp. -/
def execVicmp (f : VecF) (s : State) : Out :=
  vecCmp s (.vicmp f) f false fun a b => (cmpI f.cond (BitVec.ofNat 32 a) (BitVec.ofNat 32 b), 0)

/-- R220: vredsum. -/
def execVredsum (f : VecF) (s : State) : Out :=
  vecReduce s (.vredsum f) f 0 addF

/-- R220: vredmax. -/
def execVredmax (f : VecF) (s : State) : Out :=
  vecReduce s (.vredmax f) f negInf fun _ a b => minMax true a b

/-- R220: vredmin. -/
def execVredmin (f : VecF) (s : State) : Out :=
  vecReduce s (.vredmin f) f 0x7F800000 fun _ a b => minMax false a b

/-- R220: viredsum. -/
def execViredsum (f : VecF) (s : State) : Out :=
  vecReduce s (.viredsum f) f 0 fun _ a b =>
    let x := BitVec.ofNat 32 a
    let y := BitVec.ofNat 32 b
    ((if f.sat = 1 then sat32 false (x.toInt + y.toInt) else x + y).toNat, 0)

/-- R221: viota. -/
def execViota (f : VecF) (s : State) : Out :=
  vecWord s (.viota f) fun _ x _ =>
    let step := (f.sub ++ f.vc : BitVec 10)
    eachLane x f fun k => ((BitVec.ofInt 32 (f.imm.toInt + k * step.toInt)).toNat, 0)

/-- R222: vbcast. -/
def execVbcast (f : VecF) (s : State) : Out :=
  vecWord s (.vbcast f) fun _ x l =>
    let v := if f.sub = 0 then (srcLanes x l 0).getD f.imm.toNat 0
      else if f.sub = 8 then f.imm.toNat * 65536 else (f.imm.signExtend 32).toNat
    eachLane x f fun _ => (v, 0)

/-- R213: vmv. -/
def execVmv (f : VecF) (s : State) : Out :=
  vecUn s (.vmv f) f fun _ a => (a, 0)

/-- R224: vmrg. -/
def execVmrg (f : VecF) (s : State) : Out :=
  vecWord s (.vmrg f) fun _ x l =>
    let t := groupT x.id.vlmax
    let tri (k : Nat) : Triple := match l[k]? with | some v => v.triple x | none => ⟨0, 0, []⟩
    let (r, fl) := mergeTriple (tri 0) (tri 1)
    { regs := ((List.range t).map fun q => (f.vd.toNat + q, ofLanes ((r.o.drop (q * x.id.vlmax)).take x.id.vlmax)))
        ++ [(f.vd.toNat + t, ofLanes [r.m, r.l])]
      bytes := tripleBytes r, flags := fl }

/-- R225: vnorm. -/
def execVnorm (f : VecF) (s : State) : Out :=
  vecWord s (.vnorm f) fun _ x l =>
    let t := groupT x.id.vlmax
    let (q, z, fl) := normTriple (match l[0]? with | some v => v.triple x | none => ⟨0, 0, []⟩)
    let m := x.mask f.vc.toNat
    let bit := 1#64 <<< f.imm.toNat
    { regs := (List.range t).map fun k => (f.vd.toNat + k, ofLanes ((q.drop (k * x.id.vlmax)).take x.id.vlmax))
      bytes := bytesOf q, mask := some (f.vc.toNat, if z then m ||| bit else m &&& ~~~bit), flags := fl }

/-- R226: vsetvl. -/
def execVsetvl (f : VecF) (s : State) : Out :=
  vecWord s (.vsetvl f) fun _ x l =>
    { vl := some (min (if f.sub = 0 then f.imm.toNat else (srcLanes x l 0).getD 0 0) x.id.vlmax) }

/-- R227: mand. -/
def execMand (f : VecF) (s : State) : Out :=
  vecMask s (.mand f) f fun a b => a &&& b

/-- R227: mor. -/
def execMor (f : VecF) (s : State) : Out :=
  vecMask s (.mor f) f fun a b => a ||| b

/-- R227: mxor. -/
def execMxor (f : VecF) (s : State) : Out :=
  vecMask s (.mxor f) f fun a b => a ^^^ b

/-- R227: mnot. -/
def execMnot (f : VecF) (s : State) : Out :=
  vecMask s (.mnot f) f fun a _ => ~~~a

end Sys2Proof.Machine
end

