-- ==== Sys2Proof/Machine/VMem.lean ====
section
/-! DEFINITION. The ECLS 1 words (R234-R245): loads, stores, the scatter-add and the permutes. -/

namespace Sys2Proof.Machine

/-! ## Element addresses and checks (R235-R237) -/

/-- R235: the base address A of an access word as it starts. -/
def Slot.memBase (x : Slot) (f : MemF) : Word := accessBase (x.bank.readE .vq f.eb.toNat) f.off
/-- R235: the address of a lane's element, contiguous. -/
def contigAddr (x : Slot) (f : MemF) (k : Nat) : Nat :=
  (x.memBase f + BitVec.ofNat 64 (k * (x.window f.win.toNat).fmt.size)).toNat
/-- R235: strided. -/
def stridedAddr (x : Slot) (f : MemF) (k : Nat) : Nat :=
  (x.memBase f + BitVec.ofNat 64 k * x.bank.readE .vq f.es.toNat).toNat
/-- R235: indexed, by the 32 bits of a lane. -/
def indexedAddr (x : Slot) (f : MemF) (ix : Nat) : Nat :=
  (x.memBase f + BitVec.ofNat 64 (ix * (x.window f.win.toNat).fmt.size)).toNat

/-- R236: an element at `a` is bad. -/
def elemBad (s : State) (win : Win) (wr : Bool) (a : Nat) : Bool :=
  a < win.base || win.limit < a + win.fmt.size || s.badRange s.cur a win.fmt.size wr

/-- R204: the active lanes, increasing. -/
def Slot.activeLanes (x : Slot) (m : BitVec 3) : List Nat := (List.range x.id.vlmax).filter fun k => x.active m k

/-- The bits of an element in SRAM. -/
def State.elemAt (s : State) (win : Win) (a : Nat) : Nat := leNat (s.bytesAt s.cur a win.fmt.size)

/-- R242: LOAD; `addr` gives the address of a lane's element. -/
def loadLanes (s : State) (f : MemF) (addr : Nat → Nat) : VecRes :=
  let x := s.me
  let win := x.window f.win.toNat
  let act := x.activeLanes f.msk
  let bad (k : Nat) : Bool := elemBad s win false (addr k)
  let none_ : VecOut := { lanes := some (List.replicate x.id.vlmax none) }
  match act with
  | [] => .ok none_ []
  | k0 :: _ =>
    if bad k0 || (f.ff = 0 && act.any bad) then .fault .window else
    let stop := act.find? bad
    let list := match stop with | some b => act.filter fun k => k < b | none => act
    if eccRanges s s.cur (list.map fun k => (addr k, win.fmt.size)) then .fault .eccfatal else
    let val (k : Nat) : Nat × Flags := winDec win.fmt win.k (s.elemAt win (addr k))
    .ok { lanes := some ((List.range x.id.vlmax).map fun k => if list.contains k then some (val k).1 else none)
          vl := stop
          flags := list.foldl (fun fl k => fl ||| (val k).2) 0 } []

/-- R243: STORE. -/
def storeLanes (s : State) (f : MemF) (data : List Nat) (addr : Nat → Nat) : VecRes :=
  let x := s.me
  let win := x.window f.win.toNat
  let act := x.activeLanes f.msk
  if act.any fun k => elemBad s win true (addr k) then .fault .window
  else if eccRanges s s.cur (act.map fun k => (addr k, win.fmt.size)) then .fault .eccfatal
  else
    let enc (k : Nat) : Nat × Flags := winEnc win.fmt win.k (data.getD k 0)
    .ok { flags := act.foldl (fun fl k => fl ||| (enc k).2) 0 }
      (act.map fun k => (addr k, natLe (enc k).1 win.fmt.size))

/-- R244: ADD of a lane kind. -/
def scAdd (win : Win) (p q : Nat) : FRes := if win.fmt.isInt then ((p + q) % 2 ^ 32, 0) else addF .rne p q

/-- R244: SCADD. -/
def scatterAdd (s : State) (f : MemF) (data idx : List Nat) : VecRes :=
  let x := s.me
  let win := x.window f.win.toNat
  let act := x.activeLanes f.msk
  let at_ (k : Nat) : Nat := indexedAddr x f (idx.getD k 0)
  if act.any fun k => elemBad s win true (at_ k) then .fault .window
  else if eccRanges s s.cur (act.map fun k => (at_ k, win.fmt.size)) then .fault .eccfatal
  else
    -- each distinct index in order of its first lane
    let firsts := act.filter fun k => !act.any fun j => j < k && idx.getD j 0 == idx.getD k 0
    let one (k : Nat) : Nat × Flags :=
      let later := act.filter fun j => k < j && idx.getD j 0 == idx.getD k 0
      let c := later.foldl (fun (c : FRes) j =>
        let r := scAdd win c.1 (data.getD j 0)
        (r.1, c.2 ||| r.2)) ((data.getD k 0, 0) : FRes)
      let v := winDec win.fmt win.k (s.elemAt win (at_ k))
      let t := scAdd win v.1 c.1
      let e := winEnc win.fmt win.k t.1
      (e.1, c.2 ||| v.2 ||| t.2 ||| e.2)
    .ok { flags := firsts.foldl (fun fl k => fl ||| (one k).2) 0 }
      (firsts.map fun k => (at_ k, natLe (one k).1 win.fmt.size))

/-! ## Loads and stores -/

/-- R242: vld. -/
def execVld (f : MemF) (s : State) : Out :=
  vecFrame s (.vld f) fun _ s _ => loadLanes s f (contigAddr s.me f)
/-- R242: vlds. -/
def execVlds (f : MemF) (s : State) : Out :=
  vecFrame s (.vlds f) fun _ s _ => loadLanes s f (stridedAddr s.me f)
/-- R242: vldx. -/
def execVldx (f : MemF) (s : State) : Out :=
  vecFrame s (.vldx f) fun _ s l =>
    let ix := srcLanes s.me l 0
    loadLanes s f fun k => indexedAddr s.me f (ix.getD k 0)
/-- R243: vst. -/
def execVst (f : MemF) (s : State) : Out :=
  vecFrame s (.vst f) fun _ s l => storeLanes s f (srcLanes s.me l 0) (contigAddr s.me f)
/-- R243: vsts. -/
def execVsts (f : MemF) (s : State) : Out :=
  vecFrame s (.vsts f) fun _ s l => storeLanes s f (srcLanes s.me l 0) (stridedAddr s.me f)
/-- R243: vstx. -/
def execVstx (f : MemF) (s : State) : Out :=
  vecFrame s (.vstx f) fun _ s l =>
    let ix := srcLanes s.me l 1
    storeLanes s f (srcLanes s.me l 0) fun k => indexedAddr s.me f (ix.getD k 0)
/-- R244: vscadd. -/
def execVscadd (f : MemF) (s : State) : Out :=
  vecFrame s (.vscadd f) fun _ s l => scatterAdd s f (srcLanes s.me l 0) (srcLanes s.me l 1)

/-! ## Permutes (R245) -/

/-- R245: the lanes of a permute: `g` gives the value of an active lane. -/
def permLanes (x : Slot) (f : MemF) (g : Nat → Nat) : VecOut :=
  { lanes := some ((List.range x.id.vlmax).map fun k => if x.active f.msk k then some (g k) else none) }

/-- R245: vperm. -/
def execVperm (f : MemF) (s : State) : Out :=
  vecWord s (.vperm f) fun _ x l =>
    let a := srcLanes x l 0
    let ix := srcLanes x l 1
    permLanes x f fun k => if ix.getD k 0 < x.vec.vl then a.getD (ix.getD k 0) 0 else 0
/-- R245: vrot. -/
def execVrot (f : MemF) (s : State) : Out :=
  vecWord s (.vrot f) fun _ x l =>
    let a := srcLanes x l 0
    permLanes x f fun k => a.getD ((k + (f.off.extractLsb' 0 16).toNat) % x.vec.vl) 0
/-- R245: vslide. -/
def execVslide (f : MemF) (s : State) : Out :=
  vecWord s (.vslide f) fun _ x l =>
    let a := srcLanes x l 0
    permLanes x f fun k =>
      let j : Int := k + (f.off.extractLsb' 0 16).toInt
      if 0 ≤ j ∧ j < x.vec.vl then a.getD j.toNat 0 else 0
/-- R245: vcompress. -/
def execVcompress (f : MemF) (s : State) : Out :=
  vecWord s (.vcompress f) fun _ x l =>
    let a := srcLanes x l 0
    let kept := ((List.range x.vec.vl).filter fun k => (x.mask f.msk.toNat).getLsbD k).map fun k => a.getD k 0
    { lanes := some ((List.range x.id.vlmax).map fun k => if k < x.vec.vl then some (kept.getD k 0) else none) }

end Sys2Proof.Machine
end

