-- ==== Sys2Proof/Machine/Matrix.lean ====
section
/-! DEFINITION. The ECLS 2 words (R249-R268): the accumulators (R92-R96), the checks at a word's start (R259), steps, batches,
readouts, save blocks. -/

namespace Sys2Proof.Machine

/-! ## Accumulators -/

/-- An accumulator changed. -/
def Tile.modAcc (t : Tile) (n : Nat) (f : Acc → Acc) : Tile := t.setAcc n (f (t.acc n))
/-- An accumulator of the tile of the slot that moves. -/
def State.acc (s : State) (n : BitVec 1) : Acc := (s.tile (tileOf s.cur)).acc n.toNat
/-- It, changed. -/
def State.modAcc (s : State) (n : BitVec 1) (f : Acc → Acc) : State := s.modTile (tileOf s.cur) fun t => t.modAcc n.toNat f

/-- R92: the mode of a fmt code. -/
def modeOf (fmt : BitVec 4) : AccMode := if fmt = 1 then .flt else if fmt = 3 then .int else .fix
/-- R267: the code of a mode. -/
def AccMode.code : AccMode → Nat
  | .fix => 0 | .int => 1 | .flt => 2
/-- R267: a mode from its code; 3 is reserved. -/
def AccMode.ofCode (c : Nat) : Option AccMode :=
  match c with
  | 0 => some .fix | 1 => some .int | 2 => some .flt | _ => none

/-- R92: the exact value of an element. -/
def Acc.value (a : Acc) (i j : Nat) : FVal :=
  let b := Sparse.get 0 a.el (64 * i + j)
  match a.mode with
  | .fix => .fin (b.toInt < 0) b.toInt.natAbs (-48)
  | .int => .fin (b.toInt < 0) b.toInt.natAbs 0
  | .flt => f32.dec (b.extractLsb' 0 32).toNat

/-- R96: an element as it is read out: V 2^(sa + sb). -/
def Acc.readout (a : Acc) (i j : Nat) : FVal := (a.value i j).scale (a.sa.toInt + a.sb.toInt)

/-! ## Checks (R259) -/

/-- R259 check 1, R269: at level P the accumulator belongs to another context. -/
def State.accForeign (s : State) (n : BitVec 1) : Bool :=
  s.me.atP && (s.acc n).tag != (s.tile (tileOf s.cur)).ctag

/-- R254: the pair of MQ engine registers from `e[n]`. -/
def Slot.panel (x : Slot) (n : BitVec 6) : Panel := panelOf (x.bank.readE .mq n.toNat) (x.bank.readE .mq (n.toNat + 1))

/-- R259 check 2: NEL or a zero field of a pair. -/
def Panel.wrong (p : Panel) : Bool := p.nel == 0 || Config.mtl < p.nel || p.bad

/-- The elements of `d` rows: address of each, row by row. -/
def Panel.addrs (p : Panel) (d n : Nat) : List Nat :=
  (List.range d).flatMap fun k => (List.range p.nel).map fun i => p.addr n k i

/-- An operand of a step: rows of raw elements, or the pair that holds them in SRAM. -/
def State.operandRows (s : State) (src : BitVec 1) (f : BitVec 6) (d n : Nat) : List (List Nat) :=
  let x := s.me
  if src = 1 then
    let bs := (List.range (matRegs d n x.id.vlmax)).flatMap fun r => bytesOf (lanesOf (x.vreg (f.toNat + r)) x.id.vlmax)
    (List.range d).map fun k => (List.range 64).map fun i => leNat ((bs.drop ((64 * k + i) * n)).take n)
  else
    let p := x.panel f
    (List.range d).map fun k => (List.range p.nel).map fun i => leNat (s.bytesAt s.cur (p.addr n k i) n)

/-- R259 checks 2 and 3 of an SRAM operand of a step. -/
def State.panelFault (s : State) (src : BitVec 1) (f : BitVec 6) : Bool := src == 0 && (s.me.panel f).wrong
/-- R259 check 3 of an SRAM operand. -/
def State.panelOut (s : State) (src : BitVec 1) (f : BitVec 6) (d n : Nat) : Bool :=
  src == 0 && ((s.me.panel f).addrs d n).any fun a => s.badRange s.cur a n false
/-- R109: a double-bit error in an SRAM operand. -/
def State.panelEcc (s : State) (src : BitVec 1) (f : BitVec 6) (d n : Nat) : Bool :=
  src == 0 && eccRanges s s.cur (((s.me.panel f).addrs d n).map fun a => (a, n))

/-! ## Arithmetic of a step (R261) -/

/-- R261: DEC of an element of operand A (`true`) or B. -/
def matDec (fmt : BitVec 4) (a : Bool) (b : Nat) : FVal :=
  match fmt.toNat with
  | 0 => f16.dec b
  | 1 => bf16.dec b
  | 2 => tapDec b
  | 3 => let v := (BitVec.ofNat 8 b).toInt; .fin (v < 0) v.natAbs 0
  | _ => if a then f16.dec b else tapDec b

/-- R93, R261: p / w of two operand elements, w = 2^-48 in FIX and 1 in INT; none when one is not finite. -/
def fixProd (mode : AccMode) (x y : FVal) : Option Int :=
  match x, y with
  | .fin n1 m1 e1, .fin n2 m2 e2 =>
    let sh := e1 + e2 + (if mode == .fix then 48 else 0)
    let v : Int := (cut (m1 * m2) sh 0 false).q
    some (if n1 == n2 then v else -v)
  | _, _ => none

/-- R94: a sum brought into the range of an element, and whether it left it. -/
def saturate96 (v : Int) : Int × Bool :=
  if 2 ^ 95 - 1 < v then (2 ^ 95 - 1, true) else if v < -(2 ^ 95) then (-(2 ^ 95), true) else (v, false)

/-- What the updates of a step make of one element: its bits, whether it saturated, the flags. -/
structure Cell where
  bits : AccElem
  ov : Bool
  flags : Flags

/-- The value is finite. -/
def FVal.isFinite : FVal → Bool
  | .fin _ _ _ => true
  | _ => false

/-- R77, R95, R261: one update of one element; an operand that is not finite sets NV in every mode. -/
def cellStep (mode : AccMode) (neg : Bool) (c : Cell) (x y : FVal) : Cell :=
  match mode with
  | .flt =>
    let r := f32.fmaV .rne (if neg then x.negate else x) y (f32.dec (c.bits.extractLsb' 0 32).toNat)
    { c with bits := BitVec.ofNat 96 r.1, flags := c.flags ||| r.2 ||| (if x.isFinite && y.isFinite then 0 else fNV) }
  | _ =>
    match fixProd mode x y with
    | none => { c with flags := c.flags ||| fNV }
    | some p =>
      let r := saturate96 (c.bits.toInt + (if neg then -p else p))
      { c with bits := BitVec.ofInt 96 r.1, ov := c.ov || r.2 }

/-- R261, R268: the updates of a step on one element, in K order. -/
def cellRun (mode : AccMode) (neg : Bool) (xs ys : List FVal) (b : AccElem) : Cell :=
  (xs.zip ys).foldl (fun c (x, y) => cellStep mode neg c x y) ⟨b, false, 0⟩

/-- R261: MSTEP on an accumulator: it, the flags. -/
def Acc.step (a : Acc) (neg : Bool) (rows cols : List (List FVal)) : Acc × Flags :=
  let na := (rows.headD []).length
  let nb := (cols.headD []).length
  (List.range na).foldl (fun (r : Acc × Flags) i =>
    (List.range nb).foldl (fun (r : Acc × Flags) j =>
      let xs := rows.map fun l => l.getD i (.fin false 0 0)
      let ys := cols.map fun l => l.getD j (.fin false 0 0)
      let c := cellRun a.mode neg xs ys (Sparse.get 0 r.1.el (64 * i + j))
      ({ r.1 with el := Sparse.set 0 r.1.el (64 * i + j) c.bits, ov := r.1.ov || c.ov }, r.2 ||| c.flags)) r) (a, 0)

/-! ## The words -/

/-- R92: mzero. -/
def execMzero (f : MatF) (s : State) : Out :=
  startWord s fun _ s =>
    if s.accForeign f.acc then .fault .accowner none
    else .ok (s.modAcc f.acc fun a => { a with el := [], mode := modeOf f.fmt, opn := 0 }) .done

/-- R261: mstep. -/
def execMstep (f : MatF) (s : State) : Out :=
  startWord s fun _ s =>
    let d := matDepth f
    let na := matSize f.fmt true
    let nb := matSize f.fmt false
    if s.accForeign f.acc then .fault .accowner none
    else if s.panelFault f.asrc f.a || s.panelFault f.bsrc f.b then .fault .descriptor none
    else if s.panelOut f.asrc f.a d na || s.panelOut f.bsrc f.b d nb then .fault .window none
    else if (s.acc f.acc).mode != modeOf f.fmt then .fault .accmode none
    else if s.panelEcc f.asrc f.a d na || s.panelEcc f.bsrc f.b d nb then .fault .eccfatal none
    else
      let rows := (s.operandRows f.asrc f.a d na).map fun l => l.map (matDec f.fmt true)
      let cols := (s.operandRows f.bsrc f.b d nb).map fun l => l.map (matDec f.fmt false)
      let r := (s.acc f.acc).step (f.flags.getLsbD 0) rows cols
      .ok ((s.modAcc f.acc fun _ => { r.1 with opn := r.1.opn ||| (1#8 <<< f.batch.toNat) }).orFlags s.cur r.2) .done

/-- R262: mcommit. -/
def execMcommit (f : MatF) (s : State) : Out :=
  startWord s fun _ s =>
    let close (a : Acc) : Acc := { a with opn := a.opn &&& ~~~(1#8 <<< f.batch.toNat) }
    .ok ((s.modAcc 0 close).modAcc 1 close) .done

/-- R264: one element of an `mrd`. -/
def mrdElem (v : FVal) (int : Bool) : FRes :=
  if int then
    match v with
    | .fin n m e => intEnc 32 n m e
    | _ => (0, fNV)
  else f32.deliver .rne v

/-- R264: mrd. -/
def execMrd (f : MatF) (s : State) : Out :=
  startWord s fun _ s =>
    let int := f.flags.getLsbD 0
    let a := s.acc f.acc
    if s.accForeign f.acc then .fault .accowner none
    else if int && a.mode == .flt then .fault .accmode none
    else if a.opn != 0 then .fault .accopen none
    else
      let n := s.me.id.vlmax
      let t := groupT n
      let res := (List.range (matDepth f)).flatMap fun q => (List.range 64).map fun j => mrdElem (a.readout (f.b.toNat + q) j) int
      let put (x : Slot) (r : Nat) : Slot :=
        x.setVreg (f.a.toNat + r) (setLanes (x.vreg (f.a.toNat + r)) (((res.drop (r * n)).take n).map fun v => some v.1))
      .ok ((s.modMe fun x => (List.range (matDepth f * t)).foldl put x).orFlags s.cur (res.foldl (fun fl r => fl ||| r.2) 0)) .done

/-- R265: mst. -/
def execMst (f : MatF) (s : State) : Out :=
  startWord s fun _ s =>
    let x := s.me
    let a := s.acc f.acc
    let p := x.panel f.a
    let win := x.window f.flags.toNat
    let n := win.fmt.size
    let d := matDepth f
    let at_ (q j : Nat) : Nat := p.addr n q j
    let places := (List.range d).flatMap fun q => (List.range p.nel).map fun j => (q, j)
    if s.accForeign f.acc then .fault .accowner none
    else if p.wrong || p.rot != 0 then .fault .descriptor none
    else if places.any fun (q, j) => elemBad s win true (at_ q j) then .fault .window none
    else if a.opn != 0 then .fault .accopen none
    else if eccRanges s s.cur (places.map fun (q, j) => (at_ q j, n)) then .fault .eccfatal none
    else
      let enc (q j : Nat) : FRes := winEncVal win.fmt ((a.readout (f.b.toNat + q) j).scale (-win.k))
      let t := places.foldl (fun (t : State) (q, j) => t.putBytesAt t.cur (at_ q j) (natLe (enc q j).1 n)) s
      .ok (t.orFlags s.cur (places.foldl (fun fl (q, j) => fl ||| (enc q j).2) 0)) .done

/-- R266: mcfg. -/
def execMcfg (f : MatF) (s : State) : Out :=
  startWord s fun _ s =>
    if s.accForeign f.acc then .fault .accowner none
    else .ok (s.modAcc f.acc fun a => { a with sa := f.a, sb := f.b }) .done

/-! ## Save blocks (R267) -/

/-- R267: bytes of a save block. -/
def saveBlock : Nat := 49216

/-- R267: the header dword of a block. -/
def Acc.header (a : Acc) (p : Bool) : Word :=
  0#24 ++ (if p then 0#8 else a.tag) ++ a.sb.signExtend 8 ++ a.sa.signExtend 8 ++ a.opn ++ 0#5 ++ BitVec.ofBool a.ov ++
    BitVec.ofNat 2 a.mode.code

/-- R267: the block of an accumulator. -/
def Acc.block (a : Acc) (p : Bool) : List Byte :=
  natLe (a.header p).toNat 8 ++ List.replicate 56 0 ++
    (List.range 4096).flatMap fun k => natLe (Sparse.get (0 : AccElem) a.el k).toNat 12

/-- R259 check 3, R267: the block lies outside the partition (of its level) or, at P, in a buffer or, for a save, in code (log
33). -/
def State.blockOut (s : State) (a : Nat) (wr : Bool) : Bool :=
  if s.me.atS then Config.supSize < a + saveBlock else s.badRange s.cur a saveBlock wr

/-- R267: msave. -/
def execMsave (f : MatF) (s : State) : Out :=
  startWord s fun _ s =>
    let a := s.acc f.acc
    let b := ((s.me.bank.readE .mq f.a.toNat).extractLsb' 0 21).toNat
    if s.accForeign f.acc then .fault .accowner none
    else if s.blockOut b true then .fault .window none
    else if s.me.atP && a.opn != 0 then .fault .accopen none
    else .ok (s.putBytesAt s.cur b (a.block s.me.atP)) .done

/-- R267: the accumulator that a block holds, if it is well formed. -/
def Acc.ofBlock (old : Acc) (p : Bool) (bs : List Byte) : Option Acc :=
  let h := (dwords bs 1).getD 0 0
  let sa := h.extractLsb' 16 8
  let sb := h.extractLsb' 24 8
  match AccMode.ofCode (h.extractLsb' 0 2).toNat with
  | none => none
  | some m =>
    if (sa.extractLsb' 0 6).signExtend 8 != sa || (sb.extractLsb' 0 6).signExtend 8 != sb || h.extractLsb' 3 5 != 0
        || h.extractLsb' 40 24 != 0 || ((bs.drop 8).take 56).any (· != 0) || (p && h.extractLsb' 8 8 != 0) then none
    else
      let elem (k : Nat) : AccElem :=
        let e : AccElem := BitVec.ofNat 96 (leNat ((bs.drop (64 + 12 * k)).take 12))
        if m == .flt then (e.extractLsb' 0 32).zeroExtend 96 else e
      some { el := (List.range 4096).foldl (fun t k => Sparse.set 0 t k (elem k)) [], mode := m, sa := sa.extractLsb' 0 6
             sb := sb.extractLsb' 0 6, opn := h.extractLsb' 8 8, ov := h.getLsbD 2
             tag := if p then old.tag else h.extractLsb' 32 8 }

/-- R267: mload. A double-bit error in the block is met before its header is looked at (DESIGN CHOICE, log 63). -/
def execMload (f : MatF) (s : State) : Out :=
  startWord s fun _ s =>
    let b := ((s.me.bank.readE .mq f.a.toNat).extractLsb' 0 21).toNat
    if s.accForeign f.acc then .fault .accowner none
    else if s.blockOut b false then .fault .window none
    else if eccRanges s s.cur [(b, saveBlock)] then .fault .eccfatal none
    else match Acc.ofBlock (s.acc f.acc) s.me.atP (s.bytesAt s.cur b saveBlock) with
      | none => .fault .descriptor none
      | some a => .ok (s.modAcc f.acc fun _ => a) .done

end Sys2Proof.Machine
end

