-- ==== Sys2Proof/Machine/Copy.lean ====
section
/-! DEFINITION. The ECLS 3 words (R286-R301). A copy word passes its fault point in the step in which it starts (R292), or awaits a
page; each later step of it moves one element, one row or one slot (R290, R297, R299). -/

namespace Sys2Proof.Machine

/-- R289, R296-R300: where the elements of a copy word go. -/
inductive CopyDst
  | part | va | atom (op : Nat) | chan (port : Nat) (close : Bool)
deriving DecidableEq, Repr

/-- What a copy word does: its source lies in DRAM or in the partition; its destination; it gathers rows. -/
structure CopyOp where
  srcVa : Bool
  dst : CopyDst
  gather : Bool
deriving DecidableEq, Repr

/-- The elements of a copy word: how many, how many are completed already, bytes of one, both addresses of one. -/
structure Job where
  count : Nat
  first : Nat
  size : Nat
  src : Nat → Nat
  dst : Nat → Nat

/-! ## Descriptors (R288, R292 check 1) -/

/-- R288: the copy descriptor at `a`, if it passes check 1 of R292. -/
def descOf (s : State) (rd : Nat → Byte) (o : CopyOp) (a : Nat) : Option Desc :=
  match readDesc rd s.me.outside a with
  | none => none
  | some d =>
    let bad :=
      (d.res && d.dims.any fun k => k.cnt ≤ k.idx) ||
      (match o.dst with
       | .chan _ _ => d.dst != 0 || d.dims.any fun k => k.ds != 0
       | .atom _ => d.esz < 2 || d.dst.toNat % 4 != 0 || d.dims.any fun k => 1 < k.cnt && k.ds.toNat % 4 != 0
       | _ => false)
    if bad then none else some d

/-- R298: the parameter block at `a`, if it passes check 1 of R292. -/
def gatherOf (s : State) (rd : Nat → Byte) (o : CopyOp) (a : Nat) : Option Gather :=
  match readGather rd s.me.outside a (match o.dst with | .chan _ _ => true | _ => false) with
  | none => none
  | some g => if g.res && g.count ≤ g.idx then none else some g

/-- The place of a copy word's descriptor (R286), before its fault point; from there on the word keeps it (R173). -/
def Slot.descAt (x : Slot) (f : CopyF) : Nat := (x.bank.readE .xq f.ed.toNat).toNat

/-- R290, R299: the elements of a copy word with its descriptor at `a`; a gather's are known once its indices have been read. -/
def jobOf (s : State) (rd : Nat → Byte) (o : CopyOp) (a : Nat) (idx : List Word) : Option Job :=
  if o.gather then
    (gatherOf s rd o a).map fun g =>
      { count := g.count, first := if g.res then g.idx else 0, size := g.rowlen
        src := fun k => (g.rowVa (idx.getD k 0)).toNat, dst := fun k => g.dst.toNat + k * g.pitch.toNat }
  else
    (descOf s rd o a).map fun d =>
      { count := d.count, first := d.start, size := d.size
        src := fun k => (sideAddr d.src d.dims (·.ss) (idxVec d.dims k)).toNat
        dst := fun k => (sideAddr d.dst d.dims (·.ds) (idxVec d.dims k)).toNat }

/-- The elements that remain, in traversal order. -/
def Job.rest (j : Job) : List Nat := (List.range (j.count - j.first)).map fun k => j.first + k

/-- R288, R298: bytes of the descriptor or parameter block at `a`. -/
def blockLen (s : State) (o : CopyOp) (a : Nat) : Nat :=
  if o.gather then 64 else 32 + 24 * ((dwordBy (s.byteAt s.cur) (a + 16)).extractLsb' 0 4).toNat

/-- R109: a double-bit error in a descriptor or parameter block. -/
def descEcc (s : State) (o : CopyOp) (a : Nat) : Bool :=
  !s.me.outside a (blockLen s o a) && s.eccAt s.cur a (blockLen s o a)

/-- R290, R292: a byte of the descriptor or block as the word found it at its fault point: what its own elements write there later does
not change the loop under way. -/
def QEntry.blockByte (w : QEntry) (a : Nat) : Byte := w.prog.block.getD (a - w.prog.desc) 0
/-- The job of a copy word past its fault point. -/
def State.jobAt (s : State) (o : CopyOp) (w : QEntry) : Option Job := jobOf s w.blockByte o w.prog.desc w.prog.idx

/-- R292 checks 1 and 2 of a channel: whole slots, the port's binding, its closing, its severing. -/
def chanFault (s : State) (w : QEntry) (j : Job) (port : Nat) : Option Cause :=
  let p := s.me.port port
  match (if p.bound then s.chan? p.net p.ch else none) with
  | none => some .portunbound
  | some c =>
    if j.count * j.size % c.size ≠ 0 then some .descriptor
    else if !p.isW then some .portunbound
    else if s.me.closedFor port w then some .endstream
    else if p.sev then some .severed
    else none

/-- R292 check 3: some remaining element on a partition side may not be accessed. -/
def jobOut (s : State) (o : CopyOp) (j : Job) : Bool :=
  j.rest.any fun k =>
    (!o.srcVa && s.badRange s.cur (j.src k) j.size false) || (o.dst == .part && s.badRange s.cur (j.dst k) j.size true)

/-! ## Translation (R292 check 4) -/

/-- Who asks for pages: writing, contributing, an indirect-stream engine; the word's ESEQ; the page whose request was rejected. -/
structure PageAsk where
  wr : Bool
  atom : Bool
  idxe : Bool
  eseq : BitVec 32
  rej : Option Nat

/-- What the translation of a list of ranges gives: a leaf for each page, and the sectors in use (R344); a page is awaited; it fails. -/
inductive PageRes
  | ok (leaves : List (Nat × Word)) (use : List Nat) | page (vpn : Nat) | bad (k : FaultKind) (va : Nat)

/-- R279, R282, R284: the page of one address. -/
def onePage (s : State) (i : Nat) (q : PageAsk) (leaves : List (Nat × Word)) (use : List Nat) (va : Nat) : PageRes × State :=
  let vpn := vpnOf va
  let x := s.slot i
  if 2 ^ 57 ≤ va then (.bad .range va, s)
  else if (leafOf leaves vpn).isSome then (.ok leaves use, s)
  else if q.rej == some vpn then (.bad .reject va, s)
  else
    match translate s (tileOf i) x.id.tenant x.id.world vpn q.wr q.atom with
    | (.ok l, s) => (.ok (leaves ++ [(vpn, l)]) use, s)
    | (.bad k, s) => (.bad k va, s)
    | (.page, s) => (.page vpn, pageRequest s ⟨x.id.tenant, q.wr, false, q.idxe, i, q.eseq⟩ vpn)

/-- R344: sectors added to a use, up to a quota; the first that is over it. -/
def addSectors (quota : Nat) : List Nat → List Nat → Except Nat (List Nat)
  | [], use => .ok use
  | x :: l, use =>
    if use.contains x then addSectors quota l use
    else if quota ≤ use.length then .error x
    else addSectors quota l (use ++ [x])

/-- The sectors of a range. -/
def sectorsOf (a n : Nat) : List Nat := (List.range (sector (a + n - 1) + 1 - sector a)).map fun k => sector a + k

/-- R344: the sectors of a piece that a process writes to own DRAM, counted against its quota. -/
def countUse (s : State) (i : Nat) (q : PageAsk) (leaves : List (Nat × Word)) (use : List Nat) (a n : Nat) : PageRes :=
  let own := match leafOf leaves (vpnOf a) with | some f => leafTarget f != 12 | none => false
  match s.procOf i with
  | some (_, net, _) =>
    if q.wr && own then
      match addSectors net.quota (sectorsOf a n) use with
      | .error x => .bad .shadow (x * 64)
      | .ok us => .ok leaves us
    else .ok leaves use
  | none => .ok leaves use

/-- R292 check 4, R344: the pages of pieces in traversal order, each with the shadow sectors of what is written to own DRAM. -/
def touchPieces (s : State) (i : Nat) (q : PageAsk) : List (Nat × Nat) → List (Nat × Word) → List Nat → PageRes × State
  | [], leaves, use => (.ok leaves use, s)
  | (a, n) :: l, leaves, use =>
    match onePage s i q leaves use a with
    | (.ok lv us, s1) =>
      match countUse s1 i q lv us a n with
      | .ok lv us => touchPieces s1 i q l lv us
      | r => (r, s1)
    | r => r

/-- R292 check 4, R344: the pages of ranges in traversal order. -/
def touchPages (s : State) (i : Nat) (q : PageAsk) (l : List (Nat × Nat)) (leaves : List (Nat × Word)) (use : List Nat) : PageRes × State :=
  touchPieces s i q (l.flatMap fun (a, n) => pieces a n) leaves use

/-- R280: the cause that goes with a kind. -/
def FaultKind.cause : FaultKind → Cause
  | .shadow => .shadowfull
  | .conflict => .phaseconflict
  | _ => .memfault

/-- R341, R342: the conflicts of kind 1 that reading some ranges finds, and the first such byte. -/
def rangeConflicts (s : State) (i : Nat) (leaves : List (Nat × Word)) (spans : List (Nat × Nat)) : List Conflict × Option Nat :=
  match s.procOf i with
  | none => ([], none)
  | some (_, n, p) =>
    let vas := (spans.flatMap fun (a, k) => (List.range k).map fun d => a + d).filter fun va =>
      match leafOf leaves (vpnOf va) with | some l => leafTarget l != 12 | none => false
    (vas.filterMap fun va => viewConflict n p va, vas.find? fun va => (viewConflict n p va).isSome)

/-! ## Host memory (R301, R346) -/

/-- The pieces of a range that lie in one granule each. -/
def granulePieces (a n : Nat) : List (Nat × Nat) :=
  (List.range ((a + n - 1) / 256 + 1 - a / 256)).map fun k =>
    let lo := max a ((a / 256 + k) * 256)
    (lo, min (a + n) ((a / 256 + k + 1) * 256) - lo)

/-- R301: the host reads behind a range: host address and length, at most 256 bytes, none across a granule. -/
def hostRuns (leaves : List (Nat × Word)) (a n : Nat) : List (Nat × Nat) :=
  (granulePieces a n).filterMap fun (b, k) =>
    match leafOf leaves (vpnOf b) with
    | some l => if leafTarget l = 12 then some (leafFrame l * 2 ^ 21 + b % 2 ^ 21, k) else none
    | none => none

/-- R346: the host reads of a list of ranges, issued in order for word `w`, numbered from `from`. -/
def askHost (s : State) (i : Nat) (w : QEntry) (leaves : List (Nat × Word)) (num : Nat) (l : List (Nat × Nat)) : State :=
  let runs := l.flatMap fun (a, n) => hostRuns leaves a n
  if runs.isEmpty then s else
  { s with host := { s.host with reads := s.host.reads ++
      (List.range runs.length).map fun k => ⟨i, w.pos, w.sub, num + k, (runs.getD k (0, 0)).1, (runs.getD k (0, 0)).2⟩ } }

/-- R346: the answers to the next `m` host reads of a word, if all have come. -/
def hostAnswers (g : Prog) (m : Nat) : Option (List Byte) :=
  (List.range m).foldl (fun (o : Option (List Byte)) k =>
    match o, g.host.find? fun h => h.1 == g.hostN + k with
    | some bs, some h => some (bs ++ h.2)
    | _, _ => none) (some [])

/-- The bytes of a range behind leaves, host bytes taken from `host` in order, pages of other tenants in the publications `far`; and the
state after it. -/
def rangeBytes (s : State) (i : Nat) (leaves : List (Nat × Word)) (host : List Byte) (far : Far) (a n : Nat) : List Byte × State :=
  let r := (List.range n).foldl (fun (r : List Byte × List Byte × State) k =>
    match leafOf leaves (vpnOf (a + k)) with
    | none => (r.1 ++ [0], r.2)
    | some l =>
      if leafTarget l = 12 then (r.1 ++ [r.2.1.headD 0], r.2.1.tail, r.2.2)
      else
        let b := readVa r.2.2 i l (a + k) far
        (r.1 ++ [b.1], r.2.1, b.2)) ([], host, s)
  (r.1, r.2.2)

/-- R292, log 19: a byte that a word takes from DRAM holds an uncorrectable error; one that the phase rules give from a write set or a
version is not taken from there. -/
def rangeBad (s : State) (i : Nat) (leaves : List (Nat × Word)) (a n : Nat) : Bool :=
  !s.dramEcc.isEmpty && (List.range n).any fun k =>
    match leafOf leaves (vpnOf (a + k)) with
    | none => false
    | some l => badByte s l (a + k) && (((s.procOf i).bind fun (_, n, p) => p.view n (a + k)).isNone)

/-- R346: the bytes of a range in DRAM as a word reads them, charged; none while host memory has not answered. -/
def fetchRange (s : State) (i : Nat) (w : QEntry) (a n : Nat) : Option (List Byte) × State :=
  match hostAnswers w.prog (hostRuns w.prog.leaves a n).length with
  | none => (none, s)
  | some host =>
    let r := rangeBytes (chargeRange s (s.slot i).id.tenant w.prog.leaves a n) i w.prog.leaves host ⟨w.prog.pub, w.prog.peer⟩ a n
    (some r.1, r.2)

/-! ## Start -/

/-- A word waits for a page: its entry says which. -/
def awaitPage (s : State) (w : QEntry) (vpn : Nat) : EngRes :=
  .ok (s.modMe fun x => x.mapWord w fun a => { a with prog := { a.prog with want := some vpn, rej := false } }) .waiting

/-- R292 check 4 for the elements of a job whose indices, if it has any, are known; then its fault point. `leaves` are the index
pages, `ispans` the ranges of the indices, `peer` the number of the word's publication in other packages (R345). -/
def passJob (s : State) (o : CopyOp) (w : QEntry) (desc peer : Nat) (j : Job) (idx : List Word) (leaves : List (Nat × Word))
    (ispans : List (Nat × Nat)) : EngRes :=
  let i := s.cur
  let wr := match o.dst with | .va => true | .atom _ => true | _ => false
  let atom := match o.dst with | .atom _ => true | _ => false
  let rd := if o.srcVa then j.rest.map fun k => (j.src k, j.size) else []
  let spans := if wr then j.rest.map fun k => (j.dst k, j.size) else rd
  let use := match s.procOf i with | some (_, _, p) => p.use | none => []
  let q : PageAsk := ⟨wr, atom, o.gather, w.eseq, if w.prog.rej then w.prog.want else none⟩
  match touchPages s i q spans leaves use with
  | (.page vpn, t) => awaitPage t w vpn
  | (.bad k va, t) => .faultIn t k.cause (some (faultVa va k))
  | (.ok lv us, t) =>
    let (cs, first) := rangeConflicts t i lv (ispans ++ rd)
    let net := t.me.id.net
    let t := if cs.isEmpty then t else noteConflicts t net cs
    let strict := match t.nets[net]? with | some n => n.strict | none => false
    match (if strict then first else none) with
    | some va => .faultIn t .phaseconflict (some (faultVa va .conflict))
    | none =>
      let t := match t.procOf i with
        | some (k, _, p) => if wr then t.modNet k fun n => n.modProc p.pid fun p => { p with use := us } else t
        | none => t
      let all := ispans ++ rd
      let dh : List Hull := match all with
        | [] => []
        | (a, n) :: l => [l.foldl (fun (h : Hull) (r : Nat × Nat) => ⟨min h.lo r.1, max h.hi (r.1 + r.2 - 1), false⟩) ⟨a, a + n - 1, false⟩]
      let used := ((ispans.flatMap fun (a, n) => hostRuns lv a n)).length
      let t := if o.srcVa then askHost t i w lv used rd else t
      let t := { t with free := t.free + 1 }
      .ok (t.modMe fun x => x.mapWord w fun a =>
        { a with prog := { n := j.first, idx := idx, leaves := lv, desc := desc, hostN := used, pub := t.pub, peer := peer
                           block := s.bytesAt i desc (blockLen s o desc) }
                 dhull := if o.gather then dh else a.dhull }) .passed

/-- R299: the indices, one after the other; none while host memory has not answered. -/
def fetchIndices (s : State) (i : Nat) (w : QEntry) : List (Nat × Nat) → Option (List (List Byte)) × State
  | [] => (some [], s)
  | (a, n) :: l =>
    match fetchRange s i w a n with
    | (none, s) => (none, s)
    | (some bs, s) =>
      match fetchIndices s i { w with prog := { w.prog with hostN := w.prog.hostN + (hostRuns w.prog.leaves a n).length } } l with
      | (none, s) => (none, s)
      | (some r, s) => (some (bs :: r), s)

/-- R292: the checks of a copy word, in order, up to its fault point. -/
def copyStart (o : CopyOp) (f : CopyF) (w : QEntry) (s : State) : EngRes :=
  let at0 := s.me.descAt f
  if descEcc s o at0 then .fault .eccfatal none else
  match jobOf s (s.byteAt s.cur) o at0 [] with
  | none => .fault .descriptor none
  | some j0 =>
    match (match o.dst with | .chan p _ => chanFault s w j0 p | _ => none) with
    | some c => .fault c none
    | none =>
      if jobOut s o j0 then .fault .window none else
      if !o.gather then passJob s o w at0 s.free j0 [] [] [] else
      match gatherOf s (s.byteAt s.cur) o at0 with
      | none => .fault .descriptor none
      | some g =>
        let ispans := (List.range g.count).map fun k => ((g.ibase + BitVec.ofNat 64 (k * g.isize)).toNat, g.isize)
        let q : PageAsk := ⟨false, false, true, w.eseq, if w.prog.rej then w.prog.want else none⟩
        match touchPages s s.cur q ispans [] [] with
        | (.page vpn, t) => awaitPage t w vpn
        | (.bad k va, t) => .faultIn t k.cause (some (faultVa va k))
        | (.ok lv _, t) =>
          let peer := t.free
          -- the indices in host memory are read before the rows are known
          let runs := (ispans.flatMap fun (a, n) => hostRuns lv a n).length
          if runs ≠ 0 && w.prog.host.isEmpty && !s.host.reads.any (fun r => r.slot == s.cur && r.pos == w.pos && r.sub == w.sub) then
            .ok (askHost t t.cur w lv 0 ispans) .waiting
          else
          match fetchIndices t t.cur { w with prog := { w.prog with leaves := lv, hostN := 0, pub := t.pub, peer := peer } } ispans with
          | (none, t) => .ok t .waiting
          | (some l, t) =>
            if ispans.any fun (a, n) => rangeBad t t.cur lv a n then .fault .eccfatal none else
            let idx := l.map g.index
            match jobOf t (t.byteAt t.cur) o at0 idx with
            | none => .fault .descriptor none
            | some j => passJob t o w at0 peer j idx lv ispans

/-! ## Moving -/

/-- What a copy word does; none of any other word. -/
def copyOf (w : Word) : Option CopyOp :=
  match decodeEng w with
  | .ok (.xcopy _) => some ⟨false, .part, false⟩
  | .ok (.xget _) => some ⟨true, .part, false⟩
  | .ok (.xput _) => some ⟨false, .va, false⟩
  | .ok (.xstream f) => some ⟨true, .chan f.imm.toNat (f.mode.getLsbD 0), false⟩
  | .ok (.xgather f) => some ⟨true, if f.mode.getLsbD 0 then .chan f.imm.toNat (f.mode.getLsbD 1) else .part, true⟩
  | .ok (.xatom f) => some ⟨false, .atom f.op.toNat, false⟩
  | _ => none

/-- R346: the bytes of the next element are at hand. -/
def elemReady (o : CopyOp) (w : QEntry) (j : Job) : Bool :=
  !o.srcVa || (hostAnswers w.prog (hostRuns w.prog.leaves (j.src w.prog.n) j.size).length).isSome

/-- R192, R294, R297, R346: a copy word past its fault point can move on: it is not to park where it stands, and neither host memory nor
the channel holds it. -/
def State.canMove (s : State) (w : QEntry) : Bool :=
  let x := s.me
  !(x.parking && w.sub == 0 && w.prog.part.isEmpty && youngestStarted x w) &&
  match copyOf w.word with
  | none => false
  | some o =>
    match s.jobAt o w with
    | none => false
    | some j =>
      match o.dst with
      | .chan port _ =>
        let p := x.port port
        match s.chan? p.net p.ch, s.nets[p.net]? with
        | some c, some n =>
          p.sev || (!(x.eng.words.any fun a => a.olderFor w) &&
            (if c.size ≤ w.prog.part.length then p.freeCount c n != some 0 else elemReady o w j))
        | _, _ => false
      | _ => elemReady o w j

/-- The oldest copy word of the slot that moves next: past its fault point, with elements left, and free to move. -/
def State.mover (s : State) : Option QEntry :=
  s.me.eng.ordered.find? fun w => w.stat == .passed && fEcls w.word == 3 && s.canMove w

/-- R300: the contributions of an element. -/
def contribsOf (op : Nat) (va : Nat) (bs : List Byte) : List Contrib :=
  (List.range (bs.length / 4)).map fun t => ⟨op, va + 4 * t, BitVec.ofNat 32 (leNat ((bs.drop (4 * t)).take 4))⟩

/-- R300: contributions recorded for the process; of a slot that runs none (log 26), combined at once. -/
def contribute (s : State) (i : Nat) (leaves : List (Nat × Word)) (cs : List Contrib) : State :=
  match s.procOf i with
  | some (k, _, p) => s.modNet k fun n => n.modProc p.pid fun p => { p with contribs := p.contribs ++ cs }
  | none => cs.foldl (fun s c =>
      match leafOf leaves (vpnOf c.va) with
      | none => s
      | some l =>
        let old := (List.range 4).map fun k => (pageByte s none l ((c.va + k) % 2 ^ 21)).1
        let new := combine c.op (BitVec.ofNat 32 (leNat old)) c.val
        (List.range 4).foldl (fun s k => pageStore s l ((c.va + k) % 2 ^ 21) (new.extractLsb' (8 * k) 8)) s) s

/-- The bytes of element `k` of a job, as its source holds them; none while host memory has not answered. -/
def elemBytes (s : State) (o : CopyOp) (w : QEntry) (j : Job) (k : Nat) : Option (List Byte) × State :=
  if o.srcVa then fetchRange s s.cur w (j.src k) j.size else (some (s.bytesAt s.cur (j.src k) j.size), s)

/-- The elements that a word has moved, with the number of host reads used; it is done when none is left. -/
def advance (s : State) (w : QEntry) (n used : Nat) (part : List Byte) (fin : Bool) : State :=
  s.modMe fun x => x.mapWord w fun a =>
    { a with prog := { a.prog with n := n, part := part, hostN := a.prog.hostN + used
                                   host := a.prog.host.filter fun h => a.prog.hostN + used ≤ h.1 }
             stat := if fin then .done else a.stat }

/-- R346: host reads behind element `k` of a job. -/
def hostUsed (o : CopyOp) (w : QEntry) (j : Job) (k : Nat) : Nat :=
  if o.srcVa then (hostRuns w.prog.leaves (j.src k) j.size).length else 0

/-- R109, R292: element `k` of a job is read from a place that holds an uncorrectable error. -/
def srcBad (s : State) (o : CopyOp) (w : QEntry) (j : Job) (k : Nat) : Bool :=
  if o.srcVa then rangeBad s s.cur w.prog.leaves (j.src k) j.size else s.eccAt s.cur (j.src k) j.size

/-- R296, R299, R300: MOVE of one element to the partition, to DRAM, or as contributions. -/
def moveElem (s : State) (o : CopyOp) (w : QEntry) (j : Job) : State :=
  let k := w.prog.n
  if srcBad s o w j k then raiseE s s.cur w .eccfatal none else
  match elemBytes s o w j k with
  | (none, s) => s
  | (some bs, s) =>
    let d := j.dst k
    let t := match o.dst with
      | .part => s.putBytesAt s.cur d bs
      | .va => (List.range bs.length).foldl (fun s n =>
          match leafOf w.prog.leaves (vpnOf (d + n)) with
          | some l => writeVa s s.cur l (d + n) (bs.getD n 0)
          | none => s) (chargeRange s s.me.id.tenant w.prog.leaves d bs.length)
      | .atom op => contribute (chargeRange s s.me.id.tenant w.prog.leaves d bs.length) s.cur w.prog.leaves (contribsOf op d bs)
      | .chan _ _ => s
    advance t w (k + 1) (hostUsed o w j k) [] (k + 1 == j.count)

/-- R297: one step of a stream to a channel: nothing while an older word is unretired; a whole slot is sent when the port has room;
else the next element is read; at the end, the end mark. A severed stream discards what is left. -/
def moveStream (s : State) (o : CopyOp) (w : QEntry) (j : Job) (port : Nat) (close : Bool) : State :=
  let x := s.me
  let p := x.port port
  match s.chan? p.net p.ch, s.nets[p.net]? with
  | some c, some n =>
    if p.sev then advance s w j.count 0 [] true
    else if x.eng.words.any fun a => a.olderFor w then s
    else if c.size ≤ w.prog.part.length then
      if p.freeCount c n = some 0 then s else
      let t := transmit (s.modMe fun x => x.modPort port fun p => p.takeFree) s.cur port (w.prog.part.take c.size)
      let rest := w.prog.part.drop c.size
      let fin := w.prog.n == j.count && rest.isEmpty
      let t := if fin && close then closePort t s.cur port else t
      advance t w w.prog.n 0 rest fin
    else if srcBad s o w j w.prog.n then raiseE s s.cur w .eccfatal none
    else match elemBytes s o w j w.prog.n with
      | (none, s) => s
      | (some bs, s) => advance s w (w.prog.n + 1) (hostUsed o w j w.prog.n) (w.prog.part ++ bs) false
  | _, _ => s

/-- One step of the oldest copy word of the slot that can move. -/
def copyMove (o : CopyOp) (s : State) : State :=
  match s.mover with
  | none => s
  | some w =>
    match s.jobAt o w with
    | none => s
    | some j =>
      match o.dst with
      | .chan port close => moveStream s o w j port close
      | _ => moveElem s o w j

/-- The frame of a copy word: it starts, or, already started, it moves on. -/
def copyWord (s : State) (o : CopyOp) (f : CopyF) : Out :=
  if s.startable.isSome then startWord s fun w s => copyStart o f w s else .next (copyMove o s)

/-- R296: xcopy. -/
def execXcopy (f : CopyF) (s : State) : Out := copyWord s ⟨false, .part, false⟩ f
/-- R296: xget. -/
def execXget (f : CopyF) (s : State) : Out := copyWord s ⟨true, .part, false⟩ f
/-- R296: xput. -/
def execXput (f : CopyF) (s : State) : Out := copyWord s ⟨false, .va, false⟩ f
/-- R297: xstream. -/
def execXstream (f : CopyF) (s : State) : Out := copyWord s ⟨true, .chan f.imm.toNat (f.mode.getLsbD 0), false⟩ f
/-- R299: xgather. -/
def execXgather (f : CopyF) (s : State) : Out :=
  copyWord s ⟨true, if f.mode.getLsbD 0 then .chan f.imm.toNat (f.mode.getLsbD 1) else .part, true⟩ f
/-- R300: xatom. -/
def execXatom (f : CopyF) (s : State) : Out := copyWord s ⟨false, .atom f.op.toNat, false⟩ f

/-! ## Descriptors rewritten (R290, R294, R299) -/

/-- The index vector and RES of a descriptor of `nd` dimensions, or of a parameter block, at `a`. -/
def setResume (s : State) (a nd : Nat) (gather : Bool) (idx : List Nat) (res : Bool) : State :=
  let i := s.cur
  let bit (s : State) (at_ : Nat) (k : Nat) : State :=
    let b := s.byteAt i at_
    s.putByteAt i at_ (if res then b ||| (1#8 <<< k) else b &&& ~~~(1#8 <<< k))
  if gather then bit (s.putBytesAt i (a + 28) (natLe (idx.headD 0) 4)) (a + 32) 2
  else
    bit ((List.range nd).foldl (fun (s : State) k => s.putBytesAt i (a + 36 + 24 * k) (natLe (idx.getD k 0) 4)) s) (a + 17) 0

/-- Whether a copy word gathers; none of another word. -/
def copyGathers (w : Word) : Option Bool :=
  match decodeEng w with
  | .ok (.xcopy _) | .ok (.xget _) | .ok (.xput _) | .ok (.xstream _) | .ok (.xatom _) => some false
  | .ok (.xgather _) => some true
  | _ => none

/-- R288: NDIM of the descriptor that a word found at its fault point. -/
def QEntry.dims (w : QEntry) : Nat := ((dwordBy w.blockByte (w.prog.desc + 16)).extractLsb' 0 4).toNat

/-- R290, R299: what a copy word leaves in its descriptor as it retires. -/
def closeDesc (s : State) (w : QEntry) : State :=
  match copyGathers w.word with
  | some g => setResume s w.prog.desc w.dims g [] false
  | none => s

/-- R294: what a copy word that parks past its fault point leaves there: the index of the next element, and RES. -/
def parkDesc (s : State) (w : QEntry) : State :=
  match copyGathers w.word with
  | none => s
  | some true => setResume s w.prog.desc 0 true [w.prog.n] true
  | some false =>
    match readDesc w.blockByte s.me.outside w.prog.desc with
    | some d => setResume s w.prog.desc w.dims false (idxVec d.dims w.prog.n) true
    | none => s

end Sys2Proof.Machine
end

