-- ==== Sys2Proof/Machine/Ed25519.lean ====
section
/-! DEFINITION. Ed25519 (R3, R398, RFC 8032): the public key of a seed and the signature of a message, over the integers
mod 2^255 - 19. -/

namespace Sys2Proof.Machine

/-- The field's prime. -/
def edP : Nat := 2 ^ 255 - 19
/-- The order of the base point. -/
def edL : Nat := 2 ^ 252 + 27742317777372353535851937790883648493
/-- The curve's constant d = -121665/121666. -/
def edD : Nat := 37095705934669439343138083508754565189542113879843219016388785533085940283555

/-- A difference in the field. -/
def edSub (a b : Nat) : Nat := (a + (edP - b % edP)) % edP

/-- A power in the field, for an exponent of at most `n` bits. -/
def edPow : Nat → Nat → Nat → Nat
  | 0, _, _ => 1
  | n + 1, a, e =>
    let h := edPow n (a * a % edP) (e / 2)
    if e % 2 = 1 then a * h % edP else h

/-- A point in extended coordinates: x = X/Z, y = Y/Z, T = X Y / Z. -/
structure EdPoint where
  x : Nat
  y : Nat
  z : Nat
  t : Nat
deriving DecidableEq, Repr

/-- The neutral point. -/
def edZero : EdPoint := ⟨0, 1, 1, 0⟩

/-- The base point. -/
def edBase : EdPoint :=
  let x := 15112221349535400772501151409588531511454012693041857206046113283949847762202
  let y := 46316835694926478169428394003475163141307993866256225615783033603165251855960
  ⟨x, y, 1, x * y % edP⟩

/-- The sum of two points. -/
def EdPoint.add (p q : EdPoint) : EdPoint :=
  let a := edSub p.y p.x * edSub q.y q.x % edP
  let b := (p.y + p.x) * (q.y + q.x) % edP
  let c := p.t * 2 * edD * q.t % edP
  let d := p.z * 2 * q.z % edP
  let e := edSub b a
  let f := edSub d c
  let g := (d + c) % edP
  let h := (b + a) % edP
  ⟨e * f % edP, g * h % edP, f * g % edP, e * h % edP⟩

/-- A multiple of a point, for a factor of at most `n` bits. -/
def edMul : Nat → Nat → EdPoint → EdPoint
  | 0, _, _ => edZero
  | n + 1, k, p =>
    let h := edMul n (k / 2) (p.add p)
    if k % 2 = 1 then p.add h else h

/-- The 256 bits of a point: y, and the lowest bit of x. -/
def EdPoint.encode (p : EdPoint) : Nat :=
  let i := edPow 255 p.z (edP - 2)
  p.y * i % edP + 2 ^ 255 * (p.x * i % edP % 2)

/-- The secret scalar of a seed's hash. -/
def edScalar (h : Nat) : Nat := 2 ^ 254 + h % 2 ^ 254 / 8 * 8

/-- The public key of a seed. -/
def edPublic (seed : BitVec 256) : BitVec 256 :=
  BitVec.ofNat 256 (edMul 255 (edScalar (sha512 (natLe seed.toNat 32)).toNat) edBase).encode

/-- The signature of a message under a seed. -/
def edSign (seed : BitVec 256) (m : List Byte) : BitVec 512 :=
  let h := (sha512 (natLe seed.toNat 32)).toNat
  let a := edScalar h
  let key := natLe (edPublic seed).toNat 32
  let r := (sha512 (natLe (h / 2 ^ 256) 32 ++ m)).toNat % edL
  let big := (edMul 253 r edBase).encode
  let k := (sha512 (natLe big 32 ++ key ++ m)).toNat % edL
  BitVec.ofNat 512 (big + 2 ^ 256 * ((r + k * a) % edL))

end Sys2Proof.Machine
end

