-- ==== Sys2Proof/Machine/QueueWords.lean ====
section
/-! DEFINITION. The ECLS 4 words (R183-R185, R193-R197): `eset`, `qjoin`, `enop`, the start of a `replay`, and the replay
sequencer; the retirement of words (R172) and the release of the stream hold buffer (R140). -/

namespace Sys2Proof.Machine

/-! ## eset, qjoin, enop -/

/-- R184: eset.l, on the registers of the queue that carries it. -/
def execEsetL (e : BitVec 4) (imm : BitVec 48) (s : State) : Out :=
  startAndRetire s fun _ s => s.modMe fun x => x.modBank fun b => b.writeE s.curQ e.toNat (imm.zeroExtend 64)
/-- R184: eset.h. -/
def execEsetH (e : BitVec 4) (imm : BitVec 16) (s : State) : Out :=
  startAndRetire s fun _ s => s.modMe fun x => x.modBank fun b =>
    b.writeE s.curQ e.toNat (imm ++ (b.readE s.curQ e.toNat).extractLsb' 0 48)
/-- R185: enop. -/
def execEnop (s : State) : Out := startAndRetire s fun _ s => s

/-- R183: some word emitted before `w` into a queue that the mask names, the carrying queue apart, has not retired. -/
def joinWaits (x : Slot) (q : Queue) (m : BitVec 3) (w : QEntry) : Bool :=
  x.eng.words.any fun o => o.olderFor w && o.q != q && m.getLsbD (queueNum o.q)

/-- R183: qjoin: it starts, and retires, once its condition holds (R170). -/
def execQjoin (m : BitVec 3) (s : State) : Out :=
  match s.startable with
  | none => .next s
  | some w => if joinWaits s.me s.curQ m w then .next s else .next (retireWord s s.cur w)

/-! ## replay -/

/-- R194: the header that a replay at work follows. -/
def Replay.head (r : Replay) : PHead :=
  { nw := r.nw, nl := r.counts.length, nst := r.nst, hbase := r.hbase, hlimit := r.hlimit, counts := r.counts }

/-- R195, R197: a parked position for the pattern at `p` on queue `q`: the index vector and the body word. -/
def Slot.parked (x : Slot) (q : Queue) (p nl : Nat) : Option (List Nat × Nat) :=
  let r := x.tr.rpat
  if r.getLsbD 63 && (r.extractLsb' 0 21).toNat == p && (r.extractLsb' 29 2).toNat == queueNum q then
    some ((List.range nl).map fun k => (Sparse.get 0 x.tr.ridx k).toNat, (r.extractLsb' 21 8).toNat)
  else none

/-- R195: RPAT.VALID := 0. -/
def Slot.unpark (x : Slot) : Slot := { x with tr := { x.tr with rpat := x.tr.rpat &&& 0x7FFFFFFFFFFFFFFF } }

/-- R195: the position after one, at the end of the body the next vector; past the last vector the body's end. -/
def Replay.advance (r : Replay) : Replay :=
  if r.w + 1 < r.nw then { r with w := r.w + 1 }
  else match nextIdx r.counts r.idx with
    | some i => { r with idx := i, w := 0 }
    | none => { r with w := r.nw }

/-- R195: the sequencer at the position from which a replay starts. A first vector whose loop over the body is empty (WIDX at or past
NW) issues nothing, and the next vector follows. DESIGN CHOICE (log 54): an index at or past its COUNT is issued once as it stands. -/
def Replay.settle (r : Replay) : Replay := if r.w < r.nw then r else { r with w := r.nw - 1 }.advance

/-- R193, R195, R196: replay and replay.res: its checks; then the sequencer stands at the first position (log 54). -/
def execReplay (e : BitVec 4) (res : BitVec 1) (s : State) : Out :=
  startWord s fun w s =>
    let x := s.me
    let q := s.curQ
    let p := (x.bank.readE q e.toNat).toNat
    let rd := s.byteAt s.cur
    let t := s.modMe Slot.unpark
    match readPHead rd x.outside x.partSize p with
    | none => .faultIn t .descriptor none
    | some h =>
      if eccRanges s s.cur [(p, 8 * h.total)] then .fault .eccfatal none
      else if !patternOk rd p h then .faultIn t .descriptor none
      else
        let go (idx : List Nat) (w0 : Nat) : EngRes :=
          let r : Replay :=
            { q := q, pat := p, idx := idx, w := w0, n := 1, nw := h.nw, nst := h.nst, hbase := h.hbase, hlimit := h.hlimit, counts := h.counts }
          .ok (t.modMe fun x =>
            { x.mapWord w fun a => { a with prog := { a.prog with idx := [BitVec.ofNat 64 p] } } with
              eng := { (x.mapWord w fun a => { a with prog := { a.prog with idx := [BitVec.ofNat 64 p] } }).eng with replay := some r.settle } }) .waiting
        match x.parked q p h.nl with
        | some (idx, w0) => go idx w0
        | none => if res = 1 then .faultIn t .descriptor none else go (List.replicate h.nl 0) 0

/-- R190: FAULTITER of a position. -/
def iterWord (idx : List Nat) (w : Nat) : Word :=
  BitVec.ofNat 64 ((List.range 6).foldl (fun n k => n + (idx.getD k 0 % 256) * 2 ^ (8 * k)) 0 + (w % 256) * 2 ^ 48 + 2 ^ 63)

/-- R195: the hulls lie in the sectors of the declared hull. -/
def hullsInside (lo hi : Nat) (l : List Hull) : Bool :=
  l.all fun h => lo < hi && sector lo ≤ h.lo && h.hi ≤ sector (hi - 1)

/-- R195: the word of the position is patched, judged and issued, or faults with its position. -/
def issueWord (s : State) (rep : QEntry) (r : Replay) : State :=
  let i := s.cur
  let wd := bodyWord (s.byteAt i) r.pat r.head r.idx r.w
  let e : QEntry := { rep with
    word := wd, sub := 2 * r.n, hulls := [], dhull := [], fo := none, stat := .queued, prog := {}, iter := iterWord r.idx r.w }
  let sd := issueSide s i rep.pos
  if isReplay wd then raiseE s i e .badword none else
  match judgeWord s i sd r.q wd wd with
  | .bad c _ => raiseE s i e c none
  | .wait _ => s
  | .ok hulls dhull =>
    let fo := followOn sd wd
    let foh := match fo with | some fw => foHulls s i sd fw | none => []
    if !hullsInside r.hbase r.hlimit (hulls ++ foh) then raiseE s i e .descriptor none else
    let e := { e with hulls := hulls, dhull := dhull, fo := fo }
    let f : List QEntry := match fo with
      | some fw => [{ e with word := fw, sub := 2 * r.n + 1, hulls := foh, dhull := [], fo := none, stat := .reserved, q := .mq }]
      | none => []
    s.modMe fun x => { x with eng := { x.eng with out := x.eng.out ++ e :: f, replay := some { r.advance with n := r.n + 1 } } }

/-- R192, R193, R195: the sequencer's next step, once the word it issued last has passed its fault point: the position is skipped by
its flags, or its word is issued; at the end the replay has passed its own fault point. The block is read as the words issued before leave
it (R178): the step waits while one that writes there has not retired. A slot that is being pre-empted stops at the end of an innermost
iteration. -/
def execReplayIssue (s : State) : Out :=
  let x := s.me
  match x.eng.replay, x.eng.ordered.find? fun w => w.stat == .waiting && isReplay w.word with
  | some r, some rep =>
    if x.eng.out.any fun o => o.pos == rep.pos && !o.isPast then .next s
    else if r.nw ≤ r.w then
      .next (s.modMe fun x =>
        let y := x.mapWord rep fun a => { a with stat := .passed }
        { y with eng := { y.eng with replay := none } })
    else if x.parking && r.w = 0 then .next s
    else if ((issueSide s s.cur rep.pos).blocked r.pat (8 * r.head.total)).isSome then .next s
    else if !bodyIssues (s.byteAt s.cur) r.pat r.head r.idx r.w then
      .next (s.modMe fun x => { x with eng := { x.eng with replay := some r.advance } })
    else .next (issueWord s rep r)
  | _, _ => .next s

/-! ## Retirement (R172) -/

/-- R140, R172: every effect of the word has been performed: its slots are out of the hold buffer; a replay's words have retired. -/
def Slot.retirable (x : Slot) (w : QEntry) : Bool :=
  (w.stat == .done && !x.eng.hold.any fun h => h.pos == w.pos && h.sub == w.sub) ||
  (w.stat == .passed && isReplay w.word && !x.eng.out.any fun o => o.pos == w.pos)

/-- R262: the open mask after a replay on MQ: every `mstep` and `mcommit` of the pattern, over its full index space. -/
def patternMask (s : State) (w : QEntry) : BitVec 8 :=
  let rd := s.byteAt s.cur
  let p := (w.prog.idx.headD 0).toNat
  match readPHead rd s.me.outside s.me.partSize p with
  | none => w.mask0
  | some h =>
    let vec (n : Nat) : List Nat := (h.counts.foldl (fun (r : List Nat × Nat) c => (r.1 ++ [r.2 % c], r.2 / c)) ([], n)).1
    (List.range (h.counts.foldl (· * ·) 1)).foldl (fun m n =>
      (List.range h.nw).foldl (fun m k =>
        if bodyIssues rd p h (vec n) k then maskStep m (bodyWord rd p h (vec n) k) else m) m) w.mask0

/-- R172, R290, R262: the oldest word that can retire does: a copy clears its resume fields, a replay on MQ makes the open mask
known, its follow-on is placed, and what the commit point then passes is performed. -/
def execWordRetire (s : State) : Out :=
  match s.me.eng.ordered.find? s.me.retirable with
  | none => .next s
  | some w =>
    let s := closeDesc s w
    let m := patternMask s w
    let s := if isReplay w.word && w.q == .mq then s.modMe fun x => rebuildMask x w.pos m else s
    .next (retireWord s s.cur w)

/-- R140: the oldest entry of the stream hold buffer sends its next slot, once every older word has retired and the port has room;
on a severed channel what is left is discarded. -/
def execStreamSendRelease (s : State) : Out :=
  let x := s.me
  match x.eng.hold with
  | [] => .next s
  | h :: rest =>
    let drop (s : State) : State := s.modMe fun x => { x with eng := { x.eng with hold := rest } }
    let older := match x.eng.words.find? fun w => w.pos == h.pos && w.sub == h.sub with
      | some w => x.eng.words.any fun o => o.olderFor w
      | none => false
    if older then .next s else
    let p := x.port h.port
    match s.chan? p.net p.ch, s.nets[p.net]?, h.slots with
    | some c, some n, b :: bs =>
      if p.sev then .next (drop s)
      else if p.freeCount c n = some 0 then .next s
      else
        let t := transmit (s.modMe fun x => x.modPort h.port fun p => p.takeFree) s.cur h.port b
        .next (t.modMe fun x => { x with eng := { x.eng with hold := if bs.isEmpty then rest else { h with slots := bs } :: rest } })
    | _, _, _ => .next (drop s)

end Sys2Proof.Machine
end

