-- ==== Sys2Proof/Machine/SlotEvents.lean ====
section
/-! DEFINITION. The events of a slot: waking (R24), level-G faults (R119), trap entry (R358), pre-emption (R192, R428) and a verdict
taken as one (R429), the landing of a code segment (R111, R129). -/

namespace Sys2Proof.Machine

/-! ## Waking (R24, R326, R327) -/

/-- R327: some live member of a group that has not arrived at episode `e` can no longer arrive: it was stopped, or its region is
lost. -/
def groupBroken (s : State) (net gid e : Nat) (tab : Group → Sparse Nat) : Bool :=
  match s.nets[net]? with
  | none => false
  | some n =>
    match n.group? gid with
    | none => false
    | some g => (n.members g).any fun p =>
        !p.exited && Sparse.get 0 (tab g) p.pid < e && (p.stopped || (s.region (regionOf p.tile)).st == .halted)

/-- R326, R337: the episode of a barrier wait has completed. -/
def barrierDone (s : State) (net gid e : Nat) : Bool :=
  match (s.nets[net]?).bind fun n => n.group? gid with
  | some g => e ≤ g.epoch
  | none => false

/-- The slot is made ready. -/
def wake (s : State) : State := s.modMe fun x => { x with gen := { x.gen with wait := .none } }

/-- R327: a barrier wait that cannot end. -/
def breakWait (s : State) (gid : BitVec 8) : State :=
  raiseG s s.cur .severed s.pc (gid.zeroExtend 64) none none

/-- R24: a slot whose awaited condition holds resumes: the instruction that waits is evaluated again; a wait at a barrier or a phase
ends as R327 says. A held `exit` and a pending fault do not resume. -/
def execSlotWake (s : State) : Out :=
  let x := s.me
  let net := x.id.net
  match x.gen.wait with
  | .none | .fault => .next s
  | .readPort p n =>
    match readReady s s.cur p n with
    | .wait _ => .next s
    | _ => .next (wake s)
  | .writePort p =>
    match writeReady s s.cur p with
    | .wait _ => .next s
    | _ => .next (wake s)
  | .barrier g e =>
    if barrierDone s net g.toNat e then .next (wake s)
    else if groupBroken s net g.toNat e (·.bar) then .next (breakWait s g) else .next s
  | .phase g e =>
    if e ≤ s.episodes net x.id.pid.toNat g.toNat then .next (wake s)
    else if groupBroken s net g.toNat e (·.ph) then .next (breakWait s g) else .next s
  | .engine | .segment | .reply => if x.gen.heldExit then .next s else .next (wake s)

/-! ## Faults -/

/-- R119: a level-G fault that waits is taken when its instruction is the commit point. -/
def execLevelGFault (s : State) : Out :=
  match s.me.gen.gfault with
  | none => .next s
  | some f => if s.me.committed then .next (takeG (commitSlot s s.cur) s.cur f) else .next s

/-- R189, R358: a level-E fault enters the supervisor when every queue of the slot is empty. -/
def execTrapEntry (s : State) : Out :=
  match s.me.gen.entering with
  | none => .next s
  | some f => if s.me.committed then .next (enterTrap (commitSlot s s.cur) s.cur f) else .next s

/-! ## Pre-emption (R192) -/

/-- A copy word that sends to a channel (R297, R299). -/
def toChannel (w : Word) : Bool :=
  match copyOf w with
  | some ⟨_, .chan _ _, _⟩ => true
  | _ => false

/-- R192 steps 2 and 3, R294: nothing that has started is left to complete: what remains is words not started, a copy that parks
at this element, or a replay at an iteration boundary. A slot that is to be stopped (R38) waits only for words past their fault
point: it issues no more of a pattern, and what it has not sent to a channel is discarded (DESIGN CHOICE, log 37). A word whose slots
still lie in the stream hold buffer is complete (R247), but R358 enters only once every queue is empty, and its entry there is freed when
the slots have been transmitted (R140, R172; log 62). -/
def drained (x : Slot) : Bool :=
  x.eng.ordered.all fun w =>
    if x.gen.stopping then w.stat != .passed || isReplay w.word || toChannel w.word else
    match w.stat with
    | .done => false
    | .passed => fEcls w.word == 3 && w.sub == 0 && w.prog.part.isEmpty && youngestStarted x w
    | .waiting =>
      if isReplay w.word then
        match x.eng.replay with
        | some r => r.w == 0 && !x.eng.out.any fun o => o.pos == w.pos
        | none => false
      else w.sub == 0 && youngestStarted x w
    | .queued => w.sub == 0
    | .reserved => true

/-- R193, R197: a replay parks at its iteration boundary. -/
def parkReplay (x : Slot) : Slot :=
  match x.eng.replay with
  | none => x
  | some r => { x with tr := { x.tr with
      rpat := 1#1 ++ 0#32 ++ BitVec.ofNat 2 (queueNum r.q) ++ 0#8 ++ BitVec.ofNat 21 r.pat
      ridx := (List.range 6).foldl (fun t k => Sparse.set 0 t k (BitVec.ofNat 8 (r.idx.getD k 0))) [] } }

/-- R38: a drained slot that is to be stopped stops; a fault that stands at its commit point is recorded first. -/
def stopNow (s : State) : State :=
  match s.me.eng.ordered, s.me.gen.gfault with
  | [], some f =>
    let t := takeG s s.cur f
    if t.me.id.stopped then t else stopSlot t s.cur
  | _, _ => stopSlot s s.cur

/-- R192 steps 4 and 5, R358, R429: a drained slot unwinds to its oldest word that has not completed and enters the supervisor
there: with PREEMPT, or with the verdict that is taken so. -/
def preemptNow (s : State) : State :=
  let i := s.cur
  let x := s.me
  let record (pc : Word) (eseq : BitVec 32) : FaultRec :=
    match x.gen.verdict with
    | some (c, id) =>
      { cause := c, lvlE := true, pc := pc, epc := pc, eseq := eseq, fword := BitVec.ofNat 64 id, iter := 0, va := none }
    | none => { cause := .preempt, lvlE := false, pc := pc, epc := pc, eseq := eseq, fword := 0, iter := 0, va := none }
  let clear (s : State) (d : Word) : State := s.modMe fun x =>
    { x with tr := { x.tr with waitd := d }, gen := { x.gen with preempt := false, verdict := none, gfault := none } }
  match x.eng.ordered with
  | [] => enterTrap (clear s x.gen.wait.desc) i (record x.gen.pc x.bank.eseq)
  | u :: _ =>
    let s := if u.stat == .passed then parkDesc s u
             else if u.stat == .waiting && isReplay u.word then s.modMe parkReplay else s
    let s := unwindTo s i u.pos 0 u.eseq u.mask0
    enterTrap (clear (commitSlot s i) 0) i (record u.epc u.eseq)

/-- R192, R428: a pre-emption request: it takes effect on a slot at level P that is not entering a trap, once what has started is
complete; otherwise it stays. A slot that is to be stopped (R38) stops then, and its network may end with it. -/
def execPreempt (s : State) : Out :=
  let x := s.me
  if !x.id.loaded || x.id.exited || x.id.stopped then .next s else
  let s := if x.gen.stopping then s else askPreempt s s.cur
  if !(s.me.parking && drained s.me) then .next s
  else if x.gen.stopping then .next (checkEnd (stopNow s) x.id.net)
  else .next (preemptNow s)

/-! ## Code segments (R111, R129) -/

/-- R111, log 18: the last request queued for a segment has ended, and leaves it in state `st`: the state it has, or, where a
younger `cfetch` has made it INFLIGHT and has not committed, the state that an unwind of that `cfetch` gives back. -/
def Slot.settle (x : Slot) (k : Nat) (st : SegSt) : Slot :=
  match (x.seg k).later with
  | [] => x.modSeg k fun g => { g with st := st, reqs := [] }
  | r :: l =>
    let x := x.modSeg k fun g => { g with reqs := r :: l }
    { x with eng := { x.eng with hist := x.eng.hist.map fun h =>
        match h.act with
        | .seg j _ => if j = k && h.pos == r.pos then { h with act := .seg k st } else h
        | _ => h } }

/-- R111, R129: the image of the last request queued for a segment lands as one write, and the segment becomes VALID. -/
def execCfetchLanding (seg : Nat) (s : State) : Out :=
  let x := s.me
  match (x.seg seg).queued with
  | none => .next s
  | some r =>
    match r.image with
    | none => .next s
    | some bs =>
      if (x.seg seg).st != .inflight then .next s else
      let t := s.modTile (tileOf s.cur) fun t =>
        let p := (x.id.base + seg) * 4096
        { t.renew p 4096 with sram := t.sram.putBytes p bs }
      .next (t.modMe fun x => x.settle seg .valid)

/-- R111: the last request queued for a segment has failed: the segment becomes FAILED. -/
def execCfetchFailure (seg : Nat) (s : State) : Out :=
  match (s.me.seg seg).queued with
  | none => .next s
  | some r =>
    match r.fail with
    | none => .next s
    | some k =>
      if (s.me.seg seg).st != .inflight then .next s else
      .next (s.modMe fun x => (x.modSeg seg fun g => { g with fva := faultVaCode r.va.toNat k }).settle seg .failed)

end Sys2Proof.Machine
end

