-- ==== Sys2Proof/Machine/FabricEvents.lean ====
section
/-! DEFINITION. The events of the fabric (R150, R154-R157, R159, R165, R312, R285): one packet arrives, a reader's merged credits go
out, a skein slot moves in, a tree node takes an input, a UALink transaction ends, the token buckets refill. A packet for an
endpoint whose context is not resident waits (R374). -/

namespace Sys2Proof.Machine

/-- The reader of a number is one whose packets may be delivered. -/
def readerHere (n : Net) (c : Chan) (r : Nat) : Bool :=
  match c.readers[r]? with | some e => !n.savedAt e | none => false

/-- R26, R36: every slot that was sent before the end mark stands in the buffer or the skein. -/
def slotsBefore (s : State) (c : Chan) (k : Pkt) (r : Nat) : Bool :=
  match c.readers[r]? with
  | none => true
  | some e =>
    let p := s.epPort e
    let have_ (st : Nat) : Nat := p.arr.getD st 0 + (c.skein.countP fun x => x.rd == r && x.half == st)
    if c.mirror then k.seq ≤ have_ k.src
    else (List.range c.streams).all fun st => k.seq / c.legs ≤ have_ st

/-- A packet on the route can be delivered: its endpoint is not saved (R374), its node has room for it (R313), the slots before an end
mark have arrived (R26). -/
def deliverable (s : State) (net : Nat) (n : Net) (c : Chan) (k : Pkt) : Bool :=
  match k.kind with
  | .slot =>
    match k.node with
    | some (l, j) => nodeRoom s c l j k.seq
    | none => readerHere n c k.dst
  | .credit => match c.writers[k.dst]? with | some e => !n.savedAt e | none => false
  | .endMark => readerHere n c k.dst &&
      (slotsBefore s c k k.dst || (match c.readers[k.dst]? with | some e => !s.epLive net c e k.gen | none => false))
  | .sever => match (c.readers ++ c.writers)[k.dst]? with | some e => !n.savedAt e | none => true
  | .reserved => readerHere n c k.dst

/-- A packet that has left the route is delivered, or dropped at a gate that does not admit it (R378); slots and credits so dropped count
as arrived (log 50). One of a reserved KIND is dropped (R154). -/
def deliverPkt (s : State) (net : Nat) (n : Net) (c : Chan) (k : Pkt) : State :=
  if !s.gateAdmits n c k then countLost s net { c with transit := [k] }
  else match k.kind with
    | .slot =>
      match k.node with
      | some (l, j) => nodeInput s net c k.gen l j k.seq k.data
      | none => if c.reduce && !c.endpt then arriveRoot s net c k k.dst else arrive s net c k k.dst
    | .credit => arriveCredit s net c k
    | .endMark => arriveEnd s net c k k.dst
    | .sever => arriveSever s net c k
    | .reserved => match c.readers[k.dst]? with | some e => dropStale s e | none => s

/-- The oldest packet of a channel that `f` accepts and that can be delivered leaves the route and is delivered; none without one. -/
def takePacket (s : State) (net ch : Nat) (f : Pkt → Bool) : Option State :=
  match s.nets[net]?, s.chan? net ch with
  | some n, some c =>
    match pick (fun k => f k && deliverable s net n c k) c.transit with
    | none => none
    | some (p, rest) =>
      let s := s.modChan net ch fun c => { c with transit := rest }
      some (deliverPkt s net n { c with transit := rest } p)
  | _, _ => none

/-- The frame of an arrival. -/
def withPacket (s : State) (net ch : Nat) (f : Pkt → Bool) : Out := .next ((takePacket s net ch f).getD s)

/-- R161: every packet of a channel that can be delivered is, at most `n` of them. -/
def drainChan (net ch : Nat) : Nat → State → State
  | 0, s => s
  | n + 1, s =>
    match takePacket s net ch fun _ => true with
    | none => s
    | some t => drainChan net ch n t

/-- R161: every packet of a channel of a network that can be delivered is. -/
def drainAll (s : State) (net ch : Nat) : State :=
  match s.chan? net ch with
  | some c => drainChan net ch ((c.transit.length + c.nodes.length + 1) * (c.readers.length + 1) * 32) s
  | none => s

/-- R150: the oldest slot packet for reader `rd` arrives; the root of a reduction counts its contributions (R314). -/
def execSlotPacket (net ch rd : Nat) (s : State) : Out :=
  withPacket s net ch fun k => k.kind == .slot && k.node.isNone && k.dst == rd

/-- R150: the oldest credit packet for writer `wr` arrives. -/
def execCreditPacket (net ch wr : Nat) (s : State) : Out := withPacket s net ch fun k => k.kind == .credit && k.dst == wr

/-- R26: the end mark for reader `rd` arrives, after every slot before it. -/
def execEndMarkPacket (net ch rd : Nat) (s : State) : Out := withPacket s net ch fun k => k.kind == .endMark && k.dst == rd

/-- R159: the sever notice for an endpoint arrives: readers first in number, then writers. -/
def execSeverNotice (net ch ep : Nat) (s : State) : Out := withPacket s net ch fun k => k.kind == .sever && k.dst == ep

/-- R154: the merging window of reader `rd` ends: the credits it owes go out. -/
def execCreditMergeExpiry (net ch rd : Nat) (s : State) : Out :=
  match s.nets[net]?, s.chan? net ch with
  | some n, some c => if readerHere n c rd then .next (sendCredits s net c rd) else .next s
  | _, _ => .next s

/-- R156, R157: a write request arrives at a UALink port. -/
def execUalinkWriteRequest (port : Nat) (m : UalMsg) (s : State) : Out := .next (ualReceive s port m)

/-- R156: a write completion returns: the sending port releases the request, that of a slot before one of another kind (log 12). -/
def execUalinkWriteCompletion (port net ch : Nat) (seq : BitVec 24) (s : State) : Out :=
  .next (s.modUal port fun u =>
    let mine (m : UalMsg) : Bool := m.net == net && m.chid == ch && m.seq == seq
    match (pick (fun m => mine m && m.kind == .slot) u.sent).or (pick mine u.sent) with
    | some (_, rest) => { u with sent := rest }
    | none => u)

/-- R156: a request that is not acknowledged within 2 us is sent again; the port still keeps it. -/
def execUalinkRetransmit (port idx : Nat) (s : State) : Out :=
  .next (s.modUal port fun u => if idx < u.sent.length then { u with resent := u.resent + 1 } else u)

/-- R165: the memory server moves the oldest skein slot of reader `rd` into its buffer, where a place is free. -/
def execSkeinTransfer (net ch rd : Nat) (s : State) : Out :=
  match s.nets[net]?, s.chan? net ch with
  | some n, some c =>
    match c.readers[rd]? with
    | none => .next s
    | some e =>
      if n.savedAt e || !s.epLive net c e c.gen then .next s else
      let p := s.epPort e
      match (List.range c.streams).findSome? fun st =>
          if c.cap0 ≤ p.held c st then none else pick (fun x => x.rd == rd && x.half == st) c.skein with
      | none => .next s
      | some (x, rest) =>
        let s := chargeSkein (s.modChan net ch fun c => { c with skein := rest }) net c
        .next (placeSlot s c e x.half x.data)
  | _, _ => .next s

/-- R312, R313: the oldest input on its way to a node of the tree that its router has room for reaches it. -/
def execReduceNodeInput (net ch : Nat) (s : State) : Out := withPacket s net ch fun k => k.kind == .slot && k.node.isSome

/-- R285: every 100 ticks each bucket takes RATE, up to its depth. -/
def execTokenRefill (s : State) : Out :=
  .next { s with buckets := s.buckets.foldl (fun t (k, b) => Sparse.set {} t k b.refill) s.buckets }

end Sys2Proof.Machine
end

