-- ==== Sys2Proof/Machine/Detector.lean ====
section
/-! DEFINITION. The deadlock detector (R162-R168, R314, R322, R429): wave records, totals, quiet waves, growth, SPILLFULL,
DEADLOCK. -/

namespace Sys2Proof.Machine

/-! ## STATE of a slot (R163) -/

/-- A blocked port of a slot: the channel it is bound to. -/
def Slot.chanOf (x : Slot) (port : Nat) : Nat := (x.port port).ch

/-- R151: a write port of a slot has no room for a slot. -/
def portFull (s : State) (i port : Nat) : Bool :=
  let p := (s.slot i).port port
  match s.chan? p.net p.ch, s.nets[p.net]? with
  | some c, some n => !p.sev && p.freeCount c n == some 0
  | _, _ => false

/-- R140, R163: the stream hold buffer waits on a port: its first entry is of a word that no older unretired word holds back, and the
port has no room. -/
def holdWait (s : State) (i : Nat) : Option HoldE :=
  let x := s.slot i
  match x.eng.hold with
  | [] => none
  | h :: _ =>
    let back := x.eng.words.any fun w => w.pos == h.pos && w.sub == h.sub && x.eng.words.any fun o => o.olderFor w
    if !back && portFull s i h.port then some h else none

/-- R297: a server writer has gathered the bytes of its next slot. -/
def slotFilled (s : State) (i port : Nat) (w : QEntry) : Bool :=
  let p := (s.slot i).port port
  match s.chan? p.net p.ch with
  | some c => c.size ≤ w.prog.part.length
  | none => false

/-- R163: what a word at the head of a queue waits for: a port, to read (`true`) or to write. -/
def headWait (s : State) (i : Nat) (w : QEntry) : Option (Bool × Nat) :=
  let x := s.slot i
  match w.stat with
  | .queued =>
    if x.eng.candidate.any (·.same w) then
      match decodeEng w.word with
      | .error _ => none
      | .ok ins =>
        let n := readBytes ins x.id.vlmax
        match (fitSrcs s i n (vsources ins) []).findSome? fun o => o.bind fun a => match streamRead s i a with | .wait => some a.port | _ => none with
        | some port => some (true, port)
        | none =>
          match streamSrcs s i n (vsources ins) [] with
          | .error _ => none
          | .ok l =>
            if (streamFault s i l).isNone && !x.holdRoom &&
                (vdest ins).any (fun v => match streamDst s i w v (sendBytes ins x.id.vlmax) with | .ok o => o.isSome | .error _ => false) then
              (holdWait s i).map fun h => (false, h.port)
            else none
    else none
  | .done => (holdWait s i).bind fun h => if h.pos == w.pos && h.sub == w.sub then some (false, h.port) else none
  | .passed =>
    if x.eng.words.any fun o => o.olderFor w then none else
    match copyOf w.word with
    | some ⟨_, .chan port _, _⟩ => if slotFilled s i port w && portFull s i port then some (false, port) else none
    | _ => none
  | _ => none

/-- R163: the word that stands at the head of a queue: for a replay, the oldest word it has issued. -/
def Eng.heads (e : Eng) : List QEntry :=
  queues.filterMap fun q =>
    match (e.queue q).head? with
    | none => none
    | some w => if isReplay w.word then (e.out.find? fun o => o.pos == w.pos && o.q == q) else some w

/-- What a slot is blocked on (R163): its state, the id of the record, the word that waits, if one does. -/
structure Block where
  st : Nat
  id : Nat
  word : Option QEntry := none

/-- R163: a slot that waits for engine words is blocked as the first of these words that waits on a stream port. -/
def blockedBy (s : State) (i : Nat) (ws : List QEntry) : Block :=
  match ws.findSome? fun w => (headWait s i w).map fun r => (w, r) with
  | some (w, rd, port) => { st := if rd then 1 else 2, id := (s.slot i).chanOf port, word := some w }
  | none => { st := 0, id := 0 }

/-- R163: the STATE of a process that stands in a slot. A burst that awaits older engine words is of the row of those (DEDUCED, log 60),
and so is a slot that waits to enter the supervisor for the retirement of words past their fault point (R358; DEDUCED, log 62). -/
def slotState (s : State) (i : Nat) : Block :=
  let x := s.slot i
  if x.id.exited then { st := 4, id := 0 }
  else if !x.atP || x.gen.stopping then { st := 0, id := 0 }
  else if x.gen.preempt || x.gen.entering.isSome then blockedBy s i (x.eng.heads.filter (·.isPast))
  else match x.gen.wait with
    | .readPort p n => match readReady s i p n with | .wait _ => { st := 1, id := x.chanOf p } | _ => { st := 0, id := 0 }
    | .writePort p => match writeReady s i p with | .wait _ => { st := 2, id := x.chanOf p } | _ => { st := 0, id := 0 }
    | .barrier g _ | .phase g _ => { st := 3, id := g.toNat }
    | .engine | .fault => blockedBy s i x.eng.heads
    | _ => { st := 0, id := 0 }

/-- R162: a wave record. -/
def waveRecord (pid : Nat) (b : Block) : Word := BitVec.ofNat 64 (pid % 2 ^ 16 + 2 ^ 16 * b.st + 2 ^ 19 * (b.id % 2 ^ 16))

/-! ## Waves -/

/-- The running networks of a tenant. -/
def tenantNets (s : State) (t : Nat) : List (Nat × Net) :=
  (List.range s.nets.length).filterMap fun k =>
    match s.nets[k]? with
    | some n => if n.tenant == t && n.st == .running then some (k, n) else none
    | none => none

/-- The live processes of a tenant in this package, in PID order: network, process, what each is blocked on. -/
def liveProcs (s : State) (t : Nat) : List (Nat × Proc × Block) :=
  let l : List (Nat × Proc × Block) := (tenantNets s t).flatMap fun (k, n) =>
    (n.procs.filter fun p => !p.exited && !p.stopped).map fun p => (k, p, slotState s p.slotNo)
  l.foldr (insertBy fun a b => a.2.1.pid < b.2.1.pid) []

/-- R162: PID, STATE and ID of a wave record. -/
def recPid (w : Word) : Nat := (w.extractLsb' 0 16).toNat
/-- STATE of a wave record. -/
def recState (w : Word) : Nat := (w.extractLsb' 16 3).toNat
/-- ID of a wave record. -/
def recId (w : Word) : Nat := (w.extractLsb' 19 16).toNat

/-- R162, R167: the records of a wave, in PID order: those of this package's live processes with those that the detectors of the
tenant's other packages collected (log 12). -/
def waveRecords (l : List (Nat × Proc × Block)) (peer : PeerWave) : List Word :=
  let mine : List Word := l.map fun (_, p, b) => waveRecord p.pid b
  (mine ++ peer.recs).foldr (insertBy fun (a b : Word) => recPid a < recPid b) []

/-- R162: a memory-server writer of the slot is running. -/
def serverRuns (s : State) (i : Nat) : Bool :=
  (s.slot i).eng.words.any fun w => w.stat == .passed && (headWait s i w).isNone &&
    match decodeEng w.word with
    | .ok (.xstream _) => true
    | .ok (.xgather f) => f.mode.getLsbD 0
    | _ => false

/-- R162: a skein transfer is under way: a skein slot whose place is free. -/
def skeinMoves (s : State) (c : Chan) : Bool :=
  c.skein.any fun x =>
    match c.readers[x.rd]? with
    | some e => !e.remote && (s.epPort e).held c x.half < c.cap0
    | none => false

/-- R162: the four totals of a tenant, with those of its other packages. -/
def waveTotals (s : State) (t : Nat) (peer : PeerWave) : List Nat :=
  let sum (f : Net → Nat) : Nat := ((tenantNets s t).map fun (_, n) => f n).sum
  [sum (·.sent) + peer.sent, sum (·.arrived) + peer.arrived, sum (·.cret) + peer.cret, sum (·.carr) + peer.carr]

/-- R162: what keeps a wave from being quiet besides the totals: a skein transfer or a memory-server writer at work. -/
def waveBusy (s : State) (t : Nat) (peer : PeerWave) : Bool :=
  peer.busy || (tenantNets s t).any fun (_, n) =>
    n.chans.any (skeinMoves s) || n.procs.any fun p => !p.saved && !p.exited && serverRuns s p.slotNo

/-- R162: a quiet wave. -/
def quiet (s : State) (t : Nat) (peer : PeerWave) : Bool :=
  let w := waveTotals s t peer
  w.getD 0 0 == w.getD 1 0 && w.getD 2 0 == w.getD 3 0 && !waveBusy s t peer

/-- R374, R149: some region of the tenant holds its context non-resident, or a process of the tenant is saved and stands in no slot. -/
def heldBack (s : State) (t : Nat) : Bool :=
  ((List.range 16).any fun r =>
    let g := s.region r
    g.ctxs.any fun c => c.tenant == t && !(c.tenant == g.tenant && c.ctag == g.ctag)) ||
  (tenantNets s t).any fun (_, n) => n.procs.any fun p => p.saved && !p.exited && !p.stopped

/-! ## Verdicts -/

/-- R166, R167, R429: a blocked process raises a fault at what it is blocked on. A word past its fault point sends nothing more, and
the slot takes the fault as a pre-emption; every slot held for that channel is of a word that is blocked so, and is discarded. A verdict
that already stands is kept (DEDUCED, log 62). -/
def raiseBlocked (s : State) (i : Nat) (b : Block) (cause : Cause) : State :=
  let id := BitVec.ofNat 64 b.id
  match b.word with
  | none => raiseG s i cause (s.slot i).gen.pc id none none
  | some w =>
    if w.isPast then
      askPreempt (s.modSlot i fun x =>
        let x := { x with eng := { x.eng with hold := x.eng.hold.filter fun h => x.chanOf h.port != b.id } }
        { x.mapWord w fun a => { a with stat := .done, prog := { a.prog with part := [] } } with
          gen := { x.gen with verdict := some (x.gen.verdict.getD (cause, b.id)) } }) i
    else raiseEW s i w cause (if cause == .deadlock then id else w.word) none

/-- R165, R322: bytes of the extensions of a growth. -/
def extension (c : Chan) : Nat :=
  64 * c.size * (if c.mirror then 2 else c.readers.length * c.legs)

/-- R165: the channels on which some process is blocked-write: network and number. A process of another package counts by its record,
for the channels of the tenant that reach there (log 12). -/
def blockedChans (s : State) (t : Nat) (l : List (Nat × Proc × Block)) (peer : PeerWave) : List (Nat × Chan) :=
  (l.filterMap fun (k, _, b) => if b.st = 2 then (s.chan? k b.id).map fun c => (k, c) else none) ++
  (tenantNets s t).flatMap fun (k, n) =>
    (n.chans.filter fun c => (c.readers ++ c.writers).any (·.remote) &&
      peer.recs.any fun w => recState w == 2 && recId w == c.chid).map fun c => (k, c)

/-- R165: the channel that grows: the one of smallest CAP, on a tie the lowest CHID. -/
def growing (cs : List (Nat × Chan)) : Option (Nat × Chan) :=
  cs.foldl (fun o (k, c) =>
    match o with
    | none => some (k, c)
    | some (j, d) => if c.cap < d.cap || (c.cap == d.cap && c.chid < d.chid) then some (k, c) else some (j, d)) none

/-- R168: DLCHAN. -/
def dlchanWord (c : Chan) (cap : Nat) : Word := BitVec.ofNat 64 (c.chid % 2 ^ 16 + 2 ^ 16 * (cap % 2 ^ 24) + 2 ^ 40 * c.gen.toNat)

/-- R168: a verdict recorded; `grew` says that it is a growth. -/
def recordVerdict (s : State) (t last : Nat) (grew : Bool) (chan : Option Word) : State :=
  s.modTenant t fun x =>
    let n := (x.dlstat.extractLsb' 32 16).toNat + grew.toNat
    { x with dlstat := BitVec.ofNat 64 (last + 2 ^ 32 * min 0xFFFF n)
             dlchan := chan.getD x.dlchan
             dlwaves := BitVec.ofNat 64 (x.waves % 2 ^ 32)
             lastWave := none }

/-- R166: the skein cannot hold the extensions of a channel, or its GROWN is at its limit. -/
def noGrowth (n : Net) (c : Chan) : Bool := n.skeinSize.toNat < n.skeinUsed + extension c || 0xFFFF ≤ c.grown

/-- R165: a channel grown by 64. -/
def grow (s : State) (t k : Nat) (n : Net) (c : Chan) : State :=
  let s := s.modChan k c.chid fun c =>
    { c with cap := c.cap + 64, grown := c.grown + 1, skoff := if c.grown = 0 then n.skeinUsed else c.skoff }
  let s := s.modNet k fun n => { n with skeinUsed := n.skeinUsed + extension c, growths := n.growths + 1 }
  let s := c.writers.foldl (fun s e => if e.remote then s else s.modEp e fun p => p.giveFree 64) s
  recordVerdict s t 1 true (some (dlchanWord c (c.cap + 64)))

/-- R166: SPILLFULL at every process blocked-write on a channel. -/
def spill (s : State) (t k : Nat) (c : Chan) (l : List (Nat × Proc × Block)) : State :=
  let s := recordVerdict s t 3 false (some (dlchanWord c c.cap))
  l.foldl (fun s (j, p, b) => if j = k ∧ b.st = 2 ∧ b.id = c.chid then raiseBlocked s p.slotNo b .spillfull else s) s

/-- R165, R166: an artificial deadlock. -/
def artificial (s : State) (t : Nat) (l : List (Nat × Proc × Block)) (peer : PeerWave) : State :=
  match growing (blockedChans s t l peer) with
  | none => s
  | some (k, c) =>
    match s.nets[k]? with
    | none => s
    | some n => if noGrowth n c then spill s t k c l else grow s t k n c

/-- R167: a true deadlock: the wait graph, and DEADLOCK at every blocked process. -/
def trueDeadlock (s : State) (t : Nat) (l : List (Nat × Proc × Block)) (recs : List Word) : State :=
  let s := match tenantNets s t with
    | (_, n) :: _ => rawStore s t n.dlrecVa.toNat (dwordBytes (BitVec.ofNat 64 recs.length :: recs))
    | [] => s
  let s := recordVerdict s t 2 false none
  l.foldl (fun s (_, p, b) => raiseBlocked s p.slotNo b .deadlock) s

/-- R164: the verdict of a completed pair of waves. -/
def verdict (s : State) (t : Nat) (l : List (Nat × Proc × Block)) (peer : PeerWave) (recs : List Word) : State :=
  if recs.isEmpty || recs.any (fun w => recState w == 0) then s
  else if recs.any (fun w => recState w == 2) then artificial s t l peer
  else trueDeadlock s t l recs

/-- R162, R164: a wave of a tenant's detector, with what the detectors of its other packages have reported (log 12), and the verdict
that it completes. -/
def execDetectorWave (tenant : Nat) (s : State) : Out :=
  if heldBack s tenant || (tenantNets s tenant).isEmpty then .next s else
  let peer := Sparse.get {} s.host.waves tenant
  let l := liveProcs s tenant
  let recs := waveRecords l peer
  let wave : Wave := { recs := recs, totals := waveTotals s tenant peer }
  let last := (s.tenant tenant).lastWave
  let s := s.modTenant tenant fun t => { t with waves := t.waves + 1, lastWave := some wave }
  if quiet s tenant peer && last == some wave then .next (verdict s tenant l peer recs) else .next s

end Sys2Proof.Machine
end

