-- ==== Sys2Proof/Machine/Region.lean ====
section
/-! DEFINITION. Regions: the frame of `ctl` (R366), the six commands of `rgncmd` (R368-R375), single-region and VF reset (R372,
R373), the scrub engine (R385, R386, R423, R424), time slices (R375). -/

namespace Sys2Proof.Machine

/-! ## The frame of `ctl` (R366) -/

/-- What an operation of the control tile does: it answers a status, or it waits. -/
inductive CtlRes
  | done (status : Nat) (s : State) | wait

/-- The operands of an instruction are at hand: it executes in this step. -/
def operandsReady (s : State) (srcs : List Opnd) (dst : Option Opnd) : Bool :=
  !(srcs ++ dst.toList).any opReserved && (portChecks s srcs dst).isNone && !s.me.histFull (histNeed srcs dst) &&
    match portsReady s srcs dst with | .go => true | _ => false

/-- R366: `ctl op, gd, ga`: PRIV below level C; it acts at its commit point. What `start` does is done each time that the
instruction is evaluated, also where it then waits. -/
def ctlOp (s : State) (d a : Opnd) (start : Word → State → State) (k : Word → State → CtlRes) : Out :=
  if !s.levelOk 2 then trapG s .priv s.instrWord none
  else if !s.me.committed then waitG s .engine
  else
    let s := if operandsReady s [a] (some d) then start (peekSrc s a) s else s
    genOp s [a] (some d) fun vs t =>
      match k (vs.getD 0 0) t with
      | .done st u => .ok (BitVec.ofNat 64 st) s.pcNext u
      | .wait => .wait .reply

/-- R380: the control tile is in the secure state. -/
def State.secureState (s : State) : Bool := (s.slot Config.controlSlot).id.world

/-! ## What a tenant holds (R368, R369) -/

/-- R369, R423: the tenant holds a region in some context, or one that is being scrubbed for it. -/
def Region.heldBy (g : Region) (t : Nat) : Bool := (g.ctxs.any fun c => c.tenant == t) || (g.st != .free && g.tenant == t)

/-- R369: a tenant's rectangle lasts while it holds a region. -/
def dropRect (s : State) (t : Nat) : State :=
  if (List.range 16).any (fun r => (s.region r).heldBy t) then s else s.modTenant t fun x => { x with rect := none }

/-- R369: the permitted shapes. -/
def shapeOk (w h : Nat) : Bool := [(1, 1), (2, 1), (1, 2), (2, 2), (2, 4), (4, 2), (4, 4)].contains (w, h)
/-- R369: the rectangle of a shape that contains a region. -/
def rectOf (r w h : Nat) : Nat × Nat × Nat × Nat := (r % 4 / w * w, r / 4 / h * h, w, h)
/-- R369: the region lies in a rectangle. -/
def inRect (q : Nat × Nat × Nat × Nat) (r : Nat) : Bool :=
  q.1 ≤ r % 4 && r % 4 < q.1 + q.2.2.1 && q.2.1 ≤ r / 4 && r / 4 < q.2.1 + q.2.2.2

/-- A context of a region ends: its network, if one runs in it, ends SEVERED. -/
def endContext (s : State) (c : Context) : State :=
  match c.net with
  | some k => if (s.nets[k]?).any fun n => n.st == .running then endNet s k 3 none else s
  | none => s

/-! ## A process in its slot (R35, R106, R147, R392) -/

/-- R147, R148: the ports of a process, every channel empty. The index of a writer is its place in the list, whatever its RIDX (DEDUCED,
log 35). -/
def portsOf (k : Nat) (n : Net) (p : Proc) : Sparse Port :=
  let mine (e : Ep) : Bool := !e.remote && e.tile == p.tile && e.slot == p.slot
  n.chans.foldl (fun t c =>
    let t := (List.range c.readers.length).foldl (fun t r =>
      match c.readers[r]? with
      | some e => if mine e then Sparse.set {} t e.port
          { bound := true, net := k, ch := c.chid, ix := r, gen := c.gen, arr := List.replicate c.streams 0 } else t
      | none => t) t
    (List.range c.writers.length).foldl (fun t w =>
      match c.writers[w]? with
      | some e => if mine e then Sparse.set {} t e.port
          { bound := true, isW := true, net := k, ch := c.chid, ix := w, gen := c.gen
            free := List.replicate (max 1 c.readers.length) c.cap0 } else t
      | none => t) t) []

/-- R364: the place of a process's slot record: the records stand in PID order. -/
def Net.recordVa (n : Net) (p : Proc) : Word :=
  n.saveVa + BitVec.ofNat 64 (0x208000 * n.procs.countP fun q => q.pid < p.pid)

/-- R232, R392: the windows that a process was cast on with. -/
def Proc.winTable (p : Proc) : Sparse Word :=
  if p.wins.isEmpty then [] else tableOf 1 7 fun j => winStored (p.size * 4096) (p.wins.getD j 0)

/-- R112, R392: the segments that a process was cast on with: those of its CSEGVALID that its code area has. -/
def Proc.segTable (p : Proc) : Sparse Seg :=
  (List.range (min 64 p.size)).foldl (fun t j => if p.cseg.getLsbD j then Sparse.set {} t j { st := .valid } else t) []

/-- The slot of a process before anything is loaded into it, its sysregs at their reset values, which cast-on gives for the windows and
CSEGVALID (R232, R112); SAVEVA is the place of its record (R365). -/
def slotOfProc (k : Nat) (n : Net) (p : Proc) : Slot :=
  { id := { loaded := true, pid := BitVec.ofNat 16 p.pid, tenant := n.tenant, net := k, timing := p.timing, world := p.world
            base := p.base, size := p.size, vlmax := p.vlmax, gids := p.gids }
    eng := { omask := p.omask }
    vec := { vl := p.vlmax, win := p.winTable }
    tr := { saveva := n.recordVa p }
    segs := p.segTable
    ports := portsOf k n p }

/-! ## The command word (R370) -/

/-- R370: the fields of a command word. -/
structure RgnCmd where
  region : Nat
  cmd : Nat
  tenant : Nat
  world : Bool
  ctag : BitVec 8
  rwid : Nat
  rhgt : Nat
  rest : Nat
deriving DecidableEq, Repr

/-- R370: the command word read. -/
def readRgnCmd (w : Word) : RgnCmd :=
  { region := (w.extractLsb' 0 4).toNat, cmd := (w.extractLsb' 4 3).toNat, tenant := (w.extractLsb' 7 5).toNat, world := w.getLsbD 12
    ctag := w.extractLsb' 13 8, rwid := (w.extractLsb' 21 2).toNat, rhgt := (w.extractLsb' 23 2).toNat, rest := (w.extractLsb' 25 39).toNat }

/-- R370: the BADARG checks, for the command `n`. A tenant above 16 names nobody (log 15). -/
def RgnCmd.bad (c : RgnCmd) (n : Nat) : Bool :=
  c.rest != 0 || c.cmd != n || c.rwid == 3 || c.rhgt == 3 || 16 < c.tenant ||
  (n != 0 && (c.world || c.rwid != 0 || c.rhgt != 0)) || ((n == 1 || n == 2) && c.tenant != 0) ||
  ((n == 1 || n == 2 || n == 3) && c.ctag != 0)

/-- The frame of the six commands. -/
def rgnOp (s : State) (d a : Opnd) (n : Nat) (start : RgnCmd → State → State) (k : RgnCmd → State → CtlRes) : Out :=
  ctlOp s d a (fun w s => if (readRgnCmd w).bad n then s else start (readRgnCmd w) s) fun w s =>
    if (readRgnCmd w).bad n then .done 3 s else k (readRgnCmd w) s

/-- A command that never waits. -/
def rgnNow (s : State) (d a : Opnd) (n : Nat) (k : RgnCmd → State → Nat × State) : Out :=
  rgnOp s d a n (fun _ s => s) fun c s => let (st, t) := k c s; .done st t

/-! ## ASSIGN, RELEASE, HALT -/

/-- R371: ASSIGN: the first context of a FREE region, or a further one. -/
def assign (c : RgnCmd) (s : State) : Nat × State :=
  let r := c.region
  let g := s.region r
  let more := (g.st == .assigned || g.st == .running) && g.world == c.world && g.ctxs.length < Config.maxContexts &&
    !g.ctxs.any fun x => x.tenant == c.tenant && x.ctag == c.ctag
  if g.st != .free && !more then (1, s) else
  let w := 2 ^ c.rwid
  let h := 2 ^ c.rhgt
  let q := rectOf r w h
  let held := (List.range 16).any fun j => (s.region j).heldBy c.tenant
  let mine := if held then (s.tenant c.tenant).rect else none
  if !shapeOk w h || (mine.any (· != q)) || (c.world && !s.secureState) then (2, s) else
  let s := s.modTenant c.tenant fun t => { t with rect := some q }
  let x : Context := { tenant := c.tenant, ctag := c.ctag }
  if g.st == .free then
    let s := s.modRegion r fun g =>
      { g with st := .assigned, tenant := c.tenant, world := c.world, ctag := c.ctag, hcause := 0, ctxs := [x] }
    (0, (tilesOf r).foldl (fun s t => s.modTile t fun t => { t with ctag := c.ctag }) s)
  else (0, s.modRegion r fun g => { g with ctxs := g.ctxs ++ [x] })

/-- R371: RELEASE of a non-resident context. -/
def release (c : RgnCmd) (s : State) : Nat × State :=
  let g := s.region c.region
  let isIt (x : Context) : Bool := x.tenant == c.tenant && x.ctag == c.ctag
  let resident := g.tenant == c.tenant && g.ctag == c.ctag
  match g.ctxs.find? isIt with
  | none => (1, s)
  | some x =>
    if resident || !(g.st == .assigned || g.st == .running) || g.switching == some x then (1, s) else
    let s := endContext (s.modRegion c.region fun g => { g with ctxs := g.ctxs.filter fun y => !isIt y }) x
    (0, dropRect s c.tenant)

/-- R371: HALT. -/
def halt (c : RgnCmd) (s : State) : Nat × State :=
  let st := (s.region c.region).st
  if st == .running || st == .assigned then (0, haltRegion s c.region 0 0) else (1, s)

/-! ## Reset (R371-R373) -/

/-- R373: what a slot holds after a cast-on of its process: its sysregs have their reset values; empty where it holds no process. -/
def State.castSlot (s : State) (i : Nat) : Slot :=
  let x := s.slot i
  match (s.nets[x.id.net]?).bind fun n => (n.procs.find? fun p => x.id.loaded && p.pid == x.id.pid.toNat).map fun p => (n, p) with
  | some (n, p) => slotOfProc x.id.net n p
  | none => {}

/-- R372, R373: a slot in reset: queues, buffers and endpoints empty, sysregs at their reset values, those of `c` where cast-on gives
them; registers and the matrix state kept (R250). -/
def Slot.resetSlot (x c : Slot) : Slot :=
  { x with
    id := { x.id with stopped := x.id.loaded, level := 0, plevel := 0 }
    gen := { pc := x.gen.pc, icnt := x.gen.icnt }
    eng := { omask := x.eng.omask }
    vec := { vl := x.id.vlmax, v := x.vec.v, m := x.vec.m, win := c.vec.win, accov := x.vec.accov }
    tr := { saveva := c.tr.saveva }
    segs := c.segs
    ports := [] }

/-- R372: the page requests of a region's words are dropped. -/
def dropRequests (s : State) (r : Nat) : State :=
  let f (p : PageReq) : Option PageReq :=
    if p.regions.all (· == r) then none else some { p with regions := p.regions.filter fun x => x != r }
  admitPages { s with pages := s.pages.filterMap f }

/-- R327, R372: the waits of other regions that a lost region breaks. -/
def raiseBroken (s : State) (waits : List (Nat × Nat)) : State :=
  waits.foldl (fun s (i, gid) =>
    if (s.slot i).id.stopped then s
    else raiseG s i .severed (s.slot i).gen.pc (BitVec.ofNat 64 gid) none none) s

/-- R38: what a region's reset does to the networks. -/
def resetNets (s : State) (g : Region) (r : Nat) : State :=
  (List.range s.nets.length).foldl (fun s k =>
    match s.nets[k]? with
    | none => s
    | some n =>
      if !n.regions.getLsbD r then s
      else if n.st == .validating || n.st == .loading then s.modNet k fun n => { n with st := .rejected, reason := 14, closing := true }
      else if n.st == .running && g.loses k then
        let s := setStatus s k 3 none
        let stop (p : Proc) : Proc := if regionOf p.tile == r && !p.exited then { p with stopped := true } else p
        checkEnd (s.modNet k fun n => { n with procs := n.procs.map stop }) k
      else s) s

/-- R371: a reset reaches a region; one in RESET is affected no further, but for the networks that are being validated or loaded (R38). -/
def resetRegion (s : State) (r : Nat) : State :=
  let g := s.region r
  let note (s : State) : State := if g.st == .free then s else regionEvent s g.tenant (eventRec r 1 g.tenant 0 0 0)
  if g.st == .reset then resetNets (note s) g r else
  let s := note s
  let waits := (brokenWaits s r).filter fun w => regionOf (tileOf w.1) != r
  let s := severRegion (withdraw s r) r
  let s := (slotsOfRegion r).foldl (fun s i => s.modSlot i fun x => x.resetSlot (s.castSlot i)) s
  let s := s.modRegion r fun g =>
    { g with st := .reset, switching := none, after := if g.st == .running then .halted else g.st }
  let s := (tilesOf r).foldl (fun s t => s.modTile t fun t => { t with svec := 0, last := 3 }) s
  let s := resetNets s g r
  let s := dropRequests s r
  let s := { s with host := { s.host with reads := s.host.reads.filter fun q => regionOf (tileOf q.slot) != r }
                    die := if s.die.scrub == 1 && s.die.scrubRgn == r then { s.die with scrub := 2 } else s.die }
  raiseBroken s waits

/-- R373: a VF is being reset while a region of it is in RESET. -/
def resettingDone (s : State) : State :=
  (List.range 17).foldl (fun s k =>
    if (List.range 16).any (fun r => (s.region r).st == .reset && (s.region r).tenant == k) then s
    else s.modFunc k fun f => { f with resetting := false }) s

/-- R371: the 2 us of a RESET end; a paused scrub goes on (R386). -/
def execRegionResetEnd (r : Nat) (s : State) : Out :=
  if (s.region r).st != .reset then .next s else
  let s := s.modRegion r fun g => { g with st := g.after }
  .next (resettingDone
    { s with die := if s.die.scrub == 2 && s.die.scrubRgn == r then { s.die with scrub := 1 } else s.die })

/-- R371: RESET. -/
def execRgncmdReset (d a : Opnd) (s : State) : Out := rgnNow s d a 2 fun c s => (0, resetRegion s c.region)

/-! ## Scrub (R386, R423, R424) -/

/-- R386: the frames of the listed pages, translated as the tenant when the scrub starts. -/
def scrubFrames (s : State) (tenant : Nat) : List (Option (Nat × Nat)) :=
  let i := Config.controlSlot
  let off := (s.die.scrubList.extractLsb' 0 57).toNat
  (List.range (s.die.scrubList.extractLsb' 57 7).toNat).map fun k =>
    if (s.slot i).id.size * 4096 < off + 8 * k + 8 then none else
    let va := (s.dwordAt i (off + 8 * k)).toNat
    if 2 ^ 57 ≤ va then none else
    match walk s tenant (vpnOf va) with
    | .leaf l => if leafTarget l ≤ 11 then some (leafTarget l, leafFrame l) else none
    | _ => none

/-- R371, R423: SCRUB. HCAUSE stays to the end of the scrub (R424). -/
def scrub (c : RgnCmd) (s : State) : Nat × State :=
  let r := c.region
  let g := s.region r
  if !(g.st == .assigned || g.st == .halted) || s.die.scrub == 1 || s.die.scrub == 2 then (1, s) else
  let olds := g.ctxs.map (·.tenant)
  let s := g.ctxs.foldl endContext (s.modRegion r fun g =>
    { g with st := .scrubbing, tenant := c.tenant, ctag := 0, ctxs := [], switching := none })
  let s := { s with die := { s.die with scrub := 1, scrubRgn := r, sramg := 0, dramg := 0, scrubPages := scrubFrames s c.tenant } }
  (0, olds.foldl dropRect s)

/-- R371: SCRUB. -/
def execRgncmdScrub (d a : Opnd) (s : State) : Out := rgnNow s d a 3 scrub
/-- R371: ASSIGN. CMD 6 and 7 return BADARG. -/
def execRgncmdAssign (d a : Opnd) (s : State) : Out := rgnNow s d a 0 assign
/-- R371: HALT. -/
def execRgncmdHalt (d a : Opnd) (s : State) : Out := rgnNow s d a 1 halt
/-- R371: RELEASE. -/
def execRgncmdRelease (d a : Opnd) (s : State) : Out := rgnNow s d a 5 release

/-- R386: every tile of a region zeroed: SRAM, registers, accumulators and matrix state. -/
def zeroRegion (s : State) (r : Nat) : State :=
  (tilesOf r).foldl (fun s t =>
    (slotsOf t).foldl (fun s i => s.putSlot i {}) { s with tiles := Sparse.drop s.tiles t }) s

/-- R37, R425: a network of the tenant for which a region is scrubbed binds off and has still to write its image (log 66). -/
def imageDue (s : State) (tenant : Nat) : Bool := s.nets.any fun n => n.tenant == tenant && n.st == .bindoff && !n.closing

/-- R386, R424, R425: SCRUBDONE: the tiles and the listed pages are zero in every granule, STATE reads DONE and the region is FREE. It comes
after the bind-off of the tenant's networks that have ended, whose images could else stand in frames scrubbed before (DEDUCED, log 66). -/
def execScrubDone (s : State) : Out :=
  let r := s.die.scrubRgn
  let g := s.region r
  if s.die.scrub != 1 || imageDue s g.tenant then .next s else
  let s := zeroRegion s r
  let s := scrubPagesTo { s with die := { s.die with dramg := 0 } } (512 * s.die.scrubPages.length)
  let s := s.modRegion r fun g => { g with st := .free, tenant := 0, world := false, ctag := 0, hcause := 0, ctxs := [] }
  .next (dropRect { s with die := { s.die with scrub := 3, sramg := 32768 } } g.tenant)

/-! ## SWITCH and time slices (R374, R375; log 25) -/

/-- The slots of a region whose processes a switch saves. -/
def switchSlots (s : State) (r : Nat) : List Nat :=
  (slotsOfRegion r).filter fun i =>
    let d := (s.slot i).id
    d.loaded && !d.exited && !d.stopped

/-- R374 step 2: a switch begins: each slot is asked to be pre-empted. -/
def switchStart (s : State) (r : Nat) (c : Context) : State :=
  let s := s.modRegion r fun g => { g with switching := some c }
  (switchSlots s r).foldl askPreempt s

/-- R374 step 2: the slot has entered S with PREEMPT, and its record can be written (R365). -/
def Slot.switchReady (x : Slot) : Bool :=
  x.atS && x.tr.cause.extractLsb' 0 8 == 26#8 && x.eng.idle && x.tr.saveop == 0 && x.tr.savewant.isNone &&
    !x.segs.any fun (_, g) => g.st == .inflight

/-- What the pages of the records of a switch give: each slot with its leaves, a page is awaited, or the save area fails. -/
inductive SwitchRes
  | ok (l : List (Nat × Slot × List (Nat × Word))) | wait | bad

/-- R365, R374: the pages of every record, to be written or read. -/
def switchPages (s : State) : List (Nat × Slot × Bool) → SwitchRes × State
  | [] => (.ok [], s)
  | (i, x, wr) :: l =>
    match savePages s i x.id wr x.saveVpns [] with
    | (.bad, s) => (.bad, s)
    | (.page vpn, s) =>
      (.wait, (pageRequest s ⟨x.id.tenant, wr, false, false, i, 0⟩ vpn).modSlot i fun x =>
        { x with tr := { x.tr with savewant := some vpn } })
    | (.ok ls, s) =>
      match switchPages s l with
      | (.ok r, s) => (.ok ((i, x, ls) :: r), s)
      | r => r

/-- The processes of a network whose tiles lie in a region. -/
def Net.procsIn (n : Net) (r : Nat) : List Proc := n.procs.filter fun p => regionOf p.tile == r

/-- The record of a process as SAVECTL moves it: partition included, at its place in the save area. -/
def withRecord (x : Slot) (va : Word) : Slot := { x with tr := { x.tr with saveva := va, savepart := true } }

/-- R374 steps 3 to 6 for the outgoing context: the records are written, the processes saved, the slots empty, the tag is the
incoming one. -/
def switchOut (s : State) (r : Nat) (c : Context) (outs : List (Nat × Slot × List (Nat × Word))) : State :=
  let s := outs.foldl (fun s (i, x, ls) => writeRecord (s.putSlot i x) i ls) s
  let s := outs.foldl (fun s (_, x, _) =>
    s.modNet x.id.net fun n => n.modProc x.id.pid.toNat fun p => { p with saved := true, omask := x.eng.omask }) s
  let s := (slotsOfRegion r).foldl (fun s i => s.putSlot i {}) s
  let s := (tilesOf r).foldl (fun s t => s.modTile t fun t => { t with ctag := c.ctag, owner := none }) s
  s.modRegion r fun g => { g with tenant := c.tenant, ctag := c.ctag, switching := none }

/-- R249: the tiles of a region whose matrix unit a process of a network owns, to bind-off. -/
def setOwners (s : State) (r : Nat) (n : Net) : State :=
  (n.procsIn r).foldl (fun s p => if p.matrix then s.modTile p.tile fun t => { t with owner := some p.slot } else s) s

/-- R374 step 5: the incoming context's records are restored, and each slot returns from its trap. -/
def switchIn (s : State) (r : Nat) (c : Context) (ins : List (Nat × Slot × List (Nat × Word))) : State :=
  let s := match c.net.bind fun k => s.nets[k]? with
    | some n => setOwners s r n
    | none => s
  ins.foldl (fun s (i, x, ls) =>
    let s := returnTrap (readRecord (s.putSlot i x) i ls) i
    s.modNet x.id.net fun n => n.modProc x.id.pid.toNat fun p => { p with saved := false }) s

/-- R160: the credits that the readers of a channel owe go out, but for those that are saved. -/
def flushReaders (s : State) (n : Net) (k : Nat) (c : Chan) : State :=
  (List.range c.readers.length).foldl (fun s r =>
    match c.readers[r]? with
    | some e => if e.remote || n.savedAt e || !s.epLive k c e c.gen then s else flushPort s k c r (s.epPort e)
    | none => s) s

/-- R160, R161, R374 step 1: of every channel with an endpoint in a region the credits that are owed go out, wherever their reader
stands, and every packet on the way reaches its receiver. -/
def drainRegion (s : State) (r : Nat) : State :=
  (List.range s.nets.length).foldl (fun s k =>
    match s.nets[k]? with
    | none => s
    | some n =>
      if n.st != .running then s else
      n.chans.foldl (fun s c =>
        if (c.readers ++ c.writers).any fun e => !e.remote && regionOf e.tile == r then drainAll (flushReaders s n k c) k c.chid
        else s) s) s

/-- R374: a switch goes on: once every slot is at S with PREEMPT and every page is at hand the contexts are exchanged. Answers
whether the switch has ended, and how. A save area that cannot be used ends it; the slots return. -/
def switchStep (s : State) (r : Nat) (c : Context) : Option Nat × State :=
  let is := switchSlots s r
  if !is.all fun i => (s.slot i).switchReady then (none, s) else
  let s := drainRegion s r
  let outs := is.filterMap fun i =>
    let x := s.slot i
    match s.nets[x.id.net]? with
    | some n => (n.procs.find? fun p => p.pid == x.id.pid.toNat).map fun p => (i, withRecord x (n.recordVa p), true)
    | none => none
  let ins := match c.net.bind fun k => (s.nets[k]?).map fun n => (k, n) with
    | some (k, n) => ((n.procsIn r).filter (·.saved)).map fun p => (p.slotNo, withRecord (slotOfProc k n p) (n.recordVa p), false)
    | none => []
  if ins.any fun (i, _, _) => (s.slot i).tr.savewant.isSome then (none, s) else
  match switchPages s (outs ++ ins) with
  | (.wait, s) => (none, s)
  | (.bad, s) =>
    (some 1, (is.foldl (fun s i => returnTrap s i) s).modRegion r fun g => { g with switching := none })
  | (.ok l, s) => (some 0, switchIn (switchOut s r c (l.take outs.length)) r c (l.drop outs.length))

/-- R371: a SWITCH may begin: a RUNNING region that holds the context, which is not resident. -/
def switchTo (s : State) (c : RgnCmd) : Option Context :=
  let g := s.region c.region
  if g.st == .running && !(g.tenant == c.tenant && g.ctag == c.ctag) then
    g.ctxs.find? fun x => x.tenant == c.tenant && x.ctag == c.ctag
  else none

/-- R371, R374: SWITCH. It begins when it is first evaluated, and returns when the contexts have been exchanged. -/
def execRgncmdSwitch (d a : Opnd) (s : State) : Out :=
  rgnOp s d a 4
    (fun c s =>
      match switchTo s c, (s.region c.region).switching with
      | some x, none => switchStart s c.region x
      | some x, some y =>
        if x == y then
          match switchStep s c.region x with
          | (some _, _) => s
          | (none, t) => t
        else s
      | none, _ => s)
    fun c s =>
      match switchTo s c with
      | none => .done 1 s
      | some x =>
        if (s.region c.region).switching != some x then .done 1 s else
        match switchStep s c.region x with
        | (some st, t) => .done st t
        | (none, _) => .wait

/-- R375: the context next in CTAG order after the resident one; contexts of equal CTAG in the order of their tenants (DESIGN CHOICE,
log 25). -/
def nextContext (g : Region) : Option Context :=
  let others := g.ctxs.filter fun c => !(c.tenant == g.tenant && c.ctag == g.ctag)
  let key (tag : BitVec 8) (tenant : Nat) : Nat := 32 * tag.toNat + tenant
  let least (l : List Context) : Option Context := l.foldl (fun o c =>
    match o with
    | none => some c
    | some d => if key c.ctag c.tenant < key d.ctag d.tenant then some c else some d) none
  match least (others.filter fun c => key g.ctag g.tenant < key c.ctag c.tenant) with
  | some c => some c
  | none => least others

/-- R375: a time slice ends: firmware switches to the next context in CTAG order; at work, the switch goes on. -/
def execTimeSliceExpiry (r : Nat) (s : State) : Out :=
  let g := s.region r
  if g.st != .running then .next s else
  match g.switching with
  | some c => .next (switchStep s r c).2
  | none =>
    if g.tslice == 0 then .next s else
    match nextContext g with
    | some c => .next (switchStart s r c)
    | none => .next s

end Sys2Proof.Machine
end

