-- ==== Sys2Proof/Machine/Launch.lean ====
section
/-! DEFINITION. The cast-on record and the life of a network: reading it (R391, R392, R147, R324), validation (R34, R394), `caston`
(R35, R104, R202, R250), bind-off (R37), the completion record (R393), cancel (R38). -/

namespace Sys2Proof.Machine

/-! ## The record -/

/-- A cast-on record: the staging memory it lies in, and its offset there. -/
structure RecAt where
  mem : Mem
  off : Nat
deriving DecidableEq, Repr

/-- The dword at an offset of a record. -/
def RecAt.d (r : RecAt) (o : Nat) : Word := r.mem.dword (r.off + o)
/-- The bytes at an offset of a record. -/
def RecAt.bytes (r : RecAt) (o n : Nat) : List Byte := r.mem.bytes (r.off + o) n
/-- A bit field of a dword. -/
def fld (w : Word) (hi lo : Nat) : Nat := (w.extractLsb' lo (hi - lo + 1)).toNat

/-- R391: SIZE. -/
def RecAt.size (r : RecAt) : Nat := fld (r.d 0) 31 0
/-- R391: NPROC. -/
def RecAt.nproc (r : RecAt) : Nat := fld (r.d 8) 12 0
/-- R391: NCHAN. -/
def RecAt.nchan (r : RecAt) : Nat := fld (r.d 8) 48 32
/-- R391: NGROUP. -/
def RecAt.ngroup (r : RecAt) : Nat := fld (r.d 0x10) 8 0
/-- R391: REGIONS. -/
def RecAt.regions (r : RecAt) : BitVec 16 := (r.d 0x10).extractLsb' 16 16
/-- R391: PROCOFF. -/
def RecAt.procoff (r : RecAt) : Nat := (r.d 0x58).toNat
/-- R391: CHANOFF. -/
def RecAt.chanoff (r : RecAt) : Nat := (r.d 0x60).toNat
/-- R391: EPOFF. -/
def RecAt.epoff (r : RecAt) : Nat := (r.d 0x68).toNat
/-- R391: GRPOFF. -/
def RecAt.grpoff (r : RecAt) : Nat := (r.d 0x70).toNat
/-- R391: MEMBOFF. -/
def RecAt.memboff (r : RecAt) : Nat := (r.d 0x78).toNat

/-- R392: dword `k` of process-table entry `i`. -/
def RecAt.pd (r : RecAt) (i k : Nat) : Word := r.d (r.procoff + 64 * i + 8 * k)
/-- R147: dword `k` of binding-table entry `i`. -/
def RecAt.cd (r : RecAt) (i k : Nat) : Word := r.d (r.chanoff + 64 * i + 8 * k)
/-- R324: dword `k` of group-table entry `i`. -/
def RecAt.gd (r : RecAt) (i k : Nat) : Word := r.d (r.grpoff + 32 * i + 8 * k)
/-- R147: entry `i` of the endpoint list. -/
def RecAt.ep (r : RecAt) (i : Nat) : BitVec 32 := (r.d (r.epoff + 4 * i)).extractLsb' 0 32
/-- R324: entry `i` of the member list. -/
def RecAt.member (r : RecAt) (i : Nat) : Nat := fld (r.d (r.memboff + 2 * i)) 15 0

/-- R392: the extents of a process: partition offset, length, record offset. -/
def RecAt.extents (r : RecAt) (i : Nat) : List (Nat × Nat × Nat) :=
  let o := fld (r.pd i 3) 31 0
  (List.range (fld (r.pd i 3) 47 32)).map fun k =>
    let w := r.d (o + 16 * k)
    (fld w 20 0, fld w 52 32, (r.d (o + 16 * k + 8)).toNat)

/-- R392: WIN1 to WIN7 at an offset of a record, where 0 names none. -/
def RecAt.windows (r : RecAt) (off : Nat) : List Word := if off = 0 then [] else (List.range 7).map fun k => r.d (off + 8 * k)

/-- R392: a process-table entry. -/
def RecAt.proc (r : RecAt) (i : Nat) : Proc :=
  let w := r.pd i 0
  let g := r.pd i 2
  { pid := fld w 15 0, tile := fld w 25 16, slot := fld w 27 26, timing := w.getLsbD 28, matrix := w.getLsbD 29, world := w.getLsbD 30
    vlmax := fld w 38 32, base := fld w 47 39, size := fld w 57 48, entry := fld (r.pd i 1) 20 0
    gids := (List.range (min 4 (fld g 35 32))).map fun k => g.extractLsb' (8 * k) 8
    extents := r.extents i, tmpl := (r.pd i 4).toNat, winoff := (r.pd i 5).toNat, cseg := r.pd i 6
    saved := false, exited := false, stopped := false, wset := [], contribs := [], know := [], use := []
    wins := r.windows (r.pd i 5).toNat }

/-- The processes of a record. -/
def RecAt.procs (r : RecAt) : List Proc := (List.range r.nproc).map r.proc

/-- R147: an endpoint. One of a cross-package channel at which the record names no process lies in the other package (log 12). -/
def epOf (ps : List Proc) (route : Nat) (e : BitVec 32) : Ep :=
  let tile := (e.extractLsb' 0 10).toNat
  let slot := (e.extractLsb' 10 2).toNat
  { tile := tile, slot := slot, port := (e.extractLsb' 12 4).toNat, ridx := (e.extractLsb' 16 12).toNat
    remote := route == 2 && !ps.any fun p => p.tile == tile && p.slot == slot }

/-- R147: the writer endpoints of a binding-table entry, NWR of them; NWR = 0 names none, which validation refuses as COUNTS (DEDUCED,
log 35). -/
def RecAt.writers (r : RecAt) (i : Nat) : List (BitVec 32) :=
  let n := fld (r.cd i 0) 63 48
  if n = 0 then [] else if n = 1 then [(r.cd i 2).extractLsb' 0 32] else (List.range n).map fun k => r.ep (fld (r.cd i 2) 63 32 + k)
/-- R147: the reader endpoints, NRD of them; NRD = 0 names none, which validation refuses as COUNTS (DEDUCED, log 35). -/
def RecAt.readers (r : RecAt) (i : Nat) : List (BitVec 32) :=
  if fld (r.cd i 0) 42 38 = 0 then [] else (r.cd i 3).extractLsb' 0 32 :: (List.range (fld (r.cd i 0) 42 38 - 1)).map fun k => r.ep (fld (r.cd i 3) 63 32 + k)

/-- R147: SIZE in bytes. -/
def slotSize (code : Nat) : Nat :=
  match code with
  | 0 => 8 | 1 => 16 | 2 => 64 | 3 => 256 | _ => 272

/-- R153: the route class of a channel's endpoints. -/
def Chan.routeClass (c : Chan) : Nat :=
  let eps := c.readers ++ c.writers
  if eps.any (·.remote) then 2
  else match eps with
    | [] => 0
    | e :: l => if l.all fun f => dieOf f.tile == dieOf e.tile then 0 else 1

/-- R147, R35: a binding-table entry: the channel empty, its full capacity free, with no skein extension, whatever the record has at
SKOFF, GROWN and CAP (DEDUCED, log 35). ROUTE is what the endpoints make it (R153). -/
def RecAt.chan (r : RecAt) (ps : List Proc) (i : Nat) : Chan :=
  let w := r.cd i 0
  let route := fld w 28 27
  let c : Chan :=
    { chid := i, gen := w.extractLsb' 16 8, size := slotSize (fld w 26 24), route := route, reduce := w.getLsbD 30, mirror := w.getLsbD 31
      crypt := w.getLsbD 32, eostol := w.getLsbD 33, rop := fld w 36 34, endpt := w.getLsbD 37, cap := fld (r.cd i 1) 36 24
      cap0 := fld (r.cd i 1) 36 24, buf := fld (r.cd i 4) 20 0, skoff := 0, grown := 0
      uport := fld (r.cd i 6) 2 0, rpkg := fld (r.cd i 6) 15 8
      writers := (r.writers i).map (epOf ps route), readers := (r.readers i).map (epOf ps route)
      transit := [], skein := [], nodes := [], ends := [], dropped := 0, roots := 0, kept := [], sev := false }
  { c with route := c.routeClass }

/-- R324: the PIDs that the member list has for a group-table entry. -/
def RecAt.listed (r : RecAt) (i : Nat) : List Nat :=
  (List.range (fld (r.gd i 0) 22 10)).map fun k => r.member (fld (r.gd i 2) 31 0 + k)

/-- R324: a group-table entry; group 0 holds every process. EPOCH starts at 0, whatever the record has there (DEDUCED, log 35). -/
def RecAt.group (r : RecAt) (i : Nat) : Group :=
  let w := r.gd i 1
  { gid := i, kind := fld (r.gd i 0) 9 8, rect := (fld w 4 0, fld w 12 8, fld w 20 16, fld w 28 24)
    members := if i = 0 then r.procs.map (·.pid) else r.listed i
    epoch := 0, bar := [], ph := [] }

/-- R324: the groups of a record: group 0 and every declared one. -/
def RecAt.groups (r : RecAt) : List Group := ((List.range 256).filter fun i => i = 0 || fld (r.gd i 0) 9 8 ≠ 0).map r.group

/-- R325: the rectangle that a group's members fill, if they do. -/
def wireRect (ps : List Proc) : Option (Nat × Nat × Nat × Nat) :=
  match ps with
  | [] => none
  | p :: _ =>
    let xs := ps.map fun q => q.tile % 32
    let ys := ps.map fun q => q.tile / 32
    let x0 := xs.foldl min (p.tile % 32)
    let y0 := ys.foldl min (p.tile / 32)
    let w := xs.foldl max 0 + 1 - x0
    let h := ys.foldl max 0 + 1 - y0
    let pow (n : Nat) : Bool := [1, 2, 4, 8, 16].contains n
    let full := (List.range h).all fun j => (List.range w).all fun i => ps.any fun q => q.tile == (y0 + j) * 32 + (x0 + i)
    if pow w && pow h && x0 % w == 0 && y0 % h == 0 && x0 / 16 == (x0 + w - 1) / 16 && y0 / 16 == (y0 + h - 1) / 16 && full
    then some (x0, y0, w, h) else none

/-- R149 step 3, R325: KIND as the members' places make it. -/
def Group.rekind (g : Group) (ps : List Proc) : Group :=
  match wireRect (ps.filter fun p => g.members.contains p.pid) with
  | some r => { g with kind := 1, rect := r }
  | none => { g with kind := 2, rect := (0, 0, 0, 0) }

/-! ## Validation (R34, R394) -/

/-- R394 step 1: the header. -/
def RecAt.badHeader (r : RecAt) : Bool :=
  let inside (o n : Nat) : Bool := o + n ≤ r.size
  r.size < 0xC0 || 2 ^ 28 < r.off + r.size || fld (r.d 0) 47 32 != 1 || fld (r.d 0) 63 48 != 0 ||
  fld (r.d 8) 31 13 != 0 || fld (r.d 8) 63 49 != 0 || fld (r.d 0x10) 15 9 != 0 || fld (r.d 0x10) 63 35 != 0 ||
  fld (r.d 0x50) 63 6 != 0 || ((List.range 8).any fun k => r.d (0x80 + 8 * k) != 0) ||
  !inside r.procoff (64 * r.nproc) || !inside r.chanoff (64 * r.nchan) || !inside r.epoff 0 ||
  !inside r.grpoff (32 * 256) || !inside r.memboff 0

/-- R394 step 1: a process-table entry. No rule refuses an ENTRY that is no multiple of 4 (`loadedSlot`, log 35). -/
def RecAt.badProc (r : RecAt) (i : Nat) : Bool :=
  let w := r.pd i 0
  let p := r.proc i
  let inside (o n : Nat) : Bool := o + n ≤ r.size
  w.getLsbD 31 || fld w 63 58 != 0 || fld (r.pd i 1) 63 21 != 0 || fld (r.pd i 2) 63 36 != 0 || fld (r.pd i 3) 63 48 != 0 ||
  r.pd i 7 != 0 || (p.size < 64 && fld p.cseg 63 0 / 2 ^ p.size != 0) ||
  !inside (fld (r.pd i 3) 31 0) (16 * fld (r.pd i 3) 47 32) ||
  ((List.range (fld (r.pd i 3) 47 32)).any fun k =>
    let e := r.d (fld (r.pd i 3) 31 0 + 16 * k)
    fld e 31 21 != 0 || fld e 63 53 != 0 || !inside (r.d (fld (r.pd i 3) 31 0 + 16 * k + 8)).toNat (fld e 52 32)) ||
  (p.tmpl != 0 && !inside p.tmpl 128) || (p.winoff != 0 && !inside p.winoff 56)

/-- R394 step 1: a binding-table entry and its endpoints. -/
def RecAt.badChan (r : RecAt) (i : Nat) : Bool :=
  let w := r.cd i 0
  let nwr := fld w 63 48
  let nrd := fld w 42 38
  let inside (o n : Nat) : Bool := o + n ≤ r.size
  let mir := w.getLsbD 31
  fld w 47 43 != 0 || fld (r.cd i 1) 63 37 != 0 || fld (r.cd i 4) 63 21 != 0 || fld (r.cd i 6) 63 16 != 0 || r.cd i 7 != 0 ||
  5 ≤ fld w 26 24 || fld w 28 27 == 3 || 5 ≤ fld w 36 34 || fld w 15 0 != i ||
  (1 < nwr && !mir && !w.getLsbD 30) || (mir && nwr != 2) ||
  (1 < nwr && !inside (r.epoff + 4 * fld (r.cd i 2) 63 32) (4 * nwr)) ||
  (1 < nrd && !inside (r.epoff + 4 * fld (r.cd i 3) 63 32) (4 * (nrd - 1))) ||
  (r.writers i ++ r.readers i).any fun e => e.extractLsb' 28 4 != 0

/-- R394 step 1: a group-table entry; those of undeclared gids are zero, and group 0 is declared in every network. -/
def RecAt.badGroup (r : RecAt) (i : Nat) : Bool :=
  let w := r.gd i 0
  let kind := fld w 9 8
  if kind = 0 && i != 0 then (List.range 4).any fun k => r.gd i k != 0
  else kind == 3 || fld w 7 0 != i || fld w 63 23 != 0 || r.gd i 1 &&& 0xFFFFFFFFE0E0E0E0 != 0 || fld (r.gd i 2) 63 32 != 0 ||
    fld (r.gd i 3) 63 32 != 0 || r.size < r.memboff + 2 * (fld (r.gd i 2) 31 0 + fld w 22 10)

/-- Two members of a list, one after the other, of which a test holds. -/
def anyPair {α : Type} (f : α → α → Bool) : List α → Bool
  | [] => false
  | x :: l => l.any (f x) || anyPair f l

/-- R392, R201, R232: the slot checks of the processes of one tile. -/
def badTile (ps : List Proc) : Bool :=
  let meet (p q : Proc) : Bool := p.base < q.base + q.size && q.base < p.base + p.size
  ps.any (fun p => !([16, 32, 64].contains p.vlmax) || p.size == 0 || 512 < p.size || 496 < p.base + p.size) ||
  anyPair (fun p q => p.vlmax != q.vlmax || meet p q) ps || 64 < (ps.map (·.vlmax)).sum

/-- R34, R394: the slot check. Two processes of one PID are refused by it too (DEDUCED, log 35). -/
def badSlots (r : RecAt) (ps : List Proc) : Bool :=
  ps.any (fun p => !r.regions.getLsbD (regionOf p.tile)) ||
  anyPair (fun p q => (p.tile == q.tile && p.slot == q.slot) || p.pid == q.pid) ps ||
  ps.any (fun p => badTile (ps.filter fun q => q.tile == p.tile)) ||
  ps.any (fun p => p.wins.any fun w => !winOk w (p.size * 4096))

/-- R34, R369, R371: the region check. -/
def badRegions (s : State) (tenant : Nat) (m : BitVec 16) : Bool :=
  (List.range 16).any fun j => m.getLsbD j &&
    !((s.region j).st == .assigned && (s.region j).tenant == tenant &&
      (match (s.tenant tenant).rect with | some q => inRect q j && shapeOk q.2.2.1 q.2.2.2 | none => false))

/-- R34, R324: the group check, with the PIDs that an entry for group 0 lists; a declared group has 1 to 4,096 members (log 35). -/
def badGroups (r : RecAt) (ps : List Proc) (gs : List Group) : Bool :=
  ps.any (fun p => 4 < (gs.countP fun g => g.gid != 0 && g.members.contains p.pid)) ||
  (List.range r.nproc).any (fun i => 4 < fld (r.pd i 2) 35 32) ||
  gs.any (fun g => g.gid != 0 && (g.members.isEmpty || 4096 < g.members.length)) || 4096 < (r.listed 0).length ||
  (gs.flatMap (·.members) ++ r.listed 0).any fun m => !ps.any fun p => p.pid == m

/-- R304: the refusals of the slot-size check. -/
def badSize (c : Chan) : Bool :=
  (c.reduce && (c.rop == 4) != (c.size == 272)) || (c.mirror && c.reduce) ||
  (c.reduce && c.writers.any fun e => 1 < c.writers.countP fun f => f.tile == e.tile && f.slot == e.slot && f.port == e.port)

/-- R34, R147, R308: the buffer check, of the reader endpoints at which the record names a process (DEDUCED, log 35). -/
def badBuffer (ps : List Proc) (c : Chan) : Bool :=
  c.buf % 64 != 0 || c.readers.any fun e =>
    !e.remote && ps.any fun p => p.tile == e.tile && p.slot == e.slot && p.size * 4096 < c.buf + c.places * c.size

/-- R34, R378: some pair of endpoints of a channel, of a tenant's network in some regions, is not admitted by the window table. -/
def badWindow (s : State) (tenant : Nat) (regions : BitVec 16) (c : Chan) : Bool :=
  c.writers.any fun w => c.readers.any fun r => !s.pairAdmitted tenant regions w r

/-- R316: the contributors of an in-network channel lie in more than one package. -/
def Chan.spans (c : Chan) : Bool := c.reduce && !c.endpt && c.writers.any (·.remote) && c.writers.any fun e => !e.remote

/-- R316: the block layout: each package holds one node of a level. -/
def blockLayout (c : Chan) : Bool :=
  let n := c.writers.length
  let side (b : Bool) : List Nat := (List.range n).filter fun k => match c.writers[k]? with | some e => e.remote == b | none => false
  let isBlock (p : Nat) (l : List Nat) : Bool :=
    match l with
    | [] => true
    | k :: _ => l == (List.range n).filter fun j => j / 2 ^ p == k / 2 ^ p
  (List.range 13).any fun p => isBlock p (side true) && isBlock p (side false)

/-- R34, R394: the first failing check of a record, as its reason; none when it passes. -/
def validate (s : State) (tenant : Nat) (r : RecAt) : Option Nat :=
  if r.badHeader then some 13
  else if (List.range r.nproc).any r.badProc || (List.range r.nchan).any r.badChan || (List.range 256).any r.badGroup then some 13
  else
    let ps := r.procs
    let gs := r.groups
    let cs := (List.range r.nchan).map (r.chan ps)
    if badRegions s tenant r.regions then some 1
    else if badSlots r ps then some 2
    else if r.nproc == 0 || 4096 < r.nproc || 65536 < r.nchan || r.ngroup == 0 || 256 < r.ngroup ||
        cs.any (fun c => c.writers.isEmpty || 4096 < c.writers.length || c.readers.isEmpty || 16 < c.readers.length) then some 3
    else if badGroups r ps gs then some 4
    else if cs.any badSize then some 5
    else if cs.any fun c => c.cap0 == 0 || 4096 < c.cap0 then some 6
    else if cs.any (badBuffer ps) then some 7
    else if cs.any (badWindow s tenant r.regions) then some 8
    else if ps.any fun p => p.world != (s.region (regionOf p.tile)).world then some 9
    else if cs.any fun c => c.spans && !blockLayout c then some 12
    else if cs.any fun c => c.spans && c.crypt then some 10
    else if ps.any fun p => p.matrix && 1 < (ps.countP fun q => q.tile == p.tile && q.matrix) then some 11
    else none

/-! ## Networks -/

/-- R33: a network just taken from a launch ring. -/
def blankNet (nid : BitVec 32) (tenant off : Nat) : Net :=
  { nid := nid, tenant := tenant, st := .queued, recOff := off, regions := 0, strict := false, secure := false, attest := false
    skeinVa := 0, skeinSize := 0, saveVa := 0, dlrecVa := 0, logVa := 0, logMax := 0, shsect := 0, linkSlot := 0, linkEn := false
    procs := [], chans := [], groups := [], versions := [], log := [], status := none, reason := 0, ending := none, discarded := 0
    growths := 0, skeinUsed := 0, sent := 0, arrived := 0, cret := 0, carr := 0, measRec := 0, measImg := 0, closing := false }

/-- The record of a network. -/
def Net.rec_ (n : Net) (s : State) : RecAt := ⟨(s.func n.tenant).staging, n.recOff⟩

/-- R391: a network with what its record says. -/
def Net.filled (n : Net) (r : RecAt) : Net :=
  let w := r.d 0x10
  let ps := r.procs
  { n with
    regions := r.regions, strict := w.getLsbD 32, secure := w.getLsbD 33, attest := w.getLsbD 34
    skeinVa := r.d 0x18, skeinSize := r.d 0x20, saveVa := r.d 0x28, dlrecVa := r.d 0x30, logVa := r.d 0x38, logMax := r.d 0x40
    shsect := r.d 0x48, linkSlot := fld (r.d 0x50) 4 0, linkEn := (r.d 0x50).getLsbD 5
    procs := ps, chans := (List.range r.nchan).map (r.chan ps), groups := r.groups }

/-- R38, R394: a network rejected for a reason; its completion record is still to be written. -/
def reject (n : Net) (reason : Nat) : Net := { n with st := .rejected, reason := reason, closing := true }

/-- R33: the network of a function that `validating` acts on: the oldest one that is queued or being validated. -/
def nextToValidate (s : State) (fn : Nat) : Option (Nat × Net) :=
  (List.range s.nets.length).findSome? fun k =>
    match s.nets[k]? with
    | some n => if n.tenant == fn && (n.st == .queued || n.st == .validating) then some (k, n) else none
    | none => none

/-- R33, R34, R394: a queued network is being validated; one that is passes on to LOADING or is REJECTED. While a reset region of the
network holds it back, RESET is reported (R38). -/
def execValidating (fn : Nat) (s : State) : Out :=
  match nextToValidate s fn with
  | none => .next s
  | some (k, n) =>
    let r := n.rec_ s
    if n.st == .queued then .next (s.modNet k fun n => { n with st := .validating, regions := r.regions })
    else
      match validate s fn r with
      | some reason => .next (s.modNet k fun n => reject n reason)
      | none => .next (s.modNet k fun n => { (n.filled r) with st := .loading })

/-! ## caston (R35, R366) -/

/-- R250: an accumulator as cast-on leaves it, under a tag. -/
def castAcc (tag : BitVec 8) : Acc := { tag := tag }

/-- R250: the save block of accumulator `k` of a tile has its place after the slot records of its context's save area (DESIGN CHOICE,
log 34): the blocks of a network's matrix owners follow one another in PID order, two to an owner. -/
def Net.accVa (n : Net) (p : Proc) (k : Nat) : Nat :=
  n.saveVa.toNat + 0x208000 * n.procs.length + 0x10000 * (2 * (n.procs.countP fun q => q.matrix && q.pid < p.pid) + k)

/-- R250 step 1, R269 step 1: the block that `msave` would write, in the save area of the context that the accumulator belongs to. -/
def saveAcc (s : State) (t k : Nat) (a : Acc) (c : Context) : State :=
  match c.net.bind fun m => (s.nets[m]?).bind fun n => (n.procs.find? fun p => p.matrix && p.tile == t).map fun p => (n, p) with
  | some (n, p) => rawStore s n.tenant (n.accVa p k) (a.block false)
  | none => s

/-- R250: cast-on's treatment of an accumulator of a tile with a matrix owner: contents whose tag names another context that the
region still holds are written to its save area (log 34); then the values of R250, under CTAG. -/
def castOne (ctxs : List Context) (t k : Nat) (s : State) : State :=
  let tl := s.tile t
  let a := if k = 0 then tl.acc0 else tl.acc1
  let s := match ctxs.find? fun c => a.tag != tl.ctag && c.ctag == a.tag with
    | some c => (saveAcc s t k a c).modTile t fun tl => { tl with accSaved := tl.accSaved ++ [(k, a)] }
    | none => s
  s.modTile t fun tl => if k = 0 then { tl with acc0 := castAcc tl.ctag } else { tl with acc1 := castAcc tl.ctag }

/-- R250: both accumulators. -/
def castAccs (ctxs : List Context) (t : Nat) (s : State) : State := castOne ctxs t 1 (castOne ctxs t 0 s)

/-- R35, R104, R202, R392: the slot of a process as LOADING writes it. A PC is a multiple of 4 (R113): bits [1:0] of an ENTRY that is
none are dropped (DESIGN CHOICE, log 35). -/
def loadedSlot (k : Nat) (n : Net) (r : RecAt) (p : Proc) : Slot :=
  let x := slotOfProc k n p
  { x with
    gen := { pc := BitVec.ofNat 64 (p.entry / 4 * 4) }
    pb := { t := if p.tmpl = 0 then [] else tableOf 0 16 fun j => r.d (p.tmpl + 8 * j) } }

/-- R392: the extents of a process written into its partition; what would leave it is not written. -/
def loadExtents (s : State) (r : RecAt) (p : Proc) : State :=
  p.extents.foldl (fun s (o, len, ro) =>
    let n := min len (p.size * 4096 - o)
    s.modTile p.tile fun t => { t.renew (p.base * 4096 + o) n with sram := t.sram.putBytes (p.base * 4096 + o) (r.bytes ro n) }) s

/-- R35: one process loaded and released. -/
def loadProc (s : State) (k : Nat) (n : Net) (r : RecAt) (p : Proc) : State :=
  let s := loadExtents s r p
  let s := s.putSlot p.slotNo (loadedSlot k n r p)
  if p.matrix then
    let ctxs := (s.region (regionOf p.tile)).ctxs
    (castAccs ctxs p.tile s).modTile p.tile fun t => { t with owner := some p.slot }
  else s

/-- R398: the two measurements of LOADING. -/
def measure (r : RecAt) (ps : List Proc) : BitVec 512 × BitVec 512 :=
  (sha512 (r.bytes 0 r.size), sha512 ((byPid ps).flatMap fun p => p.extents.flatMap fun (_, len, ro) => r.bytes ro len))

/-- R366: every region of the network is still ASSIGNED, with the tenant's context resident. -/
def castable (s : State) (n : Net) : Bool :=
  (List.range 16).all fun j => !n.regions.getLsbD j || ((s.region j).st == .assigned && (s.region j).tenant == n.tenant)

/-- R35, R168, R325, R343, R371: LOADING performed: every slot is released and the network runs. -/
def castOn (s : State) (k : Nat) (n : Net) : State :=
  let r := n.rec_ s
  let m := if n.attest then measure r n.procs else (0, 0)
  let s := n.procs.foldl (fun s p => loadProc s k n r p) s
  let s := s.modTenant n.tenant fun t =>
    { t with dlstat := 0, dlchan := 0, dlwaves := 0, phcount := 0, strict := n.strict, logfull := false, waves := 0, lastWave := none }
  let s := (List.range 16).foldl (fun s j =>
    if n.regions.getLsbD j then
      s.modRegion j fun g =>
        let own (c : Context) : Context := if c.tenant == g.tenant && c.ctag == g.ctag then { c with net := some k } else c
        { g with st := .running, ctxs := g.ctxs.map own }
    else s) s
  s.modNet k fun n => { n with st := .running, measRec := m.1, measImg := m.2, groups := n.groups.map fun g => g.rekind n.procs }

/-- R366: caston. The device address of a record is its staging offset, with the function's number from bit 28 up (log 21). -/
def execCtlCaston (d a : Opnd) (s : State) : Out :=
  ctlOp s d a (fun _ s => s) fun w s =>
    let fn := w.toNat / 2 ^ 28
    let off := w.toNat % 2 ^ 28
    match (List.range s.nets.length).findSome? (fun k =>
        match s.nets[k]? with
        | some n => if n.st == .loading && n.tenant == fn && n.recOff == off then some (k, n) else none
        | none => none) with
    | none => .done 3 s
    | some (k, n) => if castable s n then .done 0 (castOn s k n) else .done 2 s

/-! ## Bind-off (R37) -/

/-- R162, R320: what a slot on a channel's route counts for: an input of a tree node its contributions, any other slot one. -/
def Chan.slotsOf (c : Chan) (node : Option (Nat × Nat)) : Nat :=
  match node with | some (l, j) => (c.below l j).length | none => 1

/-- R37, R157: the slots of a channel that wait in the re-sequencing queues of the UALink ports: they have not arrived. One counts for
each reader of this package, an input of a tree node for its contributions. -/
def slotsHeld (s : State) (k : Nat) (c : Chan) : Nat :=
  let tree := c.reduce && !c.endpt
  let here := (c.readers.filter fun e => !e.remote).length
  (s.ual.map fun (_, u) =>
    let mine := u.reseq.filter fun m => m.net == k && m.chid == c.chid
    (((mine.map fun m => (m.src, m.seq, m.count)).eraseDups).map fun (src, _, l) =>
      if tree && l < treeLevels c.writers.length then c.slotsOf (some (l, src / 2 ^ l)) else here).sum).sum

/-- R37 step 3: slots still in a channel: on the route, in the skein, waiting at nodes, arrived and not read, waiting to be re-sequenced;
those of a reader that is saved are in its record (R364). A partial result counts for its contributions (R320; DEDUCED, log 50). -/
def slotsIn (s : State) (k : Nat) (n : Net) (c : Chan) : Nat :=
  let unread := ((List.range c.readers.length).map fun r =>
    match c.readers[r]? with
    | none => 0
    | some e =>
      let p := s.epPort e
      if e.remote then 0
      else if n.procs.any fun q => q.saved && q.tile == e.tile && q.slot == e.slot then (Sparse.get [] c.kept (2 * r)).getD 4 0 - (Sparse.get [] c.kept (2 * r)).getD 5 0
      else if p.bound && p.net == k && p.ch == c.chid then p.unread c else 0).sum
  let route := ((c.transit.filter fun p => p.kind == .slot).map fun p => c.slotsOf p.node).sum
  route + c.skein.length + (c.nodes.map fun x => c.slotsOf (some (x.lvl, x.num))).sum + unread + slotsHeld s k c

/-- R249, R354: the slots of a network are free again, and the matrix units of the tiles where it is resident have no owner; registers
and SRAM stay (R372 speaks of a reset; only a scrub clears them). -/
def unloadSlots (s : State) (k : Nat) (n : Net) : State :=
  n.procs.foldl (fun s p =>
    let s := if (s.region (regionOf p.tile)).runs k && (s.tile p.tile).owner == some p.slot then
        s.modTile p.tile fun t => { t with owner := none } else s
    let x := s.slot p.slotNo
    if p.saved || !x.id.loaded || x.id.net != k then s else
    s.putSlot p.slotNo { pb := x.pb, sb := x.sb, vec := { v := x.vec.v, m := x.vec.m } }) s

/-- R38: a network that has lost a region binds off once its other processes have trapped, exited or been stopped. -/
def severedEnd (s : State) (net : Nat) (n : Net) : State :=
  if n.status == some 3 && n.procs.all (s.over n) then
    checkEnd (n.procs.foldl (fun s p => if p.exited || p.stopped then s else stopSlot s p.slotNo) s) net
  else s

/-- R371: the regions whose resident context runs a network are ASSIGNED again, and no context runs it any more. -/
def freeRegions (s : State) (net : Nat) : State :=
  (List.range 16).foldl (fun s j =>
    let g := s.region j
    if g.ctxs.any fun c => c.net == some net then
      s.modRegion j fun g =>
        let free (c : Context) : Context := if c.net == some net then { c with net := none } else c
        { g with st := if g.st == .running && g.runs net then .assigned else g.st, ctxs := g.ctxs.map free }
    else s) s

/-- R157: what the re-sequencing queues hold of a network is discarded. -/
def dropHeld (s : State) (net : Nat) : State :=
  (s.ual.map (·.1)).foldl (fun s p => s.modUal p fun u => { u with reseq := u.reseq.filter fun m => m.net != net }) s

/-- R37 step 2, R349: the boundaries that are due, then the final one of group 0 for every process. -/
def lastBoundary (s : State) (net : Nat) : State :=
  let s := mergeDue s net
  match s.nets[net]? with
  | none => s
  | some n =>
    let e := n.procs.foldl (fun m p => max m (knows p.know 0)) 0 + 1
    if n.procs.isEmpty then s else (boundaryMerge s net 0 e n.procs).1

/-- R37 steps 1 to 4, R349, R371: the boundaries, the slots left in channels discarded and counted, once every packet that can has
reached its receiver, the skein released; the regions are ASSIGNED again, before the completion record (DESIGN CHOICE, log 37). Of a
running network, its end by R38. -/
def execBindOff (net : Nat) (s : State) : Out :=
  match s.nets[net]? with
  | none => .next s
  | some n =>
    if n.st == .running then .next (severedEnd s net n) else
    if n.st != .bindoff || n.closing then .next s else
    let s := n.chans.foldl (fun s c => drainAll s net c.chid) (lastBoundary s net)
    let lost := match s.nets[net]? with | some n => (n.chans.map (slotsIn s net n)).sum | none => 0
    let s := freeRegions (unloadSlots (dropHeld s net) net n) net
    .next (s.modNet net fun n =>
      { n with discarded := n.discarded + lost, skeinUsed := 0, chans := [], groups := [], versions := [], base := [], closing := true })

/-- R393: the completion record of a network; the wall time is a free value (log 6). -/
def completion (n : Net) (phcount : Nat) (wall : Word) : List Byte :=
  let code := if n.st == .rejected then 5 else n.status.getD 0
  let e := n.ending.getD ⟨0, 0, 0, 0⟩
  dwordBytes
    [BitVec.ofNat 64 (code + 2 ^ 8 * n.reason + 2 ^ 32 * n.nid.toNat), BitVec.ofNat 64 n.discarded,
     BitVec.ofNat 64 (n.growths % 2 ^ 32 + 2 ^ 32 * (phcount % 2 ^ 32)),
     BitVec.ofNat 64 (e.pid.toNat + 2 ^ 16 * e.cause.toNat), e.pc, e.fword, wall, 0]

/-- R388: a ring whose tail is one entry behind its head is full. -/
def ringFull (head tail : Nat) : Bool := (tail + 1) % 64 == head

/-- R37 steps 5 and 6, R388, R390: the completion record written into a free entry, and MSI-X vector 0 raised. With the ring full
the network stays as it is. -/
def writeCompletion (s : State) (net : Nat) : State :=
  match s.nets[net]? with
  | none => s
  | some n =>
    let f := s.func n.tenant
    if !n.closing || ringFull f.cqhead f.cqtail then s else
    let (wall, s) := s.fresh
    let bs := completion n (s.tenant n.tenant).phcount wall
    let s := s.modFunc n.tenant fun f =>
      { f with staging := f.staging.putBytes (f.cqbase.toNat + 64 * f.cqtail) bs, cqtail := (f.cqtail + 1) % 64 }.raise 0
    s.modNet net fun n => { n with closing := false, st := if n.st == .bindoff then .retired else n.st }

/-- R37 step 5, R388. -/
def execCompletionRecord (net : Nat) (s : State) : Out := .next (writeCompletion s net)

/-! ## Cancel (R38) -/

/-- R38: a network cancelled: running, its slots stop at their commit points; not yet running, it ends as it is. -/
def cancelNet (s : State) (k : Nat) : State :=
  match s.nets[k]? with
  | none => s
  | some n =>
    match n.st with
    | .running => endNet s k 4 none
    | .queued | .validating | .loading => (setStatus s k 4 none).modNet k fun n => { n with st := .bindoff, closing := true }
    | .bindoff | .retired | .rejected => s

/-- R38: the networks of an id, of one function or of any. -/
def netsOf (s : State) (fn : Option Nat) (nid : BitVec 32) : List Nat :=
  (List.range s.nets.length).filter fun k =>
    match s.nets[k]? with
    | some n => n.nid == nid && (fn == none || fn == some n.tenant) && !(n.st == .retired || n.st == .rejected)
    | none => false

/-- R38, R366: cancel by firmware; a network id that names none is BADARG (log 15). -/
def execCtlCancel (d a : Opnd) (s : State) : Out :=
  ctlOp s d a (fun _ s => s) fun w s =>
    match (if 2 ^ 32 ≤ w.toNat then [] else netsOf s none (w.extractLsb' 0 32)) with
    | [] => .done 3 s
    | ks => .done 0 (ks.foldl cancelNet s)

/-- R38, R387: the host writes CANCEL. -/
def execCancel (fn : Nat) (net : BitVec 32) (s : State) : Out := .next ((netsOf s (some fn) net).foldl cancelNet s)

end Sys2Proof.Machine
end

