-- ==== Sys2Proof/Machine/HostIf.lean ====
section
/-! DEFINITION. The host interface (R387-R390): BAR0 registers, the launch ring and its wakes, the heads of the other two rings,
VF reset (R373), and the service of host reads (R346). -/

namespace Sys2Proof.Machine

/-- R387, R397: the function answers the host: it is one of 0 (PF) to 16 and PCI Express is up. -/
def State.hostSees (s : State) (fn : Nat) : Bool := fn ≤ 16 && (s.func fn).ready

/-! ## Wakes (R389) -/

/-- R387: an entry of a function's launch ring, as a network. -/
def ringEntry (f : Func) (fn k : Nat) : Net :=
  let o := f.lqbase.toNat + 16 * k
  blankNet ((f.staging.dword (o + 8)).extractLsb' 0 32) fn (f.staging.dword o).toNat

/-- R389, R390: firmware takes every entry from LQHEAD to LQTAIL; MSI-X vector 2 tells of the space freed. -/
def takeEntries (s : State) (fn : Nat) : State :=
  let f := s.func fn
  let n := (f.lqtail + 64 - f.lqhead) % 64
  if n = 0 then s else
  let nets := (List.range n).map fun k => ringEntry f fn ((f.lqhead + k) % 64)
  { s with nets := s.nets ++ nets }.modFunc fn fun f => { f with lqhead := f.lqtail }.raise 2

/-- R389: a wake is delivered; its microsecond begins. -/
def deliverWake (s : State) (fn : Nat) : State :=
  takeEntries (s.modFunc fn fun f => { f with window := true, due := false }) fn

/-- R389: a write to DOORBELL. -/
def ringDoorbell (s : State) (fn : Nat) : State :=
  if (s.func fn).window then s.modFunc fn fun f => { f with again := true, due := true } else deliverWake s fn

/-- R389: DOORBELL. -/
def execDoorbell (fn : Nat) (s : State) : Out := .next (if s.hostSees fn then ringDoorbell s fn else s)

/-- R389: the microsecond after a delivered wake ends, with the wake that is due. -/
def execDeferredWake (fn : Nat) (s : State) : Out :=
  let f := s.func fn
  .next (if !f.window then s else if f.due then deliverWake s fn else s.modFunc fn fun f => { f with window := false })

/-! ## Registers (R387, R388) -/

/-- R388: the host reports what it has consumed of the completion ring; records that waited go out. -/
def writeCqhead (s : State) (fn : Nat) (v : Word) : State :=
  let s := s.modFunc fn fun f => { f with cqhead := v.toNat % 64 }
  (List.range s.nets.length).foldl (fun s k =>
    if (s.nets[k]?).any fun n => n.tenant == fn && n.closing then writeCompletion s k else s) s

/-- R388: CQHEAD. -/
def execCqheadWrite (fn : Nat) (v : Word) (s : State) : Out := .next (if s.hostSees fn then writeCqhead s fn v else s)

/-- R388: the host reports what it has consumed of the event ring. -/
def writeEvhead (s : State) (fn : Nat) (v : Word) : State := s.modFunc fn fun f => { f with evhead := v.toNat % 64 }

/-- R388: EVHEAD. -/
def execEvheadWrite (fn : Nat) (v : Word) (s : State) : Out := .next (if s.hostSees fn then writeEvhead s fn v else s)

/-- R387: the host's view of a function's BARs: BAR0 from 0, BAR2, the staging area, from 2^28, BAR4 from 2^29 (log 1, log 52). The spec
gives no width of a host access: the model's are of 8 bytes, at an offset of 4 mod 8 in BAR4 of 4 bytes; a 4-byte access at a multiple
of 8 of BAR2 and BAR4 has the offset that lies `hostHalf` above; the MSI-X capability of configuration space stands from `hostConfig` on. An access to half a register of BAR0 does nothing, and reads 0 (DESIGN
CHOICE, log 52). -/
def hostBar2 : Nat := 2 ^ 28
/-- R387: BAR4 in the host's view. -/
def hostBar4 : Nat := 2 ^ 29
/-- The view whose accesses are of 4 bytes (log 52). -/
def hostHalf : Nat := 2 ^ 30
/-- R387: the pending-bit array in BAR4 (PRESUMED, log 52). -/
def pbaOff : Nat := 0x800

/-- R390: a vector that is pending and may now be sent is sent (PRESUMED from PCI Express, log 52). -/
def Func.flush (f : Func) (k : Nat) : Func :=
  if f.sends k && f.pba.getLsbD k then { f.send k with pba := f.pba &&& ~~~(1#3 <<< k) } else f

/-- R390: the host masks an entry of the MSI-X table, or unmasks it. -/
def Func.maskEntry (f : Func) (k : Nat) (mask : Bool) : Func :=
  if mask then { f with unmasked := f.unmasked &&& ~~~(1#3 <<< k) }
  else { f with unmasked := f.unmasked ||| (1#3 <<< k) }.flush k

/-- R3: the MSI-X capability in a function's configuration space, where the host's view has it (log 52). -/
def hostConfig : Nat := 2 ^ 31

/-- R3, R387, R390: a host write of 4 bytes in the MSI-X capability: of Message Control the MSI-X Enable and the Function Mask can be
written, and what is pending and may then be sent is sent, vector 0 first (PRESUMED from PCI Express, log 52). -/
def Func.configWrite (f : Func) (off : Nat) (v : Word) : Func :=
  if off = 0 then (({ f with msixEn := v.getLsbD 31, funcMask := v.getLsbD 30 }.flush 0).flush 1).flush 2 else f

/-- R3, R387, R390: what a host read of 4 bytes in the MSI-X capability gives: Message Control, with the table's size of three entries, over
the capability's number; the places of the table and of the pending bits in BAR4 (PRESUMED from PCI Express, log 52). -/
def Func.configRead (f : Func) (off : Nat) : Word :=
  match off with
  | 0 => 0#32 ++ BitVec.ofBool f.msixEn ++ BitVec.ofBool f.funcMask ++ 2#14 ++ 0x11#16
  | 4 => 4
  | 8 => BitVec.ofNat 64 (pbaOff + 4)
  | _ => 0

/-- R387, R390: a host write of 4 bytes in BAR4: the address or the data of an MSI-X table entry, or its Vector Control, whose bit 0 is
the mask. The pending bits are read only (PRESUMED from PCI Express, log 52). -/
def Func.bar4Dword (f : Func) (off : Nat) (v : BitVec 32) : Func :=
  if off % 4 ≠ 0 ∨ 48 ≤ off then f
  else if off % 16 = 12 then f.maskEntry (off / 16) (v.getLsbD 0)
  else { f with bar4 := f.bar4.putBytes off (natLe v.toNat 4) }

/-- R387: a host write in BAR4: of 8 bytes, the lower half first, or at an odd multiple of 4 of 4 bytes. -/
def Func.bar4Write (f : Func) (off : Nat) (v : Word) : Func :=
  let f := f.bar4Dword off (v.extractLsb' 0 32)
  if off % 8 = 0 then f.bar4Dword (off + 4) (v.extractLsb' 32 32) else f

/-- R387: what a host read of 4 bytes in BAR4 gives. -/
def Func.bar4ReadDword (f : Func) (off : Nat) : BitVec 32 :=
  if off % 4 ≠ 0 then 0
  else if off = pbaOff then f.pba.zeroExtend 32
  else if 48 ≤ off then 0
  else if off % 16 = 12 then (BitVec.ofBool (!f.unmasked.getLsbD (off / 16))).zeroExtend 32
  else (f.bar4.dword off).extractLsb' 0 32

/-- R387: what a host read in BAR4 gives: 8 bytes, or at an odd multiple of 4 the 4 there. -/
def Func.bar4Read (f : Func) (off : Nat) : Word :=
  (if off % 8 = 0 then f.bar4ReadDword (off + 4) else 0) ++ f.bar4ReadDword off

/-- R387: a host write of 4 bytes, in BAR2 or BAR4. -/
def Func.halfWrite (f : Func) (off : Nat) (v : Word) : Func :=
  if hostBar4 ≤ off then f.bar4Dword (off - hostBar4) (v.extractLsb' 0 32)
  else if hostBar2 ≤ off ∧ off + 4 ≤ hostBar4 then { f with staging := f.staging.putBytes (off - hostBar2) (natLe (v.toNat % 2 ^ 32) 4) }
  else f

/-- R387: what a host read of 4 bytes, in BAR2 or BAR4, gives. -/
def Func.halfRead (f : Func) (off : Nat) : Word :=
  if hostBar4 ≤ off then (f.bar4ReadDword (off - hostBar4)).zeroExtend 64
  else if hostBar2 ≤ off ∧ off + 4 ≤ hostBar4 then (f.staging.dword (off - hostBar2)) &&& 0xFFFFFFFF
  else 0

/-- R387: a host write of a BAR0 register, or into BAR2 or BAR4; read-only and reserved offsets keep their contents. The widths of an
access are the model's (DESIGN CHOICE, log 52). -/
def hostWrite (s : State) (fn off : Nat) (v : Word) : State :=
  if hostConfig ≤ off then s.modFunc fn fun f => f.configWrite (off - hostConfig) v
  else if hostHalf ≤ off then s.modFunc fn fun f => f.halfWrite (off - hostHalf) v
  else if hostBar4 ≤ off then s.modFunc fn fun f => f.bar4Write (off - hostBar4) v
  else if hostBar2 ≤ off ∧ off + 8 ≤ hostBar4 then
    s.modFunc fn fun f => { f with staging := f.staging.putBytes (off - hostBar2) (natLe v.toNat 8) }
  else
  match off with
  | 0x000 => s.modFunc fn fun f => { f with again := f.again && !v.getLsbD 1, evlost := f.evlost && !v.getLsbD 3 }
  | 0x008 => s.modFunc fn fun f => { f with lqbase := v &&& 0xFFFFFFFFFFFFF000 }
  | 0x018 => s.modFunc fn fun f => { f with lqtail := v.toNat % 64 }
  | 0x020 => ringDoorbell s fn
  | 0x028 => s.modFunc fn fun f => { f with cqbase := v }
  | 0x038 => s.modFunc fn fun f => { f with evbase := v.extractLsb' 0 32 }
  | 0x040 => (netsOf s (some fn) (v.extractLsb' 0 32)).foldl cancelNet s
  | 0x048 => writeCqhead s fn v
  | 0x050 => writeEvhead s fn v
  | _ => s

/-- R8, R387: what a host read of a BAR0 register gives: write-only registers and reserved offsets read as zero. -/
def Func.bar0Read (f : Func) (off : Nat) : Word :=
  match off with
  | 0x000 => 0#60 ++ BitVec.ofBool f.evlost ++ BitVec.ofBool f.resetting ++ BitVec.ofBool f.again ++ BitVec.ofBool f.ready
  | 0x008 => f.lqbase
  | 0x010 => BitVec.ofNat 64 f.lqhead
  | 0x018 => BitVec.ofNat 64 f.lqtail
  | 0x028 => f.cqbase
  | 0x030 => BitVec.ofNat 64 f.cqtail
  | 0x038 => BitVec.ofNat 32 f.evtail ++ f.evbase
  | 0x048 => BitVec.ofNat 64 f.cqhead
  | 0x050 => BitVec.ofNat 64 f.evhead
  | _ => 0

/-- R8, R387, R397: what the host reads at an offset of its view of a function. A read changes nothing. -/
def hostRead (s : State) (fn off : Nat) : Word :=
  let f := s.func fn
  if fn = 0 ∧ 0x800 ≤ off ∧ off + 8 ≤ 0x1000 then (if s.hostSees 0 || s.die.recovery then f.mailbox.dword (off - 0x800) else 0)
  else if !s.hostSees fn then 0
  else if hostConfig ≤ off then f.configRead (off - hostConfig)
  else if hostHalf ≤ off then f.halfRead (off - hostHalf)
  else if hostBar4 ≤ off then f.bar4Read (off - hostBar4)
  else if hostBar2 ≤ off then (if off + 8 ≤ hostBar4 then f.staging.dword (off - hostBar2) else 0)
  else f.bar0Read off

/-- R387, R397: the PF's mailbox, which is there in recovery too. -/
def mailboxWrite (s : State) (off : Nat) (v : Word) : State :=
  s.modFunc 0 fun f => { f with mailbox := f.mailbox.putBytes (off - 0x800) (natLe v.toNat 8) }

/-- R387: a host write of a register. -/
def execHostRegisterWrite (fn : Nat) (off : Nat) (v : Word) (s : State) : Out :=
  .next (if fn = 0 ∧ 0x800 ≤ off ∧ off + 8 ≤ 0x1000 then (if s.hostSees 0 || s.die.recovery then mailboxWrite s off v else s)
         else if s.hostSees fn then hostWrite s fn off v else s)

/-! ## VF reset (R371, R373, R423) -/

/-- R373: the queued records of a function complete CANCELLED. -/
def cancelQueued (s : State) (vf : Nat) : State :=
  let s := takeEntries s vf
  (List.range s.nets.length).foldl (fun s k =>
    if (s.nets[k]?).any fun n => n.tenant == vf && n.st == .queued then writeCompletion (cancelNet s k) k else s) s

/-- A pre-emption that has been asked for is asked for no more. -/
def Slot.unasked (x : Slot) : Slot := { x with gen := { x.gen with preempt := false } }

/-- R400: a SWITCH under way ends without an exchange: the slots that it pre-empted return; of the others, those at S among them, none
is asked for a pre-emption any more, but for one that takes a detector's verdict as a pre-emption (R429). -/
def endSwitch (s : State) (r : Nat) : State :=
  (switchSlots s r).foldl (fun s i =>
    let x := s.slot i
    if x.atS && x.tr.cause.extractLsb' 0 8 == 26#8 then returnTrap s i
    else if x.gen.verdict.isNone then s.modSlot i Slot.unasked else s)
    (s.modRegion r fun g => { g with switching := none })

/-- R373, R400: the non-resident contexts of a VF are dropped; a SWITCH to one of them ends. -/
def dropAway (s : State) (vf r : Nat) : State :=
  let g := s.region r
  let gone := g.ctxs.filter fun c => c.tenant == vf && !(g.tenant == c.tenant && g.ctag == c.ctag)
  let s := if g.switching.any gone.contains then endSwitch s r else s
  gone.foldl endContext (s.modRegion r fun g => { g with ctxs := g.ctxs.filter fun c => !gone.contains c })

/-- R371, R373, R423: a VF reset: its regions, its contexts, its tenant registers and buckets, its page requests, its function. -/
def execVfReset (vf : Nat) (s : State) : Out :=
  if vf = 0 ∨ 16 < vf then .next s else
  let s := (List.range 16).foldl (fun s r =>
    if (s.region r).st != .free && (s.region r).tenant == vf then resetRegion s r else s) s
  let s := (List.range 16).foldl (fun s r => dropAway s vf r) s
  let s := s.modTenant vf fun t => { troot := t.troot, rect := t.rect }
  let s := { s with buckets := s.buckets.filter fun b => b.1 % 32 != vf }
  let s := admitPages { s with pages := s.pages.filter fun p => p.tenant != vf }
  let s := cancelQueued s vf
  let s := s.modFunc vf fun f =>
    { ready := f.ready, staging := f.staging, msix := f.msix, msgs := f.msgs, mailbox := f.mailbox, resetting := true }
  .next (resettingDone (dropRect s vf))

/-! ## Host reads (R346) -/

/-- R28, R346: the host read that the host serves next is answered with the bytes that host memory holds (an input, log 11); bytes that
are missing read as zero. -/
def execPackageHandleHostRead (data : List Byte) (s : State) : Out :=
  match s.host.reads with
  | [] => .next s
  | r :: rest =>
    let bytes := (List.range r.len).map fun k => data.getD k 0
    .next ({ s with host := { s.host with reads := rest } }.modSlot r.slot fun (x : Slot) =>
      match x.eng.words.find? fun (a : QEntry) => a.pos == r.pos && a.sub == r.sub with
      | some w => x.mapWord w fun a => { a with prog := { a.prog with host := a.prog.host ++ [(r.num, bytes)] } }
      | none => x)

end Sys2Proof.Machine
end

