-- ==== Sys2Proof/Machine/Power.lean ====
section
/-! DEFINITION. Power and bring-up (R395, R397): the current arbiter, the thermal events, power-off and power-on. -/

namespace Sys2Proof.Machine

/-- R395: ARBFRAC after an interval in which the region drew `m`, under a grant. A raise goes up to HVFRAC; where the hypervisor has
lowered HVFRAC below ARBFRAC there is nothing to raise. -/
def arbStep (g : Region) (grant m : Nat) : BitVec 4 :=
  if g.hot then 1
  else if grant < m then BitVec.ofNat 4 (max 1 (g.arbfrac.toNat - 1))
  else if 10 * m < 9 * grant then BitVec.ofNat 4 (max g.arbfrac.toNat (min g.hvfrac.toNat (g.arbfrac.toNat + 1)))
  else g.arbfrac

/-- R395: one interval of the arbiter, with the measured current of each region: each gets its FLOOR and its share of the rest of
ARBLIMIT, rounded down (log 24), and its ARBFRAC moves. -/
def execArbiterInterval (meas : List Nat) (s : State) : Out :=
  let floors := ((List.range 16).map fun r => (s.region r).floor.toNat).sum
  let rest := s.die.arblimit.toNat - floors
  let total := ((List.range 16).map fun r => meas.getD r 0).sum
  .next ((List.range 16).foldl (fun s r =>
    s.modRegion r fun g =>
      let grant := min 0xFFFF (g.floor.toNat + (if total = 0 then 0 else rest * meas.getD r 0 / total))
      { g with grant := BitVec.ofNat 16 grant, arbfrac := arbStep g grant (meas.getD r 0) }) s)

/-- R14: the regions of a die. -/
def regionsOf (die : Nat) : List Nat := (List.range 16).filter fun r => 2 * (r / 4 / 2) + r % 4 / 2 == die

/-- R395: a die's junction reaches 105 degrees: ARBFRAC is forced to 1 in its regions. -/
def execThermalThrottle (die : Nat) (s : State) : Out :=
  .next ((regionsOf die).foldl (fun s r => s.modRegion r fun g => { g with hot := true, arbfrac := 1 }) s)

/-- R395: it falls below 95 degrees. -/
def execThermalRecover (die : Nat) (s : State) : Out :=
  .next ((regionsOf die).foldl (fun s r => s.modRegion r fun g => { g with hot := false }) s)

/-- R395: at 115 degrees the package powers off. -/
def execThermalShutdown (s : State) : Out := .next { s with die := { s.die with poweredOff := true } }

/-- R397: bring-up, from any state of the package: with a verified image every region is scrubbed to FREE and every function is ready;
else the device stays in recovery and every region in SCRUBBING. The model's agenda and free values go on (log 1, log 6). -/
def execPowerOn (verified : Bool) (s : State) : Out :=
  let t : State := { State.reset with agenda := s.agenda, free := s.free }
  if verified then
    let t := (List.range 16).foldl (fun t r => t.modRegion r fun g => { g with st := .free }) t
    .next ((List.range 17).foldl (fun t n => t.modFunc n fun f => { f with ready := true }) t)
  else .next { t with die := { t.die with recovery := true } }

end Sys2Proof.Machine
end

