-- ==== Sys2Proof/Machine/Ctl.lean ====
section
/-! DEFINITION. The operations of `ctl` on keys, translations, page requests, measurements and bindings (R149, R366, R381-R384,
R398). A buffer that leaves the control tile's partition is BADARG (log 15). -/

namespace Sys2Proof.Machine

/-- `n` bytes at an offset of the control tile's partition lie in it. -/
def ctlInside (s : State) (a n : Nat) : Bool := a + n ≤ s.me.id.size * 4096

/-! ## Keys (R381) -/

/-- R381: kload: BADARG and BUSY before the world's DENIED (R380). A secure tenant's key slot is told by the record's WORLD alone, here and
for `kzero` (DESIGN CHOICE, log 15). -/
def execCtlKload (d a : Opnd) (s : State) : Out :=
  ctlOp s d a (fun _ s => s) fun w s =>
    if !ctlInside s w.toNat 96 then .done 3 s else
    let bs := s.loadBytes s.cur w.toNat 96
    let b (k : Nat) : Nat := (bs.getD k 0).toNat
    if 32 ≤ b 0 || 16 < b 1 || 2 ≤ b 2 || (List.range 29).any fun k => b (3 + k) != 0 then .done 3 s
    else if (s.key (b 0)).full then .done 1 s
    else if b 2 == 1 && !s.secureState then .done 2 s
    else
      let k : KeySlot := { full := true, key := BitVec.ofNat 512 (leNat (bs.drop 32)), tenant := b 1, world := b 2 == 1 }
      .done 0 { s with keys := Sparse.set {} s.keys (b 0) k }

/-- R381: an access that uses a key slot is in flight: a word past its translation holds a leaf that names it. -/
def keyInUse (s : State) (k : Nat) : Bool :=
  s.slots.any fun (_, x) => x.eng.words.any fun w =>
    w.stat == .passed && w.prog.leaves.any fun (_, l) => leafKen l && leafKslot l == k

/-- R381: kzero. -/
def execCtlKzero (d a : Opnd) (s : State) : Out :=
  ctlOp s d a (fun _ s => s) fun w s =>
    if 31 < w.toNat then .done 3 s
    else if (s.key w.toNat).world && !s.secureState then .done 2 s
    else if keyInUse s w.toNat then .wait
    else .done 0 { s with keys := Sparse.drop s.keys w.toNat }

/-! ## Translations (R383) -/

/-- R383: the tenant and the page of a `tlbinv` block. -/
def tlbArg (s : State) (w : Word) : Nat × Nat :=
  (((s.loadNat s.cur w.toNat 8) % 32), s.loadNat s.cur (w.toNat + 8) 8)

/-- R383: the page leaves every TLB. -/
def tlbDrop (s : State) (t vpn : Nat) : State :=
  { s with tlb1 := s.tlb1.filter fun e => !(e.tenant == t && e.vpn == vpn), tlb2 := s.tlb2.filter fun e => !(e.tenant == t && e.vpn == vpn) }

/-- R383: an unretired word holds the translation. -/
def leafHeld (s : State) (t vpn : Nat) : Bool :=
  s.slots.any fun (_, x) => x.id.tenant == t && x.eng.words.any fun w => w.prog.leaves.any fun p => p.1 == vpn

/-- R383: tlbinv. -/
def execCtlTlbinv (d a : Opnd) (s : State) : Out :=
  ctlOp s d a (fun w s => if ctlInside s w.toNat 16 then tlbDrop s (tlbArg s w).1 (tlbArg s w).2 else s) fun w s =>
    if !ctlInside s w.toNat 16 then .done 3 s
    else
      let (t, vpn) := tlbArg s w
      if leafHeld s t vpn then .wait else .done 0 (tlbDrop s t vpn)

/-! ## Page requests (R283, R284, R384) -/

/-- R283: a record's four dwords. -/
def PageReq.record (p : PageReq) : List Word :=
  [BitVec.ofNat 64 (p.tenant % 32 + 2 ^ 5 * homeOf p.vpn + 2 ^ 9 * p.wr.toNat + 2 ^ 10 * p.code.toNat + 2 ^ 11 * p.idxe.toNat +
     2 ^ 16 * (p.nreq % 2 ^ 16)),
   BitVec.ofNat 64 (p.vpn % 2 ^ 36),
   BitVec.ofNat 64 (p.tile % 2 ^ 10 + 2 ^ 10 * (p.slot % 4) + 2 ^ 12 * p.eseq.toNat), 0]

/-- R384: prget. -/
def execCtlPrget (d a : Opnd) (s : State) : Out :=
  ctlOp s d a (fun _ s => s) fun w s =>
    if !ctlInside s w.toNat 32 then .done 3 s else
    match s.pages.find? (·.queued) with
    | none => .done 1 s
    | some p => .done 0 (s.putBytesAt s.cur w.toNat (dwordBytes p.record))

/-- R284: the requesters of a page in one slot take its answer: on MAP they walk again, on REJECT they fail. -/
def Slot.answer (x : Slot) (vpn : Nat) (rej : Bool) : Slot :=
  let f (w : QEntry) : QEntry :=
    if w.prog.want == some vpn then
      { w with prog := if rej then { w.prog with rej := true } else { w.prog with want := none } } else w
  let g (r : SegReq) : SegReq :=
    if r.paged && vpnOf r.va.toNat == vpn then { r with paged := false, fail := if rej then some FaultKind.reject.code else none } else r
  { x with
    eng := { x.eng with vq := x.eng.vq.map f, mq := x.eng.mq.map f, xq := x.eng.xq.map f, out := x.eng.out.map f }
    segs := x.segs.map fun (k, e) => (k, { e with reqs := e.reqs.map g })
    tr := if x.tr.savewant == some vpn then
            (if rej && (x.tr.saveop == 1 || x.tr.saveop == 2) then { x.tr with savewant := none, saveop := 3, savest := 1 }
             else { x.tr with savewant := none })
          else x.tr }

/-- R284: the slot runs for the tenant, or, with no process, a switch waits there for a page. -/
def Slot.asks (x : Slot) (t : Nat) : Bool := x.id.tenant == t || !x.id.loaded

/-- R129, R282: the segments whose request awaits an answer walk again. -/
def resendFetches (s : State) (i : Nat) : State :=
  (s.slot i).segs.foldl (fun s (k, g) => if g.st == .inflight then sendFetch s i k else s) s

/-- R284: an answer applied; the entry is freed. -/
def answerPage (s : State) (t vpn : Nat) (rej : Bool) : State :=
  let s := admitPages { s with pages := s.pages.filter fun p => !(p.tenant == t && p.vpn == vpn) }
  let is := (s.slots.map (·.1)).filter fun i => (s.slot i).asks t
  let s := is.foldl (fun s i => s.modSlot i fun x => x.answer vpn rej) s
  is.foldl (fun s i => let s := resendFetches s i; saveRun s i) s

/-- R284, R384: prans. -/
def execCtlPrans (d a : Opnd) (s : State) : Out :=
  ctlOp s d a (fun _ s => s) fun w s =>
    if !ctlInside s w.toNat 16 then .done 3 s else
    let x := BitVec.ofNat 64 (s.loadNat s.cur w.toNat 8)
    let vpn := s.loadNat s.cur (w.toNat + 8) 8
    let t := (x.extractLsb' 0 5).toNat
    if s.pages.any fun p => p.queued && p.tenant == t && p.vpn == vpn then .done 0 (answerPage s t vpn (x.getLsbD 8)) else .done 3 s

/-! ## Measurement (R398) -/

/-- R398, log 21: the network that a report is about: the tenant's running one that was cast on last. -/
def attestNet (s : State) (t : Nat) : Option Net := (s.nets.filter fun n => n.tenant == t && n.attest && n.st == .running).getLast?

/-- R380: the tenant is a secure one. -/
def secureTenant (s : State) (t : Nat) : Bool :=
  ((List.range 16).any fun r => (s.region r).heldBy t && (s.region r).world) ||
    s.nets.any fun n => n.tenant == t && n.secure && n.st == .running

/-- R398: the report without its signature, after the nonce. -/
def reportBody (t : Nat) (n : Option Net) : List Byte :=
  let meas (f : Net → BitVec 512) : List Byte := natLe (match n with | some n => (f n).toNat | none => 0) 64
  natLe (t + 2 ^ 8) 8 ++ natLe Config.firmwareVersion.toNat 8 ++ List.replicate 48 0 ++ meas (·.measRec) ++ meas (·.measImg) ++
    natLe (edPublic Config.deviceSeed).toNat 32

/-- R398: attest, for the tenant that CSEL selects (log 21). -/
def execCtlAttest (d a : Opnd) (s : State) : Out :=
  ctlOp s d a (fun _ s => s) fun w s =>
    match s.selTenant with
    | none => .done 3 s
    | some t =>
      if !ctlInside s w.toNat 352 then .done 3 s
      else if secureTenant s t && !s.secureState then .done 2 s
      else
        let nonce := s.loadBytes s.cur w.toNat 64
        let body := reportBody t (attestNet s t)
        let sig := natLe (edSign Config.deviceSeed (nonce ++ body)).toNat 64
        .done 0 (s.putBytesAt s.cur (w.toNat + 64) (body ++ sig))

/-! ## Rebinding (R149) -/

/-- R149: the channel has an endpoint at a process. -/
def Chan.endsAt (c : Chan) (p : Proc) : Bool := (c.readers ++ c.writers).any fun e => !e.remote && e.tile == p.tile && e.slot == p.slot

/-- R149: nothing of the channel is in flight: no packet, no credit owed, no skein transfer that may go on, no message kept by a UALink
port. Slots that rest in the skein, and inputs that wait at a node, have arrived (R165, R314; DEDUCED, log 36). -/
def chanQuiet (s : State) (net : Nat) (c : Chan) : Bool :=
  let here (e : Ep) : Bool := !e.remote && s.epLive net c e c.gen
  let mine (m : UalMsg) : Bool := m.net == net && m.chid == c.chid
  c.transit.isEmpty && !(c.readers.any fun e => here e && !(s.epPort e).owed.isEmpty) &&
    !skeinMoves s { c with skein := c.skein.filter fun x => (c.readers[x.rd]?).any here } &&
    !s.ual.any fun (_, u) => u.sent.any mine || u.reseq.any mine

/-- R149: the channel has an endpoint at a process of another package. -/
def Chan.endsAway (c : Chan) (p : PeerProc) : Bool :=
  c.rpkg == p.pkg && (c.readers ++ c.writers).any fun e => e.remote && e.tile == p.tile && e.slot == p.slot

/-- R147, R149: an endpoint in another package, moved. -/
def Ep.moveAway (e : Ep) (p q : PeerProc) : Ep :=
  if e.remote && e.tile == p.tile && e.slot == p.slot then { e with tile := q.tile, slot := q.slot } else e

/-- R149 step 2: a channel of a process of another package that moves there. -/
def Chan.rebindAway (c : Chan) (p q : PeerProc) : Chan :=
  { c with readers := c.readers.map (Ep.moveAway · p q), writers := c.writers.map (Ep.moveAway · p q), gen := c.gen + 1 }

/-- R147, R149: an endpoint at a process, moved. -/
def Ep.move (e : Ep) (p q : Proc) : Ep := if !e.remote && e.tile == p.tile && e.slot == p.slot then { e with tile := q.tile, slot := q.slot } else e

/-- R149 step 2: a channel of a process that moves. -/
def Chan.rebind (c : Chan) (p q : Proc) : Chan :=
  let c := { c with readers := c.readers.map (Ep.move · p q), writers := c.writers.map (Ep.move · p q), gen := c.gen + 1 }
  { c with route := c.routeClass }

/-- R149: why a move of a process is DENIED. -/
def moveDenied (s : State) (n : Net) (p q : Proc) : Bool :=
  let g := s.region (regionOf q.tile)
  let there := n.procs.filter fun o => o.pid != p.pid && o.tile == q.tile
  !(g.ctxs.any fun c => c.tenant == n.tenant) || g.world != p.world ||
  (s.slot q.slotNo).id.loaded || (there.any fun o => o.slot == q.slot) ||
  ((n.chans.filter fun c => c.endsAt p).any fun c => badWindow s n.tenant (n.regions ||| (1#16 <<< regionOf q.tile)) (c.rebind p q)) ||
  badTile (q :: there) || (q.matrix && there.any (·.matrix)) || (!s.secureState && (n.secure || p.world))

/-- R149: the tenant's context of the new region runs the network, if it runs none yet (DEDUCED, log 36). -/
def Region.joined (g : Region) (tenant k : Nat) : Region :=
  let isResident (c : Context) : Bool := c.tenant == g.tenant && c.ctag == g.ctag
  let mine := g.ctxs.filter fun c => c.tenant == tenant
  let idle := mine.filter fun c => c.net.isNone
  if mine.any fun c => c.net == some k then g else
  match (idle.find? isResident).or idle.head? with
  | some c =>
    { g with ctxs := g.ctxs.map fun d => if d == c then { d with net := some k } else d
             st := if isResident c && g.st == .assigned then .running else g.st }
  | none => g

/-- R149 step 2: the ports of this package take the new generation of a channel. -/
def passGen (s : State) (k : Nat) (c : Chan) : State :=
  (c.readers ++ c.writers).foldl (fun s e =>
    if e.remote then s else
    s.modEp e fun t => if t.bound && t.net == k && t.ch == c.chid then { t with gen := c.gen + 1 } else t) s

/-- R149: what a rebinding does to the tables of a network, and to the ports at the other ends. The new region is one of the network's
from now on (DEDUCED, log 36). -/
def rebindNet (s : State) (k : Nat) (n : Net) (p q : Proc) : State :=
  let mine := n.chans.filter fun c => c.endsAt p
  let s := s.modRegion (regionOf q.tile) fun g => g.joined n.tenant k
  let s := s.modNet k fun n =>
    let ps := n.procs.map fun o => if o.pid == p.pid then q else o
    { n with procs := ps, regions := n.regions ||| (1#16 <<< regionOf q.tile), groups := n.groups.map fun g => g.rekind ps
             chans := n.chans.map fun c => if c.endsAt p then c.rebind p q else c }
  mine.foldl (fun s c => passGen s k c) s

/-- R149: what the rebinding of a process of another package does here: its endpoints, the generations, and where it is known to stand. -/
def rebindPeer (s : State) (k key : Nat) (n : Net) (p q : PeerProc) : State :=
  let mine := n.chans.filter fun c => c.endsAway p
  let s := s.modNet k fun n => { n with chans := n.chans.map fun c => if c.endsAway p then c.rebindAway p q else c }
  mine.foldl (fun s c => passGen s k c) { s with host := { s.host with peers := Sparse.set none s.host.peers key (some q) } }

/-- R149: a rebinding block: the tenant, the PID, the new tile, slot and BASE. -/
structure RebindBlock where
  tenant : Nat
  pid : Nat
  tile : Nat
  slot : Nat
  base : Nat
deriving DecidableEq, Repr

/-- R149: the block at an address of the control tile's partition; none where it leaves that, or a field marked zero is not. -/
def rebindBlock (s : State) (w : Word) : Option RebindBlock :=
  if !ctlInside s w.toNat 16 then none else
  let x := BitVec.ofNat 64 (s.loadNat s.cur w.toNat 8)
  let y := BitVec.ofNat 64 (s.loadNat s.cur (w.toNat + 8) 8)
  if fld x 15 5 != 0 || fld x 63 32 != 0 || fld y 63 21 != 0 then none
  else some { tenant := fld x 4 0, pid := fld x 31 16, tile := fld y 9 0, slot := fld y 11 10, base := fld y 20 12 }

/-- The first running network of a tenant of which `f` gives something, with its number. -/
def State.tenantFind {α : Type} (s : State) (tenant : Nat) (f : Net → Option α) : Option (Nat × Net × α) :=
  (List.range s.nets.length).findSome? fun k =>
    match s.nets[k]? with
    | some n => if n.tenant == tenant && n.st == .running then (f n).map fun a => (k, n, a) else none
    | none => none

/-- R149: the network and process that a rebinding block names, and the process where it goes; none where it names none of this package. -/
def rebindArg (s : State) (w : Word) : Option (Nat × Net × Proc × Proc) :=
  (rebindBlock s w).bind fun b =>
    (s.tenantFind b.tenant fun n => n.procs.find? fun p => p.pid == b.pid).map fun (k, n, p) =>
      (k, n, p, { p with tile := b.tile, slot := b.slot, base := b.base })

/-- R149: the process of another package that a rebinding block names, and where it goes, with the network that has an endpoint of one of
its channels here and the place of the process among those known (log 12). -/
def rebindAway (s : State) (w : Word) : Option (Nat × Nat × Net × PeerProc × PeerProc) :=
  (rebindBlock s w).bind fun b =>
    let key := peerProcKey b.tenant b.pid
    (Sparse.get none s.host.peers key).bind fun p =>
      (s.tenantFind b.tenant fun n => n.chans.find? fun c => c.endsAway p).map fun (k, n, _) =>
        (k, key, n, p, { p with tile := b.tile, slot := b.slot })

/-- R149: the rebinding of a process of another package, as the firmware of this one applies it: a channel of its that has an endpoint here
takes the new endpoint and the next generation. What is DENIED is judged in the other package (DEDUCED, log 36). -/
def rebindPeerStep (s : State) (w : Word) : Nat × State :=
  match rebindAway s w with
  | none => (3, s)
  | some (k, key, n, p, q) =>
    if !p.saved || (n.chans.any fun c => c.endsAway p && !chanQuiet s k c) then (1, s) else (0, rebindPeer s k key n p q)

/-- R149: where the new region's resident context runs the network, firmware restores the record at the new place. -/
def rebindRestore (s : State) (k : Nat) (n : Net) (q : Proc) : SwitchRes × State :=
  if (s.region (regionOf q.tile)).runs k then switchPages s [(q.slotNo, withRecord (slotOfProc k n q) (n.recordVa q), false)] else (.ok [], s)

/-- R149: rebind, up to its end or its wait for a page of the record. -/
def rebindStep (s : State) (w : Word) : Option Nat × State :=
  match rebindArg s w with
  | none => (some (rebindPeerStep s w).1, (rebindPeerStep s w).2)
  | some (k, n, p, q) =>
    if !p.saved || (n.chans.any fun c => c.endsAt p && !chanQuiet s k c) then (some 1, s)
    else if moveDenied s n p q then (some 2, s)
    else
      let t := rebindNet s k n p q
      match t.nets[k]? with
      | none => (some 3, s)
      | some m =>
        if (t.slot q.slotNo).tr.savewant.isSome then (none, s) else
        match rebindRestore t k m q with
        | (.ok l, t) =>
          (some 0, switchIn t (regionOf q.tile) { tenant := m.tenant, ctag := (t.region (regionOf q.tile)).ctag, net := if l.isEmpty then none else some k } l)
        | (.bad, t) => (some 0, t)
        | (.wait, _) => (none, (rebindRestore s k m q).2)

/-- R149: rebind. -/
def execCtlRebind (d a : Opnd) (s : State) : Out :=
  ctlOp s d a
    (fun w s => match rebindStep s w with | (none, t) => t | (some _, _) => s)
    fun w s => match rebindStep s w with | (some st, t) => .done st t | (none, _) => .wait

end Sys2Proof.Machine
end

