-- ==== Sys2Proof/Machine/Dispatch.lean ====
section
/-! DEFINITION. One arm for each constructor of `Instr`: its meaning. -/

namespace Sys2Proof.Machine

def exec (i : Instr) (s : State) : Host.Outcome State Fault Refusal :=
  match i with
  | .add d a b => Sys2Proof.Machine.execAdd d a b s
  | .sub d a b => Sys2Proof.Machine.execSub d a b s
  | .and d a b => Sys2Proof.Machine.execAnd d a b s
  | .or d a b => Sys2Proof.Machine.execOr d a b s
  | .xor d a b => Sys2Proof.Machine.execXor d a b s
  | .andn d a b => Sys2Proof.Machine.execAndn d a b s
  | .sll d a b => Sys2Proof.Machine.execSll d a b s
  | .srl d a b => Sys2Proof.Machine.execSrl d a b s
  | .sra d a b => Sys2Proof.Machine.execSra d a b s
  | .slt d a b => Sys2Proof.Machine.execSlt d a b s
  | .sltu d a b => Sys2Proof.Machine.execSltu d a b s
  | .min d a b => Sys2Proof.Machine.execMin d a b s
  | .max d a b => Sys2Proof.Machine.execMax d a b s
  | .minu d a b => Sys2Proof.Machine.execMinu d a b s
  | .maxu d a b => Sys2Proof.Machine.execMaxu d a b s
  | .mul d a b => Sys2Proof.Machine.execMul d a b s
  | .mulh d a b => Sys2Proof.Machine.execMulh d a b s
  | .mulhu d a b => Sys2Proof.Machine.execMulhu d a b s
  | .div d a b => Sys2Proof.Machine.execDiv d a b s
  | .divu d a b => Sys2Proof.Machine.execDivu d a b s
  | .rem d a b => Sys2Proof.Machine.execRem d a b s
  | .remu d a b => Sys2Proof.Machine.execRemu d a b s
  | .clz d a => Sys2Proof.Machine.execClz d a s
  | .ctz d a => Sys2Proof.Machine.execCtz d a s
  | .popc d a => Sys2Proof.Machine.execPopc d a s
  | .sextb d a => Sys2Proof.Machine.execSextb d a s
  | .sexth d a => Sys2Proof.Machine.execSexth d a s
  | .sextw d a => Sys2Proof.Machine.execSextw d a s
  | .zextb d a => Sys2Proof.Machine.execZextb d a s
  | .zexth d a => Sys2Proof.Machine.execZexth d a s
  | .zextw d a => Sys2Proof.Machine.execZextw d a s
  | .addi d a imm => Sys2Proof.Machine.execAddi d a imm s
  | .andi d a imm => Sys2Proof.Machine.execAndi d a imm s
  | .ori d a imm => Sys2Proof.Machine.execOri d a imm s
  | .xori d a imm => Sys2Proof.Machine.execXori d a imm s
  | .slli d a sh => Sys2Proof.Machine.execSlli d a sh s
  | .srli d a sh => Sys2Proof.Machine.execSrli d a sh s
  | .srai d a sh => Sys2Proof.Machine.execSrai d a sh s
  | .slti d a imm => Sys2Proof.Machine.execSlti d a imm s
  | .sltiu d a imm => Sys2Proof.Machine.execSltiu d a imm s
  | .lsi d imm => Sys2Proof.Machine.execLsi d imm s
  | .addpc d imm => Sys2Proof.Machine.execAddpc d imm s
  | .ldpc d imm => Sys2Proof.Machine.execLdpc d imm s
  | .ldb d a imm => Sys2Proof.Machine.execLdb d a imm s
  | .ldbu d a imm => Sys2Proof.Machine.execLdbu d a imm s
  | .ldh d a imm => Sys2Proof.Machine.execLdh d a imm s
  | .ldhu d a imm => Sys2Proof.Machine.execLdhu d a imm s
  | .ldw d a imm => Sys2Proof.Machine.execLdw d a imm s
  | .ldwu d a imm => Sys2Proof.Machine.execLdwu d a imm s
  | .ldd d a imm => Sys2Proof.Machine.execLdd d a imm s
  | .stb v a imm => Sys2Proof.Machine.execStb v a imm s
  | .sth v a imm => Sys2Proof.Machine.execSth v a imm s
  | .stw v a imm => Sys2Proof.Machine.execStw v a imm s
  | .std v a imm => Sys2Proof.Machine.execStd v a imm s
  | .beq a b o => Sys2Proof.Machine.execBeq a b o s
  | .bne a b o => Sys2Proof.Machine.execBne a b o s
  | .blt a b o => Sys2Proof.Machine.execBlt a b o s
  | .bge a b o => Sys2Proof.Machine.execBge a b o s
  | .bltu a b o => Sys2Proof.Machine.execBltu a b o s
  | .bgeu a b o => Sys2Proof.Machine.execBgeu a b o s
  | .jal d imm => Sys2Proof.Machine.execJal d imm s
  | .jalr d a imm => Sys2Proof.Machine.execJalr d a imm s
  | .jmpf d a imm => Sys2Proof.Machine.execJmpf d a imm s
  | .recvb p a b => Sys2Proof.Machine.execRecvb p a b s
  | .sendb p a b => Sys2Proof.Machine.execSendb p a b s
  | .chctlClose p => Sys2Proof.Machine.execChctlClose p s
  | .chctlEosrd d p => Sys2Proof.Machine.execChctlEosrd d p s
  | .chctlEosclr p => Sys2Proof.Machine.execChctlEosclr p s
  | .emit q a b => Sys2Proof.Machine.execEmit q a b s
  | .emitt q t a b x y => Sys2Proof.Machine.execEmitt q t a b x y s
  | .emitl q o => Sys2Proof.Machine.execEmitl q o s
  | .tset t a b => Sys2Proof.Machine.execTset t a b s
  | .tld t a imm => Sys2Proof.Machine.execTld t a imm s
  | .gwait m => Sys2Proof.Machine.execGwait m s
  | .mwaitb b => Sys2Proof.Machine.execMwaitb b s
  | .cfetch a b => Sys2Proof.Machine.execCfetch a b s
  | .cwait a => Sys2Proof.Machine.execCwait a s
  | .gbar g => Sys2Proof.Machine.execGbar g s
  | .phase g => Sys2Proof.Machine.execPhase g s
  | .sysr d r => Sys2Proof.Machine.execSysr d r s
  | .sysw a r => Sys2Proof.Machine.execSysw a r s
  | .syswSet a r => Sys2Proof.Machine.execSyswSet a r s
  | .syswClr a r => Sys2Proof.Machine.execSyswClr a r s
  | .trap code => Sys2Proof.Machine.execTrap code s
  | .sret => Sys2Proof.Machine.execSret s
  | .exit => Sys2Proof.Machine.execExit s
  | .ctlKload d a => Sys2Proof.Machine.execCtlKload d a s
  | .ctlKzero d a => Sys2Proof.Machine.execCtlKzero d a s
  | .rgncmdAssign d a => Sys2Proof.Machine.execRgncmdAssign d a s
  | .rgncmdHalt d a => Sys2Proof.Machine.execRgncmdHalt d a s
  | .rgncmdReset d a => Sys2Proof.Machine.execRgncmdReset d a s
  | .rgncmdScrub d a => Sys2Proof.Machine.execRgncmdScrub d a s
  | .rgncmdSwitch d a => Sys2Proof.Machine.execRgncmdSwitch d a s
  | .rgncmdRelease d a => Sys2Proof.Machine.execRgncmdRelease d a s
  | .ctlTlbinv d a => Sys2Proof.Machine.execCtlTlbinv d a s
  | .ctlPrget d a => Sys2Proof.Machine.execCtlPrget d a s
  | .ctlPrans d a => Sys2Proof.Machine.execCtlPrans d a s
  | .ctlCaston d a => Sys2Proof.Machine.execCtlCaston d a s
  | .ctlCancel d a => Sys2Proof.Machine.execCtlCancel d a s
  | .ctlAttest d a => Sys2Proof.Machine.execCtlAttest d a s
  | .ctlRebind d a => Sys2Proof.Machine.execCtlRebind d a s
  | .vadd f => Sys2Proof.Machine.execVadd f s
  | .vsub f => Sys2Proof.Machine.execVsub f s
  | .vmul f => Sys2Proof.Machine.execVmul f s
  | .vfma f => Sys2Proof.Machine.execVfma f s
  | .vfms f => Sys2Proof.Machine.execVfms f s
  | .vfnma f => Sys2Proof.Machine.execVfnma f s
  | .vdiv f => Sys2Proof.Machine.execVdiv f s
  | .vsqrt f => Sys2Proof.Machine.execVsqrt f s
  | .vrcp f => Sys2Proof.Machine.execVrcp f s
  | .vrsqrt f => Sys2Proof.Machine.execVrsqrt f s
  | .vexp2 f => Sys2Proof.Machine.execVexp2 f s
  | .vlog2 f => Sys2Proof.Machine.execVlog2 f s
  | .vmin f => Sys2Proof.Machine.execVmin f s
  | .vmax f => Sys2Proof.Machine.execVmax f s
  | .vabs f => Sys2Proof.Machine.execVabs f s
  | .vneg f => Sys2Proof.Machine.execVneg f s
  | .vcmp f => Sys2Proof.Machine.execVcmp f s
  | .vsel f => Sys2Proof.Machine.execVsel f s
  | .vcvt f => Sys2Proof.Machine.execVcvt f s
  | .viadd f => Sys2Proof.Machine.execViadd f s
  | .visub f => Sys2Proof.Machine.execVisub f s
  | .vimul f => Sys2Proof.Machine.execVimul f s
  | .vimulh f => Sys2Proof.Machine.execVimulh f s
  | .vimin f => Sys2Proof.Machine.execVimin f s
  | .vimax f => Sys2Proof.Machine.execVimax f s
  | .viminu f => Sys2Proof.Machine.execViminu f s
  | .vimaxu f => Sys2Proof.Machine.execVimaxu f s
  | .vand f => Sys2Proof.Machine.execVand f s
  | .vor f => Sys2Proof.Machine.execVor f s
  | .vxor f => Sys2Proof.Machine.execVxor f s
  | .vshl f => Sys2Proof.Machine.execVshl f s
  | .vshr f => Sys2Proof.Machine.execVshr f s
  | .vsra f => Sys2Proof.Machine.execVsra f s
  | .vicmp f => Sys2Proof.Machine.execVicmp f s
  | .vredsum f => Sys2Proof.Machine.execVredsum f s
  | .vredmax f => Sys2Proof.Machine.execVredmax f s
  | .vredmin f => Sys2Proof.Machine.execVredmin f s
  | .viredsum f => Sys2Proof.Machine.execViredsum f s
  | .viota f => Sys2Proof.Machine.execViota f s
  | .vbcast f => Sys2Proof.Machine.execVbcast f s
  | .vmv f => Sys2Proof.Machine.execVmv f s
  | .vmrg f => Sys2Proof.Machine.execVmrg f s
  | .vnorm f => Sys2Proof.Machine.execVnorm f s
  | .vsetvl f => Sys2Proof.Machine.execVsetvl f s
  | .mand f => Sys2Proof.Machine.execMand f s
  | .mor f => Sys2Proof.Machine.execMor f s
  | .mxor f => Sys2Proof.Machine.execMxor f s
  | .mnot f => Sys2Proof.Machine.execMnot f s
  | .vld f => Sys2Proof.Machine.execVld f s
  | .vst f => Sys2Proof.Machine.execVst f s
  | .vlds f => Sys2Proof.Machine.execVlds f s
  | .vsts f => Sys2Proof.Machine.execVsts f s
  | .vldx f => Sys2Proof.Machine.execVldx f s
  | .vstx f => Sys2Proof.Machine.execVstx f s
  | .vscadd f => Sys2Proof.Machine.execVscadd f s
  | .vperm f => Sys2Proof.Machine.execVperm f s
  | .vrot f => Sys2Proof.Machine.execVrot f s
  | .vslide f => Sys2Proof.Machine.execVslide f s
  | .vcompress f => Sys2Proof.Machine.execVcompress f s
  | .mzero f => Sys2Proof.Machine.execMzero f s
  | .mstep f => Sys2Proof.Machine.execMstep f s
  | .mcommit f => Sys2Proof.Machine.execMcommit f s
  | .mrd f => Sys2Proof.Machine.execMrd f s
  | .mst f => Sys2Proof.Machine.execMst f s
  | .mcfg f => Sys2Proof.Machine.execMcfg f s
  | .msave f => Sys2Proof.Machine.execMsave f s
  | .mload f => Sys2Proof.Machine.execMload f s
  | .xcopy f => Sys2Proof.Machine.execXcopy f s
  | .xget f => Sys2Proof.Machine.execXget f s
  | .xput f => Sys2Proof.Machine.execXput f s
  | .xstream f => Sys2Proof.Machine.execXstream f s
  | .xgather f => Sys2Proof.Machine.execXgather f s
  | .xatom f => Sys2Proof.Machine.execXatom f s
  | .esetL e imm => Sys2Proof.Machine.execEsetL e imm s
  | .esetH e imm => Sys2Proof.Machine.execEsetH e imm s
  | .qjoin m => Sys2Proof.Machine.execQjoin m s
  | .replay e res => Sys2Proof.Machine.execReplay e res s
  | .enop => Sys2Proof.Machine.execEnop s
  | .replayIssue => Sys2Proof.Machine.execReplayIssue s
  | .wordRetire => Sys2Proof.Machine.execWordRetire s
  | .streamSendRelease => Sys2Proof.Machine.execStreamSendRelease s
  | .slotWake => Sys2Proof.Machine.execSlotWake s
  | .levelGFault => Sys2Proof.Machine.execLevelGFault s
  | .trapEntry => Sys2Proof.Machine.execTrapEntry s
  | .preempt => Sys2Proof.Machine.execPreempt s
  | .cfetchLanding seg => Sys2Proof.Machine.execCfetchLanding seg s
  | .cfetchFailure seg => Sys2Proof.Machine.execCfetchFailure seg s
  | .slotPacket net ch rd => Sys2Proof.Machine.execSlotPacket net ch rd s
  | .creditPacket net ch wr => Sys2Proof.Machine.execCreditPacket net ch wr s
  | .endMarkPacket net ch rd => Sys2Proof.Machine.execEndMarkPacket net ch rd s
  | .severNotice net ch ep => Sys2Proof.Machine.execSeverNotice net ch ep s
  | .creditMergeExpiry net ch rd => Sys2Proof.Machine.execCreditMergeExpiry net ch rd s
  | .ualinkWriteRequest port m => Sys2Proof.Machine.execUalinkWriteRequest port m s
  | .ualinkWriteCompletion port net ch seq => Sys2Proof.Machine.execUalinkWriteCompletion port net ch seq s
  | .ualinkRetransmit port idx => Sys2Proof.Machine.execUalinkRetransmit port idx s
  | .detectorWave tenant => Sys2Proof.Machine.execDetectorWave tenant s
  | .skeinTransfer net ch rd => Sys2Proof.Machine.execSkeinTransfer net ch rd s
  | .reduceNodeInput net ch => Sys2Proof.Machine.execReduceNodeInput net ch s
  | .barrierRelease net gid => Sys2Proof.Machine.execBarrierRelease net gid s
  | .boundary net gid => Sys2Proof.Machine.execBoundary net gid s
  | .tokenRefill => Sys2Proof.Machine.execTokenRefill s
  | .saveSlotRecord part => Sys2Proof.Machine.execSaveSlotRecord part s
  | .restoreSlotRecord part => Sys2Proof.Machine.execRestoreSlotRecord part s
  | .csegvalidWrite x => Sys2Proof.Machine.execCsegvalidWrite x s
  | .streammapWrite x => Sys2Proof.Machine.execStreammapWrite x s
  | .winWrite n x => Sys2Proof.Machine.execWinWrite n x s
  | .fflagsWrite x => Sys2Proof.Machine.execFflagsWrite x s
  | .accovWrite x => Sys2Proof.Machine.execAccovWrite x s
  | .tbcfgWrite x => Sys2Proof.Machine.execTbcfgWrite x s
  | .wintabWrite x => Sys2Proof.Machine.execWintabWrite x s
  | .regionResetEnd r => Sys2Proof.Machine.execRegionResetEnd r s
  | .scrubDone => Sys2Proof.Machine.execScrubDone s
  | .vfReset vf => Sys2Proof.Machine.execVfReset vf s
  | .timeSliceExpiry r => Sys2Proof.Machine.execTimeSliceExpiry r s
  | .arbiterInterval meas => Sys2Proof.Machine.execArbiterInterval meas s
  | .thermalThrottle die => Sys2Proof.Machine.execThermalThrottle die s
  | .thermalRecover die => Sys2Proof.Machine.execThermalRecover die s
  | .thermalShutdown => Sys2Proof.Machine.execThermalShutdown s
  | .powerOn verified => Sys2Proof.Machine.execPowerOn verified s
  | .doorbell fn => Sys2Proof.Machine.execDoorbell fn s
  | .deferredWake fn => Sys2Proof.Machine.execDeferredWake fn s
  | .validating fn => Sys2Proof.Machine.execValidating fn s
  | .cancel fn net => Sys2Proof.Machine.execCancel fn net s
  | .cqheadWrite fn v => Sys2Proof.Machine.execCqheadWrite fn v s
  | .evheadWrite fn v => Sys2Proof.Machine.execEvheadWrite fn v s
  | .hostRegisterWrite fn off v => Sys2Proof.Machine.execHostRegisterWrite fn off v s
  | .bindOff net => Sys2Proof.Machine.execBindOff net s
  | .completionRecord net => Sys2Proof.Machine.execCompletionRecord net s
  | .packageHandleHostRead data => Sys2Proof.Machine.execPackageHandleHostRead data s
  | .savectlDone => Sys2Proof.Machine.execSavectlDone s

end Sys2Proof.Machine
end

