-- ==== Sys2Proof/Machine/Sched.lean ====
section
/-! DEFINITION. What a step does: it runs the next act of the agenda (log 1), or, with none, the act that the default schedule
chooses (log 2). An act is the issue of a slot's next instruction (R100, R113), the start or the progress of a queue's word
(R170, R171), or an event. -/

namespace Sys2Proof.Machine

/-! ## Acts -/

/-- R24, R100: the slot may issue: loaded, its process not ended, in no wait, no fault on its way, no pre-emption in effect. -/
def Slot.canIssue (x : Slot) : Bool :=
  x.id.loaded && !x.id.exited && !x.id.stopped && !x.gen.heldExit && x.gen.wait == .none && x.gen.gfault.isNone &&
    x.gen.entering.isNone && !x.parking

/-- R113: the slot that moves issues its next instruction: the fetch, then its meaning. -/
def issueNext (s : State) : Out :=
  if !s.me.canIssue then .next s else
  match fetch s with
  | .ok i => exec i s
  | .trap c fw => trapG s c fw none
  | .failed k => failSeg s k

/-- A queue of the slot that moves: its word that may start does, else its copy word at work moves on. -/
def startNext (s : State) : Out :=
  match s.startable with
  | some w =>
    match decodeEng w.word with
    | .ok i => exec i s
    | .error _ => .next (raiseE s s.cur w .badword none)
  | none =>
    match s.mover with
    | none => .next s
    | some w =>
      if w.q != s.curQ then .next s else
      match decodeEng w.word with
      | .ok i => exec i s
      | .error _ => .next s

/-- The instruction is an event: it has no encoding. -/
def isEvent (i : Instr) : Bool := (encodeGen i).isNone && (encodeEng i).isNone

/-- R395: a package without power takes no step but its next power-on. -/
def isPowerOn : Act → Bool
  | .event _ _ (.powerOn _) => true
  | _ => false

/-- R109, log 19: a word of a tile's SRAM comes to hold a double-bit error. -/
def sramErrorAt (s : State) (tile word : Nat) : State := s.modTile tile fun t => { t with ecc := word :: t.ecc }

/-- R346: the host may serve the reads on their way in any order: the n-th of them comes first. -/
def HostIO.turn (h : HostIO) (n : Nat) : HostIO := { h with reads := (h.reads[n]?).toList ++ h.reads.eraseIdx n }

/-- One act. An event that is none changes nothing. The last six are inputs (log 11, log 12, log 19, log 22). -/
def run (s : State) (a : Act) : Out :=
  match a with
  | .issue i => issueNext { s with cur := i }
  | .start i q => startNext { s with cur := i, curQ := q }
  | .event i q e => if isEvent e then exec e { s with cur := i, curQ := q } else .next s
  | .sramError t w => .next (sramErrorAt s t w)
  | .dramError l => .next { s with dramEcc := l ++ s.dramEcc }
  | .giveFrame f t => .next { s with frames := Sparse.set 0 s.frames f (t + 1) }
  | .hostTurn n => .next { s with host := s.host.turn n }
  | .peerWave t w => .next { s with host := { s.host with waves := Sparse.set {} s.host.waves t w } }
  | .peerProc t pid p => .next { s with host := { s.host with peers := Sparse.set none s.host.peers (peerProcKey t pid) (some p) } }

/-! ## The default schedule (log 2) -/

/-- The state after an act, if there is one. -/
def after (s : State) (a : Act) : Option State :=
  match run s a with
  | .next t => some t
  | _ => none

/-- The act changes what `f` sees. -/
def moves {α : Type} [DecidableEq α] (s : State) (a : Act) (f : State → α) : Bool :=
  match after s a with
  | some t => f t != f s
  | none => false

/-- The slots, those after the one that moved last first. -/
def slotOrder (s : State) : List Nat :=
  let is := (s.slots.filter fun (_, x) => x.id.loaded).map (·.1)
  is.filter (fun i => s.cur < i) ++ is.filter fun i => i ≤ s.cur

/-- R374, log 25: the slot stands at S with PREEMPT for a switch, which acts for its supervisor. -/
def frozen (s : State) (i : Nat) : Bool :=
  i != Config.controlSlot && (s.region (regionOf (tileOf i))).switching.isSome && (s.slot i).atS &&
    (s.slot i).tr.cause.extractLsb' 0 8 == 26#8

/-- The state in which a waiting slot is evaluated again. -/
def woken (s : State) (i : Nat) : State := s.modSlot i fun x => { x with gen := { x.gen with wait := .none } }

/-- A wait for engine words, a segment or a reply would end: evaluated again, the instruction does something else than wait. -/
def wouldWake (s : State) (i : Nat) : Bool :=
  match (s.slot i).gen.wait with
  | .none => false
  | .engine | .segment | .reply =>
    if (s.slot i).gen.heldExit then false else
    match after (woken s i) (.issue i) with
    | some t => (t.slot i).gen != (s.slot i).gen
    | none => false
  | _ => moves s (.event i .vq .slotWake) fun t => (t.slot i).gen

/-- What a slot's engines can do next. -/
def engineAct (s : State) (i : Nat) : Option Act :=
  let x := s.slot i
  let ev (e : Instr) : Act := .event i .vq e
  if x.eng.ordered.any x.retirable then some (ev .wordRetire)
  else
    match queues.find? fun q => moves s (.start i q) fun t => ((t.slot i).eng, (t.slot i).gen, (t.slot i).id, t.free, t.pages.length) with
    | some q => some (.start i q)
    | none =>
      if moves s (ev .replayIssue) (fun t => ((t.slot i).eng, (t.slot i).gen)) then some (ev .replayIssue)
      else if moves s (ev .streamSendRelease) (fun t => (t.slot i).eng) then some (ev .streamSendRelease)
      else if x.tr.saveop == 3 then some (ev .savectlDone)
      else
        match x.segs.find? fun (_, g) => g.st == .inflight && g.queued.any fun r => r.image.isSome || r.fail.isSome with
        | some (k, g) => if g.queued.any fun r => r.image.isSome then some (ev (.cfetchLanding k)) else some (ev (.cfetchFailure k))
        | none => none

/-- What a slot's generator can do next, short of issuing. -/
def slotAct (s : State) (i : Nat) : Option Act :=
  let x := s.slot i
  let ev (e : Instr) : Act := .event i .vq e
  if x.gen.gfault.isSome && x.committed then some (ev .levelGFault)
  else if x.gen.entering.isSome && x.committed then some (ev .trapEntry)
  else if x.parking && !x.id.exited && !x.id.stopped && drained x then some (ev .preempt)
  else if wouldWake s i then some (ev .slotWake)
  else none

/-- R100: the slot that its tile issues next. -/
def tilePick (s : State) (t : Nat) : Option Nat :=
  if 1024 ≤ t then (if (s.slot Config.controlSlot).canIssue then some Config.controlSlot else none) else
  let k := (s.tile t).last
  ([1, 2, 3, 4].map fun j => 4 * t + (k + j) % 4).find? fun i => (s.slot i).canIssue && !frozen s i

/-- The fabric's next event of a channel. -/
def chanAct (s : State) (k ch : Nat) (c : Chan) : Option Act :=
  let ev (e : Instr) : Act := .event s.cur .vq e
  let rs := List.range c.readers.length
  let ws := List.range c.writers.length
  let all : List Instr :=
    (if c.transit.isEmpty then [] else
      rs.map (Instr.slotPacket k ch) ++ [Instr.reduceNodeInput k ch] ++ ws.map (Instr.creditPacket k ch) ++
      rs.map (Instr.endMarkPacket k ch) ++ (List.range (c.readers.length + c.writers.length)).map (Instr.severNotice k ch)) ++
    (if c.skein.isEmpty then [] else rs.map (Instr.skeinTransfer k ch)) ++
    (rs.filter fun r => match c.readers[r]? with | some e => !e.remote && !(s.epPort e).owed.isEmpty | none => false).map (Instr.creditMergeExpiry k ch)
  (all.find? fun e => moves s (ev e) fun t => (t.chan? k ch, c.readers.map fun e => t.epPort e)).map ev

/-- The next event of a network. -/
def netAct (s : State) (k : Nat) (n : Net) : Option Act :=
  let ev (e : Instr) : Act := .event s.cur .vq e
  match n.st with
  | .running =>
    match (List.range n.chans.length).findSome? fun ch => (n.chans[ch]?).bind fun c => chanAct s k ch c with
    | some a => some a
    | none =>
      n.groups.findSome? fun g =>
        if moves s (ev (.barrierRelease k g.gid)) (fun t => t.nets[k]?) then some (ev (.barrierRelease k g.gid))
        else if moves s (ev (.boundary k g.gid)) (fun t => t.nets[k]?) then some (ev (.boundary k g.gid))
        else if moves s (ev (.bindOff k)) (fun t => t.nets[k]?) then some (ev (.bindOff k))
        else none
  | .bindoff =>
    if !n.closing then some (ev (.bindOff k))
    else if moves s (ev (.completionRecord k)) (fun t => t.nets[k]?) then some (ev (.completionRecord k)) else none
  | .rejected => if moves s (ev (.completionRecord k)) (fun t => t.nets[k]?) then some (ev (.completionRecord k)) else none
  | .queued | .validating => some (ev (.validating n.tenant))
  | .loading | .retired => none

/-- What passes with time alone: a switch, the end of a reset, the end of a scrub, a deferred wake, a wave of a detector. -/
def timeAct (s : State) : Option Act :=
  let ev (e : Instr) : Act := .event s.cur .vq e
  let rs := List.range 16
  match rs.find? fun r => (s.region r).switching.isSome && moves s (ev (.timeSliceExpiry r)) (fun t => (t.region r, t.pages)) with
  | some r => some (ev (.timeSliceExpiry r))
  | none =>
    match rs.find? fun r => (s.region r).st == .reset with
    | some r => some (ev (.regionResetEnd r))
    | none =>
      if s.die.scrub == 1 then some (ev .scrubDone)
      else match s.funcs.find? fun (_, f) => f.due with
        | some (k, _) => some (ev (.deferredWake k))
        | none => ((List.range 17).find? fun t => !(tenantNets s t).isEmpty && !heldBack s t).map fun t => ev (.detectorWave t)

/-- The act of the default schedule: engines first, then faults and waits, instructions, the fabric and the networks, then time. -/
def choose (s : State) : Option Act :=
  let is := slotOrder s
  match is.findSome? (engineAct s) with
  | some a => some a
  | none =>
    match is.findSome? (slotAct s) with
    | some a => some a
    | none =>
      match is.findSome? fun i => tilePick s (tileOf i) with
      | some i => some (.issue i)
      | none =>
        match (List.range s.nets.length).findSome? fun k => (s.nets[k]?).bind fun n => netAct s k n with
        | some a => some a
        | none => timeAct s

/-- The next act and the state without it on the agenda; none where nothing moves. -/
def nextAct (s : State) : Option (Act × State) :=
  match s.agenda with
  | a :: l => some (a, { s with agenda := l })
  | [] => (choose s).map fun a => (a, s)

/-- The entry that puts an engine word at the end of a queue of a slot, as an emit at its pc would. -/
def wordEntry (x : Slot) (q : Queue) (w : Word) : QEntry :=
  { word := w, epc := x.gen.pc, eseq := x.bank.eseq, pos := x.gen.icnt, rm := x.vec.fcsr, mask0 := x.eng.omask, hulls := [], dhull := []
    fo := none, sub := 0, stat := .queued, prog := {}, iter := 0, q := q }

/-- R48: the queue that a word of a class is put on by `withFetchWord`. -/
def wordQueue (w : Word) : Queue :=
  match (fEcls w).toNat with
  | 2 => .mq
  | 3 => .xq
  | _ => .vq

end Sys2Proof.Machine
end

