-- ==== Sys2Proof/Machine/Step.lean ====
section
/-! DEFINITION. One step of the machine, and the placing of one instruction for it (log 1). -/

namespace Sys2Proof.Machine

/-- One step: the next act (Sched.lean); with none, nothing moves. A package that has powered itself off only powers on again. -/
def step (s : State) : Host.Outcome State Fault Refusal :=
  match nextAct s with
  | none => if s.die.poweredOff then .fault .poweredOff else .next s
  | some (a, t) => if s.die.poweredOff && !isPowerOn a then .fault .poweredOff else run t a

/-- The state with one instruction placed for the next step (log 1): a word of up to 32 bits at the pc of the slot that moves, which
issues it; a longer one at the end of a queue of that slot, which starts it. -/
def State.withFetchWord (s : State) (nbits w : Nat) : State :=
  if nbits ≤ 32 then
    { s.putSeq s.cur s.pc.toNat (natLe (w % 2 ^ nbits) 4) with agenda := [.issue s.cur] }
  else
    let v := BitVec.ofNat 64 (w % 2 ^ nbits)
    let q := wordQueue v
    { s.modMe (fun x => { x with eng := x.eng.setQueue q (x.eng.queue q ++ [wordEntry x q v]) }) with agenda := [.start s.cur q] }

end Sys2Proof.Machine
end

