-- ==== Sys2Proof/Safety.lean ====
section
/-! DEFINITION. The terms that statements use: the canonical form of every byte memory, when a generator instruction's operands are
ready, what an instruction leaves as it was, and what it means that it completes. -/

namespace Sys2Proof.Machine

/-- Every byte memory of the machine is in canonical form: DRAM, each tile's SRAM, each function's staging area, mailbox and MSI-X
table. -/
structure State.MemOk (s : State) : Prop where
  dram : Memory.wf s.dram = true
  sram : ∀ t, Memory.wf (s.tile t).sram = true
  staging : ∀ n, Memory.wf (s.func n).staging = true
  mailbox : ∀ n, Memory.wf (s.func n).mailbox = true
  bar4 : ∀ n, Memory.wf (s.func n).bar4 = true

/-- A run is safe where it never stops: a package with power always steps on. -/
def Safe (s : State) : Prop := ∃ t, step s = .next t

/-! ## What is left as it was -/

/-- The bank of R351 that the level of the slot does not use. -/
def Slot.otherBank (x : Slot) : Bank := if x.atS then x.pb else x.sb

/-- The physical bytes of the slot's tile that the held stores of slot `i` reach (R116): what its commit point may still write. -/
def heldBytes (s : State) (i k p : Nat) : Prop :=
  k = tileOf i ∧ ∃ h ∈ (s.slot i).eng.stores, ∃ j < h.data.length, (s.slot i).phys (h.addr + j) = some p

/-- R109, log 19: no held store of slot `i` of fewer than 8 bytes lies in a word that holds a double-bit error. -/
abbrev StoresClean (s : State) (i : Nat) : Prop :=
  ∀ h ∈ (s.slot i).eng.stores, h.data.length < 8 → s.eccAt i h.addr h.data.length = false

/-- Slot `y` is `x` but for what the end of a contributor cuts off at the read ports of a reduce channel (R319, R320): legs that had
arrived, and their credits, which are owed. -/
def PortsCut (x y : Slot) : Prop :=
  y = { x with ports := y.ports } ∧ ∀ n, y.port n = { x.port n with arr := (y.port n).arr, owed := (y.port n).owed }

/-- From `s` to `t`, slot `i` may have changed its pc and wait state, its held effects, its ports, EOSBITS, CLOSEDWR and segments, and
the bytes of tile SRAM that `W` names; tokens may have been charged, and a close may have cut off legs at other slots' read ports.
Every other slot, every other register of the slot, its queues, the accumulators, every other byte of every memory, every register of
the regions, the host interface and the control die are as they were, and no word has come to hold an error. The bank in use is not
spoken of. -/
structure Kept (i : Nat) (W : Nat → Nat → Prop) (s t : State) : Prop where
  cur : t.cur = s.cur
  agenda : t.agenda = s.agenda
  curQ : t.curQ = s.curQ
  slots : ∀ j, j ≠ i → PortsCut (s.slot j) (t.slot j)
  id : (t.slot i).id = { (s.slot i).id with exited := (t.slot i).id.exited }
  gen : (t.slot i).gen =
    { (s.slot i).gen with pc := (t.slot i).gen.pc, icnt := (t.slot i).gen.icnt, wait := (t.slot i).gen.wait
                          heldExit := (t.slot i).gen.heldExit }
  eng : (t.slot i).eng = { (s.slot i).eng with hist := (t.slot i).eng.hist, stores := (t.slot i).eng.stores }
  vec : (t.slot i).vec = { (s.slot i).vec with eos := (t.slot i).vec.eos, closedwr := (t.slot i).vec.closedwr }
  tr : (t.slot i).tr = (s.slot i).tr
  other : (t.slot i).otherBank = (s.slot i).otherBank
  tile : ∀ k, t.tile k = { s.tile k with sram := (t.tile k).sram, ecc := (t.tile k).ecc, last := (t.tile k).last }
  sram : ∀ k p, ¬ W k p → (t.tile k).sram.byte p = (s.tile k).sram.byte p
  ecc : ∀ k w, w ∈ (t.tile k).ecc → w ∈ (s.tile k).ecc
  tenant : ∀ k, t.tenant k = { s.tenant k with phcount := (t.tenant k).phcount, logfull := (t.tenant k).logfull }
  dram : t.dram = s.dram
  ktags : t.ktags = s.ktags
  dramEcc : t.dramEcc = s.dramEcc
  frames : t.frames = s.frames
  pub : t.pub = s.pub
  pubLog : t.pubLog = s.pubLog
  regions : t.regions = s.regions
  funcs : t.funcs = s.funcs
  keys : t.keys = s.keys
  buckets : ∀ st n, t.bucket st n = { s.bucket st n with tok := (t.bucket st n).tok }
  host : t.host = s.host
  die : t.die = s.die

/-- From `s` to `t`, of the bank in use of slot `i`, g registers other than `d` only, the templates, the engine registers and ESEQ
are as they were. -/
structure GKept (i : Nat) (d : Option Nat) (s t : State) : Prop where
  g : ∀ r, some r ≠ d → (t.slot i).bank.readG r = (s.slot i).bank.readG r
  tmpl : (t.slot i).bank.t = (s.slot i).bank.t
  ev : (t.slot i).bank.ev = (s.slot i).bank.ev
  em : (t.slot i).bank.em = (s.slot i).bank.em
  ex : (t.slot i).bank.ex = (s.slot i).bank.ex
  eseq : (t.slot i).bank.eseq = (s.slot i).bank.eseq

/-- What the commit of held effects could change besides held stores is as it was. -/
structure Still (i : Nat) (s t : State) : Prop where
  slots : ∀ j, j ≠ i → t.slot j = s.slot j
  buckets : t.buckets = s.buckets
  nets : t.nets = s.nets
  ual : t.ual = s.ual
  tlb1 : t.tlb1 = s.tlb1
  tlb2 : t.tlb2 = s.tlb2
  pages : t.pages = s.pages
  free : t.free = s.free
  tenants : t.tenants = s.tenants
  segs : (t.slot i).segs = (s.slot i).segs
  ports : (t.slot i).ports = (s.slot i).ports
  vec : (t.slot i).vec = (s.slot i).vec

/-! ## A generator instruction that completes -/

/-- R44, R45, R105, R133-R136: the operands of a generator instruction let it issue: no reserved number, every port check passed,
every port ready, room in the history buffer; and no held store is about to meet a double-bit error (R109). -/
structure OperandsOk (s : State) (srcs : List Opnd) (dst : Option Opnd) : Prop where
  clean : StoresClean s s.cur
  named : (srcs ++ dst.toList).any opReserved = false
  checked : portChecks s srcs dst = none
  ready : portsReady s srcs dst = .go
  room : s.me.histFull (histNeed srcs dst) = false

/-- The value of the `n`-th source operand: a g register, or what a read of the port then delivers. -/
def srcVal (s : State) (srcs : List Opnd) (n : Nat) : Word := (takeSrcs s srcs).1.getD n 0

/-- No operand is a port. -/
def noPorts (srcs : List Opnd) (dst : Option Opnd) : Prop := ∀ o ∈ srcs ++ dst.toList, opIsPort o = false

/-- R41, R137: the destination has received a value: a g register holds it (g0 reads zero still); a port has sent one slot of 8 bytes,
held at the position of the instruction, for one unit of the free count, which the commit point then passed or not. -/
def Wrote (s t : State) (d : Opnd) (v : Word) : Prop :=
  if opIsPort d then
    ∃ u, t = commitSlot u s.cur ∧ (u.slot s.cur).eng.hist.getLast? = some ⟨s.me.gen.icnt, .send (opPort d) (natLe v.toNat 8)⟩ ∧
      ((u.slot s.cur).port (opPort d)).free = (s.me.port (opPort d)).free.map fun f => f - 1
  else (t.slot s.cur).bank.readG d.toNat = if d = 0 then 0 else v

/-- The g register that a destination operand names. -/
def gOf (dst : Option Opnd) : Option Nat :=
  match dst with
  | some d => if opIsPort d then none else some d.toNat
  | none => none

/-- The slot has gone on to `pc`, in no wait. -/
structure Issued (s t : State) (pc : Word) : Prop where
  pc : (t.slot s.cur).gen.pc = pc
  icnt : (t.slot s.cur).gen.icnt = s.me.gen.icnt + 1
  wait : (t.slot s.cur).gen.wait = .none

/-- The frame of a generator instruction with sources `srcs` and destination `dst`, which stores to the bytes of `W`: nothing else is
changed but in the bank in use, and with no effect held and no port named, what a commit could change is as it was too. -/
structure Frame (W : Nat → Nat → Prop) (srcs : List Opnd) (dst : Option Opnd) (s t : State) : Prop where
  kept : Kept s.cur (fun k p => heldBytes s s.cur k p ∨ W k p) s t
  eos : (∀ o ∈ srcs, opIsPort o = false) → (t.slot s.cur).vec.eos = s.me.vec.eos
  still : s.me.eng.hist = [] → s.me.gen.heldExit = false → noPorts srcs dst → Still s.cur s t

/-- An instruction completes: it answers a next state in which `dst` holds `v`, the slot stands at `pc`, and nothing else is
changed. -/
def Completes (out : Out) (s : State) (srcs : List Opnd) (dst : Opnd) (v pc : Word) : Prop :=
  ∃ t, out = .next t ∧ Wrote s t dst v ∧ Issued s t pc ∧ Frame (fun _ _ => False) srcs (some dst) s t ∧ GKept s.cur (gOf (some dst)) s t

/-- An instruction without a destination completes. -/
def Passes (out : Out) (s : State) (srcs : List Opnd) (pc : Word) : Prop :=
  ∃ t, out = .next t ∧ Issued s t pc ∧ Frame (fun _ _ => False) srcs none s t ∧ GKept s.cur none s t

/-- The state after the sources of an instruction are taken. -/
def taken (s : State) (srcs : List Opnd) : State := (takeSrcs s srcs).2

/-- The physical bytes of the slot's tile behind `n` addresses of slot `i` from `a` up. -/
def bytesBehind (s : State) (i a n : Nat) (k p : Nat) : Prop := k = tileOf i ∧ ∃ j < n, (s.slot i).phys (a + j) = some p

/-- R116, R125: a store of the low `n` bytes of `x` at `a` completes: it stands youngest among the held stores as the commit point
does its work; where no word is unretired it is performed at once. -/
def StoresAt (out : Out) (s : State) (srcs : List Opnd) (a : Nat) (x : Word) (n : Nat) : Prop :=
  ∃ t, out = .next t ∧ Issued s t (s.pc + 4) ∧ Frame (bytesBehind s s.cur a n) srcs none s t ∧ GKept s.cur none s t ∧
    (∃ u, t = commitSlot u s.cur ∧ (u.slot s.cur).eng.stores = s.me.eng.stores ++ [⟨s.me.gen.icnt, a, natLe x.toNat n⟩]) ∧
    (s.me.committed = true → ∀ j, j < n → t.byteAt s.cur (a + j) = x.extractLsb' (8 * j) 8)

/-- R175: template `r` has received a value, and nothing else is changed but by the commit point. -/
def SetsTemplate (out : Out) (s : State) (srcs : List Opnd) (r : Nat) (v : Word) : Prop :=
  ∃ t, out = .next t ∧ Issued s t (s.pc + 4) ∧ Frame (fun _ _ => False) srcs none s t ∧
    (∀ n, (t.slot s.cur).bank.readT n = if n = r then v else s.me.bank.readT n) ∧
    (∀ n, (t.slot s.cur).bank.readG n = s.me.bank.readG n) ∧ (t.slot s.cur).bank.eseq = s.me.bank.eseq ∧
    ∀ q n, (t.slot s.cur).bank.readE q n = s.me.bank.readE q n

/-! ## Faults at level G -/

/-- R357: the record of a level-G fault of the instruction at `pc`: FAULTEPC is TRAPPC, FAULTESEQ is the slot's next ESEQ, FAULTITER
is 0. `va` is what R280 gives for FAULTVA, none where the cause clears VALID. -/
def gFault (s : State) (c : Cause) (pc fw : Word) (va : Option Word) : FaultRec :=
  { cause := c, lvlE := false, pc := pc, epc := pc, eseq := s.me.bank.eseq, fword := fw, iter := 0, va := va }

/-- R190: the record of a level-E fault of word `w`, with the FAULTWORD and the FAULTVA given. -/
def eFault (w : QEntry) (c : Cause) (fw : Word) (va : Option Word) : FaultRec :=
  { cause := c, lvlE := true, pc := w.epc, epc := w.epc, eseq := w.eseq, fword := fw, iter := w.iter, va := va }

/-- R119, R280, R357, R358: slot `i` has entered the supervisor for the fault `f`. Of the trap registers TRAPCAUSE, TRAPPC, the fault
registers and FAULTVA are written and the wait descriptor is cleared, the others are as they were; a FAILED segment whose MEMFAULT this
is has become INVALID (R111); the level before is kept, and the level is S, on the control tile still C (R361, log 7); the pc is SVEC,
the slot in no wait; ESEQ of the supervisor bank is 0; and nothing else is changed. -/
structure Entered (i : Nat) (s t : State) (f : FaultRec) : Prop where
  tr : (t.slot i).tr =
    { (s.slot i).tr with cause := BitVec.ofBool f.lvlE ++ BitVec.ofNat 8 f.cause.code, pc := f.pc.extractLsb' 2 19 ++ 0#2
                         fepc := f.epc.extractLsb' 0 21, feseq := f.eseq, fword := f.fword, fiter := f.iter, waitd := 0
                         fva := match f.va with | some v => v | none => (s.slot i).tr.fva &&& ~~~(1#64 <<< 63) }
  segs : ∀ k, (t.slot i).seg k = if f.seg = some k then { (s.slot i).seg k with st := .invalid } else (s.slot i).seg k
  id : (t.slot i).id = { (s.slot i).id with plevel := (s.slot i).id.level, level := if i = Config.controlSlot then 2 else 1 }
  gen : (t.slot i).gen = { (s.slot i).gen with pc := (s.tile (tileOf i)).svec, wait := .none, gfault := none, entering := none }
  pb : (t.slot i).pb = (s.slot i).pb
  sb : (t.slot i).sb = { (s.slot i).sb with eseq := 0 }
  eng : (t.slot i).eng = (s.slot i).eng
  vec : (t.slot i).vec = (s.slot i).vec
  ports : (t.slot i).ports = (s.slot i).ports
  slots : ∀ j, j ≠ i → t.slot j = s.slot j
  rest : t = { s with slots := t.slots }

/-- R119: the instruction raises the level-G fault `f` below level S: taken at once at the commit point, else once every older word
has retired, the slot issuing nothing meanwhile; the instruction has no effect. -/
def TrapsWith (out : Out) (s : State) (f : FaultRec) : Prop :=
  ∃ t, out = .next t ∧
    (s.me.committed = true → Entered s.cur s t f) ∧
    (s.me.committed = false → t = s.modMe fun x => { x with gen := { x.gen with gfault := some f, wait := .fault } })

/-- R119, R357: the instruction raises a level-G fault of cause `c` below level S, with FAULTWORD `fw`; its cause clears FAULTVA's
VALID. -/
def Traps (out : Out) (s : State) (c : Cause) (fw : Word) : Prop := TrapsWith out s (gFault s c s.pc fw none)

/-- R189, R190: the slot that moves raises a level-E fault for word `w` below level S: it has gone back to the word's emit, and has
entered the supervisor, where no older word is unretired, else stands ready to. -/
def FaultsE (out : Out) (s : State) (w : QEntry) (c : Cause) (va : Option Word) : Prop :=
  ∃ t, out = .next t ∧
    let u := unwindTo (markPattern s s.cur w) s.cur w.pos w.sub w.eseq w.mask0
    ((u.slot s.cur).committed = true → Entered s.cur (commitSlot u s.cur) t (eFault w c w.word va)) ∧
    ((u.slot s.cur).committed = false →
      t = u.modSlot s.cur fun x => { x with gen := { x.gen with entering := some (eFault w c w.word va) } })

/-- R359, R371, R376, R393: a fault of cause `c` at level S has been a double fault in slot `i`: the slot has stopped, its region is
HALTED with HCAUSE the second cause, and its network, unless a status was reached, ends ABORTED with the trap that the slot was handling
and the second cause. DRAM and the other regions are as they were. -/
structure DoubleFaulted (i : Nat) (s t : State) (c : Cause) (lvlE : Bool) : Prop where
  stopped : (t.slot i).id.stopped = true
  halted : (t.region (regionOf (tileOf i))).st = .halted
  hcause : (t.region (regionOf (tileOf i))).hcause = BitVec.ofNat 8 c.code
  ended : ∀ n, s.nets[(s.slot i).id.net]? = some n → n.status = none → ∃ m, t.nets[(s.slot i).id.net]? = some m ∧ m.status = some 1 ∧
    m.ending = some ⟨(s.slot i).id.pid, BitVec.ofBool lvlE ++ BitVec.ofNat 8 c.code, (s.slot i).tr.pc.zeroExtend 64, (s.slot i).tr.fword⟩
  dram : t.dram = s.dram
  others : ∀ r, r ≠ regionOf (tileOf i) → t.region r = s.region r

/-- No slot waits at a barrier or at a phase boundary. -/
def NoGroupWaits (s : State) : Prop := ∀ i g e, (s.slot i).gen.wait ≠ .barrier g e ∧ (s.slot i).gen.wait ≠ .phase g e

/-- R119, R359: the instruction raises the level-G fault `f` of cause `c` at level S: a double fault, at once at the commit point, else once
every older word has retired, the slot issuing nothing meanwhile. -/
def Doubles (out : Out) (s : State) (c : Cause) (f : FaultRec) : Prop :=
  (s.me.committed = true → ∃ t, out = .next t ∧ DoubleFaulted s.cur s t c false) ∧
  (s.me.committed = false → out = .next (s.modMe fun x => { x with gen := { x.gen with gfault := some f, wait := .fault } }))

/-- R119, R357, R359: the instruction raises a level-G fault of cause `c`, with FAULTWORD `fw`: below level S the supervisor is entered; at
S, where no slot waits at a barrier or a phase, it is a double fault. -/
def Raises (out : Out) (s : State) (c : Cause) (fw : Word) : Prop :=
  (s.me.atS = false → Traps out s c fw) ∧
  (s.me.atS = true → NoGroupWaits s → Doubles out s c (gFault s c s.pc fw none))

/-- R109, R189, R190, R359: word `w` of the slot that moves raises cause `c` at level E: below level S the generator goes back to its emit
and the supervisor is entered; at S, where no slot waits at a barrier or a phase, it is a double fault; ECCFATAL halts the region. -/
def StopsE (out : Out) (s : State) (w : QEntry) (c : Cause) (va : Option Word) : Prop :=
  (c ≠ .eccfatal → s.me.atS = false → FaultsE out s w c va) ∧
  (c ≠ .eccfatal → s.me.atS = true → NoGroupWaits s → ∃ t, out = .next t ∧ DoubleFaulted s.cur s t c true) ∧
  (c = .eccfatal → ∃ t, out = .next t ∧ (t.region (regionOf (tileOf s.cur))).st = .halted)

/-- R24: the slot waits, and nothing else is changed. -/
def Waits (out : Out) (s : State) (w : Wait) : Prop :=
  out = .next (s.modMe fun x => { x with gen := { x.gen with wait := w } })

/-! ## Processes in their slots -/

/-- Every process of network `k` that is not saved and has not exited is the one that its slot runs. -/
def State.Placed (s : State) (k : Nat) : Prop :=
  ∀ n, s.nets[k]? = some n → ∀ p ∈ n.procs, p.saved = false → p.exited = false →
    (s.slot p.slotNo).id.net = k ∧ (s.slot p.slotNo).id.pid.toNat = p.pid

/-- R38, log 37: slot `i` stands at its commit point, with no fault on its way. -/
def State.Resting (s : State) (i : Nat) : Bool :=
  (s.slot i).eng.idle && (s.slot i).gen.gfault.isNone && (s.slot i).gen.entering.isNone

/-! ## Queueing a word -/

/-- R173, R174, R177, R181: the emit of a word into a queue may proceed: the word is accepted with its hulls, the port it streams to is
not closed, and there is room for it, for its follow-on and for their hulls. -/
structure EmitOk (t : State) (q : Queue) (w iw : Word) (hulls dhull : List Hull) : Prop where
  judged : judgeWord t t.cur (emitSide t t.cur) q w iw = .ok hulls dhull
  unclosed : streamClosed t.me w = none
  room : (t.me.eng.queue q).length < Config.queueDepth
  follow : followOn (emitSide t t.cur) w = none ∨ t.me.eng.mq.length < Config.queueDepth
  score : t.scoreRoom t.cur (hulls.length + match followOn (emitSide t t.cur) w with
    | some fw => (foHulls t t.cur (emitSide t t.cur) fw).length
    | none => 0) = true

/-- `t` with the queues and the emit-side open mask of slot `i` as `s` has them. -/
def withQueuesOf (s t : State) (i : Nat) : State :=
  t.modSlot i fun x => { x with eng := { x.eng with vq := (s.slot i).eng.vq, mq := (s.slot i).eng.mq, xq := (s.slot i).eng.xq
                                                    omask := (s.slot i).eng.omask } }

/-- The entries that an emit at the pc appends to a queue: the word; in MQ also the reserved place of its follow-on. -/
def emitted (x : Slot) (q : Queue) (w : Word) (hulls dhull : List Hull) (fo : Option Word) (p : Queue) (foh : List Hull) :
    List QEntry :=
  let e : QEntry :=
    { word := w, epc := x.gen.pc, eseq := x.bank.eseq, pos := x.gen.icnt, rm := x.vec.fcsr, mask0 := x.eng.omask, hulls := hulls
      dhull := dhull, fo := fo, sub := 0, stat := .queued, prog := {}, iter := 0, q := q }
  (if p = q then [e] else []) ++
    match fo with
    | some fw => if p = .mq then [{ e with word := fw, hulls := foh, dhull := [], fo := none, sub := 1, stat := .reserved, q := .mq }] else []
    | none => []

/-- R174: the emit of a word completes: it stands at the end of its queue with what was taken at the emit, ESEQ has counted it, and
nothing else is changed but by the commit point. -/
def Emits (out : Out) (s : State) (srcs : List Opnd) (q : Queue) (w iw : Word) : Prop :=
  ∀ hulls dhull, EmitOk (taken s srcs) q w iw hulls dhull →
    let fo := followOn (emitSide (taken s srcs) s.cur) w
    let foh := match fo with | some fw => foHulls (taken s srcs) s.cur (emitSide (taken s srcs) s.cur) fw | none => []
    ∃ t, out = .next t ∧ Issued s t (s.pc + 4) ∧
      (∀ p, (t.slot s.cur).eng.queue p = s.me.eng.queue p ++ emitted s.me q w hulls dhull fo p foh) ∧
      (t.slot s.cur).bank = { s.me.bank with eseq := s.me.bank.eseq + 1 } ∧
      Kept s.cur (heldBytes s s.cur) s (withQueuesOf s t s.cur)

/-! ## `ctl` (R366) -/

/-- R366, R45: an operation of `ctl` may act: the slot is at level C, its instruction is the commit point, its operands are in order. -/
structure CtlReady (s : State) (d a : Opnd) : Prop where
  level : s.levelOk 2 = true
  point : s.me.committed = true
  operands : OperandsOk s [a] (some d)

/-- R366: an operation of `ctl` that left the machine in state `u` has returned a status in state `t`: gd holds it, the slot stands at
the next instruction, and nothing else differs from `u`. -/
structure CtlReturned (s : State) (d : Opnd) (st : Nat) (u t : State) : Prop where
  status : Wrote u t d (BitVec.ofNat 64 st)
  pc : (t.slot u.cur).gen.pc = s.pc + 4
  wait : (t.slot u.cur).gen.wait = .none
  frame : Frame (fun _ _ => False) [] (some d) u t
  gkept : GKept u.cur (gOf (some d)) u t

/-- R366: an operation of `ctl` that leaves the machine in state `u` returns a status. -/
def CtlDone (out : Out) (s : State) (d : Opnd) (st : Nat) (u : State) : Prop := ∃ t, out = .next t ∧ CtlReturned s d st u t

/-- R38: from `s` to `u`, network `k`, which ran as `n`, has been ended with status `code`, unless it had reached one: each slot of a
process that had not exited, and is not saved, is stopped where it stood at its commit point, else it is to be stopped there (log 37);
with all of them stopped the network binds off. -/
structure NetEnded (s u : State) (k : Nat) (n : Net) (code : Nat) : Prop where
  status : ∃ m, u.nets[k]? = some m ∧ m.status = some (n.status.getD code)
  slots : ∀ p ∈ n.procs, p.saved = false → p.exited = false →
    if s.Resting p.slotNo then (u.slot p.slotNo).id.stopped = true else (u.slot p.slotNo).gen.stopping = true
  bindoff : (∀ p ∈ n.procs, p.saved = false → p.exited = false → s.Resting p.slotNo) →
    ∃ m, u.nets[k]? = some m ∧ m.st = .bindoff ∧ ∀ p ∈ m.procs, p.exited = true ∨ p.stopped = true

/-! ## Rounding (R74-R77) -/

/-- m 2^e is no more than k 2^g. -/
def magLe (m : Nat) (e : Int) (k : Nat) (g : Int) : Prop := m * 2 ^ (e - min e g).toNat ≤ k * 2 ^ (g - min e g).toNat

/-- k 2^g lies no further from m 2^e than j 2^h does. -/
def magNear (m : Nat) (e : Int) (k : Nat) (g : Int) (j : Nat) (h : Int) : Prop :=
  let lo := min e (min g h)
  let v (a : Nat) (b : Int) : Int := (a * 2 ^ (b - lo).toNat : Nat)
  (v k g - v m e).natAbs ≤ (v j h - v m e).natAbs

/-- R85: what encoding the value m 2^e of this sign to TAP8 gives, its byte and its flags. From 8192 up the byte is 8192's, with OF and NX
unless the value is 8192. Below, the byte's magnitude is a nearest one; of two that are equally near it is the one whose fraction is even,
zero counting as even, and of two even ones the smaller; a magnitude of zero is the byte 0. The flags are NX where it is inexact, UF beside
it below 2^-15, and nothing else. -/
def TapDelivers (neg : Bool) (m : Nat) (e : Int) (r : Nat × Flags) : Prop :=
  (magLe 1 13 m e → r.1 = (if neg then 0x83 else 3) ∧ (magLe m e 1 13 → r.2 = 0) ∧ (¬ magLe m e 1 13 → r.2 = fOF ||| fNX)) ∧
  (¬ magLe 1 13 m e → ∃ c k g, r.1 < 256 ∧ tapDec r.1 = .fin c k g ∧ (k ≠ 0 → c = neg) ∧ (k = 0 → r.1 = 0) ∧
    (∀ b c' j h, b < 256 → tapDec b = .fin c' j h → magNear m e k g j h ∧
      (magNear m e j h k g → ¬ (magLe k g j h ∧ magLe j h k g) →
        tapEven (r.1 % 128) = true ∧ (tapEven (b % 128) = true → magLe k g j h))) ∧
    (magLe k g m e ∧ magLe m e k g → r.2 = 0) ∧
    (¬ (magLe k g m e ∧ magLe m e k g) →
      (magLe 1 (-15) m e → r.2 = fNX) ∧ (¬ magLe 1 (-15) m e → r.2 = fNX ||| fUF)))

/-- R75: the mode rounds a magnitude of this sign down, toward zero. -/
def Rm.down (rm : Rm) (neg : Bool) : Bool := rm == .rtz || (rm == .rdn && !neg) || (rm == .rup && neg)
/-- R75: the mode rounds a magnitude of this sign up, away from zero. -/
def Rm.outward (rm : Rm) (neg : Bool) : Bool := (rm == .rup && !neg) || (rm == .rdn && neg)

/-- R75, R77: the magnitude m 2^e of a value of this sign overflows the format in a mode: rounded down it reaches the power of two past
the largest finite magnitude; rounded up it lies past that magnitude; to nearest, it lies half a unit past it, or further. -/
def Fmt.tooBig (f : Fmt) (rm : Rm) (neg : Bool) (m : Nat) (e : Int) : Prop :=
  let g := f.emin + (f.top - 2 : Int)
  if rm.down neg then magLe (2 ^ (f.fw + 1)) g m e
  else if rm.outward neg then ¬ magLe m e (2 ^ (f.fw + 1) - 1) g
  else magLe (2 ^ (f.fw + 2) - 1) (g - 1) m e

/-- R75: bits `r` are the number of the format that m 2^e with this sign rounds to in a mode: the greatest not above it, the least not
below it, or the nearest, of two as near the one whose last bit is 0, or the greater. -/
def Fmt.Rounded (f : Fmt) (rm : Rm) (neg : Bool) (m : Nat) (e : Int) (r : Nat) : Prop :=
  r < 2 ^ (f.ew + f.fw + 1) ∧ ∃ k g, f.dec r = .fin neg k g ∧
    ∀ c j h, c < 2 ^ (f.ew + f.fw + 1) → f.dec c = .fin neg j h →
      (rm.down neg → magLe k g m e ∧ (magLe j h m e → magLe j h k g)) ∧
      (rm.outward neg → magLe m e k g ∧ (magLe m e j h → magLe k g j h)) ∧
      (rm = .rne ∨ rm = .rna → magNear m e k g j h ∧
        (c ≠ r → magNear m e j h k g → if rm = .rne then r % 2 = 0 else magLe j h k g))

/-- R75, R77: what rounding the value m 2^e of this sign, which is not zero, to a format gives: its bits and flags. A result that is
inexact and smaller than the least normal number sets UF too; of a value that rounds up to that number R77's tininess decides. -/
structure Fmt.Delivers (f : Fmt) (rm : Rm) (neg : Bool) (m : Nat) (e : Int) (r : Nat × Flags) : Prop where
  big : f.tooBig rm neg m e → r = (f.sign neg + (if rm.down neg then f.maxFin else f.inf), fOF ||| fNX)
  bits : ¬ f.tooBig rm neg m e → f.Rounded rm neg m e r.1
  exact : ∀ k g, f.dec r.1 = .fin neg k g → magLe k g m e → magLe m e k g → r.2 = 0
  nx : ¬ f.tooBig rm neg m e → (∀ k g, f.dec r.1 = .fin neg k g → ¬ (magLe k g m e ∧ magLe m e k g)) →
    r.2 = fNX ∨ r.2 = fNX ||| fUF
  uf : ¬ f.tooBig rm neg m e → (magLe (2 ^ f.fw) f.emin m e → r.2 = 0 ∨ r.2 = fNX) ∧
    (r.1 % 2 ^ (f.ew + f.fw) < 2 ^ f.fw → r.2 = 0 ∨ r.2 = fNX ||| fUF)

/-- R75, R90: bits `r` are the number of the format nearest to a value of this sign, of two as near the one whose last bit is 0. The
magnitude of the value, which need not be a binary fraction, is told by the numbers k 2^g that it does not pass (`le`) and those it
reaches (`ge`): no number of the format lies on the value's side of the middle between `r` and it. -/
def Fmt.NearestBy (f : Fmt) (neg : Bool) (le ge : Nat → Int → Prop) (r : Nat) : Prop :=
  r < 2 ^ (f.ew + f.fw + 1) ∧ ∃ k g, f.dec r = .fin neg k g ∧
    ∀ c j h, c < 2 ^ (f.ew + f.fw + 1) → f.dec c = .fin neg j h →
      let lo := min g h
      let mid := k * 2 ^ (g - lo).toNat + j * 2 ^ (h - lo).toNat
      (r < c → le mid (lo - 1) ∧ (ge mid (lo - 1) → r % 2 = 0)) ∧ (c < r → ge mid (lo - 1) ∧ (le mid (lo - 1) → r % 2 = 0))

/-- R77, R90: what rounding to the nearest number of a format gives of a value of this sign, which is not zero and whose magnitude is told
by `le` and `ge`: its bits and flags. -/
structure Fmt.NearDelivers (f : Fmt) (neg : Bool) (le ge : Nat → Int → Prop) (r : Nat × Flags) : Prop where
  big : ge (2 ^ (f.fw + 2) - 1) (f.emin + (f.top - 3 : Int)) → r = (f.sign neg + f.inf, fOF ||| fNX)
  bits : ¬ ge (2 ^ (f.fw + 2) - 1) (f.emin + (f.top - 3 : Int)) → f.NearestBy neg le ge r.1
  exact : ∀ k g, f.dec r.1 = .fin neg k g → le k g → ge k g → r.2 = 0
  nx : ¬ ge (2 ^ (f.fw + 2) - 1) (f.emin + (f.top - 3 : Int)) →
    (∀ k g, f.dec r.1 = .fin neg k g → ¬ (le k g ∧ ge k g)) → r.2 = fNX ∨ r.2 = fNX ||| fUF
  uf : ¬ ge (2 ^ (f.fw + 2) - 1) (f.emin + (f.top - 3 : Int)) → (ge (2 ^ f.fw) f.emin → r.2 = 0 ∨ r.2 = fNX) ∧
    (r.1 % 2 ^ (f.ew + f.fw) < 2 ^ f.fw → r.2 = 0 ∨ r.2 = fNX ||| fUF)

/-- R75, R89: `q` is the magnitude of the integer to which m 2^e of this sign rounds in a mode. -/
def Rm.IntOf (rm : Rm) (neg : Bool) (m : Nat) (e : Int) (q : Nat) : Prop :=
  (rm.down neg → magLe q 0 m e ∧ ¬ magLe (q + 1) 0 m e) ∧
  (rm.outward neg → magLe m e q 0 ∧ (q ≠ 0 → ¬ magLe m e (q - 1) 0)) ∧
  (rm = .rne ∨ rm = .rna → magLe m e (2 * q + 1) (-1) ∧ (q ≠ 0 → magLe (2 * q - 1) (-1) m e) ∧
    (magLe (2 * q + 1) (-1) m e → rm = .rne ∧ q % 2 = 0) ∧ (q ≠ 0 → magLe m e (2 * q - 1) (-1) → rm = .rna ∨ q % 2 = 0))

/-! ## Engine words -/

/-- From `s` to `t`, slot `i` may have changed its entries, its hold buffer, its vector state and its ports, the accumulators of its tile,
the bytes of SRAM that `W` names, and the networks may have counted. Every other slot, the generator and both banks of the slot,
every other byte of every memory, the regions, the translations, the host interface and the control die are as they were, but for what
an access costs in tokens (R285). -/
structure EKept (i : Nat) (W : Nat → Nat → Prop) (s t : State) : Prop where
  cur : t.cur = s.cur
  agenda : t.agenda = s.agenda
  curQ : t.curQ = s.curQ
  slots : ∀ j, j ≠ i → t.slot j = s.slot j
  id : (t.slot i).id = (s.slot i).id
  gen : (t.slot i).gen = (s.slot i).gen
  pb : (t.slot i).pb = (s.slot i).pb
  sb : (t.slot i).sb = (s.slot i).sb
  tr : (t.slot i).tr = (s.slot i).tr
  segs : (t.slot i).segs = (s.slot i).segs
  vec : (t.slot i).vec = { (s.slot i).vec with v := (t.slot i).vec.v, m := (t.slot i).vec.m, vl := (t.slot i).vec.vl
                                               fflags := (t.slot i).vec.fflags, eos := (t.slot i).vec.eos }
  tile : ∀ k, t.tile k = { s.tile k with sram := (t.tile k).sram, ecc := (t.tile k).ecc, acc0 := (t.tile k).acc0, acc1 := (t.tile k).acc1 }
  accs : ∀ k, k ≠ tileOf i → (t.tile k).acc0 = (s.tile k).acc0 ∧ (t.tile k).acc1 = (s.tile k).acc1
  sram : ∀ k p, ¬ W k p → (t.tile k).sram.byte p = (s.tile k).sram.byte p
  tenants : t.tenants = s.tenants
  regions : t.regions = s.regions
  funcs : t.funcs = s.funcs
  dram : t.dram = s.dram
  ktags : t.ktags = s.ktags
  dramEcc : t.dramEcc = s.dramEcc
  frames : t.frames = s.frames
  pub : t.pub = s.pub
  pubLog : t.pubLog = s.pubLog
  tlb1 : t.tlb1 = s.tlb1
  tlb2 : t.tlb2 = s.tlb2
  keys : t.keys = s.keys
  buckets : ∀ st n, t.bucket st n = { s.bucket st n with tok := (t.bucket st n).tok }
  pages : t.pages = s.pages
  ual : t.ual = s.ual
  host : t.host = s.host
  die : t.die = s.die

/-- The entry of a word has this new state; every other entry is as it was. -/
def Enters (s t : State) (w : QEntry) (st : WStat) : Prop :=
  (t.slot s.cur).eng = { s.me.eng.mapWord w (fun a => { a with stat := st }) with hold := (t.slot s.cur).eng.hold }

/-- R140, R141: the port that the destination of a word of ECLS 0 or 1 is bound to, none for a register, or the cause. -/
def destPort (s : State) (i : Instr) (w : QEntry) : Except Cause (Option Nat) :=
  match vdest i with
  | none => .ok none
  | some v => streamDst s s.cur w v (sendBytes i s.me.id.vlmax)

/-- R139-R141, R170, R171: a word of ECLS 0 or 1 may pass its fault point: it is the word that starts, its stream sources and destination
are bound to ports that fit, every slot they take is at hand, and the stream hold buffer has room. `srcs` are its stream-bound
sources, none for a register; `dp` is the port that its destination is bound to. -/
structure VecGo (s : State) (i : Instr) (w : QEntry) (srcs : List (Option StreamSrc)) (dp : Option Nat) : Prop where
  start : s.startable = some w
  sources : streamSrcs s s.cur (readBytes i s.me.id.vlmax) (vsources i) [] = .ok srcs
  dest : destPort s i w = .ok dp
  ready : streamsReady s s.cur srcs = true
  clean : streamFault s s.cur srcs = none
  room : dp = none ∨ s.me.holdRoom = true

/-- R139-R141, R170: what stands against a word of ECLS 0 or 1 that may start. While a slot that it takes from a port that is bound and
fits is not at hand, it waits; then the cause that its source ports give (PORTUNBOUND, PORTSIZE), else its destination port (ENDSTREAM and
SEVERED too), else one of the slots (SEVERED, MIRRORDIFF, ENDSTREAM); the order of these is the model's choice (log 58). While the stream
hold buffer has no room for what it sends, it waits; a wait changes nothing. -/
def StreamStops (s : State) (i : Instr) (w : QEntry) : Prop :=
  s.startable = some w →
    let n := readBytes i s.me.id.vlmax
    let near := streamsReady s s.cur (fitSrcs s s.cur n (vsources i) [])
    (near = false → exec i s = .next s) ∧
    (near = true →
      (∀ c, streamSrcs s s.cur n (vsources i) [] = .error c → StopsE (exec i s) s w c none) ∧
      ∀ srcs, streamSrcs s s.cur n (vsources i) [] = .ok srcs →
        (∀ c, destPort s i w = .error c → StopsE (exec i s) s w c none) ∧
        ∀ dp, destPort s i w = .ok dp →
          (∀ c, streamFault s s.cur srcs = some c → StopsE (exec i s) s w c none) ∧
          (streamFault s s.cur srcs = none → dp ≠ none → s.me.holdRoom = false → exec i s = .next s))

/-- The lanes of the `n`-th source of a word: of a register, or of the slots that its port delivers. -/
def opLanes (s : State) (i : Instr) (srcs : List (Option StreamSrc)) (n : Nat) : List Nat :=
  match (vsources i)[n]?, srcs[n]? with
  | some v, some none => lanesOf (s.me.vreg v) s.me.id.vlmax
  | some _, some (some a) => wordsOf (streamBytes s s.cur a) s.me.id.vlmax
  | _, _ => []

/-- The frame of a word of ECLS 0 or 1 that has passed its fault point and stores to the bytes of `W`: its entry awaits retirement, the
accumulators are as they were, and so are the ports that it does not name; with no stream-bound operand, the ports, the networks,
EOSBITS and the hold buffer; a stream-bound destination has put `sent` into the hold buffer, cut into slots. -/
structure VecFrame (s t : State) (w : QEntry) (srcs : List (Option StreamSrc)) (dp : Option Nat) (W : Nat → Nat → Prop)
    (sent : List Byte) : Prop where
  kept : EKept s.cur W s t
  buckets : t.buckets = s.buckets
  entry : Enters s t w .done
  accs : (t.tile (tileOf s.cur)).acc0 = (s.tile (tileOf s.cur)).acc0 ∧ (t.tile (tileOf s.cur)).acc1 = (s.tile (tileOf s.cur)).acc1
  ports : ∀ p, (∀ a, some a ∈ srcs → a.port ≠ p) → (t.slot s.cur).port p = s.me.port p
  still : (∀ o ∈ srcs, o = none) → (t.slot s.cur).ports = s.me.ports ∧ t.nets = s.nets ∧ (t.slot s.cur).vec.eos = s.me.vec.eos
  noHold : dp = none → (t.slot s.cur).eng.hold = s.me.eng.hold
  hold : ∀ p c, dp = some p → s.chan? (s.me.port p).net (s.me.port p).ch = some c →
    (t.slot s.cur).eng.hold = s.me.eng.hold ++ [⟨w.pos, w.sub, p, cutSlots c.size (sent.length / c.size) sent⟩]

/-- R204: the lane `k` of an element-wise word: the value where it is active, +0 where it is masked off under `mz`, else none. -/
def laneOut (s : State) (f : VecF) (op : Nat → FRes) (k : Nat) : Option Nat :=
  if s.me.active f.msk k then some (op k).1 else if k < s.me.vec.vl ∧ f.mz = 1 then some 0 else none

/-- R204, R77: the flags of the active lanes. -/
def laneFlags (s : State) (f : VecF) (op : Nat → FRes) : Flags :=
  (List.range s.me.id.vlmax).foldl (fun fl k => if s.me.active f.msk k then fl ||| (op k).2 else fl) 0

/-- The bytes that go to a stream-bound destination (R140): a lane that is not written is zero. -/
def laneBytes (s : State) (val : Nat → Option Nat) : List Byte := bytesOf ((List.range s.me.id.vlmax).map fun k => (val k).getD 0)

/-- A word that gives the lanes of its destination the values `val`, with `fl` ORed into FFLAGS, completes: the other lanes of the
destination, the other registers, the masks and VL are as they were; a stream-bound destination sends instead. -/
def LaneWord (s : State) (i : Instr) (w : QEntry) (srcs : List (Option StreamSrc)) (dp : Option Nat) (val : Nat → Option Nat)
    (fl : Flags) : Prop :=
  ∃ t, exec i s = .next t ∧ VecFrame s t w srcs dp (fun _ _ => False) (laneBytes s val) ∧
    (t.slot s.cur).vec.fflags = s.me.vec.fflags ||| fl ∧ (t.slot s.cur).vec.vl = s.me.vec.vl ∧ (t.slot s.cur).vec.m = s.me.vec.m ∧
    ∀ n k, k < 64 → lane ((t.slot s.cur).vreg n) k =
      if dp = none ∧ vdest i = some n ∧ k < s.me.id.vlmax then (match val k with | some x => x % 2 ^ 32 | none => lane (s.me.vreg n) k)
      else lane (s.me.vreg n) k

/-- A word that writes mask register `md`, with `fl` ORed into FFLAGS, completes: bit `k` becomes `bit k`; the registers, the other masks
and VL are as they were. -/
def MaskWord (s : State) (i : Instr) (w : QEntry) (srcs : List (Option StreamSrc)) (md : Nat) (bit : Nat → Bool) (fl : Flags) : Prop :=
  ∃ t, exec i s = .next t ∧ VecFrame s t w srcs none (fun _ _ => False) [] ∧
    (t.slot s.cur).vec.fflags = s.me.vec.fflags ||| fl ∧ (t.slot s.cur).vec.vl = s.me.vec.vl ∧ (t.slot s.cur).vec.v = s.me.vec.v ∧
    ∀ n k, k < s.me.id.vlmax → k < 64 → ((t.slot s.cur).mask n).getLsbD k = if n = md ∧ n ≠ 0 then bit k else (s.me.mask n).getLsbD k

/-- R249, R259: the frame of a word of ECLS 2 that has passed its fault point and stores to the bytes of `W`: its entry awaits
retirement; the ports, the networks, the hold buffer, the masks and VL are as they were. -/
structure MatFrame (s t : State) (w : QEntry) (W : Nat → Nat → Prop) : Prop where
  kept : EKept s.cur W s t
  buckets : t.buckets = s.buckets
  entry : Enters s t w .done
  hold : (t.slot s.cur).eng.hold = s.me.eng.hold
  ports : (t.slot s.cur).ports = s.me.ports
  nets : t.nets = s.nets
  masks : (t.slot s.cur).vec.m = s.me.vec.m ∧ (t.slot s.cur).vec.vl = s.me.vec.vl ∧ (t.slot s.cur).vec.eos = s.me.vec.eos

/-- Of a word of ECLS 2 that changes accumulator `n` only, to `a`, with `fl` ORed into FFLAGS: it completes. -/
def AccWord (out : Out) (s : State) (w : QEntry) (n : Nat) (fl : Flags) (good : Acc → Prop) : Prop :=
  ∃ t, out = .next t ∧ MatFrame s t w (fun _ _ => False) ∧ good ((t.tile (tileOf s.cur)).acc n) ∧
    (t.tile (tileOf s.cur)).acc (1 - n) = (s.tile (tileOf s.cur)).acc (1 - n) ∧
    (t.slot s.cur).vec.v = s.me.vec.v ∧ (t.slot s.cur).vec.fflags = s.me.vec.fflags ||| fl

/-- A word of ECLS 2 that changes no accumulator and no vector register and stores to the bytes of `W` completes, leaving a state of
which `good` holds. -/
def BlockWord (out : Out) (s : State) (w : QEntry) (W : Nat → Nat → Prop) (fl : Flags) (good : State → Prop) : Prop :=
  ∃ t, out = .next t ∧ MatFrame s t w W ∧ good t ∧
    (t.tile (tileOf s.cur)).acc0 = (s.tile (tileOf s.cur)).acc0 ∧ (t.tile (tileOf s.cur)).acc1 = (s.tile (tileOf s.cur)).acc1 ∧
    (t.slot s.cur).vec.v = s.me.vec.v ∧ (t.slot s.cur).vec.fflags = s.me.vec.fflags ||| fl

/-! ## Copy words -/

/-- R290, R297: a step of copy word `w`, past its fault point: `n` elements are moved, `used` more host reads have served (R346), `part`
waits to fill a slot, and the word has done everything if `fin`; every other entry is as it was. -/
def Moves (s t : State) (w : QEntry) (n used : Nat) (part : List Byte) (fin : Bool) : Prop :=
  (t.slot s.cur).eng = s.me.eng.mapWord w fun a =>
    { a with prog := { a.prog with n := n, part := part, hostN := a.prog.hostN + used
                                   host := a.prog.host.filter fun h => a.prog.hostN + used ≤ h.1 }
             stat := if fin then .done else a.stat }

/-- Of the state that a step of a copy word leaves: the registers, the accumulators, the ports, and every byte of SRAM that `W` does not
name are as they were. -/
structure CopyFrame (W : Nat → Nat → Prop) (s t : State) : Prop where
  kept : EKept s.cur W s t
  vec : (t.slot s.cur).vec = s.me.vec
  ports : (t.slot s.cur).ports = s.me.ports
  accs : (t.tile (tileOf s.cur)).acc0 = (s.tile (tileOf s.cur)).acc0 ∧ (t.tile (tileOf s.cur)).acc1 = (s.tile (tileOf s.cur)).acc1

/-- From `s` to `t`, slot `i` may have changed its entries, its ports and CLOSEDWR, and packets may have been put on their way: every
other slot, every other register of the slot, every tile, every memory, the regions, the host interface and the control die are as they
were, but for legs that a close cuts off at other slots' read ports. -/
structure SendKept (i : Nat) (s t : State) : Prop where
  cur : t.cur = s.cur
  agenda : t.agenda = s.agenda
  curQ : t.curQ = s.curQ
  slot : t.slot i = { s.slot i with eng := (t.slot i).eng, ports := (t.slot i).ports
                                    vec := { (s.slot i).vec with closedwr := (t.slot i).vec.closedwr } }
  slots : ∀ j, j ≠ i → PortsCut (s.slot j) (t.slot j)
  tiles : t.tiles = s.tiles
  tenants : t.tenants = s.tenants
  regions : t.regions = s.regions
  funcs : t.funcs = s.funcs
  dram : t.dram = s.dram
  ktags : t.ktags = s.ktags
  dramEcc : t.dramEcc = s.dramEcc
  frames : t.frames = s.frames
  pub : t.pub = s.pub
  pubLog : t.pubLog = s.pubLog
  tlb1 : t.tlb1 = s.tlb1
  tlb2 : t.tlb2 = s.tlb2
  keys : t.keys = s.keys
  buckets : t.buckets = s.buckets
  pages : t.pages = s.pages
  host : t.host = s.host
  die : t.die = s.die

/-! ## Events -/

/-- From `s` to `t` slot `i` has become `y`; nothing else is changed. -/
def SlotBecomes (s t : State) (i : Nat) (y : Slot) : Prop :=
  t.slot i = y ∧ (∀ j, j ≠ i → t.slot j = s.slot j) ∧ t = { s with slots := t.slots }

/-- R172: word `w` of the slot that moves has retired: it has left its queue, its follow-on is a word like any other, and what the commit
point then passes is performed; nothing else is changed, the bank in use apart. -/
def Retired (s t : State) (w : QEntry) : Prop :=
  (∀ q, (t.slot s.cur).eng.queue q = ((s.me.eng.dropWord w).wakeFollow w).queue q) ∧
    (t.slot s.cur).eng.out = ((s.me.eng.dropWord w).wakeFollow w).out ∧
    Kept s.cur (heldBytes s s.cur) s
      ((withQueuesOf s t s.cur).modSlot s.cur fun y => { y with eng := { y.eng with out := s.me.eng.out } })

/-- Nothing of the slot that moves is unretired or held: its instruction is the commit point, with nothing to commit. -/
def Idle (s : State) : Prop :=
  s.me.committed = true ∧ s.me.eng.hist = [] ∧ s.me.eng.stores = [] ∧ s.me.gen.heldExit = false

/-- The port of an endpoint has become `p`; no other port and no other part of a slot is changed. -/
def PortBecomes (s t : State) (e : Ep) (p : Port) : Prop :=
  t.epPort e = p ∧ (∀ q, q ≠ e.port → (t.slot e.slotNo).port q = (s.slot e.slotNo).port q) ∧
    t.slot e.slotNo = { s.slot e.slotNo with ports := (t.slot e.slotNo).ports } ∧ ∀ j, j ≠ e.slotNo → t.slot j = s.slot j

end Sys2Proof.Machine
end

