-- ==== Sys2Proof/Certificates/Slice0/Obligations.lean ====
section
/-! DEFINITION. The statements for the provers. Each says what the spec says an instruction or the machine does; the terms they share
stand in Safety.lean. -/

open Sys2Proof Sys2Proof.Machine

/-! ## Integer instructions (R120-R122) -/

/-- R120: what each two-source instruction of the alu group computes, for every operand form, and its frame: the destination and the
pc only. -/
def Obligations.BinaryResults : Prop :=
  ∀ (s : State) (d a b : Opnd), OperandsOk s [a, b] (some d) →
    let x := srcVal s [a, b] 0
    let y := srcVal s [a, b] 1
    let sh := (y.extractLsb' 0 6).toNat
    let done (i : Instr) (v : Word) : Prop := Completes (exec i s) s [a, b] d v (s.pc + 4)
    done (.add d a b) (x + y) ∧ done (.sub d a b) (x - y) ∧
    done (.and d a b) (x &&& y) ∧ done (.or d a b) (x ||| y) ∧ done (.xor d a b) (x ^^^ y) ∧ done (.andn d a b) (x &&& ~~~y) ∧
    done (.sll d a b) (x <<< sh) ∧ done (.srl d a b) (x >>> sh) ∧ done (.sra d a b) (x.sshiftRight sh) ∧
    done (.slt d a b) (if x.toInt < y.toInt then 1 else 0) ∧ done (.sltu d a b) (if x.toNat < y.toNat then 1 else 0) ∧
    done (.min d a b) (if x.toInt ≤ y.toInt then x else y) ∧ done (.max d a b) (if x.toInt ≤ y.toInt then y else x) ∧
    done (.minu d a b) (if x.toNat ≤ y.toNat then x else y) ∧ done (.maxu d a b) (if x.toNat ≤ y.toNat then y else x) ∧
    done (.mul d a b) (BitVec.ofNat 64 (x.toNat * y.toNat)) ∧
    done (.mulh d a b) (BitVec.ofInt 64 (x.toInt * y.toInt / 2 ^ 64)) ∧
    done (.mulhu d a b) (BitVec.ofNat 64 (x.toNat * y.toNat / 2 ^ 64))

/-- R120, R82: quotients and remainders, with the two special cases. -/
def Obligations.DivisionResults : Prop :=
  ∀ (s : State) (d a b : Opnd), OperandsOk s [a, b] (some d) →
    let x := srcVal s [a, b] 0
    let y := srcVal s [a, b] 1
    let done (i : Instr) (v : Word) : Prop := Completes (exec i s) s [a, b] d v (s.pc + 4)
    (y = 0 → done (.div d a b) (BitVec.allOnes 64) ∧ done (.divu d a b) (BitVec.allOnes 64) ∧
      done (.rem d a b) x ∧ done (.remu d a b) x) ∧
    (x = BitVec.intMin 64 → y = BitVec.allOnes 64 → done (.div d a b) (BitVec.intMin 64) ∧ done (.rem d a b) 0) ∧
    (y ≠ 0 → ∃ q r : Int, x.toInt = q * y.toInt + r ∧ r.natAbs < y.toInt.natAbs ∧ (r = 0 ∨ (r < 0 ↔ x.toInt < 0)) ∧
      done (.div d a b) (BitVec.ofInt 64 q) ∧ done (.rem d a b) (BitVec.ofInt 64 r)) ∧
    (y ≠ 0 → ∃ q r : Nat, x.toNat = q * y.toNat + r ∧ r < y.toNat ∧
      done (.divu d a b) (BitVec.ofNat 64 q) ∧ done (.remu d a b) (BitVec.ofNat 64 r))

/-- R120, R10: what each one-source instruction of the alu group computes, and its frame. A count is said by the bits it counts. -/
def Obligations.UnaryResults : Prop :=
  ∀ (s : State) (d a : Opnd), OperandsOk s [a] (some d) →
    let x := srcVal s [a] 0
    let done (i : Instr) (v : Word) : Prop := Completes (exec i s) s [a] d v (s.pc + 4)
    (∀ n, n ≤ 64 → (∀ k, k < n → x.getLsbD (63 - k) = false) → (n < 64 → x.getLsbD (63 - n) = true) →
      done (.clz d a) (BitVec.ofNat 64 n)) ∧
    (∀ n, n ≤ 64 → (∀ k, k < n → x.getLsbD k = false) → (n < 64 → x.getLsbD n = true) →
      done (.ctz d a) (BitVec.ofNat 64 n)) ∧
    done (.popc d a) (BitVec.ofNat 64 ((List.range 64).filter fun k => x.getLsbD k).length) ∧
    done (.sextb d a) ((x.extractLsb' 0 8).signExtend 64) ∧ done (.sexth d a) ((x.extractLsb' 0 16).signExtend 64) ∧
    done (.sextw d a) ((x.extractLsb' 0 32).signExtend 64) ∧
    done (.zextb d a) ((x.extractLsb' 0 8).zeroExtend 64) ∧ done (.zexth d a) ((x.extractLsb' 0 16).zeroExtend 64) ∧
    done (.zextw d a) ((x.extractLsb' 0 32).zeroExtend 64)

/-- R121, R122: what each instruction with an immediate computes, and its frame. -/
def Obligations.ImmediateResults : Prop :=
  (∀ (s : State) (d a : Opnd) (i : BitVec 14), OperandsOk s [a] (some d) →
    let x := srcVal s [a] 0
    let y : Word := i.signExtend 64
    let done (j : Instr) (v : Word) : Prop := Completes (exec j s) s [a] d v (s.pc + 4)
    done (.addi d a i) (x + y) ∧ done (.andi d a i) (x &&& y) ∧ done (.ori d a i) (x ||| y) ∧ done (.xori d a i) (x ^^^ y) ∧
    done (.slti d a i) (if x.toInt < y.toInt then 1 else 0) ∧ done (.sltiu d a i) (if x.toNat < y.toNat then 1 else 0)) ∧
  (∀ (s : State) (d a : Opnd) (h : BitVec 6), OperandsOk s [a] (some d) →
    let x := srcVal s [a] 0
    let done (j : Instr) (v : Word) : Prop := Completes (exec j s) s [a] d v (s.pc + 4)
    done (.slli d a h) (x <<< h.toNat) ∧ done (.srli d a h) (x >>> h.toNat) ∧ done (.srai d a h) (x.sshiftRight h.toNat)) ∧
  (∀ (s : State) (d : Opnd) (i : BitVec 20), OperandsOk s [] (some d) →
    Completes (exec (.lsi d i) s) s [] d (i.signExtend 64 <<< 14) (s.pc + 4) ∧
    Completes (exec (.addpc d i) s) s [] d (s.pc + i.signExtend 64 * 4) (s.pc + 4))

/-- R41, R44, R136: the values that sources supply: a g register its value, g0 zero; a port that has a slot the 8 bytes at its read
cursor, little-endian, the cursor and the log of the read moving on, so that a second naming reads the next slot; a port at its end
mark zero, with its EOSBITS bit set. -/
def Obligations.SourceForms : Prop :=
  ∀ (s : State) (o : Opnd) (os : List Opnd), opReserved o = false →
    (o.toNat = 0 → takeSrc s o = (0, s)) ∧
    (opIsPort o = false → takeSrc s o = (s.me.bank.readG o.toNat, s)) ∧
    (∀ c, opIsPort o = true → s.chan? (s.me.port (opPort o)).net (s.me.port (opPort o)).ch = some c →
      let p := s.me.port (opPort o)
      (p.readAt c p.k = .data →
        (takeSrc s o).1 = BitVec.ofNat 64 (leNat (s.slotBytes s.cur c p.k)) ∧
        ((takeSrc s o).2.me.port (opPort o)).k = p.k + 1 ∧
        (takeSrc s o).2.me.eng.hist = s.me.eng.hist ++ [⟨s.me.gen.icnt, .read (opPort o) 1⟩]) ∧
      (p.readAt c p.k = .fin →
        (takeSrc s o).1 = 0 ∧ (takeSrc s o).2.me.port (opPort o) = p ∧
        (takeSrc s o).2.me.vec.eos = s.me.vec.eos ||| (1#16 <<< (opPort o)))) ∧
    (takeSrcs s (o :: os)).1 = (takeSrc s o).1 :: (takeSrcs (takeSrc s o).2 os).1


/-! ## Loads, stores, templates (R107, R116-R118, R123-R125, R175) -/

/-- R109, R116, R117: a byte as a scalar load finds it is the one of the youngest held store of the slot that covers it; with none,
SRAM's. The commit point performs, in program order, the held stores it has passed, and keeps the others held: where no store of fewer
than 8 bytes among them lies in a word with a double-bit error, a byte that the last such store to reach it covers reads as that store
has it; where the first of them does, the region halts for ECCFATAL as the store is performed (the model's choice, log 19: R125 says
that a store performed at its commit cannot fault). Aliases of a byte are ruled out by what `covers` says. -/
def Obligations.StoreBuffer : Prop :=
  (∀ (s : State) (i a : Nat),
    (∀ (older newer : List Store) (h : Store), (s.slot i).eng.stores = older ++ h :: newer →
      h.addr ≤ a → a < h.addr + h.data.length → (∀ g ∈ newer, a < g.addr ∨ g.addr + g.data.length ≤ a) →
      s.loadByte i a = h.data.getD (a - h.addr) 0) ∧
    ((∀ g ∈ (s.slot i).eng.stores, a < g.addr ∨ g.addr + g.data.length ≤ a) → s.loadByte i a = s.byteAt i a)) ∧
  (∀ (s : State) (i a p : Nat), (s.slot i).phys a = some p →
    let covers (h : Store) : Prop := ∃ j < h.data.length, (s.slot i).phys (h.addr + j) = some p
    let lim := (s.slot i).eng.commitPos
    (∀ h ∈ (s.slot i).eng.stores, passedCommit lim h.pos = true → h.data.length < 8 → s.eccAt i h.addr h.data.length = false) →
    ((commitSlot s i).slot i).eng.stores = (s.slot i).eng.stores.filter (fun h => !passedCommit lim h.pos) ∧
    (∀ (older newer : List Store) (h : Store), (s.slot i).eng.stores.filter (fun h => passedCommit lim h.pos) = older ++ h :: newer →
      h.addr ≤ a → a < h.addr + h.data.length → (∀ j < h.data.length, (s.slot i).phys (h.addr + j) = some p → h.addr + j = a) →
      (∀ g ∈ newer, ¬ covers g) → (commitSlot s i).byteAt i a = h.data.getD (a - h.addr) 0) ∧
    ((∀ h ∈ (s.slot i).eng.stores, passedCommit lim h.pos = true → ¬ covers h) → (commitSlot s i).byteAt i a = s.byteAt i a)) ∧
  (∀ (s : State) (i : Nat) (h : Store) (newer : List Store), NoGroupWaits s →
    (s.slot i).eng.stores.filter (fun h => passedCommit (s.slot i).eng.commitPos h.pos) = h :: newer →
    h.data.length < 8 → s.eccAt i h.addr h.data.length = true →
    ((commitSlot s i).region (regionOf (tileOf i))).st = .halted ∧
    ((commitSlot s i).region (regionOf (tileOf i))).hcause = BitVec.ofNat 8 Cause.eccfatal.code)

/-- R123, R124: what each load puts into its destination, for every operand form, and its frame. Every access check of R107, R115 and
R118 is passed where `loadAccess` answers go. -/
def Obligations.LoadResults : Prop :=
  (∀ (s : State) (d a : Opnd) (i : BitVec 14), OperandsOk s [a] (some d) →
    let t := taken s [a]
    let ea := (srcVal s [a] 0 + i.signExtend 64).toNat
    let byte (k : Nat) : Byte := t.loadByte s.cur (ea + k)
    let done (j : Instr) (v : Word) : Prop := Completes (exec j s) s [a] d v (s.pc + 4)
    (loadAccess t s.cur ea 1 = .go →
      done (.ldb d a i) ((byte 0).signExtend 64) ∧ done (.ldbu d a i) ((byte 0).zeroExtend 64)) ∧
    (loadAccess t s.cur ea 2 = .go →
      done (.ldh d a i) ((byte 1 ++ byte 0).signExtend 64) ∧ done (.ldhu d a i) ((byte 1 ++ byte 0).zeroExtend 64)) ∧
    (loadAccess t s.cur ea 4 = .go →
      done (.ldw d a i) ((byte 3 ++ byte 2 ++ byte 1 ++ byte 0).signExtend 64) ∧
      done (.ldwu d a i) ((byte 3 ++ byte 2 ++ byte 1 ++ byte 0).zeroExtend 64)) ∧
    (loadAccess t s.cur ea 8 = .go →
      done (.ldd d a i) (byte 7 ++ byte 6 ++ byte 5 ++ byte 4 ++ byte 3 ++ byte 2 ++ byte 1 ++ byte 0))) ∧
  (∀ (s : State) (d : Opnd) (i : BitVec 20), OperandsOk s [] (some d) →
    let ea := ((s.pc &&& ~~~7#64) + i.signExtend 64 * 8).toNat
    let byte (k : Nat) : Byte := s.loadByte s.cur (ea + k)
    literalAccess s s.cur ea = .go →
      Completes (exec (.ldpc d i) s) s [] d
        (byte 7 ++ byte 6 ++ byte 5 ++ byte 4 ++ byte 3 ++ byte 2 ++ byte 1 ++ byte 0) (s.pc + 4))

/-- R125, R116: what each store holds and, at its commit, performs, for every operand form, and its frame: only the stored bytes, at the
address the instruction computes from the operand it takes first. A store of fewer than 8 bytes is one into a word that holds no
double-bit error (R109; StoreBuffer says what happens on one). -/
def Obligations.StoreResults : Prop :=
  ∀ (s : State) (v a : Opnd) (i : BitVec 14), OperandsOk s [a, v] none →
    let t := taken s [a, v]
    let ea := (srcVal s [a, v] 0 + i.signExtend 64).toNat
    let x := srcVal s [a, v] 1
    (storeAccess t s.cur ea 1 = .go → t.eccAt s.cur ea 1 = false → StoresAt (exec (.stb v a i) s) s [a, v] ea x 1) ∧
    (storeAccess t s.cur ea 2 = .go → t.eccAt s.cur ea 2 = false → StoresAt (exec (.sth v a i) s) s [a, v] ea x 2) ∧
    (storeAccess t s.cur ea 4 = .go → t.eccAt s.cur ea 4 = false → StoresAt (exec (.stw v a i) s) s [a, v] ea x 4) ∧
    (storeAccess t s.cur ea 8 = .go → StoresAt (exec (.std v a i) s) s [a, v] ea x 8)

/-- R175: `tset` joins the low halves of ga and gb, `tld` loads a template; nothing but the template changes. -/
def Obligations.TemplateResults : Prop :=
  ∀ (s : State) (r : BitVec 4) (a b : Opnd) (i : BitVec 14),
    (OperandsOk s [a, b] none → s.me.histFull (histNeed [a, b] none + 1) = false →
      SetsTemplate (exec (.tset r a b) s) s [a, b] r.toNat
        ((srcVal s [a, b] 1).extractLsb' 0 32 ++ (srcVal s [a, b] 0).extractLsb' 0 32)) ∧
    (OperandsOk s [a] none → s.me.histFull (histNeed [a] none + 1) = false →
      let t := taken s [a]
      let ea := (srcVal s [a] 0 + i.signExtend 64).toNat
      let byte (k : Nat) : Byte := t.loadByte s.cur (ea + k)
      loadAccess t s.cur ea 8 = .go →
      SetsTemplate (exec (.tld r a i) s) s [a] r.toNat
        (byte 7 ++ byte 6 ++ byte 5 ++ byte 4 ++ byte 3 ++ byte 2 ++ byte 1 ++ byte 0))

/-- R107: below level S, a scalar access that is not aligned raises ALIGN; an aligned one that leaves the partition, meets the buffer of
a channel that the slot reads or, storing, a VALID or INFLIGHT segment raises WINDOW; FAULTWORD is the address (R357), and the
instruction has no effect (R44). -/
def Obligations.AccessTraps : Prop :=
  ∀ (s : State) (v a : Opnd) (i : BitVec 14), s.me.atS = false →
    let bad (srcs : List Opnd) (wr : Bool) (ea n : Nat) : Prop :=
      let t := taken s srcs
      t.me.id.size * 4096 < ea + n ∨ t.inBuffer t.me ea n = true ∨ (wr = true ∧ t.me.inCode ea n = true)
    let checked (j : Instr) (srcs : List Opnd) (wr : Bool) (n : Nat) : Prop :=
      let ea := srcVal s srcs 0 + i.signExtend 64
      (ea.toNat % n ≠ 0 → Traps (exec j s) s .align ea) ∧
      (ea.toNat % n = 0 → bad srcs wr ea.toNat n → Traps (exec j s) s .window ea)
    (OperandsOk s [a] (some v) →
      checked (.ldb v a i) [a] false 1 ∧ checked (.ldbu v a i) [a] false 1 ∧ checked (.ldh v a i) [a] false 2 ∧
      checked (.ldhu v a i) [a] false 2 ∧ checked (.ldw v a i) [a] false 4 ∧ checked (.ldwu v a i) [a] false 4 ∧
      checked (.ldd v a i) [a] false 8) ∧
    (OperandsOk s [a, v] none →
      checked (.stb v a i) [a, v] true 1 ∧ checked (.sth v a i) [a, v] true 2 ∧ checked (.stw v a i) [a, v] true 4 ∧
      checked (.std v a i) [a, v] true 8)


/-! ## Branches, jumps, code overlay (R126-R130) -/

/-- R126: where each conditional branch goes, for every operand form, and its frame: the pc only. -/
def Obligations.BranchResults : Prop :=
  ∀ (s : State) (a b : Opnd) (o : BitVec 14), OperandsOk s [a, b] none →
    let x := srcVal s [a, b] 0
    let y := srcVal s [a, b] 1
    let goes (i : Instr) (taken : Prop) : Prop :=
      (taken → Passes (exec i s) s [a, b] (s.pc + o.signExtend 64 * 4)) ∧ (¬ taken → Passes (exec i s) s [a, b] (s.pc + 4))
    goes (.beq a b o) (x = y) ∧ goes (.bne a b o) (x ≠ y) ∧
    goes (.blt a b o) (x.toInt < y.toInt) ∧ goes (.bge a b o) (x.toInt ≥ y.toInt) ∧
    goes (.bltu a b o) (x.toNat < y.toNat) ∧ goes (.bgeu a b o) (x.toNat ≥ y.toNat)

/-- R111, R127, R128, R351, R357: where each jump goes and the link it leaves, for every operand form, and its frame: `jalr` reads ga before
gd is written; `jmpf` goes on below S only into a VALID segment of the code area, at S only within the supervisor partition. Below S a
target that is no multiple of 4 raises ALIGN, a target of `jmpf` outside the code area WINDOW, one in an INVALID segment CODEMISS with
the segment's number, one in a FAILED segment the MEMFAULT of its request, with its address and kind, whose entry makes the segment
INVALID; an INFLIGHT segment makes the slot wait. No link is written then. -/
def Obligations.JumpResults : Prop :=
  ((∀ (s : State) (d : Opnd) (i : BitVec 20), OperandsOk s [] (some d) →
    Completes (exec (.jal d i) s) s [] d (s.pc + 4) (s.pc + i.signExtend 64 * 4)) ∧
  (∀ (s : State) (d a : Opnd) (i : BitVec 14), OperandsOk s [a] (some d) →
    let target := srcVal s [a] 0 + i.signExtend 64
    target.toNat % 4 = 0 →
      Completes (exec (.jalr d a i) s) s [a] d (s.pc + 4) target ∧
      (s.me.atS = false → target.toNat < s.me.codeSegs * 4096 → (s.me.seg (target.toNat / 4096)).st = .valid →
        Completes (exec (.jmpf d a i) s) s [a] d (s.pc + 4) target) ∧
      (s.me.atS = true → target.toNat < Config.supSize → Completes (exec (.jmpf d a i) s) s [a] d (s.pc + 4) target))) ∧
  (∀ (s : State) (d a : Opnd) (i : BitVec 14), OperandsOk s [a] (some d) → s.me.atS = false →
    let target := srcVal s [a] 0 + i.signExtend 64
    let k := target.toNat / 4096
    (target.toNat % 4 ≠ 0 → Traps (exec (.jalr d a i) s) s .align target ∧ Traps (exec (.jmpf d a i) s) s .align target) ∧
    (target.toNat % 4 = 0 → s.me.codeSegs * 4096 ≤ target.toNat → Traps (exec (.jmpf d a i) s) s .window target) ∧
    (target.toNat % 4 = 0 → target.toNat < s.me.codeSegs * 4096 →
      ((s.me.seg k).st = .invalid → Traps (exec (.jmpf d a i) s) s .codemiss (BitVec.ofNat 64 k)) ∧
      ((s.me.seg k).st = .failed → TrapsWith (exec (.jmpf d a i) s) s
        { gFault s .memfault s.pc (((s.me.seg k).fva.extractLsb' 0 57).zeroExtend 64) (some (s.me.seg k).fva) with seg := some k }) ∧
      ((s.me.seg k).st = .inflight → Waits (exec (.jmpf d a i) s) s .segment)))

/-- R129, R351: `cfetch`, below S and at S: its segment becomes INFLIGHT and its request is queued last of the segment's, sent at the commit
and not before: it is unsent while an older word is unretired; no other segment changes state. At S the segment that the pc lies in is not
refused. Below S an address that is no multiple of 4,096 or exceeds 57 bits raises ALIGN with it, a segment outside the code area, or the
one that the pc is in, WINDOW with its number. R130: `cwait` goes on from an INVALID or VALID segment, waits on an INFLIGHT one, and below S
raises the MEMFAULT of a FAILED one; at S it goes on from a FAILED segment too. -/
def Obligations.OverlayResults : Prop :=
  (∀ (s : State) (a b : Opnd), OperandsOk s [a, b] none →
    let k := srcVal s [a, b] 0
    let va := srcVal s [a, b] 1
    va.toNat % 4096 = 0 → va.toNat < 2 ^ 57 → k.toNat < s.me.codeSegs → (s.me.atS = false → s.pc.toNat / 4096 ≠ k.toNat) →
    s.me.histFull (histNeed [a, b] none + 1) = false →
    ∃ t, exec (.cfetch a b) s = .next t ∧ Issued s t (s.pc + 4) ∧ Kept s.cur (heldBytes s s.cur) s t ∧
      GKept s.cur none s t ∧ ((t.slot s.cur).seg k.toNat).st = .inflight ∧
      (∀ j, j ≠ k.toNat → ((t.slot s.cur).seg j).st = (s.me.seg j).st) ∧
      ∃ r, ((t.slot s.cur).seg k.toNat).reqs.getLast? = some r ∧ r.va = va ∧ r.pos = s.me.gen.icnt ∧
        (s.me.committed = true → r.sent = true) ∧ ((∃ w ∈ s.me.eng.words, w.pos ≤ s.me.gen.icnt) → r.sent = false)) ∧
  (∀ (s : State) (a b : Opnd), OperandsOk s [a, b] none → s.me.atS = false →
    let k := srcVal s [a, b] 0
    let va := srcVal s [a, b] 1
    (va.toNat % 4096 ≠ 0 ∨ 2 ^ 57 ≤ va.toNat → Traps (exec (.cfetch a b) s) s .align va) ∧
    (va.toNat % 4096 = 0 → va.toNat < 2 ^ 57 → s.me.codeSegs ≤ k.toNat ∨ s.pc.toNat / 4096 = k.toNat →
      Traps (exec (.cfetch a b) s) s .window k)) ∧
  (∀ (s : State) (a : Opnd), OperandsOk s [a] none →
    let k := srcVal s [a] 0
    k.toNat < s.me.codeSegs →
      ((s.me.seg k.toNat).st = .invalid ∨ (s.me.seg k.toNat).st = .valid ∨ ((s.me.seg k.toNat).st = .failed ∧ s.me.atS = true) →
        Passes (exec (.cwait a) s) s [a] (s.pc + 4)) ∧
      ((s.me.seg k.toNat).st = .inflight → Waits (exec (.cwait a) s) s .segment) ∧
      ((s.me.seg k.toNat).st = .failed → s.me.atS = false → TrapsWith (exec (.cwait a) s) s
        { gFault s .memfault s.pc (((s.me.seg k.toNat).fva.extractLsb' 0 57).zeroExtend 64) (some (s.me.seg k.toNat).fva) with
          seg := some k.toNat }))


/-! ## Queueing words, and waiting for them (R55, R174, R182, R263) -/

/-- R55, R56, R174: the word that each emit instruction forms and the queue it goes to, for every operand form, and the frame: the
queues, ESEQ and the pc only. -/
def Obligations.EmitResults : Prop :=
  ∀ (s : State) (q : BitVec 2),
    (∀ (a b : Opnd), OperandsOk s [a, b] none →
      Emits (exec (.emit q a b) s) s [a, b] (queueOf q)
        ((srcVal s [a, b] 1).extractLsb' 0 32 ++ (srcVal s [a, b] 0).extractLsb' 0 32) s.instrWord) ∧
    (∀ (n : BitVec 4) (a b : Opnd) (x y : BitVec 4), OperandsOk s [a, b] none →
      Emits (exec (.emitt q n a b x y) s) s [a, b] (queueOf q)
        (patch (patch (s.me.bank.readT n.toNat) x.toNat (srcVal s [a, b] 0)) y.toNat (srcVal s [a, b] 1)) s.instrWord) ∧
    (∀ (o : BitVec 24), OperandsOk s [] none →
      let ea := ((s.pc &&& ~~~7#64) + o.signExtend 64 * 8).toNat
      literalAccess s s.cur ea = .go →
        Emits (exec (.emitl q o) s) s [] (queueOf q) (BitVec.ofNat 64 (s.loadNat s.cur ea 8)) s.instrWord)

/-- R54, R48, R174: a word that is no engine word, or is of a class its queue does not carry, is refused with BADWORD, which FAULTWORD
holds (R357), and nothing is queued: the word that `emit` forms, the patched one of `emitt`, the literal of `emitl`. -/
def Obligations.RefusedWordTraps : Prop :=
  ∀ (s : State) (q : BitVec 2), s.me.atS = false →
    let refused (w : Word) : Prop := (∃ r, decodeEng w = .error r) ∨ classFits w (queueOf q) = false
    (∀ (a b : Opnd), OperandsOk s [a, b] none →
      let w := (srcVal s [a, b] 1).extractLsb' 0 32 ++ (srcVal s [a, b] 0).extractLsb' 0 32
      refused w → Traps (exec (.emit q a b) s) s .badword w) ∧
    (∀ (n : BitVec 4) (a b : Opnd) (x y : BitVec 4), OperandsOk s [a, b] none →
      let w := patch (patch (s.me.bank.readT n.toNat) x.toNat (srcVal s [a, b] 0)) y.toNat (srcVal s [a, b] 1)
      refused w → Traps (exec (.emitt q n a b x y) s) s .badword w) ∧
    (∀ (o : BitVec 24), OperandsOk s [] none →
      let ea := ((s.pc &&& ~~~7#64) + o.signExtend 64 * 8).toNat
      let w := BitVec.ofNat 64 (s.loadNat s.cur ea 8)
      literalAccess s s.cur ea = .go → refused w → Traps (exec (.emitl q o) s) s .badword w)

/-- R56: what each selector replaces of a word: the bits of its field by the low bits of the operand, no other bit; selector 0
nothing. -/
def Obligations.PatchFields : Prop :=
  ∀ (w v : Word) (n : Nat), n < 64 →
    let puts (sel lo width : Nat) : Prop :=
      (patch w sel v).getLsbD n = if lo ≤ n ∧ n < lo + width then v.getLsbD (n - lo) else w.getLsbD n
    puts 0 0 0 ∧ puts 1 46 6 ∧ puts 2 40 6 ∧ puts 3 34 6 ∧ puts 4 28 6 ∧ puts 5 0 16 ∧ puts 6 0 22 ∧ puts 7 41 6 ∧
    puts 8 24 3 ∧ puts 9 0 48 ∧ puts 10 0 32 ∧ puts 11 32 32 ∧ puts 12 48 4 ∧ puts 13 25 3 ∧ puts 14 34 3 ∧ puts 15 0 20

/-- R182, R263: `gwait` goes on once no word of a queue it names is unretired, and waits before; `mwaitb` on a slot that owns the matrix unit
waits while the emit-side open mask is unknown, raises ACCOPEN below S where its batch is open, waits for the words of its batch,
and goes on after them; one that does not own the unit raises MATRIXNOTOWNED. That a follow-on of a copy which a replay issues counts
as a word of MQ, and may be of any batch, also while the copy is still to be issued (`followsAhead`), is the model's reading (log 30). The
frame is the pc. -/
def Obligations.QueueWaits : Prop :=
  (∀ (s : State) (m : BitVec 3), OperandsOk s [] none →
    let busy := (∃ w ∈ s.me.eng.words, m.getLsbD (queueNum w.q) = true) ∨ (m.getLsbD (queueNum .mq) = true ∧ s.followsAhead s.cur = true)
    (¬ busy → Passes (exec (.gwait m) s) s [] (s.pc + 4)) ∧ (busy → Waits (exec (.gwait m) s) s .engine)) ∧
  (∀ (s : State) (b : BitVec 3), OperandsOk s [] none →
    let pending := s.followsAhead s.cur = true ∨
      ∃ w ∈ s.me.eng.words, ∃ f : MatF, f.batch = b ∧ (decodeEng w.word = .ok (.mstep f) ∨ decodeEng w.word = .ok (.mcommit f))
    (s.ownsMatrix s.cur = false → s.me.atS = false → Traps (exec (.mwaitb b) s) s .matrixnotowned s.instrWord) ∧
    (s.ownsMatrix s.cur = true →
      (s.me.maskUnknown = true → Waits (exec (.mwaitb b) s) s .engine) ∧
      (s.me.maskUnknown = false →
        (s.me.eng.omask.getLsbD b.toNat = true → s.me.atS = false → Traps (exec (.mwaitb b) s) s .accopen (b.zeroExtend 64)) ∧
        (s.me.eng.omask.getLsbD b.toNat = false →
          (pending → Waits (exec (.mwaitb b) s) s .engine) ∧ (¬ pending → Passes (exec (.mwaitb b) s) s [] (s.pc + 4))))))


/-! ## Channels (R143, R145, R135-R137) -/

/-- R142, R143: `recvb` waits for the commit point. There a port that is unbound, or is no read port, raises PORTUNBOUND, then a ga that is
no multiple of 8 ALIGN, then a range that R107 does not let it write WINDOW. Else, of its gb slots, the first m that are at hand are taken:
ga has moved past them, gb counts those left; only the range's bytes change, and each byte of the range, where the range names it once, it
is none that the slots lie in, and no held store reaches it, is that of its slot. With all of them it completes, with gb 0 at once. If the
end mark is the next, it completes too where the port tolerates it, EOSBITS set, else raises ENDSTREAM; if nothing is there it waits,
blocked-read; on a severed port it raises SEVERED, at copies that differ MIRRORDIFF, ga and gb as they are then. A port that STREAMMAP
maps makes no difference (the model's reading, log 53). -/
def Obligations.RecvbResults : Prop :=
  ∀ (s : State) (p a b : Opnd), opReserved p = false → burstRegs a b = true →
    let port := s.me.port (opPort p)
    let chn := BitVec.ofNat 64 (opPort p)
    let out := exec (.recvb p a b) s
    let ga := s.me.bank.readG a.toNat
    let n := (s.me.bank.readG b.toNat).toNat
    (s.me.committed = false → Waits out s .engine) ∧
    (s.me.committed = true → s.portChan (opPort p) = none ∨ port.isW = true → Raises out s .portunbound chn) ∧
    ∀ c, s.me.committed = true → s.portChan (opPort p) = some c → port.isW = false →
      let into (j m : Nat) : Option Nat := s.me.phys ((ga + BitVec.ofNat 64 (j * c.size)).toNat + m)
      let bad : Prop := 0 < n ∧ s.badRange s.cur ga.toNat (n * c.size) true = true
      (ga.toNat % 8 ≠ 0 → Raises out s .align ga) ∧
      (ga.toNat % 8 = 0 → bad → Raises out s .window ga) ∧
      ∀ m, ga.toNat % 8 = 0 → ¬ bad → StoresClean s s.cur → m ≤ n → (∀ j, j < m → port.readAt c (port.k + j) = .data) →
        let moved (t : State) : Prop :=
          (t.slot s.cur).bank.readG a.toNat = ga + BitVec.ofNat 64 (m * c.size) ∧
          (t.slot s.cur).bank.readG b.toNat = BitVec.ofNat 64 (n - m) ∧
          (∀ r, r ≠ a.toNat → r ≠ b.toNat → (t.slot s.cur).bank.readG r = s.me.bank.readG r) ∧
          ((t.slot s.cur).port (opPort p)).k = port.k + m ∧
          Kept s.cur (fun k q => heldBytes s s.cur k q ∨ (k = tileOf s.cur ∧ ∃ j < m, ∃ l < c.size, into j l = some q)) s t ∧
          ((∀ j < m, ∀ l < c.size, ∀ i < m, ∀ d < c.size, into j l ≠ some (s.me.id.base * 4096 + c.place (port.k + i) + d)) →
            ∀ j < m, ∀ l < c.size, ∀ q, into j l = some q → (∀ i < m, ∀ d < c.size, into i d = some q → i = j ∧ d = l) →
              ¬ heldBytes s s.cur (tileOf s.cur) q →
              (t.tile (tileOf s.cur)).sram.byte q = (s.slotBytes s.cur c (port.k + j)).getD l 0)
        let done (eos : BitVec 16) : Prop := ∃ t, out = .next t ∧ Issued s t (s.pc + 4) ∧ moved t ∧ (t.slot s.cur).vec.eos = eos
        let held (good : State → Prop) : Prop := ∃ u, moved u ∧ u.me.eng = s.me.eng ∧ u.me.gen = s.me.gen ∧ good u
        (m = n → done s.me.vec.eos) ∧
        (m < n → let next := port.readAt c (port.k + m)
          (next = .fin → c.eostol = true → done (s.me.vec.eos ||| (1#16 <<< opPort p))) ∧
          (next = .fin → c.eostol = false → held fun u => Raises out u .endstream chn) ∧
          (next = .empty → held fun u => Waits out u (.readPort (opPort p) 0)) ∧
          (next = .sev → held fun u => Raises out u .severed chn) ∧
          (next = .diff → held fun u => Raises out u .mirrordiff (BitVec.ofNat 64 c.chid)))

/-- R142, R143, R150: `sendb` waits for the commit point. There a port that is unbound, or is no write port, raises PORTUNBOUND, one that
this process has closed ENDSTREAM, then a ga that is no multiple of 8 ALIGN, then a range that it may not read WINDOW; it waits for an
INFLIGHT segment in the range, and a double-bit error in it halts the region (R109). Else a severed port raises SEVERED; otherwise the
first m slots for which every live reader has room are sent: ga has moved past them, gb counts those left, no byte of memory changes but
those of held stores. With all of them it completes, with gb 0 at once; with no room for the next it waits, blocked-write. A port that
STREAMMAP maps makes no difference (the model's reading, log 53). With no effect held, and only where the channel is no reduce channel and
every reader is of this package, a packet is on its way for each slot to each reader, in order, with the bytes that stood at ga and up;
the packets of the other channels are left out. -/
def Obligations.SendbCompletes : Prop :=
  ∀ (s : State) (p a b : Opnd), opReserved p = false → burstRegs a b = true →
    let port := s.me.port (opPort p)
    let chn := BitVec.ofNat 64 (opPort p)
    let out := exec (.sendb p a b) s
    let ga := s.me.bank.readG a.toNat
    let n := (s.me.bank.readG b.toNat).toNat
    (s.me.committed = false → Waits out s .engine) ∧
    (s.me.committed = true → s.portChan (opPort p) = none ∨ port.isW = false → Raises out s .portunbound chn) ∧
    (s.me.committed = true → s.portChan (opPort p) ≠ none → port.isW = true → s.me.writeClosed (opPort p) = true →
      Raises out s .endstream chn) ∧
    ∀ (c : Chan) (w : Net), s.me.committed = true → s.portChan (opPort p) = some c → s.nets[port.net]? = some w → port.isW = true →
      s.me.writeClosed (opPort p) = false →
      let bad : Prop := 0 < n ∧ s.badRange s.cur ga.toNat (n * c.size) false = true
      let bit2 : Prop := 0 < n ∧ s.eccAt s.cur ga.toNat (n * c.size) = true
      let waits := s.me.waitsSeg ga.toNat (n * c.size)
      (ga.toNat % 8 ≠ 0 → Raises out s .align ga) ∧
      (ga.toNat % 8 = 0 → bad → Raises out s .window ga) ∧
      (ga.toNat % 8 = 0 → ¬ bad → waits = true → Waits out s .segment) ∧
      (ga.toNat % 8 = 0 → ¬ bad → waits = false → bit2 → ∃ t, out = .next t ∧ (t.region (regionOf (tileOf s.cur))).st = .halted) ∧
      (ga.toNat % 8 = 0 → ¬ bad → waits = false → ¬ bit2 → 0 < n → port.sev = true → Raises out s .severed chn) ∧
      ∀ m, ga.toNat % 8 = 0 → ¬ bad → waits = false → ¬ bit2 → StoresClean s s.cur → n = 0 ∨ port.sev = false → m ≤ n →
        (∀ r ∈ c.liveReaders w, m ≤ port.free.getD r 0) →
        let moved (t : State) : Prop :=
          (t.slot s.cur).bank.readG a.toNat = ga + BitVec.ofNat 64 (m * c.size) ∧
          (t.slot s.cur).bank.readG b.toNat = BitVec.ofNat 64 (n - m) ∧
          (∀ r, r ≠ a.toNat → r ≠ b.toNat → (t.slot s.cur).bank.readG r = s.me.bank.readG r) ∧
          ((t.slot s.cur).port (opPort p)).seq = port.seq + m ∧
          Kept s.cur (heldBytes s s.cur) s t ∧
          (s.me.eng.hist = [] → s.me.gen.heldExit = false → c.reduce = false → c.sev = false → c.chid = port.ch →
            c.liveReaders w ≠ [] → (∀ e ∈ c.readers, e.remote = false) →
            let pkt (j r : Nat) : Pkt :=
              { kind := .slot, gen := port.gen, seq := port.seq + j, count := 0, src := port.ix, dst := r, node := none
                data := s.bytesAt s.cur (ga + BitVec.ofNat 64 (j * c.size)).toNat c.size }
            let sent := (List.range m).flatMap fun j => (List.range c.readers.length).map (pkt j)
            t.chan? port.net port.ch = some { c with transit := c.transit ++ sent })
        (m = n → ∃ t, out = .next t ∧ Issued s t (s.pc + 4) ∧ moved t) ∧
        (m < n → (∃ r ∈ c.liveReaders w, port.free.getD r 0 = m) →
          ∃ u, moved u ∧ u.me.eng = s.me.eng ∧ u.me.gen = s.me.gen ∧ Waits out u (.writePort (opPort p)))

/-- R145: `chctl close` of a write port not yet closed is held and closes the port at its commit; `eosrd` gives the port's EOSBITS bit,
`eosclr` clears it, once no VQ word that reads the port is unretired. -/
def Obligations.ChctlResults : Prop :=
  ∀ (s : State) (d p : Opnd), opReserved p = false → opIsPort p = true →
    let n := opPort p
    let port := s.me.port n
    (OperandsOk s [] none → port.bound = true → port.isW = true → port.sev = false → s.me.histFull 1 = false →
      ∃ t, exec (.chctlClose p) s = .next t ∧ Issued s t (s.pc + 4) ∧ Kept s.cur (heldBytes s s.cur) s t ∧ GKept s.cur none s t ∧
        (s.me.writeClosed n = false →
          (∃ u, t = commitSlot u s.cur ∧ (u.slot s.cur).eng.hist = s.me.eng.hist ++ [⟨s.me.gen.icnt, .close n⟩]) ∧
          (s.me.committed = true → ((t.slot s.cur).port n).closed = true))) ∧
    (OperandsOk s [] (some d) → port.bound = true → port.isW = false → s.me.streamReader n = false →
      Completes (exec (.chctlEosrd d p) s) s [] d (if s.me.vec.eos.getLsbD n then 1 else 0) (s.pc + 4)) ∧
    (OperandsOk s [] none → port.bound = true → port.isW = false → s.me.streamReader n = false → s.me.histFull 1 = false →
      ∃ t, exec (.chctlEosclr p) s = .next t ∧ Issued s t (s.pc + 4) ∧ Kept s.cur (heldBytes s s.cur) s t ∧ GKept s.cur none s t ∧
        ∀ k, (t.slot s.cur).vec.eos.getLsbD k = (s.me.vec.eos.getLsbD k && decide (k ≠ n)))

/-- R134-R136, R45: what a port operand below S raises, in the first and the second source position and as the destination: PORTUNBOUND
for one that is unbound, of the wrong direction or mapped in STREAMMAP; PORTSIZE for a channel whose slots are not of 8 bytes;
ENDSTREAM at the end mark of a read port that does not tolerate it, and on a write port that the process has closed; MIRRORDIFF, with the
channel, at a slot whose copies differ; SEVERED on a severed port that holds no slot more, or is written. FAULTWORD is the port. An empty
read port and a full write port make the slot wait; a reserved operand number raises BADOPND. -/
def Obligations.PortOperandTraps : Prop :=
  ∀ (s : State) (d a b : Opnd), s.me.atS = false →
    let reads (i : Instr) (o : Opnd) : Prop :=
      let n := opPort o
      let port := s.me.port n
      (port.bound = false ∨ port.isW = true ∨ portMapped s.me.vec.smap n = true →
        Traps (exec i s) s .portunbound (BitVec.ofNat 64 n)) ∧
      (∀ c, port.bound = true → port.isW = false → portMapped s.me.vec.smap n = false → s.chan? port.net port.ch = some c →
        (c.size ≠ 8 → Traps (exec i s) s .portsize (BitVec.ofNat 64 n)) ∧
        (c.size = 8 →
          (port.readAt c port.k = .fin → c.eostol = false → Traps (exec i s) s .endstream (BitVec.ofNat 64 n)) ∧
          (port.readAt c port.k = .diff → Traps (exec i s) s .mirrordiff (BitVec.ofNat 64 c.chid)) ∧
          (port.readAt c port.k = .sev → Traps (exec i s) s .severed (BitVec.ofNat 64 n)) ∧
          (port.readAt c port.k = .empty → Waits (exec i s) s (.readPort n 0))))
    let writes (i : Instr) (o : Opnd) : Prop :=
      let n := opPort o
      let port := s.me.port n
      (port.bound = false ∨ port.isW = false ∨ portMapped s.me.vec.smap n = true →
        Traps (exec i s) s .portunbound (BitVec.ofNat 64 n)) ∧
      (∀ c w, port.bound = true → port.isW = true → portMapped s.me.vec.smap n = false → s.chan? port.net port.ch = some c →
        s.nets[port.net]? = some w →
        (c.size ≠ 8 → Traps (exec i s) s .portsize (BitVec.ofNat 64 n)) ∧
        (c.size = 8 →
          (s.me.writeClosed n = true → Traps (exec i s) s .endstream (BitVec.ofNat 64 n)) ∧
          (s.me.writeClosed n = false →
            (port.sev = true → Traps (exec i s) s .severed (BitVec.ofNat 64 n)) ∧
            (port.sev = false → (∃ r ∈ c.liveReaders w, port.free.getD r 0 = 0) → Waits (exec i s) s (.writePort n)))))
    (opReserved a = true ∨ opReserved d = true → Traps (exec (.clz d a) s) s .badopnd s.instrWord) ∧
    (opReserved d = false → opReserved a = false → opReserved b = false →
      (opIsPort a = true → opIsPort d = false → opIsPort b = false → reads (.clz d a) a ∧ reads (.add d a b) a) ∧
      (opIsPort b = true → opIsPort d = false → opIsPort a = false → reads (.add d a b) b) ∧
      (opIsPort d = true → opIsPort a = false → opIsPort b = false → writes (.clz d a) d ∧ writes (.add d a b) d))


/-! ## Barriers and phases (R326, R337) -/

/-- R326, R337: `gbar` and `phase` of a group of the slot, at the commit point: the process registers its next arrival at the group's barrier,
or the arrival one above the episodes of the group that it knows, for good, and the slot waits for that episode with its pc past the
instruction (the model's choice, log 44: R337 puts pc + 4 after the waits); every other group, every other arrival and every other
network is as it was; nothing is merged yet. -/
def Obligations.ArrivalResults : Prop :=
  (∀ (s : State) (g : BitVec 8) (n : Net) (r : Group), s.cur ≠ Config.controlSlot → s.me.committed = true → s.me.gen.heldExit = false → s.me.eng.hist = [] →
    StoresClean s s.cur →
    s.nets[s.me.id.net]? = some n → n.group? g.toNat = some r → (g = 0 ∨ s.me.id.gids.contains g = true) →
    let pid := s.me.id.pid.toNat
    let e := Sparse.get 0 r.bar pid + 1
    ∃ t m r', exec (.gbar g) s = .next t ∧ (t.slot s.cur).gen.pc = s.pc + 4 ∧ (t.slot s.cur).gen.wait = .barrier g e ∧
      t.nets[s.me.id.net]? = some m ∧ m.group? g.toNat = some r' ∧ Sparse.get 0 r'.bar pid = e ∧
      (∀ q, q ≠ pid → Sparse.get 0 r'.bar q = Sparse.get 0 r.bar q) ∧ r'.epoch = r.epoch ∧ r'.ph = r.ph ∧
      (∀ h, h ≠ g.toNat → m.group? h = n.group? h) ∧ { m with groups := n.groups } = n ∧
      (∀ k, k ≠ s.me.id.net → t.nets[k]? = s.nets[k]?) ∧ Kept s.cur (heldBytes s s.cur) s t ∧ GKept s.cur none s t) ∧
  (∀ (s : State) (g : BitVec 8) (n : Net) (r : Group), s.cur ≠ Config.controlSlot → s.me.committed = true → s.me.gen.heldExit = false → s.me.eng.hist = [] →
    StoresClean s s.cur →
    s.nets[s.me.id.net]? = some n → n.group? g.toNat = some r → (g = 0 ∨ s.me.id.gids.contains g = true) →
    let pid := s.me.id.pid.toNat
    let e := s.episodes s.me.id.net pid g.toNat + 1
    ∃ t m r', exec (.phase g) s = .next t ∧ (t.slot s.cur).gen.pc = s.pc + 4 ∧ (t.slot s.cur).gen.wait = .phase g e ∧
      t.nets[s.me.id.net]? = some m ∧ m.group? g.toNat = some r' ∧ Sparse.get 0 r'.ph pid = e ∧
      (∀ q, q ≠ pid → Sparse.get 0 r'.ph q = Sparse.get 0 r.ph q) ∧ r'.epoch = r.epoch ∧ r'.bar = r.bar ∧
      (∀ h, h ≠ g.toNat → m.group? h = n.group? h) ∧ { m with groups := n.groups } = n ∧
      (∀ k, k ≠ s.me.id.net → t.nets[k]? = s.nets[k]?) ∧ Kept s.cur (heldBytes s s.cur) s t ∧ GKept s.cur none s t)

/-- R326, R337, R45: below S, a group that the slot does not belong to raises GROUP, which FAULTWORD names; one that it does belong to
makes the slot wait for its older words first. A process belongs to group 0 and to the groups of its process-table entry; the control
tile belongs to none (the model's choice, log 7). -/
def Obligations.GroupTraps : Prop :=
  ∀ (s : State) (g : BitVec 8),
    let member : Prop := s.cur ≠ Config.controlSlot ∧ ∃ n r, s.nets[s.me.id.net]? = some n ∧ n.group? g.toNat = some r ∧
      (g = 0 ∨ s.me.id.gids.contains g = true)
    (s.me.atS = false → ¬ member →
      Traps (exec (.gbar g) s) s .group (g.zeroExtend 64) ∧ Traps (exec (.phase g) s) s .group (g.zeroExtend 64)) ∧
    (member → s.me.committed = false → Waits (exec (.gbar g) s) s .engine ∧ Waits (exec (.phase g) s) s .engine)

/-! ## System registers and levels (R352-R362) -/

/-- R352, R353, R25: what `sysr` reads at a level that may read it, its read wait over: the registers of the identity (R354, R106), of
the vector unit (R78, R203, R138, R146, R232), of the traps (R356, R190, R280, R197, R365) and of the control die (R367, R375, R379,
R385, R276); a time register reads 0 for a process without the grant (R355), which reads CLKFRAC where it has it. What is in flight that
the register reflects is awaited: the premises say that none is, for FFLAGS and ACCOV also no copy with a follow-on that a replay has still
to issue (log 30). An ACCOV bit is that of the accumulator where it holds the contents of the running context, else the slot's own (R253,
R269). The control tile, number 1,024, reads as tile 0 in TILEID's ten bits
(the model's choice, log 7). Nothing but gd is changed. -/
def Obligations.SysrResults : Prop :=
  ∀ (s : State) (d : Opnd), OperandsOk s [] (some d) →
    let x := s.me
    let reads (l : List (BitVec 12 × Word)) : Prop := ∀ r v, (r, v) ∈ l → Completes (exec (.sysr d r) s) s [] d v (s.pc + 4)
    let timed (v : Word) : Word := if x.atP = true ∧ x.id.timing = false then 0 else v
    let rg := s.region (regionOf (s.cur / 4))
    let arb := if rg.hot = true then 1 else rg.arbfrac.toNat
    reads [(0x000, timed (BitVec.ofNat 64 (s.cur / 4 % 1024))), (0x001, timed (BitVec.ofNat 64 (s.cur % 4))), (0x002, x.id.pid.zeroExtend 64),
      (0x003, 0#58 ++ BitVec.ofBool x.id.world ++ BitVec.ofBool x.id.timing ++ x.id.plevel ++ x.id.level),
      (0x004, timed (BitVec.ofNat 64 (x.id.base * 4096))), (0x005, BitVec.ofNat 64 (x.id.size * 4096)),
      (0x009, x.vec.fcsr.zeroExtend 64), (0x00B, BitVec.ofNat 64 x.id.vlmax), (0x00D, 64), (0x010, x.vec.smap),
      (0x01D, timed (BitVec.ofNat 64 (min rg.hvfrac.toNat arb + 16 * rg.hvfrac.toNat + 256 * arb))),
      (0x012, timed (BitVec.ofNat 64 x.vec.closedwr)), (0x013, timed (BitVec.ofNat 64 x.vec.staledrop))] ∧
    (∀ n : Nat, 1 ≤ n → n ≤ 7 → reads [(BitVec.ofNat 12 (0x020 + n), Sparse.get 0 x.vec.win n)]) ∧
    (x.atP = true → x.id.timing = false →
      reads [(0x018, 0), (0x019, 0), (0x01A, 0), (0x01B, 0), (0x01C, 0)]) ∧
    reads [(0x00C, BitVec.ofNat 64 (laneGroups x.id.vlmax + if x.atP = true ∧ x.id.timing = false then 0 else 4 * s.laneGroup s.cur)),
      (0x00E, s.accown s.cur)] ∧
    (x.segs.all (fun g => g.2.st != .inflight) = true → ∃ v, Completes (exec (.sysr d 0x006) s) s [] d v (s.pc + 4) ∧
      ∀ k, k < 64 → v.getLsbD k = (decide (k < x.codeSegs) && (x.seg k).st == .valid)) ∧
    ((∀ p, p < 16 → x.streamReader p = false) → reads [(0x011, x.vec.eos.zeroExtend 64)]) ∧
    ((∀ w ∈ x.eng.words, w.q ≠ .mq) → s.followsAhead s.cur = false → ∃ v, Completes (exec (.sysr d 0x00F) s) s [] d v (s.pc + 4) ∧
      ∀ k, k < 64 → v.getLsbD k = (decide (k < 2) && s.ownsMatrix s.cur &&
        let a := (s.tile (s.cur / 4)).acc k
        if a.tag = (s.tile (s.cur / 4)).ctag then a.ov else x.vec.accov.getLsbD k)) ∧
    (x.eng.vq = [] → reads [(0x00A, BitVec.ofNat 64 x.vec.vl)]) ∧
    ((∀ w ∈ x.eng.words, w.q = .xq) → s.followsAhead s.cur = false → reads [(0x008, x.vec.fflags.zeroExtend 64)]) ∧
    (1 ≤ x.id.level.toNat →
      reads [(0x040, x.tr.cause.zeroExtend 64), (0x041, x.tr.pc.zeroExtend 64), (0x042, x.tr.fepc.zeroExtend 64),
        (0x043, x.tr.feseq.zeroExtend 64), (0x044, x.tr.fword), (0x045, x.tr.fiter), (0x046, x.tr.fva), (0x047, x.tr.rpat),
        (0x050, (s.tile (s.cur / 4)).svec), (0x052, x.tr.saveva)] ∧
      (∀ n : Nat, n ≤ 5 → reads [(BitVec.ofNat 12 (0x048 + n), (Sparse.get 0 x.tr.ridx n).zeroExtend 64)]) ∧
      (x.tr.saveop = 0 → reads [(0x051, x.tr.savest.zeroExtend 64)]) ∧
      ∀ t, s.selTenant = some t → reads [(0x080, (s.tenant t).dlstat), (0x081, (s.tenant t).dlchan), (0x082, (s.tenant t).dlwaves),
        (0x083, (s.tenant t).phconflict)]) ∧
    (2 ≤ x.id.level.toNat → s.cur = Config.controlSlot →
      let g := s.region (s.die.csel.extractLsb' 5 4).toNat
      reads [(0x100, s.die.csel), (0x101, g.word), (0x105, s.die.hvpolicy), (0x106, s.die.arblimit), (0x107, g.tslice), (0x108, g.tscap),
        (0x102, BitVec.ofNat 64 (g.grant.toNat + 2 ^ 16 * g.floor.toNat + 2 ^ 32 * g.hvfrac.toNat + 2 ^ 36 * g.arb)),
        (0x10B, s.die.scrubList), (0x10D, Sparse.get 0 s.die.wintab (s.die.csel.extractLsb' 13 6).toNat)] ∧
      ((s.die.csel.extractLsb' 0 5).toNat ≤ 16 → reads [(0x103, (s.tenant (s.die.csel.extractLsb' 0 5).toNat).troot)]) ∧
      (∀ b, s.selBucket = some b → reads [(0x104, (Sparse.get {} s.buckets b).word)]) ∧
      (s.die.scrub ≠ 1 → s.die.scrub ≠ 2 → reads [(0x109, s.die.scrubstate), (0x10A, BitVec.ofNat 64 (s.die.sramg % 2 ^ 32 + 2 ^ 32 * (s.die.dramg % 2 ^ 32)))]) ∧
      ∃ v, Completes (exec (.sysr d 0x10C) s) s [] d v (s.pc + 4) ∧ ∀ k, v.getLsbD k = (decide (k < 32) && (s.key k).full))

/-- R353, R8: what the three forms of `sysw` write into the registers of the slot at level P and above, and at level S into those of
the traps, at C into those of the control die, each with its own fields: `sysw` writes ga, `sysw.set` the old value or ga, `sysw.clr`
the old value without ga. R111: a write to CSEGVALID changes no INFLIGHT segment. R365: a write to SAVECTL with OP 1 or 2 starts a save
or a restore (SaveAndRegisterEvents says what it does), any other has no effect; its old value is zero, since OP is WO. R377, R378: a write to
WINTAB with KIND 0 has no effect, nor in the non-secure state one that writes a DOWNGRADE entry or replaces a valid one, nor one of the
old value; any other severs the channels that the old entry admits, and no other. R352: a write to a register whose Write column reads
"—" changes nothing. Nothing else is changed. A write to ACCOWN leaves the owner's ACCOV as it was. The model's readings: what
a replay has still to issue is awaited (log 30), GRANT of RGNBUDGET is writable (log 24), PLEVEL holds any value
(log 28), a TROOT keeps V and the table's place only (log 49). -/
def Obligations.SyswResults : Prop :=
  ∀ (s : State) (a : Opnd), OperandsOk s [a] none →
    let x := s.me
    let w := srcVal s [a] 0
    let does (i : Instr) (u : State) : Prop :=
      ∃ t, exec i s = .next t ∧ Issued s t (s.pc + 4) ∧ Frame (fun _ _ => False) [a] none u t ∧ GKept s.cur none u t
    let writes (r : BitVec 12) (old : Word) (upd : Word → State) : Prop :=
      does (.sysw a r) (upd w) ∧ does (.syswSet a r) (upd (old ||| w)) ∧ does (.syswClr a r) (upd (old &&& ~~~w))
    let slot (f : Slot → Slot) : State := s.modMe f
    let trap (f : TrapRegs → TrapRegs) : State := s.modMe fun y => { y with tr := f y.tr }
    let window (v : Word) : Word :=
      let f := v &&& 0x80FFFFFFFF1FFFFF
      if winOk f (x.id.size * 4096) then f else f &&& 0x7FFFFFFFFFFFFFFF
    (x.histFull (histNeed [a] none + 1) = false →
      writes 0x009 (x.vec.fcsr.zeroExtend 64) (fun v => slot fun y =>
        { y with vec := { y.vec with fcsr := if 5 ≤ (v.extractLsb' 0 3).toNat then 0 else v.extractLsb' 0 3 } }) ∧
      (x.eng.vq = [] → writes 0x010 x.vec.smap fun v => slot fun y => { y with vec := { y.vec with smap := v &&& 0x8F8F8F8F8F8F8F8F } }) ∧
      ((∀ w ∈ x.eng.words, w.q = .xq) → s.followsAhead s.cur = false → writes 0x008 (x.vec.fflags.zeroExtend 64) fun v => slot fun y =>
        { y with vec := { y.vec with fflags := v.extractLsb' 0 5 } })) ∧
    (x.committed = true → ∀ n : Nat, 1 ≤ n → n ≤ 7 → writes (BitVec.ofNat 12 (0x020 + n)) (Sparse.get 0 x.vec.win n) fun v =>
      slot fun y => { y with vec := { y.vec with win := Sparse.set 0 y.vec.win n (window v) } }) ∧
    (x.histFull (histNeed [a] none + 1) = false →
      let segs (i : Instr) (v : Nat → Bool) : Prop := ∃ t, exec i s = .next t ∧ Issued s t (s.pc + 4) ∧
        Kept s.cur (heldBytes s s.cur) s t ∧ GKept s.cur none s t ∧
        ∀ k, ((t.slot s.cur).seg k).st = if k < x.codeSegs ∧ (x.seg k).st ≠ .inflight then (if v k then .valid else .invalid)
          else (x.seg k).st
      segs (.sysw a 0x006) (fun k => w.getLsbD k) ∧
      segs (.syswSet a 0x006) (fun k => w.getLsbD k || (x.seg k).st == .valid) ∧
      segs (.syswClr a 0x006) (fun k => !w.getLsbD k && (x.seg k).st == .valid)) ∧
    (x.committed = true → writes 0x00F ((s.accov s.cur).zeroExtend 64) fun v =>
      if s.ownsMatrix s.cur then
        (s.modTile (s.cur / 4) fun t =>
          { t with acc0 := if t.acc0.tag = t.ctag then { t.acc0 with ov := v.getLsbD 0 } else t.acc0
                   acc1 := if t.acc1.tag = t.ctag then { t.acc1 with ov := v.getLsbD 1 } else t.acc1 }).modMe fun y =>
          { y with vec := { y.vec with accov := v.extractLsb' 0 2 } }
      else s) ∧
    (1 ≤ x.id.level.toNat →
      writes 0x00E (s.accown s.cur) (fun v =>
        let u := s.modTile (s.cur / 4) fun t =>
          { t with acc0 := { t.acc0 with tag := v.extractLsb' 8 8 }, acc1 := { t.acc1 with tag := v.extractLsb' 16 8 }
                   ctag := v.extractLsb' 24 8 }
        match (s.tile (s.cur / 4)).owner with
        | some k => u.putAccov (4 * (s.cur / 4) + k) (s.accov (4 * (s.cur / 4) + k))
        | none => u) ∧
      writes 0x003 x.status (fun v => slot fun y => { y with id := { y.id with plevel := v.extractLsb' 2 2 } }) ∧
      writes 0x040 (x.tr.cause.zeroExtend 64) (fun v => trap fun t => { t with cause := v.extractLsb' 0 9 }) ∧
      writes 0x041 (x.tr.pc.zeroExtend 64) (fun v => trap fun t => { t with pc := v.extractLsb' 2 19 ++ 0#2 }) ∧
      writes 0x042 (x.tr.fepc.zeroExtend 64) (fun v => trap fun t => { t with fepc := v.extractLsb' 0 21 }) ∧
      writes 0x043 (x.tr.feseq.zeroExtend 64) (fun v => trap fun t => { t with feseq := v.extractLsb' 0 32 }) ∧
      writes 0x044 x.tr.fword (fun v => trap fun t => { t with fword := v }) ∧
      writes 0x045 x.tr.fiter (fun v => trap fun t => { t with fiter := v &&& 0x80FFFFFFFFFFFFFF }) ∧
      writes 0x046 x.tr.fva (fun v => trap fun t => { t with fva := v &&& 0x8FFFFFFFFFFFFFFF }) ∧
      writes 0x047 x.tr.rpat (fun v => trap fun t => { t with rpat := v &&& 0x800000007FFFFFFF }) ∧
      (∀ n : Nat, n ≤ 5 → writes (BitVec.ofNat 12 (0x048 + n)) ((Sparse.get 0 x.tr.ridx n).zeroExtend 64) fun v =>
        trap fun t => { t with ridx := Sparse.set 0 t.ridx n (v.extractLsb' 0 8) }) ∧
      writes 0x052 x.tr.saveva (fun v => trap fun t => { t with saveva := v &&& 0x01FFFFFFFFFFFFFF }) ∧
      (x.tr.saveop = 0 →
        let act (v : Word) : State :=
          let op := (v.extractLsb' 0 2).toNat
          if op = 1 ∨ op = 2 then startSave (taken s [a]) s.cur op (v.getLsbD 2) else taken s [a]
        does (.sysw a 0x051) (act w) ∧ does (.syswSet a 0x051) (act w) ∧ does (.syswClr a 0x051) (taken s [a]))) ∧
    (2 ≤ x.id.level.toNat → s.cur = Config.controlSlot →
      let r := (s.die.csel.extractLsb' 5 4).toNat
      let die (f : Die → Die) : State := { s with die := f s.die }
      writes 0x050 (s.tile (s.cur / 4)).svec (fun v => s.modTile (s.cur / 4) fun t => { t with svec := v &&& 0x7FFC }) ∧
      writes 0x100 s.die.csel (fun v => die fun d => { d with csel := v &&& 0x7FFFF }) ∧
      writes 0x105 s.die.hvpolicy (fun v => die fun d => { d with hvpolicy := v &&& 7 }) ∧
      writes 0x106 s.die.arblimit (fun v => die fun d => { d with arblimit := v &&& 0xFFFF }) ∧
      writes 0x102 (BitVec.ofNat 64 ((s.region r).grant.toNat + 2 ^ 16 * (s.region r).floor.toNat + 2 ^ 32 * (s.region r).hvfrac.toNat +
        2 ^ 36 * (s.region r).arb)) (fun v => s.modRegion r fun g =>
          { g with grant := v.extractLsb' 0 16, floor := v.extractLsb' 16 16
                   hvfrac := if v.extractLsb' 32 4 = 0 ∨ 12 < (v.extractLsb' 32 4).toNat then 12 else v.extractLsb' 32 4 }) ∧
      (∀ b, s.selBucket = some b → writes 0x104 (Sparse.get {} s.buckets b).word fun v =>
        let k : Bucket := { rate := v.extractLsb' 0 24, burst := v.extractLsb' 24 24, en := v.getLsbD 63 }
        { s with buckets := Sparse.set {} s.buckets b { k with tok := k.depth } }) ∧
      writes 0x107 (s.region r).tslice (fun v => s.modRegion r fun g => { g with tslice := v &&& 0xFFFFFFFFFF }) ∧
      writes 0x108 (s.region r).tscap (fun v => s.modRegion r fun g => { g with tscap := v &&& 0xFFFFFFFF }) ∧
      writes 0x10B s.die.scrubList (fun v => die fun d => { d with scrubList := v }) ∧
      ((s.die.csel.extractLsb' 0 5).toNat ≤ 16 → writes 0x103 (s.tenant (s.die.csel.extractLsb' 0 5).toNat).troot fun v =>
        s.modTenant (s.die.csel.extractLsb' 0 5).toNat fun t => { t with troot := v &&& 0x1FFFFFF001 }) ∧
      let k := (s.die.csel.extractLsb' 13 6).toNat
      let old := Sparse.get 0 s.die.wintab k
      let valid (e : Word) : Bool := e.getLsbD 0
      let down (e : Word) : Prop := e.extractLsb' 1 2 = 2#2
      writes 0x10D old (fun v =>
        let new := v &&& 0x00001FFFFFFFFFFF
        if new.extractLsb' 1 2 = 0 ∨ (x.id.world = false ∧ (down new ∨ (down old ∧ valid old = true))) ∨ new = old then s else
        let u := severAdmitted s old
        { u with die := { u.die with wintab := Sparse.set 0 u.die.wintab k new } }) ∧
      ((∀ (n : Nat) (m : Net), s.nets[n]? = some m → ∀ (i : Nat) (d : Chan), m.chans[i]? = some d → d.chid = i) →
        ∀ (n : Nat) (m : Net) (i : Nat) (c : Chan), s.nets[n]? = some m → m.chans[i]? = some c → m.st = .running →
          let used := ∃ a ∈ c.writers, ∃ b ∈ c.readers, s.needsEntry m.tenant m.regions a b = true ∧ s.entryAdmits m.tenant m.regions old a b = true
          (used → ∃ d, (severAdmitted s old).chan? n i = some d ∧ d.sev = true) ∧
          (¬ used → (severAdmitted s old).chan? n i = some c))) ∧
    ∀ r, writeLevel r.toNat = none → s.levelOk (readLevel r.toNat) = true → does (.sysw a r) s ∧ does (.syswSet a r) s ∧ does (.syswClr a r) s

/-- R352, R359, R360, R366: below the level that it needs, each privileged instruction raises PRIV with the word of the instruction: a
read or a write of a system register, `sret` at P, every `ctl` below C. At level S, where no slot waits at a barrier or a phase, that is a
double fault. -/
def Obligations.PrivilegeTraps : Prop :=
  ∀ (s : State),
    let priv (i : Instr) : Prop := Raises (exec i s) s .priv s.instrWord
    (∀ d r, s.levelOk (readLevel r.toNat) = false → priv (.sysr d r)) ∧
    (∀ a r, s.levelOk ((writeLevel r.toNat).getD (readLevel r.toNat)) = false →
      priv (.sysw a r) ∧ priv (.syswSet a r) ∧ priv (.syswClr a r)) ∧
    (s.me.atP = true → priv .sret) ∧
    (s.levelOk 2 = false → ∀ d a, priv (.ctlKload d a) ∧ priv (.ctlKzero d a) ∧ priv (.rgncmdAssign d a) ∧ priv (.rgncmdHalt d a) ∧
      priv (.rgncmdReset d a) ∧ priv (.rgncmdScrub d a) ∧ priv (.rgncmdSwitch d a) ∧ priv (.rgncmdRelease d a) ∧ priv (.ctlTlbinv d a) ∧
      priv (.ctlPrget d a) ∧ priv (.ctlPrans d a) ∧ priv (.ctlCaston d a) ∧ priv (.ctlCancel d a) ∧ priv (.ctlAttest d a) ∧
      priv (.ctlRebind d a))

/-- R361, R119, R358: `trap` below S at the commit point enters the supervisor with TRAPINSN, TRAPPC = pc + 4 and the code in
FAULTWORD; before it the fault waits, the slot issuing nothing. R360: `sret` above P, at the commit point, goes back to the level
PLEVEL at TRAPPC, re-entering at P the wait that a pre-emption abandoned; before it, it waits. A process for which a boundary found a
PHASECONFLICT in strict mode while it was pre-empted takes it as it comes back to P (the model's choice, log 51). -/
def Obligations.TrapAndReturn : Prop :=
  (∀ (s : State) (code : BitVec 14), s.me.atS = false →
    TrapsWith (exec (.trap code) s) s (gFault s .trapinsn (s.pc + 4) (code.zeroExtend 64) none)) ∧
  (∀ (s : State), s.me.atP = false →
    let toP : Bool := s.me.id.plevel == 0
    let u := s.modMe fun x =>
      { x with id := { x.id with level := x.id.plevel }, tr := { x.tr with waitd := if toP then 0 else x.tr.waitd } }
    (s.me.committed = false → Waits (exec .sret s) s .engine) ∧
    let proc? : Option Proc := (s.nets[s.me.id.net]?).bind fun n => n.procs.find? fun p => p.pid == s.me.id.pid.toNat
    (s.me.committed = true → StoresClean s s.cur → (∀ p, proc? = some p → p.pend = none) →
      ∃ t, exec .sret s = .next t ∧ (t.slot s.cur).gen.pc = s.me.tr.pc.zeroExtend 64 ∧
      (t.slot s.cur).gen.wait = (if toP then waitOf s.me.tr.waitd else .none) ∧
      (t.slot s.cur).pb = s.me.pb ∧ (t.slot s.cur).sb = s.me.sb ∧
      (s.me.gen.heldExit = false → (t.slot s.cur).id = (u.slot s.cur).id) ∧ (t.slot s.cur).tr = (u.slot s.cur).tr ∧
      (∀ j, j ≠ s.cur → PortsCut (s.slot j) (t.slot j)) ∧ t.dram = s.dram ∧ t.regions = s.regions ∧ t.die = s.die ∧
      ∀ k p, ¬ heldBytes s s.cur k p → (t.tile k).sram.byte p = (s.tile k).sram.byte p) ∧
    (∀ p va, s.me.committed = true → StoresClean s s.cur → toP = true → s.cur ≠ Config.controlSlot → proc? = some p → p.pend = some va →
      ∃ t, exec .sret s = .next t ∧ (t.slot s.cur).tr.cause = 0#1 ++ BitVec.ofNat 8 Cause.phaseconflict.code ∧
        (t.slot s.cur).tr.pc = s.me.tr.pc.extractLsb' 2 19 ++ 0#2 ∧ (t.slot s.cur).tr.fword = BitVec.ofNat 64 va ∧
        (t.slot s.cur).tr.fva = faultVa va .conflict ∧ (t.slot s.cur).id.level = 1 ∧
        (t.slot s.cur).gen.pc = (s.tile (tileOf s.cur)).svec))

/-- R36, R45: `exit` at P is held until its commit: at the commit point the process has exited, each of its write ports on a channel is
closed, and its network binds off once no process of it lives; before it the slot waits and nothing has happened. R362, R38: at S it ends
the network, its status ABORTED or DEADLOCK unless one was reached, with the trap being handled: each slot of the network with no word
unretired and no fault on its way is stopped, any other is to be stopped at its commit point (log 37), and with all of them stopped the
network binds off; at C it raises ILLEGAL. -/
def Obligations.ExitResults : Prop :=
  ∀ (s : State),
    (s.me.atP = true → s.me.committed = true → StoresClean s s.cur →
      ∃ t, exec .exit s = .next t ∧ (t.slot s.cur).id.exited = true ∧ (t.slot s.cur).gen.pc = s.pc + 4 ∧
        Kept s.cur (heldBytes s s.cur) s t ∧ GKept s.cur none s t ∧
        (∀ n ∈ (s.me.ports).map (·.1), (s.me.port n).bound = true → (s.me.port n).isW = true → ((t.slot s.cur).port n).closed = true) ∧
        ∀ n, s.nets[s.me.id.net]? = some n → ∃ m, t.nets[s.me.id.net]? = some m ∧
          m.procs.map (·.pid) = n.procs.map (·.pid) ∧ (∀ p ∈ m.procs, p.pid = s.me.id.pid.toNat → p.exited = true) ∧
          (n.st = .running → (∀ p ∈ n.procs, p.pid ≠ s.me.id.pid.toNat → p.exited = true) → m.st = .bindoff ∧ m.status = some (n.status.getD 0))) ∧
    (s.me.atP = true → s.me.committed = false → StoresClean s s.cur →
      ∃ t, exec .exit s = .next t ∧ (t.slot s.cur).gen.heldExit = true ∧ (t.slot s.cur).gen.wait = .engine ∧
        (t.slot s.cur).id = s.me.id ∧ Kept s.cur (heldBytes s s.cur) s t ∧ GKept s.cur none s t) ∧
    (s.me.atS = true → s.me.committed = true → ∀ n, s.nets[s.me.id.net]? = some n → n.st = .running → s.Placed s.me.id.net →
      ∃ t m, exec .exit s = .next t ∧ t.nets[s.me.id.net]? = some m ∧
        m.status = some (n.status.getD (if s.me.tr.cause.extractLsb' 0 8 = 20#8 then 2 else 1)) ∧
        (n.status = none → m.ending = some ⟨s.me.id.pid, s.me.tr.cause, s.me.tr.pc.zeroExtend 64, s.me.tr.fword⟩) ∧
        (∀ p ∈ n.procs, p.saved = false → p.exited = false →
          if s.Resting p.slotNo then (t.slot p.slotNo).id.stopped = true else (t.slot p.slotNo).gen.stopping = true) ∧
        ((∀ p ∈ n.procs, p.saved = false → p.exited = false → s.Resting p.slotNo) →
          m.st = .bindoff ∧ ∀ p ∈ m.procs, p.exited = true ∨ p.stopped = true) ∧
        t.dram = s.dram ∧ t.regions = s.regions) ∧
    (s.me.atS = false → s.me.atP = false → Traps (exec .exit s) s .illegal s.instrWord)

/-- R359, R371, R393: a fault at level S is a double fault, taken where a fault below S would be taken, where no slot waits at a barrier or
a phase: a level-G one once no older word is unretired, and the slot issues nothing till then. `trap`, a reserved operand number, a target
and an address that are no multiple of their size, an address outside the supervisor's two windows, a pc past the supervisor partition,
and a word that is no instruction; a level-E one at once. -/
def Obligations.DoubleFaults : Prop :=
  ∀ (s : State), s.me.atS = true → NoGroupWaits s →
    let faults (i : Instr) (c : Cause) (fw : Word) : Prop := Doubles (exec i s) s c (gFault s c s.pc fw none)
    (∀ code : BitVec 14, Doubles (exec (.trap code) s) s .trapinsn (gFault s .trapinsn (s.pc + 4) (code.zeroExtend 64) none)) ∧
    (∀ d a : Opnd, opReserved a = true → faults (.clz d a) .badopnd s.instrWord) ∧
    (∀ (d a : Opnd) (i : BitVec 14), OperandsOk s [a] (some d) →
      let ea := srcVal s [a] 0 + i.signExtend 64
      (ea.toNat % 4 ≠ 0 → faults (.jalr d a i) .align ea) ∧
      (ea.toNat % 8 ≠ 0 → faults (.ldd d a i) .align ea) ∧
      (ea.toNat % 8 = 0 → 0x400000 ≤ ea.toNat ∨ (Config.supSize < ea.toNat + 8 ∧ ea.toNat < 0x200000) →
        faults (.ldd d a i) .window ea)) ∧
    (s.me.canIssue = true → Config.supSize ≤ s.pc.toNat → Doubles (issueNext s) s .window (gFault s .window s.pc s.pc none)) ∧
    (s.me.canIssue = true → s.pc.toNat < Config.supSize → s.eccAt s.cur s.pc.toNat 4 = false →
      (∃ e, decodeGen (BitVec.ofNat 32 (s.loadNat s.cur s.pc.toNat 4)) = .error e) →
        Doubles (issueNext s) s .illegal (gFault s .illegal s.pc s.instrWord none)) ∧
    (∀ (w : QEntry) (c : Cause) (va : Option Word), c ≠ .eccfatal → DoubleFaulted s.cur s (raiseE s s.cur w c va) c true)

/-! ## The operations of the control tile (R366-R398); `r` is the state after ga is taken -/

/-- R381: `kload` checks its record, then that its slot is empty, then the world (R380), and fills the slot (the order: log 15); `kzero`
empties a slot that no access in flight uses, and waits while one does. R383: `tlbinv` has removed the page from every TLB when it
returns, and it waits for the words that hold its leaf. A buffer outside the partition is BADARG (the model's choice, log 15). -/
def Obligations.CtlKeysAndTranslations : Prop :=
  ∀ (s : State) (d a : Opnd), CtlReady s d a →
    let r := taken s [a]
    let w := srcVal s [a] 0
    let inside (n : Nat) : Prop := w.toNat + n ≤ s.me.id.size * 4096
    let bs := r.loadBytes r.cur w.toNat 96
    let b (k : Nat) : Nat := (bs.getD k 0).toNat
    let good : Prop := inside 96 ∧ b 0 < 32 ∧ b 1 ≤ 16 ∧ b 2 < 2 ∧ ∀ k, 3 ≤ k → k < 32 → b k = 0
    let denied : Prop := b 2 = 1 ∧ r.secureState = false
    let key : KeySlot := { full := true, key := BitVec.ofNat 512 (leNat (bs.drop 32)), tenant := b 1, world := b 2 == 1 }
    (¬ good → ∃ t, exec (.ctlKload d a) s = .next t ∧ CtlReturned s d 3 r t) ∧
    (good → (r.key (b 0)).full = true → ∃ t, exec (.ctlKload d a) s = .next t ∧ CtlReturned s d 1 r t) ∧
    (good → (r.key (b 0)).full = false → denied → ∃ t, exec (.ctlKload d a) s = .next t ∧ CtlReturned s d 2 r t) ∧
    (good → (r.key (b 0)).full = false → ¬ denied →
      ∃ t, exec (.ctlKload d a) s = .next t ∧ CtlReturned s d 0 { r with keys := Sparse.set {} r.keys (b 0) key } t) ∧
    let worldly : Prop := (r.key w.toNat).world = true ∧ r.secureState = false
    let used : Prop := ∃ x ∈ r.slots, ∃ e ∈ x.2.eng.words, e.stat = .passed ∧
      ∃ l ∈ e.prog.leaves, leafKen l.2 = true ∧ leafKslot l.2 = w.toNat
    (31 < w.toNat → ∃ t, exec (.ctlKzero d a) s = .next t ∧ CtlReturned s d 3 r t) ∧
    (w.toNat ≤ 31 → worldly → ∃ t, exec (.ctlKzero d a) s = .next t ∧ CtlReturned s d 2 r t) ∧
    (w.toNat ≤ 31 → ¬ worldly → used → Waits (exec (.ctlKzero d a) s) s .reply) ∧
    (w.toNat ≤ 31 → ¬ worldly → ¬ used →
      ∃ t, exec (.ctlKzero d a) s = .next t ∧ CtlReturned s d 0 { r with keys := Sparse.drop r.keys w.toNat } t) ∧
    let tn := (BitVec.ofNat 64 (r.loadNat r.cur w.toNat 8)).toNat % 32
    let vpn := r.loadNat r.cur (w.toNat + 8) 8
    let drop (l : List TlbE) : List TlbE := l.filter fun e => !(e.tenant == tn && e.vpn == vpn)
    let held : Prop := ∃ x ∈ r.slots, x.2.id.tenant = tn ∧ ∃ e ∈ x.2.eng.words, ∃ l ∈ e.prog.leaves, l.1 = vpn
    (¬ inside 16 → ∃ t, exec (.ctlTlbinv d a) s = .next t ∧ CtlReturned s d 3 r t) ∧
    (inside 16 → held → Waits (exec (.ctlTlbinv d a) s) { s with tlb1 := drop s.tlb1, tlb2 := drop s.tlb2 } .reply) ∧
    (inside 16 → ¬ held →
      ∃ t, exec (.ctlTlbinv d a) s = .next t ∧ CtlReturned s d 0 { r with tlb1 := drop r.tlb1, tlb2 := drop r.tlb2 } t)

/-- R384: `prget` copies the oldest queued page request, `prans` applies an answer to a pending one. R284: its entry is freed, and a
request that waited outside the queue may take its place; on MAP every word of the tenant that waits for the page is to walk again, on
REJECT it is to fail, and so does the request of a `cfetch`, where no save and no restore is under way; no other word and no other slot
is changed. R398: `attest` completes the report that begins with the nonce, under the device's Ed25519 key (R3), for the tenant that
CSEL selects (the model's choice, log 21). A buffer outside the partition is BADARG (log 15). -/
def Obligations.CtlRequestsAndReports : Prop :=
  ∀ (s : State) (d a : Opnd), CtlReady s d a →
    let r := taken s [a]
    let w := srcVal s [a] 0
    let inside (n : Nat) : Prop := w.toNat + n ≤ s.me.id.size * 4096
    let prget (st : Nat) (u : State) : Prop := CtlDone (exec (.ctlPrget d a) s) s d st u
    let prans (st : Nat) (u : State) : Prop := CtlDone (exec (.ctlPrans d a) s) s d st u
    let attest (st : Nat) (u : State) : Prop := CtlDone (exec (.ctlAttest d a) s) s d st u
    (¬ inside 32 → prget 3 r) ∧
    (inside 32 → ((∀ p ∈ r.pages, p.queued = false) → prget 1 r) ∧
      ∀ l p l', r.pages = l ++ p :: l' → (∀ q ∈ l, q.queued = false) → p.queued = true →
        prget 0 (r.putBytesAt r.cur w.toNat (dwordBytes
          [BitVec.ofNat 64 (p.tenant % 32 + 2 ^ 5 * homeOf p.vpn + 2 ^ 9 * p.wr.toNat + 2 ^ 10 * p.code.toNat + 2 ^ 11 * p.idxe.toNat +
             2 ^ 16 * (p.nreq % 2 ^ 16)),
           BitVec.ofNat 64 (p.vpn % 2 ^ 36), BitVec.ofNat 64 (p.tile % 2 ^ 10 + 2 ^ 10 * (p.slot % 4) + 2 ^ 12 * p.eseq.toNat), 0]))) ∧
    (¬ inside 16 → prans 3 r) ∧
    (inside 16 →
      let x := BitVec.ofNat 64 (r.loadNat r.cur w.toNat 8)
      let vpn := r.loadNat r.cur (w.toNat + 8) 8
      let t := (x.extractLsb' 0 5).toNat
      let rej := x.getLsbD 8
      let isIt (p : PageReq) : Prop := p.tenant = t ∧ p.vpn = vpn
      let pending : Prop := ∃ p ∈ r.pages, p.queued = true ∧ isIt p
      let asks (i : Nat) : Prop := (r.slot i).id.tenant = t ∨ (r.slot i).id.loaded = false
      let told (e : QEntry) : QEntry :=
        if e.prog.want = some vpn then { e with prog := if rej then { e.prog with rej := true } else { e.prog with want := none } } else e
      (¬ pending → prans 3 r) ∧
      (pending → (∀ i, asks i → (r.slot i).tr.saveop = 0 ∧ (r.slot i).tr.savewant = none) → ∃ u, prans 0 u ∧
        ((∀ i, asks i → ∀ g ∈ (r.slot i).segs, g.2.st ≠ .inflight) → u = { r with pages := u.pages, slots := u.slots } ∧
          (∀ p ∈ u.pages, ¬ isIt p) ∧
          (∀ p ∈ r.pages, ¬ isIt p → ∃ p' ∈ u.pages, p' = { p with queued := p'.queued, shared := p'.shared } ∧ (p.queued = true → p' = p))) ∧
        (∀ i, asks i → (∀ q, (u.slot i).eng.queue q = ((r.slot i).eng.queue q).map told) ∧ (u.slot i).eng.out = (r.slot i).eng.out.map told) ∧
        (∀ i, ¬ asks i → u.slot i = r.slot i) ∧
        ∀ i k q, rej = true → asks i → ((r.slot i).seg k).queued = some q → q.paged = true → vpnOf q.va.toNat = vpn →
          ∃ q', ((u.slot i).seg k).queued = some q' ∧ q'.va = q.va ∧ q'.fail = some FaultKind.reject.code)) ∧
    (r.selTenant = none → attest 3 r) ∧
    ∀ t, r.selTenant = some t →
      (¬ inside 352 → attest 3 r) ∧
      (inside 352 →
        let n := attestNet r t
        let meas (f : Net → BitVec 512) : List Byte := natLe (match n with | some n => (f n).toNat | none => 0) 64
        let nonce := r.loadBytes r.cur w.toNat 64
        let body := natLe (t + 2 ^ 8) 8 ++ natLe Config.firmwareVersion.toNat 8 ++ List.replicate 48 0 ++ meas (·.measRec) ++
          meas (·.measImg) ++ natLe (edPublic Config.deviceSeed).toNat 32
        (secureTenant r t = true → r.secureState = false → attest 2 r) ∧
        (secureTenant r t = false ∨ r.secureState = true →
          attest 0 (r.putBytesAt r.cur (w.toNat + 64) (body ++ natLe (edSign Config.deviceSeed (nonce ++ body)).toNat 64))))

/-- R370, R371, R369, R423: the commands of `rgncmd` but SWITCH. A command word with a field out of place is BADARG. ASSIGN takes a FREE
region, or adds a context to one in use, or is BUSY, or DENIED for its rectangle (R369) or its world (R380); HALT halts a region in use;
RESET resets any (R372, R373: queues, buffers and endpoints empty, the system registers at their reset values, which cast-on gives for the
windows, CSEGVALID and SAVEVA, the registers and the emit-side open mask kept, and the slot's ACCOV, the model's reading, log 69), and rejects the networks of the region that are being
validated or loaded, RESET their reason, also where the region was in RESET already (R38); SCRUB starts the scrub of a region that is
ASSIGNED or HALTED, whose HCAUSE stays (R424); RELEASE drops a context that is not resident, and ends its network SEVERED (the
model's reading, log 25: R371 only drops the context); else BUSY, and nothing is changed. The model's readings: what is BUSY (log 25), how slots stop (log 37), which networks lose a part of themselves with an
ASSIGNED region (log 36). -/
def Obligations.RegionCommands : Prop :=
  ∀ (s : State) (d a : Opnd), CtlReady s d a →
    let r := taken s [a]
    let c := readRgnCmd (srcVal s [a] 0)
    let g := r.region c.region
    let is (n : Nat) (i : Instr) (ok : Prop) (eff : State → Prop) : Prop :=
      (c.bad n = true → CtlDone (exec i s) s d 3 r) ∧
      (c.bad n = false → (¬ ok → CtlDone (exec i s) s d 1 r) ∧ (ok → ∃ u, eff u ∧ CtlDone (exec i s) s d 0 u))
    let others (u : State) : Prop := ∀ k, k ≠ c.region → u.region k = r.region k
    let inUse : Prop := g.st = .assigned ∨ g.st = .running
    let it (x : Context) : Bool := x.tenant == c.tenant && x.ctag == c.ctag
    let more : Prop := inUse ∧ g.world = c.world ∧ g.ctxs.length < 4 ∧ g.ctxs.any it = false
    let w := 2 ^ c.rwid
    let h := 2 ^ c.rhgt
    let rect := (c.region % 4 / w * w, c.region / 4 / h * h, w, h)
    let held : Prop := ∃ k < 16, (r.region k).heldBy c.tenant = true
    let denied : Prop := (w, h) ∉ [(1, 1), (2, 1), (1, 2), (2, 2), (2, 4), (4, 2), (4, 4)] ∨
      (held ∧ ∃ q, (r.tenant c.tenant).rect = some q ∧ q ≠ rect) ∨ (c.world = true ∧ r.secureState = false)
    ((c.bad 0 = true → CtlDone (exec (.rgncmdAssign d a) s) s d 3 r) ∧
      (c.bad 0 = false → (g.st ≠ .free → ¬ more → CtlDone (exec (.rgncmdAssign d a) s) s d 1 r) ∧
        (g.st = .free ∨ more → denied → CtlDone (exec (.rgncmdAssign d a) s) s d 2 r) ∧
        (g.st = .free → ¬ denied → ∃ u, CtlDone (exec (.rgncmdAssign d a) s) s d 0 u ∧ others u ∧
          u.region c.region = { g with st := .assigned, tenant := c.tenant, world := c.world, ctag := c.ctag, hcause := 0
                                       ctxs := [{ tenant := c.tenant, ctag := c.ctag }] } ∧
          (u.tenant c.tenant).rect = some rect ∧ (∀ t ∈ tilesOf c.region, (u.tile t).ctag = c.ctag) ∧ ∀ i, u.slot i = r.slot i) ∧
        (more → ¬ denied → ∃ u, CtlDone (exec (.rgncmdAssign d a) s) s d 0 u ∧ others u ∧
          u.region c.region = { g with ctxs := g.ctxs ++ [{ tenant := c.tenant, ctag := c.ctag }] } ∧ ∀ i, u.slot i = r.slot i))) ∧
    is 1 (.rgncmdHalt d a) inUse (fun u => (u.region c.region).st = .halted ∧
      (NoGroupWaits r → others u ∧ (u.region c.region).hcause = 0 ∧
        ∀ k n, r.nets[k]? = some n → n.st = .running → g.runs k = true ∨ (g.st = .assigned ∧ ∃ x ∈ g.ctxs, x.net = some k) → ∃ m, u.nets[k]? = some m ∧ m.status = some (n.status.getD 3))) ∧
    is 2 (.rgncmdReset d a) True (fun u => (u.region c.region).st = .reset ∧
      (g.st ≠ .reset → (u.region c.region).after = if g.st = .running then .halted else g.st) ∧
      (g.st = .reset ∨ NoGroupWaits r → ∀ (k : Nat) (n : Net), r.nets[k]? = some n → n.regions.getLsbD c.region = true → n.st = .validating ∨ n.st = .loading →
        ∃ m, u.nets[k]? = some m ∧ m.st = .rejected ∧ m.reason = 14) ∧
      (g.st ≠ .reset → NoGroupWaits r → others u ∧ ∀ i ∈ slotsOfRegion c.region,
        let x := r.slot i
        let y := u.slot i
        let cast := r.castSlot i
        y.eng = { omask := x.eng.omask } ∧ y.ports = [] ∧ y.segs = cast.segs ∧ y.tr = { saveva := cast.tr.saveva } ∧ y.id.level = 0 ∧
        y.id.plevel = 0 ∧ y.pb = x.pb ∧ y.sb = x.sb ∧
        y.vec = { vl := x.id.vlmax, v := x.vec.v, m := x.vec.m, win := cast.vec.win, accov := x.vec.accov })) ∧
    is 3 (.rgncmdScrub d a) ((g.st = .assigned ∨ g.st = .halted) ∧ r.die.scrub ≠ 1 ∧ r.die.scrub ≠ 2) (fun u =>
      (u.region c.region).st = .scrubbing ∧ (u.region c.region).tenant = c.tenant ∧ (u.region c.region).ctxs = [] ∧
      (u.region c.region).hcause = g.hcause ∧ others u ∧
      u.die.scrub = 1 ∧ u.die.scrubRgn = c.region ∧ u.die.sramg = 0 ∧ u.die.dramg = 0) ∧
    is 5 (.rgncmdRelease d a) (inUse ∧ ¬ (g.tenant = c.tenant ∧ g.ctag = c.ctag) ∧ ∃ x, g.ctxs.find? it = some x ∧ g.switching ≠ some x)
      (fun u => u.region c.region = { g with ctxs := g.ctxs.filter fun x => !it x } ∧ others u ∧
        ∀ x k n, g.ctxs.find? it = some x → x.net = some k → r.nets[k]? = some n → n.st = .running → r.Placed k → NetEnded r u k n 3)

/-- R371, R374: SWITCH to a context that a RUNNING region holds and that is not resident: with a process of the resident context still
to be pre-empted, it has asked every one, which abandons a level-G fault that waits at level P (R428), and waits; with none to save or to
restore it exchanges the contexts at once: the slots are empty, the tag is the new one, and each tile's matrix unit is owned as the
incoming network has it (R249). Any other SWITCH is BUSY, one to the resident context or during another too (the model's reading,
log 25). -/
def Obligations.SwitchResults : Prop :=
  ∀ (s : State) (d a : Opnd), CtlReady s d a →
    let r := taken s [a]
    let c := readRgnCmd (srcVal s [a] 0)
    let g := r.region c.region
    let i := Instr.rgncmdSwitch d a
    let it (x : Context) : Bool := x.tenant == c.tenant && x.ctag == c.ctag
    (c.bad 4 = true → CtlDone (exec i s) s d 3 r) ∧
    (c.bad 4 = false →
      (¬ (g.st = .running ∧ ¬ (g.tenant = c.tenant ∧ g.ctag = c.ctag) ∧ g.ctxs.any it = true) → CtlDone (exec i s) s d 1 r) ∧
      (g.st = .running → ¬ (g.tenant = c.tenant ∧ g.ctag = c.ctag) → ∀ x, g.ctxs.find? it = some x →
        (∀ y, g.switching = some y → y ≠ x → CtlDone (exec i s) s d 1 r) ∧
        (g.switching = none → (∃ k ∈ switchSlots r c.region, (r.slot k).switchReady = false) →
          ∃ u, Waits (exec i s) u .reply ∧ (u.region c.region).switching = some x ∧
            (∀ k ∈ switchSlots r c.region, (u.slot k).gen.preempt = true ∧ ((r.slot k).atP = true → (u.slot k).gen.gfault = none)) ∧
            ∀ k, k ≠ c.region → u.region k = r.region k) ∧
        (g.switching = none → switchSlots r c.region = [] →
          (∀ k n p, x.net = some k → r.nets[k]? = some n → p ∈ n.procs → p.saved = false) →
          let owns (t j : Nat) : Prop := ∃ k n p, x.net = some k ∧ r.nets[k]? = some n ∧ p ∈ n.procs ∧ p.tile = t ∧ p.slot = j ∧ p.matrix = true
          ∃ u, CtlDone (exec i s) s d 0 u ∧ u.region c.region = { g with tenant := c.tenant, ctag := c.ctag, switching := none } ∧
            (∀ k, k ≠ c.region → u.region k = r.region k) ∧
            (∀ t ∈ tilesOf c.region, (u.tile t).ctag = c.ctag ∧ ((∀ j, ¬ owns t j) → (u.tile t).owner = none) ∧
              ∀ j, owns t j → (∀ l, owns t l → l = j) → (u.tile t).owner = some j) ∧
            ∀ k ∈ slotsOfRegion c.region, u.slot k = {})))

/-- R366, R35, R371: `caston` of a validated record performs LOADING: every process stands in its slot at its entry point, a multiple of 4
(R113; the model's choice, log 35), SAVEVA at the place of its record (R365), its windows and CSEGVALID from the record (R232, R112), the
regions run the network; DENIED where a region is no
longer ASSIGNED to the tenant. R38: `cancel` ends every network of the id CANCELLED unless it has reached a status: a running one as
`NetEnded` says, any other is to bind off with its completion record (log 37). R149: `rebind` of a saved, quiet process to a permitted
place moves it in the tables; BADARG, BUSY and DENIED in that order (R380, the model's reading, log 36); the new region becomes one of
the network's, its tenant's idle context runs it (log 36). Of a process of
another package, BADARG and BUSY are judged here, and the channels that end at it here take its new place and the next generation
(log 36). An address or an id that names none is BADARG (log 15, log 21). -/
def Obligations.CtlNetworks : Prop :=
  ∀ (s : State) (d a : Opnd), CtlReady s d a →
    let r := taken s [a]
    let w := srcVal s [a] 0
    let named (k : Nat) (n : Net) : Prop :=
      r.nets[k]? = some n ∧ n.st = .loading ∧ n.tenant = w.toNat / 2 ^ 28 ∧ n.recOff = w.toNat % 2 ^ 28
    let caston (st : Nat) (u : State) : Prop := CtlDone (exec (.ctlCaston d a) s) s d st u
    let rebind (st : Nat) (u : State) : Prop := CtlDone (exec (.ctlRebind d a) s) s d st u
    let hit (k : Nat) (n : Net) : Prop :=
      r.nets[k]? = some n ∧ n.nid.toNat = w.toNat ∧ n.st ≠ .retired ∧ n.st ≠ .rejected
    ((¬ ∃ k n, named k n) → caston 3 r) ∧
    (∀ k n, named k n → (∀ j m, named j m → k ≤ j) →
      let ok : Prop := ∀ j < 16, n.regions.getLsbD j = true → (r.region j).st = .assigned ∧ (r.region j).tenant = n.tenant
      (¬ ok → caston 2 r) ∧
      (ok → ∃ u, caston 0 u ∧ (∃ m, u.nets[k]? = some m ∧ m.st = .running) ∧
        (∀ j < 16, n.regions.getLsbD j = true → (u.region j).st = .running) ∧
        ((n.procs.map (·.slotNo)).Nodup → ∀ p ∈ n.procs,
          let x := u.slot p.slotNo
          x.id.loaded = true ∧ x.id.pid = BitVec.ofNat 16 p.pid ∧ x.id.tenant = n.tenant ∧ x.id.level = 0 ∧ x.id.base = p.base ∧
          x.id.size = p.size ∧ x.gen.pc = BitVec.ofNat 64 (p.entry / 4 * 4) ∧ x.gen.wait = .none ∧ x.vec.vl = p.vlmax ∧
          x.eng = { omask := p.omask } ∧ x.tr = { saveva := n.recordVa p } ∧ x.pb.g = [] ∧
          (∀ j, (x.seg j).st = if j < 64 ∧ j < p.size ∧ p.cseg.getLsbD j = true then .valid else .invalid) ∧
          (∀ j, j < 7 → p.wins.length = 7 → Sparse.get 0 x.vec.win (j + 1) = winStored (p.size * 4096) (p.wins.getD j 0))))) ∧
    ((¬ ∃ k n, hit k n) → CtlDone (exec (.ctlCancel d a) s) s d 3 r) ∧
    ((∃ k n, hit k n) → ∃ u, CtlDone (exec (.ctlCancel d a) s) s d 0 u ∧
      (∀ k n, hit k n → n.st = .running → r.Placed k → NetEnded r u k n 4) ∧
      ∀ k n, hit k n → n.st ≠ .running → n.st ≠ .bindoff →
        ∃ m, u.nets[k]? = some m ∧ m.status = some (n.status.getD 4) ∧ m.st = .bindoff ∧ m.closing = true) ∧
    (rebindArg r w = none → rebindAway r w = none → rebind 3 r) ∧
    (∀ k key n p q, rebindArg r w = none → rebindAway r w = some (k, key, n, p, q) →
      let busy : Prop := p.saved = false ∨ ∃ c ∈ n.chans, c.endsAway p = true ∧ chanQuiet r k c = false
      (busy → rebind 1 r) ∧
      (¬ busy →
        ∃ u m, rebind 0 u ∧ u.nets[k]? = some m ∧ (∀ j, j ≠ k → u.nets[j]? = r.nets[j]?) ∧ u.regions = r.regions ∧
          m = { n with chans := m.chans } ∧ Sparse.get none u.host.peers key = some q ∧ (m.chans = n.chans.map fun c =>
            if c.endsAway p then { c with gen := c.gen + 1, readers := c.readers.map (Ep.moveAway · p q)
                                          writers := c.writers.map (Ep.moveAway · p q) } else c))) ∧
    (∀ k n p q, rebindArg r w = some (k, n, p, q) →
      let busy : Prop := p.saved = false ∨ ∃ c ∈ n.chans, c.endsAt p = true ∧ chanQuiet r k c = false
      let g := (r.region (regionOf q.tile)).joined n.tenant k
      (busy → rebind 1 r) ∧ (¬ busy → moveDenied r n p q = true → rebind 2 r) ∧
      (¬ busy → moveDenied r n p q = false → g.runs k = false → (r.slot q.slotNo).tr.savewant = none →
        ∃ u, rebind 0 u ∧ u.region (regionOf q.tile) = g ∧ ∃ m, u.nets[k]? = some m ∧
          m.procs = n.procs.map (fun o => if o.pid == p.pid then q else o) ∧
          m.regions = n.regions ||| (1#16 <<< regionOf q.tile) ∧ m.chans.map (·.chid) = n.chans.map (·.chid) ∧
          ∀ c ∈ m.chans, (∃ e ∈ n.chans, c = e ∧ e.endsAt p = false) ∨
            ∃ e ∈ n.chans, e.endsAt p = true ∧ c = { e with gen := e.gen + 1, readers := e.readers.map (Ep.move · p q)
                                                            writers := e.writers.map (Ep.move · p q), route := c.routeClass }))

/-! ## Vector words (R204-R227); a word that may pass its fault point does, with every operand form: register, immediate, stream -/

/-- R204, R210-R213, R216: the FP32 words: each active lane takes the operation's value on its lanes, rounded in the mode of the word or
of FCSR at its emit (R79), and the flags of the active lanes are ORed into FFLAGS; nothing else is changed. R139-R141: stream-bound
operands may stop or hold a word instead (the order of those checks: the model's choice, log 58). R75-R77: a value that is rounded is the
number of the format that the mode says, with the flags of overflow, inexactness and underflow; a NaN, an infinity and a zero of a sum, a
product, and a fused sum are as R210 and R211 say. R90: a quotient, a reciprocal, a square root and its reciprocal are the number nearest
to the exact value; their special cases, and those of `vexp2` and `vlog2`, whose other values are computed with 256 working bits (the
model's reading of their correct rounding, log 9). R210: the smaller and the larger of two numbers. R89, R216: the conversions. -/
def Obligations.VectorFloatResults : Prop :=
  (∀ (s : State) (f : VecF) (w : QEntry) (srcs : List (Option StreamSrc)) (dp : Option Nat),
    let rm := rmOf f.rm w.rm
    let imm := f.sub.getLsbD 3
    let is (i : Instr) (op : (Nat → Nat) → (Nat → Nat) → (Nat → Nat) → Nat → FRes) : Prop :=
      StreamStops s i w ∧ (VecGo s i w srcs dp →
        let src (n k : Nat) : Nat := (opLanes s i srcs n).getD k 0
        let res := op (src 0) (fun k => if imm then f.imm.toNat * 65536 else src 1 k) (src (if imm then 1 else 2))
        LaneWord s i w srcs dp (laneOut s f res) (laneFlags s f res))
    is (.vadd f) (fun a b _ k => addF rm (a k) (b k)) ∧
    is (.vsub f) (fun a b _ k => subF rm (a k) (b k)) ∧
    is (.vmul f) (fun a b _ k => mulF rm (a k) (b k)) ∧
    is (.vdiv f) (fun a b _ k => f32.divV (f32.dec (a k)) (f32.dec (b k))) ∧
    is (.vfma f) (fun a b c k => f32.fmaV rm (f32.dec (a k)) (f32.dec (b k)) (f32.dec (c k))) ∧
    is (.vfms f) (fun a b c k => f32.fmaV rm (f32.dec (a k)) (f32.dec (b k)) (f32.dec (c k)).negate) ∧
    is (.vfnma f) (fun a b c k => f32.fmaV rm (f32.dec (a k)).negate (f32.dec (b k)) (f32.dec (c k))) ∧
    is (.vsqrt f) (fun a _ _ k => f32.sqrtV (f32.dec (a k))) ∧
    is (.vrcp f) (fun a _ _ k => f32.rcpV (f32.dec (a k))) ∧
    is (.vrsqrt f) (fun a _ _ k => f32.rsqrtV (f32.dec (a k))) ∧
    is (.vexp2 f) (fun a _ _ k => exp2F (a k)) ∧
    is (.vlog2 f) (fun a _ _ k => log2V (f32.dec (a k))) ∧
    is (.vmin f) (fun a b _ k => minMax false (a k) (b k)) ∧
    is (.vmax f) (fun a b _ k => minMax true (a k) (b k)) ∧
    is (.vabs f) (fun a _ _ k => (a k % 2 ^ 31, 0)) ∧
    is (.vneg f) (fun a _ _ k => ((a k + 2 ^ 31) % 2 ^ 32, 0)) ∧
    is (.vmv f) (fun a _ _ k => (a k, 0)) ∧
    is (.vcvt f) (fun a _ _ k => match f.sub.toNat with
      | 0 => f2i rm false (a k) | 1 => f2i rm true (a k) | 2 => i2f rm false (a k) | 3 => i2f rm true (a k) | _ => rint rm (a k))) ∧
  (∀ (f : Fmt) (rm : Rm) (neg : Bool) (m : Nat) (e : Int), f ∈ [f32, f16, bf16] →
    f.round rm neg 0 e false = (f.sign neg, 0) ∧ (m ≠ 0 → f.Delivers rm neg m e (f.round rm neg m e false))) ∧
  (∀ (rm : Rm) (x y z : FVal),
    let nan : FRes := (0x7FC00000, 0)
    let inf (n : Bool) : FRes := (f32.sign n + 0x7F800000, 0)
    let quiet (sig : Bool) : FRes := if sig then (0x7FC00000, fNV) else nan
    let zero (v : FVal) : Prop := ∃ n e, v = .fin n 0 e
    (x.isNan = true ∨ y.isNan = true → f32.addV rm x y = quiet (x.isSig || y.isSig) ∧ f32.mulV rm x y = quiet (x.isSig || y.isSig)) ∧
    (∀ n, x = .inf n → (∀ k, y = .inf k → f32.addV rm x y = (if n = k then inf n else quiet true) ∧ f32.mulV rm x y = inf (n != k)) ∧
      ∀ k m e, y = .fin k m e → f32.addV rm x y = inf n ∧ f32.addV rm y x = inf n ∧
        f32.mulV rm x y = (if m = 0 then quiet true else inf (n != k)) ∧ f32.mulV rm y x = (if m = 0 then quiet true else inf (n != k))) ∧
    (∀ n k m j e g, x = .fin n m e → y = .fin k j g →
      let lo := min e g
      let v := scaled n m e lo + scaled k j g lo
      (v ≠ 0 → f32.addV rm x y = f32.round rm (decide (v < 0)) v.natAbs lo false) ∧
      (v = 0 → f32.addV rm x y = (f32.sign (if m = 0 ∧ n = k then n else rm == .rdn), 0)) ∧
      f32.mulV rm x y = f32.round rm (n != k) (m * j) (e + g) false ∧
      f32.fmaV rm x y z = if z.isNan then quiet z.isSig else f32.addV rm (.fin (n != k) (m * j) (e + g)) z) ∧
    (((∃ n, x = .inf n) ∧ zero y) ∨ (zero x ∧ ∃ n, y = .inf n) → f32.fmaV rm x y z = quiet true) ∧
    (x.isNan = true ∨ y.isNan = true → f32.fmaV rm x y z = quiet (x.isSig || y.isSig || z.isSig)) ∧
    ∀ n k, x = .inf n → (y = .inf k ∨ ∃ m e, m ≠ 0 ∧ y = .fin k m e) →
      let r := if z.isNan then quiet z.isSig else f32.addV rm (.inf (n != k)) z
      f32.fmaV rm x y z = r ∧ f32.fmaV rm y x z = r) ∧
  (∀ (n k : Bool) (m d : Nat) (e g : Int),
    let x := FVal.fin n m e
    let y := FVal.fin k d g
    let near (c : Bool) (le ge : Nat → Int → Prop) (r : FRes) : Prop := f32.NearDelivers c le ge r
    let res (c : Bool) (b : Nat) (fl : Flags) : FRes := (f32.sign c + b, fl)
    let inf : Nat := 0x7F800000
    let inval : FRes := (0x7FC00000, fNV)
    (m ≠ 0 → d ≠ 0 → near (n != k) (fun q h => magLe m e (d * q) (g + h)) (fun q h => magLe (d * q) (g + h) m e) (f32.divV x y)) ∧
    (m ≠ 0 → near n (fun q h => magLe 1 0 (m * q) (e + h)) (fun q h => magLe (m * q) (e + h) 1 0) (f32.rcpV x)) ∧
    (m ≠ 0 → n = false →
      near false (fun q h => magLe m e (q * q) (2 * h)) (fun q h => magLe (q * q) (2 * h) m e) (f32.sqrtV x) ∧
      near false (fun q h => magLe 1 0 (m * (q * q)) (e + 2 * h)) (fun q h => magLe (m * (q * q)) (e + 2 * h) 1 0) (f32.rsqrtV x)) ∧
    (m ≠ 0 → n = true → f32.sqrtV x = inval ∧ f32.rsqrtV x = inval ∧ log2V x = inval) ∧
    f32.divV (.inf n) (.inf k) = inval ∧ f32.divV (.inf n) y = res (n != k) inf 0 ∧ f32.divV x (.inf k) = res (n != k) 0 0 ∧
    (d = 0 → f32.divV x y = if m = 0 then inval else res (n != k) inf fDZ) ∧ (m = 0 → d ≠ 0 → f32.divV x y = res (n != k) 0 0) ∧
    (m = 0 → f32.sqrtV x = res n 0 0 ∧ f32.rcpV x = res n inf fDZ ∧ f32.rsqrtV x = res n inf fDZ ∧ log2V x = res true inf fDZ) ∧
    f32.rcpV (.inf n) = res n 0 0 ∧
    (if n then f32.sqrtV (.inf n) = inval ∧ f32.rsqrtV (.inf n) = inval ∧ log2V (.inf n) = inval ∧ exp2V (.inf n) = (0, 0)
     else f32.sqrtV (.inf n) = (inf, 0) ∧ f32.rsqrtV (.inf n) = (0, 0) ∧ log2V (.inf n) = (inf, 0) ∧ exp2V (.inf n) = (inf, 0)) ∧
    (let is (i : Nat) : Prop := magLe m e i 0 ∧ magLe i 0 m e
     (∀ i : Int, -149 ≤ i → i ≤ 127 → is i.natAbs → (i ≠ 0 → n = decide (i < 0)) →
       exp2V x = ((if i < -126 then 2 ^ (i + 149).toNat else (i + 127).toNat * 2 ^ 23), 0)) ∧
     (n = false → magLe 128 0 m e → exp2V x = (inf, fOF ||| fNX)) ∧ ((∀ i, ¬ is i) → (exp2V x).2.getLsbD 0 = true)) ∧
    (let is (i : Int) : Prop := magLe m e 1 i ∧ magLe 1 i m e
     (∀ i : Int, -149 ≤ i → i ≤ 127 → n = false → is i → (log2V x).2 = 0 ∧
       ∃ q h, f32.dec (log2V x).1 = .fin (decide (i < 0)) q h ∧ magLe q h i.natAbs 0 ∧ magLe i.natAbs 0 q h) ∧
     (n = false → m ≠ 0 → (∀ i, ¬ is i) → (log2V x).2.getLsbD 0 = true))) ∧
  (∀ (sig : Bool) (v : FVal), let r : FRes := (0x7FC00000, if sig || v.isSig then fNV else 0)
    (let r : FRes := (0x7FC00000, if sig then fNV else 0)
     f32.sqrtV (.nan sig) = r ∧ f32.rcpV (.nan sig) = r ∧ f32.rsqrtV (.nan sig) = r ∧ exp2V (.nan sig) = r ∧ log2V (.nan sig) = r) ∧
    f32.divV (.nan sig) v = r ∧ f32.divV v (.nan sig) = r) ∧
  (∀ (a b : Nat), a < 2 ^ 32 → b < 2 ^ 32 →
    let x := f32.dec a
    let y := f32.dec b
    (x.isNan = true ∨ y.isNan = true → ∀ mx, minMax mx a b = (0x7FC00000, if x.isSig || y.isSig then fNV else 0)) ∧
    (x.isNan = false → y.isNan = false →
      (a < 2 ^ 31 → b < 2 ^ 31 → minMax false a b = (min a b, 0) ∧ minMax true a b = (max a b, 0)) ∧
      (2 ^ 31 ≤ a → 2 ^ 31 ≤ b → minMax false a b = (max a b, 0) ∧ minMax true a b = (min a b, 0)) ∧
      (2 ^ 31 ≤ a → b < 2 ^ 31 → ∀ mx, minMax mx a b = (if mx then b else a, 0) ∧ minMax mx b a = (if mx then b else a, 0)))) ∧
  (∀ (rm : Rm) (uns : Bool) (a : Nat), a < 2 ^ 32 →
    let v : Int := if uns then a else (BitVec.ofNat 32 a).toInt
    let lo : Int := if uns then 0 else -2 ^ 31
    let hi : Int := if uns then 2 ^ 32 - 1 else 2 ^ 31 - 1
    let out (k : Int) (fl : Flags) : Prop := f2i rm uns a = ((BitVec.ofInt 32 k).toNat, fl)
    (v = 0 → i2f rm uns a = (0, 0)) ∧ (v ≠ 0 → f32.Delivers rm (decide (v < 0)) v.natAbs 0 (i2f rm uns a)) ∧
    (∀ sig, f32.dec a = .nan sig → out 0 fNV ∧ rint rm a = (0x7FC00000, if sig then fNV else 0)) ∧
    (∀ n, f32.dec a = .inf n → out (if n then lo else hi) fNV ∧ rint rm a = (a, 0)) ∧
    ∀ n m e, f32.dec a = .fin n m e → ∃ q, rm.IntOf n m e q ∧
      let i : Int := if n then -(q : Int) else q
      let fl : Flags := if m * 2 ^ (e - min e 0).toNat = q * 2 ^ (-(min e 0)).toNat then 0 else fNX
      (i < lo → out lo fNV) ∧ (hi < i → out hi fNV) ∧ (lo ≤ i → i ≤ hi → out i fl) ∧ (rint rm a).2 = fl ∧
        ∃ j h, f32.dec (rint rm a).1 = .fin n j h ∧ magLe j h q 0 ∧ magLe q 0 j h) ∧
  ∀ (rm : Rm) (a b : Nat), addF rm a b = f32.addV rm (f32.dec a) (f32.dec b) ∧ mulF rm a b = f32.mulV rm (f32.dec a) (f32.dec b) ∧
    subF rm a b = addF rm a ((b + 2 ^ 31) % 2 ^ 32)

/-- R204, R217, R218, R215, R221, R222: the integer words, on the 32-bit lanes, signed or unsigned, wrapped or saturated, with no flag;
`vsel`, which takes a lane of va or of vb by its mask bit; `viota` and `vbcast`. Nothing else is changed. R139-R141: stream-bound operands
may stop or hold a word instead (the order: log 58). -/
def Obligations.VectorIntResults : Prop :=
  ∀ (s : State) (f : VecF) (w : QEntry) (srcs : List (Option StreamSrc)) (dp : Option Nat),
    let imm := f.sub.getLsbD 3
    let uns := f.sub.getLsbD 0
    let word (x : Nat) : BitVec 32 := BitVec.ofNat 32 x
    let is (i : Instr) (op : BitVec 32 → BitVec 32 → BitVec 32) : Prop :=
      StreamStops s i w ∧ (VecGo s i w srcs dp →
        let src (n k : Nat) : Nat := (opLanes s i srcs n).getD k 0
        let res (k : Nat) : FRes := ((op (word (src 0 k)) (if imm then f.imm.signExtend 32 else word (src 1 k))).toNat, 0)
        LaneWord s i w srcs dp (laneOut s f res) 0)
    let int (x : BitVec 32) : Int := if uns then x.toNat else x.toInt
    let fit (v : Int) : BitVec 32 :=
      if f.sat = 1 then
        if uns then (if v < 0 then 0 else if 2 ^ 32 ≤ v then 0xFFFFFFFF else BitVec.ofInt 32 v)
        else (if v < -2 ^ 31 then 0x80000000 else if 2 ^ 31 ≤ v then 0x7FFFFFFF else BitVec.ofInt 32 v)
      else BitVec.ofInt 32 v
    is (.viadd f) (fun a b => fit (int a + int b)) ∧ is (.visub f) (fun a b => fit (int a - int b)) ∧
    is (.vimul f) (fun a b => fit (int a * int b)) ∧
    is (.vimulh f) (fun a b => BitVec.ofInt 32 (int a * int b / 2 ^ 32)) ∧
    is (.vimin f) (fun a b => if a.toInt ≤ b.toInt then a else b) ∧ is (.vimax f) (fun a b => if b.toInt ≤ a.toInt then a else b) ∧
    is (.viminu f) (fun a b => if a.toNat ≤ b.toNat then a else b) ∧ is (.vimaxu f) (fun a b => if b.toNat ≤ a.toNat then a else b) ∧
    is (.vand f) (fun a b => a &&& b) ∧ is (.vor f) (fun a b => a ||| b) ∧ is (.vxor f) (fun a b => a ^^^ b) ∧
    is (.vshl f) (fun a b => a <<< (b.toNat % 32)) ∧ is (.vshr f) (fun a b => a >>> (b.toNat % 32)) ∧
    is (.vsra f) (fun a b => a.sshiftRight (b.toNat % 32)) ∧
    StreamStops s (.vsel f) w ∧ StreamStops s (.viota f) w ∧ StreamStops s (.vbcast f) w ∧
    (VecGo s (.vsel f) w srcs dp →
      let src (n k : Nat) : Nat := (opLanes s (.vsel f) srcs n).getD k 0
      LaneWord s (.vsel f) w srcs dp (fun k => if k < s.me.vec.vl then
        some (if (s.me.mask f.msk.toNat).getLsbD k then src 0 k else src 1 k) else none) 0) ∧
    (VecGo s (.viota f) w srcs dp →
      LaneWord s (.viota f) w srcs dp
        (laneOut s f fun k => ((BitVec.ofInt 32 (f.imm.toInt + k * (f.sub ++ f.vc : BitVec 10).toInt)).toNat, 0)) 0) ∧
    (VecGo s (.vbcast f) w srcs dp →
      LaneWord s (.vbcast f) w srcs dp (laneOut s f fun _ =>
        (if f.sub = 0 then (opLanes s (.vbcast f) srcs 0).getD f.imm.toNat 0
         else if f.sub = 8 then f.imm.toNat * 65536 else (f.imm.signExtend 32).toNat, 0)) 0)

/-- R205, R214, R219, R226, R227: the words that write a mask register or VL: a compare writes the bits of the active lanes, and clears
those masked off under `mz`; the mask words act on every bit of the group; `vsetvl` sets VL to its value, VLMAX at most. Nothing else
is changed. R139: stream-bound sources may stop or hold a word instead (the order of those checks: the model's choice, log 58). -/
def Obligations.VectorMaskResults : Prop :=
  ∀ (s : State) (f : VecF) (w : QEntry) (srcs : List (Option StreamSrc)),
    let x := s.me
    let imm := f.sub.getLsbD 3
    let src (i : Instr) (n k : Nat) : Nat := (opLanes s i srcs n).getD k 0
    let cmp (i : Instr) (op : Nat → Bool × Flags) : Prop :=
      StreamStops s i w ∧ (VecGo s i w srcs none → MaskWord s i w srcs f.vd.toNat
        (fun k => if x.active f.msk k then (op k).1 else if k < x.vec.vl ∧ f.mz = 1 then false else (x.mask f.vd.toNat).getLsbD k)
        ((List.range x.id.vlmax).foldl (fun fl k => if x.active f.msk k then fl ||| (op k).2 else fl) 0))
    let mask (i : Instr) (op : Bool → Bool → Bool) : Prop :=
      VecGo s i w srcs none → MaskWord s i w srcs f.vd.toNat
        (fun k => op ((x.mask f.va.toNat).getLsbD k) ((x.mask f.vb.toNat).getLsbD k)) 0
    cmp (.vcmp f) (fun k => cmpF f.cond (src (.vcmp f) 0 k) (if imm then f.imm.toNat * 65536 else src (.vcmp f) 1 k)) ∧
    cmp (.vicmp f) (fun k =>
      let a := BitVec.ofNat 32 (src (.vicmp f) 0 k)
      let b := if imm then f.imm.signExtend 32 else BitVec.ofNat 32 (src (.vicmp f) 1 k)
      ((match f.cond with
        | 0 => decide (a = b) | 1 => decide (a ≠ b) | 2 => decide (a.toInt < b.toInt) | 3 => decide (a.toInt ≤ b.toInt)
        | 4 => decide (b.toInt < a.toInt) | 5 => decide (b.toInt ≤ a.toInt) | 6 => decide (a.toNat < b.toNat)
        | _ => decide (b.toNat ≤ a.toNat)), 0)) ∧
    mask (.mand f) (fun a b => a && b) ∧ mask (.mor f) (fun a b => a || b) ∧ mask (.mxor f) (fun a b => a ^^ b) ∧
    mask (.mnot f) (fun a _ => !a) ∧
    StreamStops s (.vsetvl f) w ∧
    (VecGo s (.vsetvl f) w srcs none → ∃ t, exec (.vsetvl f) s = .next t ∧ VecFrame s t w srcs none (fun _ _ => False) [] ∧
      (t.slot s.cur).vec.vl = min (if f.sub = 0 then f.imm.toNat else src (.vsetvl f) 0 0) x.id.vlmax ∧
      (t.slot s.cur).vec.v = x.vec.v ∧ (t.slot s.cur).vec.m = x.vec.m ∧ (t.slot s.cur).vec.fflags = x.vec.fflags)

/-- R220, R91, R206: a reduction combines the active lanes in the order of TREE into lane 0, with the flags of every node; with no active
lane it delivers the value of the empty list, and at VL = 0 it writes nothing; of one active lane it delivers the bits as they are (the
model's reading, log 56). R223-R225: `vmrg` merges two triples, `vnorm` normalises one and writes its mask bit; each into a register group,
or into one slot. Nothing else is changed. R139-R141: stream-bound operands may stop or hold a word instead (the order of those checks: the model's choice,
log 58). R98: MERGE of two triples: a
NaN among the two m, two masked triples, one masked triple, and two whose terms are finite numbers. R99: finalisation. -/
def Obligations.VectorGroupResults : Prop :=
  (∀ (s : State) (f : VecF) (w : QEntry) (srcs : List (Option StreamSrc)) (dp : Option Nat),
    let x := s.me
    let rm := rmOf f.rm w.rm
    let red (i : Instr) (empty : Nat) (op : Nat → Nat → FRes) : Prop :=
      StreamStops s i w ∧ (VecGo s i w srcs dp → 0 < x.id.vlmax →
        let node (p q : FRes) : FRes := ((op p.1 q.1).1, p.2 ||| q.2 ||| (op p.1 q.1).2)
        let res := (tree node (((List.range x.id.vlmax).filter fun k => x.active f.msk k).map fun k =>
          ((opLanes s i srcs 0).getD k 0, 0))).getD (empty, 0)
        (x.vec.vl = 0 → LaneWord s i w srcs dp (fun _ => none) 0) ∧
        (x.vec.vl ≠ 0 → LaneWord s i w srcs dp (fun k => if k = 0 then some res.1 else none) res.2))
    let triple (i : Instr) (n : Nat) : Triple :=
      match (vsources i)[n]?, srcs[n]? with
      | some v, some none => (VSrc.reg v).triple x
      | some _, some (some a) => tripleOf (streamBytes s s.cur a)
      | _, _ => ⟨0, 0, []⟩
    let t := 64 / x.id.vlmax
    let row (l : List Nat) (q : Nat) : VReg := ofLanes ((l.drop (q * x.id.vlmax)).take x.id.vlmax)
    red (.vredsum f) 0 (addF rm) ∧ red (.vredmax f) 0xFF800000 (minMax true) ∧ red (.vredmin f) 0x7F800000 (minMax false) ∧
    red (.viredsum f) 0 (fun a b =>
      let v := (BitVec.ofNat 32 a).toInt + (BitVec.ofNat 32 b).toInt
      ((if f.sat = 1 then (if v < -2 ^ 31 then 0x80000000#32 else if 2 ^ 31 ≤ v then 0x7FFFFFFF#32 else BitVec.ofInt 32 v)
        else BitVec.ofInt 32 v).toNat, 0)) ∧
    StreamStops s (.vmrg f) w ∧ StreamStops s (.vnorm f) w ∧
    (VecGo s (.vmrg f) w srcs dp →
      let r := mergeTriple (triple (.vmrg f) 0) (triple (.vmrg f) 1)
      ∃ u, exec (.vmrg f) s = .next u ∧ VecFrame s u w srcs dp (fun _ _ => False) (tripleBytes r.1) ∧
        (u.slot s.cur).vec.fflags = x.vec.fflags ||| r.2 ∧ (u.slot s.cur).vec.vl = x.vec.vl ∧ (u.slot s.cur).vec.m = x.vec.m ∧
        ∀ n, (u.slot s.cur).vreg n =
          if dp = none ∧ f.vd.toNat ≤ n ∧ n < f.vd.toNat + t then row r.1.o (n - f.vd.toNat)
          else if dp = none ∧ n = f.vd.toNat + t then ofLanes [r.1.m, r.1.l] else x.vreg n) ∧
    (VecGo s (.vnorm f) w srcs dp → f.imm.toNat < 64 → f.imm.toNat < x.id.vlmax →
      let q := normTriple (triple (.vnorm f) 0)
      ∃ u, exec (.vnorm f) s = .next u ∧ VecFrame s u w srcs dp (fun _ _ => False) (bytesOf q.1) ∧
        (u.slot s.cur).vec.fflags = x.vec.fflags ||| q.2.2 ∧ (u.slot s.cur).vec.vl = x.vec.vl ∧
        (∀ n k, k < x.id.vlmax → k < 64 → ((u.slot s.cur).mask n).getLsbD k =
          if n = f.vc.toNat ∧ n ≠ 0 ∧ k = f.imm.toNat then q.2.1 else (x.mask n).getLsbD k) ∧
        ∀ n, (u.slot s.cur).vreg n =
          if dp = none ∧ f.vd.toNat ≤ n ∧ n < f.vd.toNat + t then row q.1 (n - f.vd.toNat) else x.vreg n)) ∧
  (∀ (x y : Triple),
    let ma := f32.dec x.m
    let mb := f32.dec y.m
    let c := 0x7FC00000
    let r := (mergeTriple x y).1
    let m := (minMax true x.m y.m).1
    (ma.isNan = true ∨ mb.isNan = true →
      mergeTriple x y = (⟨c, c, List.replicate 64 c⟩, if ma.isSig || mb.isSig then fNV else 0)) ∧
    (x.m = 0xFF800000 → y.m = 0xFF800000 → mergeTriple x y = (⟨0xFF800000, 0, List.replicate 64 0⟩, 0)) ∧
    (ma.isNan = false → mb.isNan = false →
      let alone (p : Nat) : Nat := if (f32.dec p).isNan then c else p
      (y.m = 0xFF800000 → x.m ≠ 0xFF800000 → x.m < 2 ^ 32 → r.m = x.m ∧ (x.l < 2 ^ 32 → r.l = alone x.l) ∧
        ∀ j < 64, x.o.getD j 0 < 2 ^ 32 → r.o.getD j 0 = alone (x.o.getD j 0)) ∧
      (x.m = 0xFF800000 → y.m ≠ 0xFF800000 → y.m < 2 ^ 32 → r.m = y.m ∧ (y.l < 2 ^ 32 → r.l = alone y.l) ∧
        ∀ j < 64, y.o.getD j 0 < 2 ^ 32 → r.o.getD j 0 = alone (y.o.getD j 0)) ∧
      (x.m ≠ 0xFF800000 → y.m ≠ 0xFF800000 →
        let weight (z : Nat) : Nat := if fltCmp z m = .eq then 0x3F800000 else (exp2F (subF .rne z m).1).1
        let sum (p q v : Nat) : Prop := ∀ n1 m1 e1 n2 m2 e2 n3 m3 e3 n4 m4 e4,
          f32.dec p = .fin n1 m1 e1 → f32.dec (weight x.m) = .fin n2 m2 e2 → f32.dec q = .fin n3 m3 e3 →
          f32.dec (weight y.m) = .fin n4 m4 e4 →
          v = (f32.addV .rne (.fin (n1 != n2) (m1 * m2) (e1 + e2)) (.fin (n3 != n4) (m3 * m4) (e3 + e4))).1
        r.m = m ∧ sum x.l y.l r.l ∧ ∀ j < 64, sum (x.o.getD j 0) (y.o.getD j 0) (r.o.getD j 0)))) ∧
  ∀ (x : Triple),
    ((∃ n e, f32.dec x.l = .fin n 0 e) → normTriple x = (List.replicate 64 0, true, 0)) ∧
    ((∀ n e, f32.dec x.l ≠ .fin n 0 e) →
      let q (j : Nat) : FRes := f32.divV (f32.dec (x.o.getD j 0)) (f32.dec x.l)
      normTriple x = ((List.range 64).map fun j => (q j).1, false, (List.range 64).foldl (fun fl j => fl ||| (q j).2) 0))

/-! ## Vector memory words (R234-R245) -/

/-- R242, R235, R237, R238: a vector load. Its active lanes take the decoded elements at their addresses, contiguous, strided or indexed;
where every active lane may be accessed VL is as it was; under `ff` the first lane that may not, if it is not the first active lane,
becomes VL and only the lanes below it are loaded. The flags of the decoded lanes are ORed; nothing else is changed. R236: a bad first active
lane, or without `ff` any, raises WINDOW at level E, a double-bit error in an element that is loaded ECCFATAL (R109), and the word has no
effect; R139-R141: stream-bound operands may stop or hold it, before that (the order: the model's choice,
log 58). R86, R88: what the decoding of a window's element is. -/
def Obligations.VectorLoadResults : Prop :=
  (∀ (s : State) (f : MemF) (w : QEntry) (srcs : List (Option StreamSrc)) (dp : Option Nat),
    let x := s.me
    let win := x.window f.win.toNat
    let n := win.fmt.size
    let base : Word := x.bank.readE .vq f.eb.toNat + f.off.signExtend 64
    let loads (i : Instr) (addr : Nat → Nat) : Prop :=
      StreamStops s i w ∧ (VecGo s i w srcs dp →
        let act (k : Nat) : Bool := x.active f.msk k && decide (k < x.id.vlmax)
        let bad (k : Nat) : Prop := elemBad s win false (addr k) = true
        let loaded (lim vl : Nat) : Prop :=
          ((∃ k, k < lim ∧ act k = true ∧ s.eccAt s.cur (addr k) n = true) → StopsE (exec i s) s w .eccfatal none) ∧
          ((∀ k, k < lim → act k = true → s.eccAt s.cur (addr k) n = false) →
          let val (k : Nat) : Nat × Flags := winDec win.fmt win.k (leNat (s.bytesAt s.cur (addr k) n))
          let out (k : Nat) : Option Nat := if act k = true ∧ k < lim then some (val k).1 else none
          ∃ t, exec i s = .next t ∧ VecFrame s t w srcs dp (fun _ _ => False) (laneBytes s out) ∧
            (t.slot s.cur).vec.vl = vl ∧ (t.slot s.cur).vec.m = x.vec.m ∧
            (t.slot s.cur).vec.fflags = x.vec.fflags |||
              (List.range lim).foldl (fun fl k => if act k then fl ||| (val k).2 else fl) 0 ∧
            ∀ r k, k < 64 → lane ((t.slot s.cur).vreg r) k =
              if dp = none ∧ r = f.vd.toNat ∧ k < x.id.vlmax then (match out k with | some v => v % 2 ^ 32 | none => lane (x.vreg r) k)
              else lane (x.vreg r) k)
        ((∀ k, act k = true → ¬ bad k) → loaded x.id.vlmax x.vec.vl) ∧
        (∀ b, f.ff = 1 → act b = true → bad b → (∀ k, k < b → act k = true → ¬ bad k) → (∃ k, k < b ∧ act k = true) → loaded b b) ∧
        (∀ b, act b = true → bad b → f.ff = 0 ∨ (∀ k, k < b → act k = false) → StopsE (exec i s) s w .window none))
    loads (.vld f) (fun k => (base + BitVec.ofNat 64 (k * n)).toNat) ∧
    loads (.vlds f) (fun k => (base + BitVec.ofNat 64 k * x.bank.readE .vq f.es.toNat).toNat) ∧
    loads (.vldx f) (fun k => (base + BitVec.ofNat 64 ((opLanes s (.vldx f) srcs 0).getD k 0 * n)).toNat)) ∧
  ∀ (k : Int) (b : Nat),
    winDec .raw k b = (b, 0) ∧ winDec .fp32 0 b = (b, 0) ∧
    (let float (f : WinFmt) (v : FVal) : Prop :=
       (∀ sig, v = .nan sig → winDec f k b = (0x7FC00000, if sig then fNV else 0)) ∧
       (∀ n, v = .inf n → winDec f k b = (f32.sign n + 0x7F800000, 0)) ∧
       ∀ n m e, v = .fin n m e → winDec f k b = f32.round .rne n m (e + k) false
     (k ≠ 0 → float .fp32 (f32.dec b)) ∧ float .fp16 (f16.dec b) ∧ float .bf16 (bf16.dec b) ∧ float .tap8 (tapDec b)) ∧
    ∀ f, f = .int8 ∨ f = .int16 →
      let v := (BitVec.ofNat (8 * f.size) b).toInt
      let q : Int := if 0 ≤ k then v * 2 ^ k.toNat else v / 2 ^ (-k).toNat
      winDec f k b = ((BitVec.ofInt 32 (max (-2 ^ 31) (min (2 ^ 31 - 1) q))).toNat,
        (if q < -2 ^ 31 ∨ 2 ^ 31 - 1 < q then fNV else 0) ||| (if k < 0 ∧ v % 2 ^ (-k).toNat ≠ 0 then fNX else 0))

/-- R243, R244, R235: a vector store. Every active lane that may be accessed writes its encoded element, in increasing lane order, so that
the highest lane wins where two meet; `vscadd` adds into each distinct index its contributions, in lane order, then the element that
stood there. The flags are ORed; nothing else is changed. R236: an active lane that may not be accessed raises WINDOW at level E, a
double-bit error in an element's word ECCFATAL (R109), and the word has no effect; R139: stream-bound sources may stop or hold it, before that (the
order: the model's choice, log 58). R85, R87,
R88: what the encoding of a lane is; of TAP8 the finite lane's code, tie and flags are all said (`TapDelivers`), and a quiet NaN and a finite
saturation set no NV, as R85 lists the flags of each (against R77's general words: the model's reading, log 56). -/
def Obligations.VectorStoreResults : Prop :=
  (∀ (s : State) (f : MemF) (w : QEntry) (srcs : List (Option StreamSrc)),
    let x := s.me
    let win := x.window f.win.toNat
    let n := win.fmt.size
    let base : Word := x.bank.readE .vq f.eb.toNat + f.off.signExtend 64
    let act (k : Nat) : Bool := x.active f.msk k && decide (k < x.id.vlmax)
    let src (i : Instr) (m k : Nat) : Nat := (opLanes s i srcs m).getD k 0
    let stores (i : Instr) (addr : Nat → Nat) (lanes : Nat → Bool) (enc : Nat → Nat × Flags) : Prop :=
      StreamStops s i w ∧ (VecGo s i w srcs none →
      ((∃ k, act k = true ∧ elemBad s win true (addr k) = true) → StopsE (exec i s) s w .window none) ∧
      ((∀ k, act k = true → elemBad s win true (addr k) = false) → (∃ k, act k = true ∧ s.eccAt s.cur (addr k) n = true) →
        StopsE (exec i s) s w .eccfatal none) ∧
      ((∀ k, act k = true → elemBad s win true (addr k) = false ∧ s.eccAt s.cur (addr k) n = false) →
      ∃ t, exec i s = .next t ∧
        VecFrame s t w srcs none (fun k p => k = tileOf s.cur ∧ ∃ l, act l = true ∧ ∃ j < n, x.phys (addr l + j) = some p) [] ∧
        (t.slot s.cur).vec.v = x.vec.v ∧ (t.slot s.cur).vec.m = x.vec.m ∧ (t.slot s.cur).vec.vl = x.vec.vl ∧
        (t.slot s.cur).vec.fflags = x.vec.fflags |||
          (List.range x.id.vlmax).foldl (fun fl k => if lanes k then fl ||| (enc k).2 else fl) 0 ∧
        ∀ k, lanes k = true →
          (∀ l, lanes l = true → k < l → ∀ j < n, ∀ m < n, x.phys (addr l + j) ≠ x.phys (addr k + m)) →
          ∀ j, j < n → t.byteAt s.cur (addr k + j) = BitVec.ofNat 8 ((enc k).1 / 256 ^ j)))
    let contig (k : Nat) : Nat := (base + BitVec.ofNat 64 (k * n)).toNat
    let strided (k : Nat) : Nat := (base + BitVec.ofNat 64 k * x.bank.readE .vq f.es.toNat).toNat
    let indexed (ix : Nat) : Nat := (base + BitVec.ofNat 64 (ix * n)).toNat
    let enc (i : Instr) (k : Nat) : Nat × Flags := winEnc win.fmt win.k (src i 0 k)
    stores (.vst f) contig act (enc (.vst f)) ∧ stores (.vsts f) strided act (enc (.vsts f)) ∧
    stores (.vstx f) (fun k => indexed (src (.vstx f) 1 k)) act (enc (.vstx f)) ∧
    (let data := src (.vscadd f) 0
     let idx := src (.vscadd f) 1
     let same (j k : Nat) : Bool := act j && idx j == idx k
     let first (k : Nat) : Bool := act k && (List.range k).all fun j => !same j k
     let sum (k : Nat) : FRes := ((List.range x.id.vlmax).filter fun j => same j k && decide (k < j)).foldl
       (fun c j => ((scAdd win c.1 (data j)).1, c.2 ||| (scAdd win c.1 (data j)).2)) (data k, 0)
     stores (.vscadd f) (fun k => indexed (idx k)) first (fun k =>
       let v := winDec win.fmt win.k (leNat (s.bytesAt s.cur (indexed (idx k)) n))
       let r := scAdd win v.1 (sum k).1
       let e := winEnc win.fmt win.k r.1
       (e.1, (sum k).2 ||| v.2 ||| r.2 ||| e.2)))) ∧
  ∀ (k : Int) (x : Nat),
    winEnc .raw k x = (x, 0) ∧ winEnc .fp32 0 x = (x, 0) ∧
    (let float (w : WinFmt) (f : Fmt) : Prop :=
       (∀ sig, f32.dec x = .nan sig → winEnc w k x = (f.nan, if sig then fNV else 0)) ∧
       (∀ n, f32.dec x = .inf n → winEnc w k x = (f.sign n + f.inf, 0)) ∧
       ∀ n m e, f32.dec x = .fin n m e → winEnc w k x = f.round .rne n m (e - k) false
     (k ≠ 0 → float .fp32 f32) ∧ float .fp16 f16 ∧ float .bf16 bf16) ∧
    ((∀ sig, f32.dec x = .nan sig → winEnc .tap8 k x = (0x80, if sig then fNV else 0)) ∧
      (∀ n, f32.dec x = .inf n → winEnc .tap8 k x = (if n then 0x83 else 3, fNV)) ∧
      ∀ n m e, f32.dec x = .fin n m e → TapDelivers n m (e - k) (winEnc .tap8 k x)) ∧
    ∀ f, f = .int8 ∨ f = .int16 →
      let v := (BitVec.ofNat 32 x).toInt
      let up : Int := v * 2 ^ (-k).toNat
      let unit : Int := 2 ^ k.toNat
      let w := 8 * f.size
      let lo : Int := -2 ^ (w - 1)
      let hi : Int := 2 ^ (w - 1) - 1
      ∃ q : Int, 2 * (up - q * unit).natAbs ≤ unit.natAbs ∧ (2 * (up - q * unit).natAbs = unit.natAbs → q % 2 = 0) ∧
        winEnc f k x = ((BitVec.ofInt w (max lo (min hi q))).toNat,
          (if q < lo ∨ hi < q then fNV else 0) ||| (if q * unit = up then 0 else fNX))

/-- R245, R204: the permutes: a lane of `vperm`, `vrot` or `vslide` that is active takes the lane of va that its index, the rotation or
the slide names, or zero outside VL; `vcompress` gathers the lanes whose mask bit is set to the bottom and clears the rest of VL. No
flag; nothing else is changed. R139-R141: stream-bound operands may stop or hold a word instead (the order of those
checks: the model's choice, log 58). -/
def Obligations.PermuteResults : Prop :=
  ∀ (s : State) (f : MemF) (w : QEntry) (srcs : List (Option StreamSrc)) (dp : Option Nat),
    let x := s.me
    let n := f.off.extractLsb' 0 16
    let is (i : Instr) (g : (Nat → Nat) → (Nat → Nat) → Nat → Nat) : Prop :=
      StreamStops s i w ∧ (VecGo s i w srcs dp →
        let src (m k : Nat) : Nat := (opLanes s i srcs m).getD k 0
        LaneWord s i w srcs dp (fun k => if x.active f.msk k then some (g (src 0) (src 1) k) else none) 0)
    is (.vperm f) (fun a ix k => if ix k < x.vec.vl then a (ix k) else 0) ∧
    is (.vrot f) (fun a _ k => a ((k + n.toNat) % x.vec.vl)) ∧
    is (.vslide f) (fun a _ k => if 0 ≤ (k : Int) + n.toInt ∧ (k : Int) + n.toInt < x.vec.vl then a ((k : Int) + n.toInt).toNat else 0) ∧
    StreamStops s (.vcompress f) w ∧
    (VecGo s (.vcompress f) w srcs dp →
      let kept := ((List.range x.vec.vl).filter fun k => (x.mask f.msk.toNat).getLsbD k).map fun k => (opLanes s (.vcompress f) srcs 0).getD k 0
      LaneWord s (.vcompress f) w srcs dp (fun k => if k < x.vec.vl then some (kept.getD k 0) else none) 0)

/-! ## Matrix words (R249-R268) -/

/-- R92, R94, R261, R262, R266, R268: what the words that work on an accumulator leave in it, element by element: `mzero` clears the
elements, sets the mode and closes every batch; `mcfg` sets the two shift amounts; `mcommit` closes a batch on both; `mstep` takes each
element (i, j) through the products of its rows in order, opens its batch, collects OV and ORs the flags. Nothing else is changed. R259: the
checks in their order, each with its cause at level E and no effect: ACCOWNER, DESCRIPTOR, WINDOW, ACCMODE; then a double-bit error of an
operand (R109). R254, R255: where element i of row k of an operand lies, in SRAM by its pair, in the string of the vector registers.
R93-R95, R77: one update of an element, and a run of them in K order. -/
def Obligations.AccumulatorResults : Prop :=
  (∀ (s : State) (f : MatF) (w : QEntry), s.startable = some w →
    let a := s.acc f.acc
    let n := f.acc.toNat
    let fmt := f.fmt
    (s.accForeign f.acc = true → StopsE (exec (.mzero f) s) s w .accowner none ∧ StopsE (exec (.mcfg f) s) s w .accowner none ∧
      StopsE (exec (.mstep f) s) s w .accowner none) ∧
    (s.accForeign f.acc = false →
      AccWord (exec (.mzero f) s) s w n 0 (fun b => (∀ e, Sparse.get 0 b.el e = 0) ∧
        b = { a with el := b.el, mode := if fmt = 1 then .flt else if fmt = 3 then .int else .fix, opn := 0 }) ∧
      AccWord (exec (.mcfg f) s) s w n 0 (fun b => b = { a with sa := f.a, sb := f.b })) ∧
    (∃ t, exec (.mcommit f) s = .next t ∧ MatFrame s t w (fun _ _ => False) ∧ (t.slot s.cur).vec = s.me.vec ∧
      ∀ m, let b := (s.tile (tileOf s.cur)).acc m
        (t.tile (tileOf s.cur)).acc m = { b with opn := b.opn &&& ~~~(1#8 <<< f.batch.toNat) }) ∧
    (let d := matDepth f
     let na := matSize fmt true
     let nb := matSize fmt false
     let wid (src : BitVec 1) (e : BitVec 6) : Nat := if src = 1 then 64 else ((s.me.bank.readE .mq (e.toNat + 1)).extractLsb' 0 7).toNat
     let ready (src : BitVec 1) (e : BitVec 6) (k : Nat) : Prop :=
       s.panelFault src e = false ∧ s.panelOut src e d k = false ∧ s.panelEcc src e d k = false
     let wrong : Prop := s.panelFault f.asrc f.a = true ∨ s.panelFault f.bsrc f.b = true
     let out : Prop := s.panelOut f.asrc f.a d na = true ∨ s.panelOut f.bsrc f.b d nb = true
     let mode : AccMode := if fmt = 1 then .flt else if fmt = 3 then .int else .fix
     (s.accForeign f.acc = false → (wrong → StopsE (exec (.mstep f) s) s w .descriptor none) ∧
      (¬ wrong → (out → StopsE (exec (.mstep f) s) s w .window none) ∧
        (¬ out → (a.mode ≠ mode → StopsE (exec (.mstep f) s) s w .accmode none) ∧
          (a.mode = mode → s.panelEcc f.asrc f.a d na = true ∨ s.panelEcc f.bsrc f.b d nb = true →
            StopsE (exec (.mstep f) s) s w .eccfatal none)))) ∧
     (s.accForeign f.acc = false → ready f.asrc f.a na → ready f.bsrc f.b nb → a.mode = mode →
      let row (k i : Nat) : FVal := matDec fmt true (((s.operandRows f.asrc f.a d na).getD k []).getD i 0)
      let col (k j : Nat) : FVal := matDec fmt false (((s.operandRows f.bsrc f.b d nb).getD k []).getD j 0)
      let cell (i j : Nat) : Cell := cellRun a.mode (f.flags.getLsbD 0) ((List.range d).map fun k => row k i)
        ((List.range d).map fun k => col k j) (Sparse.get 0 a.el (64 * i + j))
      let cells : List Cell := (List.range (wid f.asrc f.a)).flatMap fun i => (List.range (wid f.bsrc f.b)).map fun j => cell i j
      AccWord (exec (.mstep f) s) s w n (cells.foldl (fun fl c => fl ||| c.flags) 0) (fun b =>
        (∀ i j, j < 64 → Sparse.get 0 b.el (64 * i + j) =
          if i < wid f.asrc f.a ∧ j < wid f.bsrc f.b then (cell i j).bits else Sparse.get 0 a.el (64 * i + j)) ∧
        b = { a with el := b.el, opn := a.opn ||| (1#8 <<< f.batch.toNat), ov := a.ov || cells.any (·.ov) })))) ∧
  (∀ (s : State) (f : BitVec 6) (d n : Nat),
    let x := s.me
    let e := x.bank.readE .mq f.toNat
    let e' := x.bank.readE .mq (f.toNat + 1)
    let nel := (e'.extractLsb' 0 7).toNat
    let addr (k i : Nat) : Nat := (e.extractLsb' 0 21).toNat + k * (e.extractLsb' 21 21).toNat + i / 8 * (e'.extractLsb' 16 21).toNat +
      k * (e'.extractLsb' 8 5).toNat % 32 * 64 + i % 8 * n
    let inVec (b : Nat) : Byte := BitVec.ofNat 8 (lane (x.vreg (f.toNat + b / (4 * x.id.vlmax))) (b % (4 * x.id.vlmax) / 4) / 256 ^ (b % 4))
    let elem (src : BitVec 1) (k i : Nat) : Nat := ((s.operandRows src f d n).getD k []).getD i 0
    (s.panelFault 0 f = true ↔ nel = 0 ∨ 64 < nel ∨ e.extractLsb' 42 22 ≠ 0 ∨ e'.getLsbD 7 = true ∨ e'.extractLsb' 13 3 ≠ 0 ∨
      e'.extractLsb' 37 27 ≠ 0) ∧
    (s.panelOut 0 f d n = true ↔ ∃ k < d, ∃ i < nel, s.badRange s.cur (addr k i) n false = true) ∧
    (s.panelEcc 0 f d n = true ↔ ∃ k < d, ∃ i < nel, 0 < n ∧ s.eccAt s.cur (addr k i) n = true) ∧
    s.panelFault 1 f = false ∧ s.panelOut 1 f d n = false ∧ s.panelEcc 1 f d n = false ∧
    (∀ k i, k < d → i < nel → elem 0 k i = leNat ((List.range n).map fun m => s.byteAt s.cur (addr k i + m))) ∧
    (0 < x.id.vlmax → ∀ k i, k < d → i < 64 → elem 1 k i = leNat ((List.range n).map fun m => inVec ((64 * k + i) * n + m)))) ∧
  (∀ (mode : AccMode) (neg : Bool) (b : AccElem), (cellRun mode neg [] [] b).bits = b ∧ (cellRun mode neg [] [] b).ov = false ∧
    (cellRun mode neg [] [] b).flags = 0) ∧
  ∀ (mode : AccMode) (neg : Bool) (xs ys : List FVal) (x y : FVal) (b : AccElem), xs.length = ys.length →
    let c := cellRun mode neg xs ys b
    let r := cellRun mode neg (xs ++ [x]) (ys ++ [y]) b
    let finite : Prop := (∃ n m e, x = .fin n m e) ∧ ∃ n m e, y = .fin n m e
    (mode = .flt →
      let v := f32.fmaV .rne (if neg then x.negate else x) y (f32.dec (c.bits.extractLsb' 0 32).toNat)
      r.bits = BitVec.ofNat 96 v.1 ∧ r.ov = c.ov ∧ (finite → r.flags = c.flags ||| v.2) ∧ (¬ finite → r.flags = c.flags ||| v.2 ||| fNV)) ∧
    (mode ≠ .flt → ¬ finite → r.bits = c.bits ∧ r.ov = c.ov ∧ r.flags = c.flags ||| fNV) ∧
    ∀ n m e k j g, mode ≠ .flt → x = .fin n m e → y = .fin k j g →
      let sh : Int := e + g + (if mode = .fix then 48 else 0)
      let p : Int := if 0 ≤ sh then m * j * 2 ^ sh.toNat else (m * j : Nat) / 2 ^ (-sh).toNat
      let sum : Int := c.bits.toInt + (if (n = k) = (neg = false) then p else -p)
      r.bits = BitVec.ofInt 96 (max (-2 ^ 95) (min (2 ^ 95 - 1) sum)) ∧
        r.ov = (c.ov || decide (sum < -2 ^ 95 ∨ 2 ^ 95 - 1 < sum)) ∧ r.flags = c.flags

/-- R96, R264, R265, R267: reading an accumulator out: `mrd` puts the elements of its rows, rounded to FP32 or INT32, into vector
registers; `mst` stores them, encoded by a window, at the places of a pair; `msave` stores the whole accumulator; `mload` takes one back.
Nothing else is changed. R259: the checks in their order, each with its cause at level E and no effect: ACCOWNER, DESCRIPTOR, WINDOW,
ACCMODE, ACCOPEN; then a double-bit error of what is read or partly written (R109), of the block that `mload` takes before anything
that stands in it (the model's choice, log 63); R267: a block that is not well formed is DESCRIPTOR. -/
def Obligations.ReadoutResults : Prop :=
  ∀ (s : State) (f : MatF) (w : QEntry), s.startable = some w →
    let stops (i : Instr) (c : Cause) : Prop := StopsE (exec i s) s w c none
    (s.accForeign f.acc = true → stops (.mrd f) .accowner ∧ stops (.mst f) .accowner ∧ stops (.msave f) .accowner ∧
      stops (.mload f) .accowner) ∧
    (s.accForeign f.acc = false →
    let x := s.me
    let a := s.acc f.acc
    let d := matDepth f
    let int := f.flags.getLsbD 0
    let read (e : Nat) : FRes := mrdElem (a.readout (f.b.toNat + e / 64) (e % 64)) int
    (int = true → a.mode = .flt → stops (.mrd f) .accmode) ∧
    (¬ (int = true ∧ a.mode = .flt) → a.opn ≠ 0 → stops (.mrd f) .accopen) ∧
    (¬ (int = true ∧ a.mode = .flt) → a.opn = 0 →
      ∃ t, exec (.mrd f) s = .next t ∧ MatFrame s t w (fun _ _ => False) ∧
        (t.tile (tileOf s.cur)).acc0 = (s.tile (tileOf s.cur)).acc0 ∧ (t.tile (tileOf s.cur)).acc1 = (s.tile (tileOf s.cur)).acc1 ∧
        (t.slot s.cur).vec.fflags = x.vec.fflags ||| (List.range (64 * d)).foldl (fun fl e => fl ||| (read e).2) 0 ∧
        ∀ r k, k < 64 → lane ((t.slot s.cur).vreg r) k =
          if f.a.toNat ≤ r ∧ r < f.a.toNat + d * (64 / x.id.vlmax) ∧ k < x.id.vlmax then
            (read ((r - f.a.toNat) * x.id.vlmax + k)).1 % 2 ^ 32
          else lane (x.vreg r) k) ∧
    (let p := x.panel f.a
     let win := x.window f.flags.toNat
     let n := win.fmt.size
     let place (e : Nat) : Nat := p.base + e / p.nel * p.pitch + e % p.nel / 8 * p.tile + e % p.nel % 8 * n
     let enc (e : Nat) : FRes := winEncVal win.fmt ((a.readout (f.b.toNat + e / p.nel) (e % p.nel)).scale (-win.k))
     let bad : Prop := ∃ e < d * p.nel, elemBad s win true (place e) = true
     let double : Prop := ∃ e < d * p.nel, s.eccAt s.cur (place e) n = true
     (p.wrong = true ∨ p.rot ≠ 0 → stops (.mst f) .descriptor) ∧
     (p.wrong = false → p.rot = 0 → (bad → stops (.mst f) .window) ∧
      (¬ bad → (a.opn ≠ 0 → stops (.mst f) .accopen) ∧ (a.opn = 0 → double → stops (.mst f) .eccfatal))) ∧
     (p.wrong = false → p.rot = 0 → ¬ bad → ¬ double → a.opn = 0 →
      BlockWord (exec (.mst f) s) s w (fun k q => ∃ e < d * p.nel, bytesBehind s s.cur (place e) n k q)
        ((List.range (d * p.nel)).foldl (fun fl e => fl ||| (enc e).2) 0) (fun t =>
          ∀ e < d * p.nel, (∀ l < d * p.nel, e < l → ∀ j < n, ∀ m < n, x.phys (place l + j) ≠ x.phys (place e + m)) →
            ∀ j < n, t.byteAt s.cur (place e + j) = BitVec.ofNat 8 ((enc e).1 / 256 ^ j)))) ∧
    (let b := ((x.bank.readE .mq f.a.toNat).extractLsb' 0 21).toNat
     (s.blockOut b true = true → stops (.msave f) .window) ∧ (s.blockOut b false = true → stops (.mload f) .window) ∧
     (s.blockOut b true = false → x.atP = true → a.opn ≠ 0 → stops (.msave f) .accopen) ∧
     (s.blockOut b false = false → eccRanges s s.cur [(b, 49216)] = true → stops (.mload f) .eccfatal) ∧
     (s.blockOut b false = false → eccRanges s s.cur [(b, 49216)] = false →
      Acc.ofBlock a x.atP (s.bytesAt s.cur b 49216) = none → stops (.mload f) .descriptor) ∧
     (s.blockOut b true = false → (x.atP = true → a.opn = 0) →
      BlockWord (exec (.msave f) s) s w (bytesBehind s s.cur b 49216) 0 (fun t =>
        (∀ j < 8, t.byteAt s.cur (b + j) = (a.header x.atP).extractLsb' (8 * j) 8) ∧
        (∀ j, 8 ≤ j → j < 64 → t.byteAt s.cur (b + j) = 0) ∧
        ∀ e < 4096, ∀ j < 12, t.byteAt s.cur (b + 64 + 12 * e + j) = (Sparse.get (0 : AccElem) a.el e).extractLsb' (8 * j) 8)) ∧
     (∀ c, s.blockOut b false = false → eccRanges s s.cur [(b, 49216)] = false →
      Acc.ofBlock a x.atP (s.bytesAt s.cur b 49216) = some c →
      AccWord (exec (.mload f) s) s w f.acc.toNat 0 (fun e => e = c))))

/-! ## Copy words (R286-R301) -/

/-- R289, R290, R296, R299, R300: a step of a copy word past its fault point moves its next element. `xcopy`, `xget` and `xgather` write
the bytes of its source to the partition; `xput` puts them into the write set of the process (R335); `xatom` adds a contribution for each
32-bit word of it. The word has done everything with its last element; nothing else is changed. A source that holds an uncorrectable error
halts the region (R109; the model's inputs, log 19). R292: what stops the start of a copy word, in this order, each at level E: a descriptor
in a bad word (ECCFATAL), or not well formed (DESCRIPTOR); of a channel, bytes that make no whole slots, the port's binding, its close, its
severing; a partition side out of bounds (WINDOW); then, of a word that does not gather, the pages in order: a page that fails gives its
cause, with FAULTVA, a page that is not there is awaited (R282), and with all of them, and no conflict, the word has passed its fault point,
and keeps its descriptor as it found it and where it found it (the model's reading, log 49), and the publication of its peers' frames that it
reads (log 22; log 12 of other packages). R288-R290, R298, R299: where each element lies, from the descriptor, dimension 0 innermost, and
each row, from its index. The first page fails by its range, by REJECT (R284), or as its walk does. -/
def Obligations.CopyMoves : Prop :=
  (∀ (s : State) (f : CopyF) (w : QEntry) (j : Job), s.startable = none → s.mover = some w →
    let k := w.prog.n
    let dst := j.dst k
    let fin := decide (k + 1 = j.count)
    let own (i : Nat) : Byte := s.byteAt s.cur (j.src k + i)
    let runs := (hostRuns w.prog.leaves (j.src k) j.size).length
    let toPart (i : Instr) (o : CopyOp) (used : Nat) (bs : List Byte) : Prop :=
      s.jobAt o w = some j →
      (srcBad s o w j k = true → StopsE (exec i s) s w .eccfatal none) ∧
      (srcBad s o w j k = false → s.badRange s.cur dst j.size true = false →
        ∃ t, exec i s = .next t ∧ Moves s t w (k + 1) used [] fin ∧ CopyFrame (bytesBehind s s.cur dst j.size) s t ∧ t.nets = s.nets ∧
          ∀ i, i < j.size → t.byteAt s.cur (dst + i) = bs.getD i 0)
    let toProc (i : Instr) (o : CopyOp) (good : Proc → Proc → Prop) : Prop :=
      s.jobAt o w = some j → (s.eccAt s.cur (j.src k) j.size = true → StopsE (exec i s) s w .eccfatal none) ∧
      (s.eccAt s.cur (j.src k) j.size = false → ∀ m net p, s.procOf s.cur = some (m, net, p) →
        (∀ i, i < j.size → ∃ l, leafOf w.prog.leaves (vpnOf (dst + i)) = some l ∧ leafTarget l ≠ 12) →
        ∃ t, exec i s = .next t ∧ Moves s t w (k + 1) 0 [] fin ∧ CopyFrame (fun _ _ => False) s t ∧
          (∀ n, n ≠ m → t.nets[n]? = s.nets[n]?) ∧ ∃ net' q, t.procOf s.cur = some (m, net', q) ∧ good p q ∧ net' = { net with procs := net'.procs })
    toPart (.xcopy f) ⟨false, .part, false⟩ 0 ((List.range j.size).map own) ∧
    (∀ bs u, fetchRange s s.cur w (j.src k) j.size = (some bs, u) →
      toPart (.xget f) ⟨true, .part, false⟩ runs bs ∧ (f.mode.getLsbD 0 = false → toPart (.xgather f) ⟨true, .part, true⟩ runs bs)) ∧
    toProc (.xput f) ⟨false, .va, false⟩ (fun p q => q = { p with wset := q.wset } ∧ ∀ va, Sparse.get none q.wset va =
      if dst ≤ va ∧ va < dst + j.size then some (own (va - dst)) else Sparse.get none p.wset va) ∧
    (let added : List Contrib := (List.range (j.size / 4)).map fun i =>
       ⟨f.op.toNat, dst + 4 * i, own (4 * i + 3) ++ own (4 * i + 2) ++ own (4 * i + 1) ++ own (4 * i)⟩
     toProc (.xatom f) ⟨false, .atom f.op.toNat, false⟩ (fun p q => q = { p with contribs := p.contribs ++ added }))) ∧
  (∀ (s : State) (f : CopyF) (w : QEntry), s.startable = some w →
    let x := s.me
    let a := (x.bank.readE .xq f.ed.toNat).toNat
    let starts (i : Instr) (o : CopyOp) : Prop :=
      let stops (c : Cause) : Prop := StopsE (exec i s) s w c none
      let wr : Bool := match o.dst with | .va => true | .atom _ => true | _ => false
      let atom : Bool := match o.dst with | .atom _ => true | _ => false
      let ask : PageAsk := ⟨wr, atom, o.gather, w.eseq, if w.prog.rej then w.prog.want else none⟩
      (descEcc s o a = true → stops .eccfatal) ∧
      (descEcc s o a = false → (jobOf s (s.byteAt s.cur) o a [] = none → stops .descriptor) ∧
        ∀ j, jobOf s (s.byteAt s.cur) o a [] = some j →
          (∀ p close, o.dst = .chan p close →
            let pt := x.port p
            (pt.bound = false → stops .portunbound) ∧
            ∀ c, pt.bound = true → s.chan? pt.net pt.ch = some c →
              (j.count * j.size % c.size ≠ 0 → stops .descriptor) ∧
              (j.count * j.size % c.size = 0 → (pt.isW = false → stops .portunbound) ∧
                (pt.isW = true → (x.closedFor p w = true → stops .endstream) ∧
                  (x.closedFor p w = false → pt.sev = true → stops .severed)))) ∧
          ((∀ p close, o.dst = .chan p close → chanFault s w j p = none) →
            (jobOut s o j = true → stops .window) ∧
            (jobOut s o j = false → o.gather = false →
              let read := if o.srcVa then j.rest.map fun k => (j.src k, j.size) else []
              let spans := if wr then j.rest.map fun k => (j.dst k, j.size) else read
              let use := match s.procOf s.cur with | some (_, _, p) => p.use | none => []
              (∀ k va t, touchPages s s.cur ask spans [] use = (.bad k va, t) → t.slots = s.slots ∧
                StopsE (exec i s) t w k.cause (some (faultVa va k))) ∧
              (∀ vpn t, touchPages s s.cur ask spans [] use = (.page vpn, t) → t.slots = s.slots ∧
                exec i s = .next (t.modMe fun y => y.mapWord w fun e =>
                  { e with prog := { e.prog with want := some vpn, rej := false }, stat := .waiting })) ∧
              ∀ lv us t, touchPages s s.cur ask spans [] use = (.ok lv us, t) → rangeConflicts t s.cur lv read = ([], none) →
                ∃ u, exec i s = .next u ∧ u.tiles = s.tiles ∧ u.dram = s.dram ∧ u.me.eng = x.eng.mapWord w (fun e =>
                  { e with prog := { n := j.first, leaves := lv, desc := a, pub := s.pub, peer := s.free
                                     block := s.bytesAt s.cur a (blockLen s o a) }, stat := .passed }))))
    starts (.xcopy f) ⟨false, .part, false⟩ ∧ starts (.xget f) ⟨true, .part, false⟩ ∧ starts (.xput f) ⟨false, .va, false⟩ ∧
    starts (.xstream f) ⟨true, .chan f.imm.toNat (f.mode.getLsbD 0), false⟩ ∧
    starts (.xgather f) ⟨true, if f.mode.getLsbD 0 then .chan f.imm.toNat (f.mode.getLsbD 1) else .part, true⟩ ∧
    starts (.xatom f) ⟨false, .atom f.op.toNat, false⟩) ∧
  (∀ (s : State) (rd : Nat → Byte) (o : CopyOp) (a : Nat) (idx : List Word) (j : Job), jobOf s rd o a idx = some j →
    let dw (n : Nat) : Word := BitVec.ofNat 64 (leNat ((List.range 8).map fun k => rd (a + n + k)))
    let bits (n from_ len : Nat) : Nat := ((dw n).extractLsb' from_ len).toNat
    (o.gather = false →
      let nd := bits 16 0 4
      let cnt (k : Nat) : Nat := bits (32 + 24 * k) 0 32
      let before (k : Nat) : Nat := ((List.range k).map cnt).prod
      let side (base str n : Nat) : Nat :=
        ((List.range nd).foldl (fun v k => v + BitVec.ofNat 64 (n / before k % cnt k) * dw (str + 24 * k)) (dw base)).toNat
      j.count = before nd ∧ j.size = 2 ^ bits 16 4 3 ∧
      j.first = (if (dw 16).getLsbD 8 then ((List.range nd).map fun k => bits (32 + 24 * k) 32 32 * before k).sum else 0) ∧
      ∀ n, j.src n = side 0 40 n ∧ j.dst n = side 8 48 n) ∧
    (o.gather = true →
      j.count = bits 24 0 32 ∧ j.size = bits 32 8 13 ∧ j.first = (if (dw 32).getLsbD 2 then bits 24 32 32 else 0) ∧
      (∀ n, j.src n = (dw 8 + idx.getD n 0 * dw 40).toNat ∧ j.dst n = (dw 16).toNat + n * (dw 48).toNat) ∧
      ∀ g bs, gatherOf s rd o a = some g → g.ibase = dw 0 ∧ g.isize = (if bits 32 0 2 = 2 then 8 else 4) ∧
        g.index bs = if bits 32 0 2 = 1 then (BitVec.ofNat 32 (leNat bs)).signExtend 64 else BitVec.ofNat 64 (leNat bs))) ∧
  ∀ (s : State) (i : Nat) (q : PageAsk) (a n : Nat) (l : List (Nat × Nat)) (use : List Nat),
    let x := s.slot i
    let r := touchPages s i q ((a, n) :: l) [] use
    (2 ^ 57 ≤ a → r = (.bad .range a, s)) ∧
    (a < 2 ^ 57 → (q.rej = some (vpnOf a) → r = (.bad .reject a, s)) ∧
      (q.rej ≠ some (vpnOf a) →
        (∀ k t, translate s (tileOf i) x.id.tenant x.id.world (vpnOf a) q.wr q.atom = (.bad k, t) → r = (.bad k a, t)) ∧
        ∀ t, translate s (tileOf i) x.id.tenant x.id.world (vpnOf a) q.wr q.atom = (.page, t) →
          r = (.page (vpnOf a), pageRequest t ⟨x.id.tenant, q.wr, false, q.idxe, i, q.eseq⟩ (vpnOf a))))

/-- R297, R299, R290: a step of `xstream`, or of `xgather` to a channel, on a port that is not severed, with no older word unretired: while
what it has read does not fill a slot, it reads its next element; else, where the port has room, one slot is sent; with the last one the
word has done everything, and a word that closes its port has done that too. On a severed port it discards what is left. A source that
holds an uncorrectable error halts the region (R109; log 19). -/
def Obligations.StreamMoves : Prop :=
  ∀ (s : State) (f : CopyF) (w : QEntry) (j : Job) (c : Chan) (n : Net), s.startable = none → s.mover = some w →
    let pn := f.imm.toNat
    let p := s.me.port pn
    let k := w.prog.n
    let rest := w.prog.part.drop c.size
    let fin := decide (k = j.count) && rest.isEmpty
    let runs := (hostRuns w.prog.leaves (j.src k) j.size).length
    s.chan? p.net p.ch = some c → s.nets[p.net]? = some n →
    let streams (i : Instr) (o : CopyOp) (close : Bool) : Prop :=
      s.jobAt o w = some j →
      (p.sev = true → ∃ t, exec i s = .next t ∧ Moves s t w j.count 0 [] true ∧ CopyFrame (fun _ _ => False) s t ∧ t.nets = s.nets) ∧
      (p.sev = false → (∀ a ∈ s.me.eng.words, a.olderFor w = false) →
        (w.prog.part.length < c.size → rangeBad s s.cur w.prog.leaves (j.src k) j.size = true → StopsE (exec i s) s w .eccfatal none) ∧
        (∀ bs u, w.prog.part.length < c.size → rangeBad s s.cur w.prog.leaves (j.src k) j.size = false →
          fetchRange s s.cur w (j.src k) j.size = (some bs, u) →
          ∃ t, exec i s = .next t ∧ Moves s t w (k + 1) runs (w.prog.part ++ bs) false ∧ CopyFrame (fun _ _ => False) s t ∧ t.nets = s.nets) ∧
        (c.size ≤ w.prog.part.length → p.freeCount c n ≠ some 0 →
          ∃ t, exec i s = .next t ∧ Moves s t w k 0 rest fin ∧ SendKept s.cur s t ∧
            ((t.slot s.cur).port pn).seq = p.seq + 1 ∧ ((t.slot s.cur).port pn).free = p.free.map (fun g => g - 1) ∧
            ((t.slot s.cur).port pn).closed = (p.closed || (fin && close)) ∧
            (∀ q, q ≠ pn → let y := (t.slot s.cur).port q; y = { s.me.port q with arr := y.arr, owed := y.owed }) ∧
            (fin && close = false → let u := transmit s s.cur pn (w.prog.part.take c.size); t.nets = u.nets ∧ t.ual = u.ual)))
    streams (.xstream f) ⟨true, .chan pn (f.mode.getLsbD 0), false⟩ (f.mode.getLsbD 0) ∧
    (f.mode.getLsbD 0 = true → streams (.xgather f) ⟨true, .chan pn (f.mode.getLsbD 1), true⟩ (f.mode.getLsbD 1))

/-! ## Queue words (R183-R185, R193-R197) -/

/-- R172, R183-R185, R193, R195, R197: `eset.l`, `eset.h`, `enop` and a `qjoin` whose condition holds retire as they start: the word leaves its
queue, its follow-on is a word like any other, the commit point goes on; `eset` has written its engine register of the queue that carries
it. No held store may meet a bad word as it is performed (R109). A `qjoin` whose condition does not hold changes nothing. A `replay` whose pattern passes its checks starts the sequencer: at the first
position; or, where RPAT names this pattern on this queue, at the position that RIDX and RPAT hold; RPAT.VALID is cleared and the word waits
for its sequencer. A parked body word at or past NW leaves the first vector empty, and the next follows; an index at or past its COUNT is
issued once (the model's choice, log 54). The follow-on of a copy that a replay issued counts as a word of MQ that a `qjoin` awaits (the
model's reading, log 30). A pattern that is not well formed (R194), and a `replay.res` without a parked position, raise
DESCRIPTOR at level E, a bad word in it ECCFATAL. Nothing else is changed. -/
def Obligations.QueueWordResults : Prop :=
  (∀ (s : State) (w : QEntry) (e : BitVec 4) (lo : BitVec 48) (hi : BitVec 16) (m : BitVec 3), s.startable = some w →
    StoresClean s s.cur →
    let x := s.me
    let retires (i : Instr) (reg : Option (Nat × Word)) : Prop :=
      ∃ t, exec i s = .next t ∧ Retired s t w ∧
        (∀ r, (t.slot s.cur).bank.readG r = x.bank.readG r) ∧ (t.slot s.cur).bank.t = x.bank.t ∧
        (t.slot s.cur).bank.eseq = x.bank.eseq ∧
        ∀ q r, (t.slot s.cur).bank.readE q r =
          match reg with
          | some (n, v) => if q = s.curQ ∧ r = n then v else x.bank.readE q r
          | none => x.bank.readE q r
    retires (.esetL e lo) (some (e.toNat, lo.zeroExtend 64)) ∧
    retires (.esetH e hi) (some (e.toNat, hi ++ (x.bank.readE s.curQ e.toNat).extractLsb' 0 48)) ∧
    retires .enop none ∧
    (let older := x.eng.words.any fun o => o.olderFor w && o.q != s.curQ && m.getLsbD (queueNum o.q)
     (older = false → retires (.qjoin m) none) ∧ (older = true → exec (.qjoin m) s = .next s))) ∧
  (∀ (s : State) (w : QEntry) (e : BitVec 4) (res : BitVec 1), s.startable = some w →
    let x := s.me
    let p := (x.bank.readE s.curQ e.toNat).toNat
    let rpat := x.tr.rpat
    let parked : Bool := rpat.getLsbD 63 && (rpat.extractLsb' 0 21).toNat == p && (rpat.extractLsb' 29 2).toNat == queueNum s.curQ
    let u := s.modMe fun y => { y with tr := { y.tr with rpat := rpat &&& 0x7FFFFFFFFFFFFFFF } }
    (readPHead (s.byteAt s.cur) x.outside x.partSize p = none → StopsE (exec (.replay e res) s) u w .descriptor none) ∧
    ∀ (h : PHead), readPHead (s.byteAt s.cur) x.outside x.partSize p = some h →
    (0 < h.total → s.eccAt s.cur p (8 * h.total) = true → StopsE (exec (.replay e res) s) s w .eccfatal none) ∧
    (s.eccAt s.cur p (8 * h.total) = false → patternOk (s.byteAt s.cur) p h = false → StopsE (exec (.replay e res) s) u w .descriptor none) ∧
    (s.eccAt s.cur p (8 * h.total) = false → patternOk (s.byteAt s.cur) p h = true →
    (parked = true ∨ res = 0 →
      ∃ t, exec (.replay e res) s = .next t ∧ (∀ j, j ≠ s.cur → t.slot j = s.slot j) ∧ t = { s with slots := t.slots } ∧
        (let idx : List Nat := if parked then (List.range h.nl).map fun k => (Sparse.get 0 x.tr.ridx k).toNat else List.replicate h.nl 0
         let w0 : Nat := if parked then (rpat.extractLsb' 21 8).toNat else 0
         let r : Replay := { q := s.curQ, pat := p, idx := idx, w := w0, n := 1, nw := h.nw, nst := h.nst, hbase := h.hbase
                             hlimit := h.hlimit, counts := h.counts }
         let eng : Eng := x.eng.mapWord w fun a => { a with stat := .waiting, prog := { a.prog with idx := [BitVec.ofNat 64 p] } }
         let at_ : Replay := if w0 < h.nw then r else
           match nextIdx h.counts idx with
           | some i => { r with idx := i, w := 0 }
           | none => { r with w := h.nw }
         t.slot s.cur = { x with eng := { eng with replay := some at_ }, tr := { x.tr with rpat := rpat &&& 0x7FFFFFFFFFFFFFFF } })) ∧
      (parked = false → res = 1 → StopsE (exec (.replay e res) s) u w .descriptor none)))


/-! ## Events of a slot (R24, R111, R119, R129, R140, R172, R189, R192, R195, R358, R428) -/

/-- R24, R119, R189, R192, R326, R327, R337, R358, R428, R429: a slot whose awaited condition holds is ready again, and nothing else is
changed: its port has the slot that it awaits, an end mark or room; the episode of its barrier or phase has come; a wait for engine words, a segment or a
reply is evaluated again. A wait at a group of which a member that has not arrived is stopped, or has lost its region, raises SEVERED. A
level-G fault that waits enters the supervisor once its instruction is the commit point; a level-E fault once every word of the slot has
retired. A pre-emption at level P, with no fault entering, abandons a level-G fault that waits; once nothing that has started is left it
is taken, of a slot with no word unretired with PREEMPT, no fault register written and the abandoned wait in the wait descriptor, or with
the verdict of a detector that is taken so, at level E. At level S a request stays. -/
def Obligations.WakeAndEntryResults : Prop :=
  (∀ (s : State),
    let x := s.me
    let wakes : Prop := ∃ t, exec .slotWake s = .next t ∧ SlotBecomes s t s.cur { x with gen := { x.gen with wait := .none } }
    let severed (g : BitVec 8) : Prop := x.atS = false → TrapsWith (exec .slotWake s) s (gFault s .severed s.pc (g.zeroExtend 64) none)
    let lost (n : Net) (r : Group) (tab : Sparse Nat) (e : Nat) : Prop := ∃ p ∈ n.procs, r.members.contains p.pid = true ∧ p.exited = false ∧
      Sparse.get 0 tab p.pid < e ∧ (p.stopped = true ∨ (s.region (regionOf p.tile)).st = .halted)
    (∀ p n, x.gen.wait = .readPort p n → (∀ v, readReady s s.cur p n ≠ .wait v) → wakes) ∧
    (∀ p, x.gen.wait = .writePort p → (∀ v, writeReady s s.cur p ≠ .wait v) → wakes) ∧
    (∀ g e n r, x.gen.wait = .barrier g e → s.nets[x.id.net]? = some n → n.group? g.toNat = some r →
      (e ≤ r.epoch → wakes) ∧ (r.epoch < e → lost n r r.bar e → severed g)) ∧
    (∀ g e, x.gen.wait = .phase g e → (e ≤ s.episodes x.id.net x.id.pid.toNat g.toNat → wakes) ∧
      (s.episodes x.id.net x.id.pid.toNat g.toNat < e → ∀ n r, s.nets[x.id.net]? = some n → n.group? g.toNat = some r →
        lost n r r.ph e → severed g)) ∧
    (x.gen.heldExit = false → x.gen.wait = .engine ∨ x.gen.wait = .segment ∨ x.gen.wait = .reply → wakes)) ∧
  (∀ (s : State),
    let x := s.me
    let i := s.cur
    (StoresClean s i → x.committed = true →
      (∀ f, x.gen.gfault = some f → x.atS = false → f.cause ≠ .preempt → f.cause ≠ .eccfatal →
        ∃ t, exec .levelGFault s = .next t ∧ Entered i (commitSlot s i) t f) ∧
      (∀ f, x.gen.entering = some f → f.cause ≠ .preempt →
        ∃ t, exec .trapEntry s = .next t ∧ Entered i (commitSlot s i) t f)) ∧
    (x.id.loaded = true → x.id.exited = false → x.id.stopped = false → x.gen.stopping = false →
      let wait : Wait := if x.gen.gfault.isSome then .none else x.gen.wait
      (x.id.level = 0 → x.gen.entering = none → x.committed = true →
        let id : Ident := { x.id with plevel := 0, level := if i = Config.controlSlot then 2 else 1 }
        let tr : TrapRegs := { x.tr with cause := 26, pc := x.gen.pc.extractLsb' 2 19 ++ 0#2, waitd := wait.desc }
        let gen : Gen := { x.gen with pc := (s.tile (tileOf i)).svec, wait := .none, gfault := none, preempt := false, verdict := none }
        (x.gen.verdict = none →
          ∃ t, exec .preempt s = .next t ∧ SlotBecomes s t i { x with id := id, tr := tr, gen := gen, sb := { x.sb with eseq := 0 } }) ∧
        ∀ c v, x.gen.verdict = some (c, v) → c ≠ .preempt → ∃ t, exec .preempt s = .next t ∧
          Entered i (s.modMe fun y => { y with gen := { y.gen with preempt := false, verdict := none } }) t
            { cause := c, lvlE := true, pc := x.gen.pc, epc := x.gen.pc, eseq := x.bank.eseq, fword := BitVec.ofNat 64 v, iter := 0, va := none }) ∧
      (x.id.level = 0 → x.gen.entering = none → drained x = false →
        ∃ t, exec .preempt s = .next t ∧ SlotBecomes s t i { x with gen := { x.gen with preempt := true, gfault := none, wait := wait } }) ∧
      (x.id.level ≠ 0 → ∃ t, exec .preempt s = .next t ∧ SlotBecomes s t i { x with gen := { x.gen with preempt := true } })))

/-- R111, R129: the image of the last request that a segment's `cfetch`es have sent lands, while the segment is INFLIGHT, as one write of
its place in SRAM, and the segment is VALID; a failed one leaves it FAILED, with FAULTVA kept for its MEMFAULT. Where a younger `cfetch`
that has not committed waits there, the segment stays INFLIGHT and keeps its requests, and that state is what an unwind gives back (the
model's reading, log 18). No other segment, slot, byte or memory is changed. -/
def Obligations.SegmentEvents : Prop :=
  ∀ (s : State) (k : Nat) (r : SegReq),
    let x := s.me
    let g := x.seg k
    g.queued = some r → g.st = .inflight →
    let settled (y : Slot) (fva : Word) (st : SegSt) : Prop :=
      y = { x with segs := y.segs, eng := { x.eng with hist := y.eng.hist } } ∧ (∀ j, j ≠ k → y.seg j = x.seg j) ∧
      (g.later = [] → y.seg k = { g with st := st, reqs := [], fva := fva } ∧ y.eng.hist = x.eng.hist) ∧
      ∀ q l, g.later = q :: l → y.seg k = { g with reqs := q :: l, fva := fva } ∧ y.eng.hist.length = x.eng.hist.length ∧
        ∀ (n : Nat) (h : HistE), x.eng.hist[n]? = some h → y.eng.hist[n]? = some
          (match h.act with
            | .seg j _ => if j = k ∧ h.pos = q.pos then { h with act := .seg k st } else h
            | _ => h)
    (∀ bs, r.image = some bs →
      let at0 := (x.id.base + k) * 4096
      ∃ t, exec (.cfetchLanding k) s = .next t ∧ settled (t.slot s.cur) g.fva .valid ∧ (∀ j, j ≠ s.cur → t.slot j = s.slot j) ∧
        t = { s with slots := t.slots, tiles := t.tiles } ∧ (∀ j, j ≠ tileOf s.cur → t.tile j = s.tile j) ∧
        ∀ p, (t.tile (tileOf s.cur)).sram.byte p =
          if at0 ≤ p ∧ p < at0 + bs.length then bs.getD (p - at0) 0 else (s.tile (tileOf s.cur)).sram.byte p) ∧
    (∀ c, r.fail = some c →
      ∃ t y, exec (.cfetchFailure k) s = .next t ∧ SlotBecomes s t s.cur y ∧ settled y (faultVaCode r.va.toNat c) .failed)

/-- R140, R172, R193, R195: what a slot's engines do besides starting words. The sequencer of a replay skips a position that its flags
exclude, issues the word of one that they do not, as the judgment at issue gives it, with its follow-on (R181), and has done at the end of
the pattern; a word that the judgment refuses, a `replay` (BADWORD), and a hull outside the declared one (DESCRIPTOR), the hulls of its
follow-on among them (the model's reading, log 30), raise the fault at level E, with the position; while a word issued before still writes
the pattern or what the judgment reads, it waits (R118, R178); the oldest word that can retire does, where no held store meets a bad word (R109); the oldest entry of the stream hold buffer sends its next slot, or is dropped on a severed port. -/
def Obligations.EngineEventResults : Prop :=
  ∀ (s : State),
    let x := s.me
    let i := s.cur
    (∀ r rep, x.eng.replay = some r → x.eng.ordered.find? (fun w => w.stat == .waiting && isReplay w.word) = some rep →
      (∀ o ∈ x.eng.out, o.pos = rep.pos → o.isPast = true) →
      let becomes (e : Eng) : Prop := ∃ t, exec .replayIssue s = .next t ∧ SlotBecomes s t i { x with eng := e }
      let wd := bodyWord (s.byteAt i) r.pat r.head r.idx r.w
      (r.nw ≤ r.w → becomes { x.eng.mapWord rep (fun a => { a with stat := .passed }) with replay := none }) ∧
      let writing := ((issueSide s i rep.pos).blocked r.pat (8 * r.head.total)).isSome
      (r.w < r.nw → ¬ (x.parking = true ∧ r.w = 0) → writing = true → exec .replayIssue s = .next s) ∧
      (r.w < r.nw → ¬ (x.parking = true ∧ r.w = 0) → writing = false →
        (bodyIssues (s.byteAt i) r.pat r.head r.idx r.w = false → becomes { x.eng with replay := some r.advance }) ∧
        (bodyIssues (s.byteAt i) r.pat r.head r.idx r.w = true →
          let e : QEntry := { rep with word := wd, sub := 2 * r.n, hulls := [], dhull := [], fo := none, stat := .queued, prog := {}
                                       iter := iterWord r.idx r.w }
          (isReplay wd = true → StopsE (exec .replayIssue s) s e .badword none) ∧
          (isReplay wd = false →
            (∀ c fw, judgeWord s i (issueSide s i rep.pos) r.q wd wd = .bad c fw → StopsE (exec .replayIssue s) s e c none) ∧
            (∀ v, judgeWord s i (issueSide s i rep.pos) r.q wd wd = .wait v → exec .replayIssue s = .next s) ∧
            ∀ hulls dhull, judgeWord s i (issueSide s i rep.pos) r.q wd wd = .ok hulls dhull →
              let fo := followOn (issueSide s i rep.pos) wd
              let foh := match fo with | some fw => foHulls s i (issueSide s i rep.pos) fw | none => []
              let inside : Prop := ∀ h ∈ hulls ++ foh, r.hbase < r.hlimit ∧ sector r.hbase ≤ h.lo ∧ h.hi ≤ sector (r.hlimit - 1)
              (¬ inside → StopsE (exec .replayIssue s) s e .descriptor none) ∧
              (inside → becomes { x.eng with
                out := x.eng.out ++ ({ e with hulls := hulls, dhull := dhull, fo := fo } :: match fo with
                  | some fw => [{ e with word := fw, sub := 2 * r.n + 1, hulls := foh, stat := .reserved, q := .mq }]
                  | none => [])
                replay := some { r.advance with n := r.n + 1 } }))))) ∧
    (∀ w, StoresClean s i → x.eng.ordered.find? x.retirable = some w → copyGathers w.word = none → isReplay w.word = false →
      ∃ t, exec .wordRetire s = .next t ∧ Retired s t w ∧ (t.slot i).bank = x.bank) ∧
    (∀ h rest b bs c n, x.eng.hold = h :: rest → h.slots = b :: bs →
      (∀ w ∈ x.eng.words, w.pos = h.pos → w.sub = h.sub → ∀ o ∈ x.eng.words, o.olderFor w = false) →
      let p := x.port h.port
      s.chan? p.net p.ch = some c → s.nets[p.net]? = some n →
      (p.sev = true → ∃ t, exec .streamSendRelease s = .next t ∧ SlotBecomes s t i { x with eng := { x.eng with hold := rest } }) ∧
      (p.sev = false → p.freeCount c n ≠ some 0 →
        ∃ t, exec .streamSendRelease s = .next t ∧ SendKept i s t ∧
          (t.slot i).eng = { x.eng with hold := if bs.isEmpty then rest else { h with slots := bs } :: rest } ∧
          ((t.slot i).port h.port).seq = p.seq + 1 ∧ ((t.slot i).port h.port).free = p.free.map (fun g => g - 1) ∧
          (∀ q, q ≠ h.port → (t.slot i).port q = x.port q) ∧
          let u := transmit s i h.port b
          t.nets = u.nets ∧ t.ual = u.ual))

/-! ## Events of the fabric (R26, R150-R168, R285, R309-R316, R378, R429) -/

/-- R26, R27, R148, R150, R151, R154, R159, R165, R307, R314, R378: one packet of a channel that is not mirrored, at the head of its route,
arrives at an endpoint whose process stands in its slot. A slot that the gates admit goes into the next place of the reader's buffer, or,
with that full, into the skein; a root of a reduction counts its contributions with the first reader's copy. Credits raise the free
count; the end mark, once every slot before it has come, sets where the stream ends; a sever notice severs. A packet of another generation
is dropped and counted at its read port; one that no gate admits is dropped; slots and credits so lost count as arrived (the model's choice,
log 50); with the first reader in the other package a result counts there and not here (log 12). A packet for a saved process waits
(R374). Credits owed go out as a packet; a slot of the skein moves into a free place. No other port, slot or byte is changed.
R152, R376: a slot of a mirrored channel arrives in its writer's half of the buffer. Where the other writer's slot of the same number
has come, equal bytes make it available; different ones are not delivered, the position is kept for MIRRORDIFF, and a region event goes
out for each writer's region. Two marks at one slot end the stream; a mark where the other writer has a slot is a difference.
R309-R314, R320, R378: an input of a reduce channel reaches its node. The first of a pair waits there, where the router has room, and
counts as arrived; else it stays on its route. With the other there the two, the lower on the left, are combined by OP; an odd one goes
up unchanged; the result goes to the parent, from the root to every reader. An input over a contributor that has closed
before it is discarded, a credit of each reader going back to each contributor. A node combines elements of 4 bytes: by the sum to nearest
even, the sum mod 2^32, the greater or the lesser; or two attention triples (VectorGroupResults). No slot and no tile is changed. -/
def Obligations.PacketResults : Prop :=
  (∀ (s : State) (net ch : Nat) (n : Net) (c : Chan), s.nets[net]? = some n → s.chan? net ch = some c → c.mirror = false →
     let st (k : Pkt) : Nat := if c.streams = 1 then 0 else k.src
     let root : Bool := c.reduce && !c.endpt
     let placed (t : State) (e : Ep) (st : Nat) (data : List Byte) : Prop :=
       let p := s.epPort e
       let a := p.arr.getD st 0
       let lo := (s.slot e.slotNo).id.base * 4096 + c.buf + (a * c.legs + st) % (c.cap0 * c.legs) * c.size
       PortBecomes s t e { p with arr := (List.range c.streams).map fun j => if j = st then a + 1 else p.arr.getD j 0 } ∧
         (∀ j, j < c.size → (t.tile e.tile).sram.byte (lo + j) = data.getD j 0) ∧
         (∀ j, j ≠ e.tile → t.tile j = s.tile j) ∧ t.tile e.tile = { s.tile e.tile with sram := (t.tile e.tile).sram } ∧
         ∀ q, q < lo ∨ lo + c.size ≤ q → (t.tile e.tile).sram.byte q = (s.tile e.tile).sram.byte q
     (∀ k rest, c.transit = k :: rest →
       let left : Chan := { c with transit := rest }
       let counted (t : State) (m : Nat) : Prop := (t.nets[net]?).map (·.arrived) = some (n.arrived + m)
       let came (c' : Chan) : Chan := if root ∧ c.roots ≤ k.seq then { c' with roots := k.seq + 1 } else c'
       let one : Nat := if root then (if k.seq < c.roots ∨ c.firstAway = some 0 then 0 else c.writers.length) else 1
       (∀ rd e, k.kind = .slot → k.node = none → k.dst = rd → c.readers[rd]? = some e → n.savedAt e = false →
         (s.gateAdmits n c k = true → s.epLive net c e k.gen = true → (s.epPort e).sev = false → k.data.length = c.size →
           (c.reduce && c.endpt && atOrBelow c.cut k.seq) = false →
           ((s.epPort e).held c (st k) < c.cap0 → (∀ y ∈ c.skein, y.rd = rd → y.half ≠ st k) → e.slot < 4 → st k < c.streams →
             ∃ t, exec (.slotPacket net ch rd) s = .next t ∧ t.chan? net ch = some (came left) ∧ placed t e (st k) k.data ∧ counted t one) ∧
           (c.cap0 ≤ (s.epPort e).held c (st k) →
             ∃ t, exec (.slotPacket net ch rd) s = .next t ∧ t.slots = s.slots ∧ t.tiles = s.tiles ∧ counted t one ∧
               t.chan? net ch = some (came { left with skein := c.skein ++ [⟨rd, st k, k.data⟩] }))) ∧
         (s.gateAdmits n c k = true → s.epLive net c e k.gen = false →
           ∃ t, exec (.slotPacket net ch rd) s = .next t ∧ t.tiles = s.tiles ∧ t.chan? net ch = some (came left) ∧ counted t one ∧
             (∀ j, j ≠ e.slotNo → t.slot j = s.slot j) ∧
             (let x := s.slot e.slotNo
              t.slot e.slotNo = { x with vec := { x.vec with staledrop := min 0xFFFFFFFF (x.vec.staledrop + 1) } })) ∧
         (s.gateAdmits n c k = false →
           ∃ t, exec (.slotPacket net ch rd) s = .next t ∧ t = { s with nets := t.nets } ∧ t.chan? net ch = some left ∧
             counted t (if root then (if k.seq < c.roots ∨ c.firstAway = some 0 then 0 else c.writers.length) else 1))) ∧
       (∀ rd e, c.readers[rd]? = some e → n.savedAt e = true →
         (k.kind = .slot → k.node = none → k.dst = rd → rest = [] → exec (.slotPacket net ch rd) s = .next s) ∧
         (k.kind = .endMark → k.dst = rd → rest = [] → exec (.endMarkPacket net ch rd) s = .next s)) ∧
       (∀ wr e, k.kind = .credit → k.dst = wr → c.writers[wr]? = some e →
         (n.savedAt e = true → rest = [] → exec (.creditPacket net ch wr) s = .next s) ∧
         (n.savedAt e = false → s.gateAdmits n c k = false →
           ∃ t, exec (.creditPacket net ch wr) s = .next t ∧ t = { s with nets := t.nets } ∧ t.chan? net ch = some left ∧
             (t.nets[net]?).map (·.carr) = some (n.carr + k.count))) ∧
       (∀ wr e, k.kind = .credit → k.dst = wr → c.writers[wr]? = some e → n.savedAt e = false → s.gateAdmits n c k = true →
         s.epLive net c e k.gen = true →
         let p := s.epPort e
         ∃ t, exec (.creditPacket net ch wr) s = .next t ∧ t.chan? net ch = some left ∧ t.tiles = s.tiles ∧
           (t.nets[net]?).map (·.carr) = some (n.carr + k.count) ∧
           PortBecomes s t e { p with free := (List.range p.free.length).map fun r => p.free.getD r 0 + if r = k.src then k.count else 0 }) ∧
       (∀ rd e, k.kind = .endMark → k.dst = rd → c.readers[rd]? = some e → n.savedAt e = false → s.gateAdmits n c k = true →
         s.epLive net c e k.gen = true → (s.epPort e).sev = false →
         let come (j : Nat) : Nat := (s.epPort e).arr.getD j 0 + c.skein.countP fun y => y.rd == rd && y.half == j
         ((∀ j, j < c.streams → k.seq / c.legs ≤ come j) →
           ∃ t, exec (.endMarkPacket net ch rd) s = .next t ∧ t.chan? net ch = some left ∧ t.tiles = s.tiles ∧
             PortBecomes s t e { s.epPort e with fin := some k.seq }) ∧
         ∀ j, j < c.streams → come j < k.seq / c.legs → (∀ y ∈ rest, y.kind = .endMark → y.dst ≠ rd) →
           exec (.endMarkPacket net ch rd) s = .next s) ∧
       (∀ ep e, k.kind = .sever → k.dst = ep → (c.readers ++ c.writers)[ep]? = some e → n.savedAt e = false →
         s.epLive net c e k.gen = true →
         ∃ t, exec (.severNotice net ch ep) s = .next t ∧ t.chan? net ch = some left ∧ t.tiles = s.tiles ∧
           PortBecomes s t e { s.epPort e with sev := true })) ∧
     (∀ rd e w we m, c.readers[rd]? = some e → n.savedAt e = false → (s.epPort e).owed = [(w, m)] → m ≤ 255 →
       c.writers[w]? = some we → we.remote = false →
       let k : Pkt := { kind := .credit, gen := (s.epPort e).gen, seq := 0, count := m, src := rd, dst := w, node := none, data := [] }
       ∃ t, exec (.creditMergeExpiry net ch rd) s = .next t ∧ t.tiles = s.tiles ∧
         t.chan? net ch = some { c with transit := c.transit ++ [k] } ∧ PortBecomes s t e { s.epPort e with owed := [] }) ∧
     (∀ rd e y rest, c.readers[rd]? = some e → e.slot < 4 → n.savedAt e = false → s.epLive net c e c.gen = true →
       (s.epPort e).held c 0 < c.cap0 → c.skein = y :: rest → y.rd = rd → y.half = 0 → 0 < c.streams → y.data.length = c.size →
       ∃ t, exec (.skeinTransfer net ch rd) s = .next t ∧ t.chan? net ch = some { c with skein := rest } ∧ placed t e 0 y.data)) ∧
  (∀ (s : State) (net ch : Nat) (n : Net) (c : Chan) (k : Pkt) (rest : List Pkt) (e : Ep),
     s.nets[net]? = some n → s.chan? net ch = some c → c.mirror = true → c.reduce = false → c.skein = [] → c.transit = k :: rest →
     c.readers[k.dst]? = some e → e.slot < 4 → n.savedAt e = false → s.gateAdmits n c k = true → s.epLive net c e k.gen = true →
     k.src < 2 → 0 < c.size → (s.epPort e).sev = false → (s.epPort e).diff = none →
     let p := s.epPort e
     let o := 1 - k.src
     let mine := p.arr.getD k.src 0
     let other := p.arr.getD o 0
     let at_ (h j : Nat) : Nat := (s.slot e.slotNo).id.base * 4096 + c.buf + (h * c.cap0 + j % c.cap0) * c.size
     let slotAt (h j : Nat) : List Byte := (s.tile e.tile).sram.bytes (at_ h j) c.size
     let agreed (m : Nat) : Prop := m ≤ p.kc ∨ slotAt 0 (m - 1) = slotAt 1 (m - 1)
     let told (t : State) (d : Nat) : Prop := t.funcs =
       (c.writers.foldl (fun u w => regionEvent u (s.slot e.slotNo).id.tenant
         (eventRec (regionOf w.tile) 4 (s.slot e.slotNo).id.tenant 22 c.chid d)) s).funcs
     (k.kind = .slot → k.node = none → k.data.length = c.size → mine - p.kc < c.cap0 →
       Sparse.get none c.ends 0 = none → Sparse.get none c.ends 1 = none →
       let p1 : Port := { p with arr := [if k.src = 0 then mine + 1 else other, if k.src = 0 then other else mine + 1] }
       let result (q : Port) (d : Option Nat) : Prop := ∃ t, exec (.slotPacket net ch k.dst) s = .next t ∧ PortBecomes s t e q ∧
         t.chan? net ch = some { c with transit := rest } ∧ (t.tile e.tile).sram.bytes (at_ k.src mine) c.size = k.data ∧
         (∀ a, a < at_ k.src mine ∨ at_ k.src mine + c.size ≤ a → (t.tile e.tile).sram.byte a = (s.tile e.tile).sram.byte a) ∧
         (match d with | some d => told t d | none => t.funcs = s.funcs)
       (other ≤ mine → agreed other → result p1 none) ∧
       (mine < other → p.kc ≤ mine → slotAt o mine = k.data → result p1 none) ∧
       (mine < other → p.kc ≤ mine → slotAt o mine ≠ k.data → result { p1 with diff := some mine } (some mine))) ∧
     (k.kind = .endMark → k.seq ≤ mine → agreed (min mine other) → Sparse.get none c.ends k.src = none →
       let result (q : Port) (d : Option Nat) : Prop := ∃ t, exec (.endMarkPacket net ch k.dst) s = .next t ∧ PortBecomes s t e q ∧
         t.chan? net ch = some { c with transit := rest, ends := Sparse.set none c.ends k.src (some k.seq) } ∧ t.tiles = s.tiles ∧
         (match d with | some d => told t d | none => t.funcs = s.funcs)
       (k.seq < other → (∀ q, Sparse.get none c.ends o = some q → mine ≤ q) → result { p with diff := some k.seq } (some k.seq)) ∧
       (other ≤ k.seq → Sparse.get none c.ends o = some k.seq → mine ≤ k.seq → result { p with fin := some k.seq } none) ∧
       (other ≤ k.seq → Sparse.get none c.ends o = none → result p none))) ∧
  ((∀ (s : State) (net ch : Nat) (n : Net) (c : Chan) (k : Pkt) (rest : List Pkt) (lvl j : Nat),
     s.nets[net]? = some n → s.chan? net ch = some c → c.transit = k :: rest → k.kind = .slot → k.node = some (lvl, j) →
     s.gateAdmits n c k = true → (∀ e ∈ c.readers ++ c.writers, e.remote = false) →
     let w := c.writers.length
     let under (l i : Nat) : List Nat := (List.range w).filter fun r => r / 2 ^ l == i
     let partner (x : NodeIn) : Bool := x.lvl == lvl && x.k == k.seq && x.num / 2 == j / 2 && x.num != j
     let result (c' : Chan) (arr cret dis : Nat) : Prop := ∃ t, exec (.reduceNodeInput net ch) s = .next t ∧ t = { s with nets := t.nets } ∧
       t.chan? net ch = some c' ∧ (t.nets[net]?).map (·.arrived) = some arr ∧ (t.nets[net]?).map (·.cret) = some cret ∧
       (t.nets[net]?).map (·.discarded) = some dis
     let up (data : List Byte) : List Pkt :=
       let out (r : Nat) (node : Option (Nat × Nat)) : Pkt :=
         { kind := .slot, gen := k.gen, seq := k.seq, count := 0, src := j / 2 * 2 ^ (lvl + 1), dst := r, node := node, data := data }
       if treeLevels w ≤ lvl + 1 then (List.range c.readers.length).map fun r => out r none else [out 0 (some (lvl + 1, j / 2))]
     (c.cutOff (lvl + 1) (j / 2) k.seq = false →
       (nodeSingle w lvl j = true → result { c with transit := rest ++ up k.data } n.arrived n.cret n.discarded) ∧
       (nodeSingle w lvl j = false →
         (c.nodes.find? partner = none →
           (routerHolds s (c.nodeTile (lvl + 1) (j / 2)) < 64 →
             result { c with transit := rest, nodes := c.nodes ++ [⟨lvl, j, k.seq, k.data⟩] } (n.arrived + (under lvl j).length) n.cret n.discarded) ∧
           (64 ≤ routerHolds s (c.nodeTile (lvl + 1) (j / 2)) → (∀ y ∈ rest, y.node = none) → exec (.reduceNodeInput net ch) s = .next s)) ∧
         ∀ o, c.nodes.find? partner = some o →
           result { c with transit := rest ++ up (if o.num < j then reduceNode c.rop o.data k.data else reduceNode c.rop k.data o.data)
                           nodes := c.nodes.filter fun x => !(x == o) } (n.arrived - (under lvl o.num).length) n.cret n.discarded)) ∧
     (c.cutOff (lvl + 1) (j / 2) k.seq = true →
       let m := (under lvl j).length
       let back : List Pkt := (under lvl j).flatMap fun d => (List.range c.readers.length).map fun r =>
         { kind := .credit, gen := k.gen, seq := 0, count := 1, src := r, dst := d, node := none, data := [] }
       result { c with transit := rest ++ back, dropped := c.dropped + m } (n.arrived + m) (n.cret + m * c.readers.length) (n.discarded + m))) ∧
   (∀ (rop : Nat) (x y : List Byte), x.length = y.length → x.length % 4 = 0 →
     (rop < 4 → (reduceNode rop x y).length = x.length) ∧
     (∀ e, rop < 4 → e < x.length / 4 →
       let el (l : List Byte) : Nat := leNat ((l.drop (4 * e)).take 4)
       el (reduceNode rop x y) % 2 ^ 32 =
         (match rop with
          | 0 => (addF .rne (el x) (el y)).1
          | 1 => el x + el y
          | 2 => (minMax true (el x) (el y)).1
          | _ => (minMax false (el x) (el y)).1) % 2 ^ 32) ∧
     reduceNode 4 x y = tripleBytes (mergeTriple (tripleOf x) (tripleOf y)).1))

/-- R149, R156, R157, R285, R382: a slot's write request with the expected SEQ, of the channel's generation, is acknowledged and delivered,
decrypted on a CRYPT channel, to the readers of this package, and the next SEQ is expected; one that is ahead is kept, one that was
delivered before is acknowledged only, one of another generation or of a reserved KIND (R154) is counted as stale at the read ports; a
credit goes to its writer. A
completion releases the request that the port keeps, that of a slot before another (log 12); one not acknowledged in time is sent again and
kept. Each bucket takes RATE, up to its depth.
The detector: R162, R164-R168, R429: a wave of a tenant's detector is counted and kept, the records in PID order with those of the other packages
(log 12); one that is not quiet, or differs from the one before, changes nothing else, nor one with a process running. Two equal quiet
waves with every process blocked give a verdict, which DLSTAT, DLCHAN and DLWAVES record and after which detection restarts. With a
process blocked-write, the channel of smallest CAP, then of lowest CHID, of those blocked on grows by 64 places, its extensions of 64
slots for each reader half taken from the skein, and every writer's free count with it; where the skein has no room, or GROWN stands at
0xFFFF, SPILLFULL is raised at every process blocked-write on it. Else DEADLOCK is raised at every blocked process, with the number of
records and the records written to the detector record area. A blocked process takes the fault at level G at its instruction, FAULTWORD
the channel or group, or at level E at its word, going back to its emit; a word past its fault point sends nothing more and retires, what the
slot holds for that channel is discarded, and it takes the fault as a pre-emption, the verdict that came first (log 62). -/
def Obligations.LinkAndTimeEvents : Prop :=
  (∀ (s : State) (port : Nat),
     let u := s.ualPort port
     let ualOnly (t : State) (v : Ual) : Prop := t.ualPort port = v ∧ (∀ q, q ≠ port → t.ualPort q = s.ualPort q) ∧ t = { s with ual := t.ual }
     let ualAnd (t : State) (v : Ual) : Prop :=
       t.ualPort port = v ∧ (∀ q, q ≠ port → t.ualPort q = s.ualPort q) ∧ t = { s with ual := t.ual, nets := t.nets }
     (∀ (m : UalMsg) (c : Chan), s.chan? m.net m.chid = some c →
       let want := Sparse.get 0 u.next ((65536 * m.net + m.chid) * 4096 + m.src)
       let acks := u.acks ++ [(m.net, m.chid, m.seq.toNat)]
       let data := (s.linkMsg true m).data
       let here : List Nat := (List.range c.readers.length).filter fun r => !(c.readers[r]?).any (·.remote)
       let pkt (seq r : Nat) (d : List Byte) : Pkt :=
         { kind := m.kind, gen := m.gen, seq := seq, count := m.count, src := m.src, dst := r, node := none, data := d }
       let ahead := (m.seq.toNat + (2 ^ 24 - want % 2 ^ 24)) % 2 ^ 24
       (c.crypt = false → data = m.data) ∧
       (m.gen = c.gen → m.kind = .slot → m.part = 0 → c.size ≠ 272 → u.reseq = [] →
         (ahead = 0 → (c.reduce && !c.endpt) = false → c.sev = false →
           ∃ t, exec (.ualinkWriteRequest port m) s = .next t ∧
             ualAnd t { u with acks := acks, next := Sparse.set 0 u.next ((65536 * m.net + m.chid) * 4096 + m.src) (want + 1) } ∧
             t.chan? m.net m.chid = some { c with transit := c.transit ++ here.map fun r => pkt want r data }) ∧
         (0 < ahead → ahead < 2 ^ 23 →
           ∃ t, exec (.ualinkWriteRequest port m) s = .next t ∧ ualOnly t { u with acks := acks, reseq := [s.linkMsg true m] }) ∧
         (2 ^ 23 ≤ ahead → ∃ t, exec (.ualinkWriteRequest port m) s = .next t ∧ ualOnly t { u with acks := acks })) ∧
       (m.gen = c.gen → m.kind = .credit →
         ∃ t, exec (.ualinkWriteRequest port m) s = .next t ∧ ualAnd t { u with acks := acks } ∧
           t.chan? m.net m.chid = some { c with transit := c.transit ++ [pkt 0 m.dst data] }) ∧
       ((m.gen ≠ c.gen ∧ m.kind ≠ .credit) ∨ (m.gen = c.gen ∧ m.kind = .reserved) → (c.readers.map (·.slotNo)).Nodup →
         ∃ t, exec (.ualinkWriteRequest port m) s = .next t ∧ ualOnly { t with slots := s.slots } { u with acks := acks } ∧
           ∀ i, let x := s.slot i
             t.slot i = if (here.filterMap fun r => c.readers[r]?).any (fun e => e.slotNo == i) then
               { x with vec := { x.vec with staledrop := min 0xFFFFFFFF (x.vec.staledrop + 1) } } else x)) ∧
     (∀ m rest, u.sent = m :: rest →
       m.kind = .slot ∨ (∀ x ∈ rest, x.net = m.net → x.chid = m.chid → x.seq = m.seq → x.kind ≠ .slot) →
       ∃ t, exec (.ualinkWriteCompletion port m.net m.chid m.seq) s = .next t ∧ ualOnly t { u with sent := rest }) ∧
     (∀ k, k < u.sent.length → ∃ t, exec (.ualinkRetransmit port k) s = .next t ∧ ualOnly t { u with resent := u.resent + 1 }) ∧
     (Sparse.wf {} s.buckets = true →
       ∃ t, exec .tokenRefill s = .next t ∧ t = { s with buckets := t.buckets } ∧
         ∀ k, let b := Sparse.get {} s.buckets k
           Sparse.get {} t.buckets k = { b with tok := min (max 4 b.burst.toNat) (b.tok + b.rate.toNat) })) ∧
  ((∀ (s : State) (tn : Nat), heldBack s tn = false → tenantNets s tn ≠ [] →
     let peer := Sparse.get {} s.host.waves tn
     let x := s.tenant tn
     let l := liveProcs s tn
     let recs := waveRecords l peer
     let sum (f : Net → Nat) : Nat := ((tenantNets s tn).map fun (_, n) => f n).sum
     let totals : List Nat := [sum (·.sent) + peer.sent, sum (·.arrived) + peer.arrived, sum (·.cret) + peer.cret, sum (·.carr) + peer.carr]
     let wave : Wave := ⟨recs, totals⟩
     let level : Prop := totals[0]? = totals[1]? ∧ totals[2]? = totals[3]? ∧ waveBusy s tn peer = false
     let kept (t : State) (y : Tenant) : Prop := t.tenant tn = y ∧ (∀ j, j ≠ tn → t.tenant j = s.tenant j) ∧ t = { s with tenants := t.tenants }
     let counted : Tenant := { x with waves := x.waves + 1, lastWave := some wave }
     let judged (last grew : Nat) (chan : Word) : Tenant :=
       { x with waves := x.waves + 1, lastWave := none, dlchan := chan, dlwaves := BitVec.ofNat 64 ((x.waves + 1) % 2 ^ 32)
                dlstat := BitVec.ofNat 64 (last + 2 ^ 32 * min 0xFFFF ((x.dlstat.extractLsb' 32 16).toNat + grew)) }
     let chan (c : Chan) (cap : Nat) : Word := BitVec.ofNat 64 (c.chid % 2 ^ 16 + 2 ^ 16 * (cap % 2 ^ 24) + 2 ^ 40 * c.gen.toNat)
     let stuck : Prop := recs ≠ [] ∧ ∀ w ∈ recs, recState w ≠ 0
     (¬ (level ∧ x.lastWave = some wave ∧ stuck) → ∃ t, exec (.detectorWave tn) s = .next t ∧ kept t counted) ∧
     (level → x.lastWave = some wave → stuck →
       (∀ k n c, (∃ w ∈ recs, recState w = 2) → s.nets[k]? = some n → (k, c) ∈ blockedChans s tn l peer →
         (∀ y ∈ blockedChans s tn l peer, y = (k, c) ∨ c.cap < y.2.cap ∨ (c.cap = y.2.cap ∧ c.chid < y.2.chid)) →
         let ext := 64 * c.size * (if c.mirror then 2 else c.readers.length * c.legs)
         (n.skeinUsed + ext ≤ n.skeinSize.toNat → c.grown < 0xFFFF →
           ∃ t, exec (.detectorWave tn) s = .next t ∧ t.tenant tn = judged 1 1 (chan c (c.cap + 64)) ∧
             t = { s with tenants := t.tenants, nets := t.nets, slots := t.slots } ∧
             (t.nets[k]?).map (·.skeinUsed) = some (n.skeinUsed + ext) ∧
             (∀ d, s.chan? k c.chid = some d →
               t.chan? k c.chid = some { d with cap := d.cap + 64, grown := d.grown + 1, skoff := if d.grown = 0 then n.skeinUsed else d.skoff }) ∧
             ((c.writers.map fun e => (e.slotNo, e.port)).Nodup → ∀ e ∈ c.writers, e.remote = false →
               (t.epPort e) = { s.epPort e with free := (s.epPort e).free.map (· + 64) }) ∧
             ∀ i p, (∀ e ∈ c.writers, e.remote = false → ¬ (e.slotNo = i ∧ e.port = p)) → (t.slot i).port p = (s.slot i).port p) ∧
         (n.skeinSize.toNat < n.skeinUsed + ext ∨ 0xFFFF ≤ c.grown → ∃ u, kept u (judged 3 0 (chan c c.cap)) ∧
           exec (.detectorWave tn) s = .next (l.foldl (fun t (j, p, b) =>
             if j = k ∧ b.st = 2 ∧ b.id = c.chid then raiseBlocked t p.slotNo b .spillfull else t) u))) ∧
       ((∀ w ∈ recs, recState w ≠ 2) → ∀ k n rest, tenantNets s tn = (k, n) :: rest →
         ∃ u v, kept u counted ∧
           (let g := rawStore u tn n.dlrecVa.toNat (dwordBytes (BitVec.ofNat 64 recs.length :: recs))
            v.tenant tn = judged 2 0 x.dlchan ∧ (∀ j, j ≠ tn → v.tenant j = s.tenant j) ∧ v = { g with tenants := v.tenants }) ∧
           exec (.detectorWave tn) s = .next (l.foldl (fun t (_, p, b) => raiseBlocked t p.slotNo b .deadlock) v)))) ∧
   (∀ (s : State) (i : Nat) (b : Block) (c : Cause), c = .deadlock ∨ c = .spillfull → (s.slot i).atP = true →
     let x := s.slot i
     let id := BitVec.ofNat 64 b.id
     let t := raiseBlocked s i b c
     (b.word = none →
       let f : FaultRec := { cause := c, lvlE := false, pc := x.gen.pc, epc := x.gen.pc, eseq := x.bank.eseq, fword := id, iter := 0, va := none }
       (x.committed = true → Entered i s t f) ∧
       (x.committed = false → SlotBecomes s t i { x with gen := { x.gen with gfault := some f, wait := .fault } })) ∧
     (∀ w, b.word = some w → w.isPast = false →
       let u := unwindTo (markPattern s i w) i w.pos w.sub w.eseq w.mask0
       let f := eFault w c (if c = .deadlock then id else w.word) none
       ((u.slot i).committed = true → Entered i (commitSlot u i) t f) ∧
       ((u.slot i).committed = false → t = u.modSlot i fun y => { y with gen := { y.gen with entering := some f } })) ∧
     (∀ w, b.word = some w → w.isPast = true →
       let eng : Eng := x.eng.mapWord w fun a => { a with stat := .done, prog := { a.prog with part := [] } }
       SlotBecomes s t i { x with
         eng := { eng with hold := x.eng.hold.filter fun h => x.chanOf h.port != b.id }
         gen := { x.gen with verdict := some (x.gen.verdict.getD (c, b.id)), preempt := true, gfault := none
                             wait := if x.gen.gfault.isSome then .none else x.gen.wait } })))

/-! ## Barriers, boundaries, the save engine, register writes as steps (R326, R337-R342, R364, R365, R112, R138, R233, R253, R285, R377) -/

/-- R300, R326, R335-R343, R345: once every member of a group has arrived at the next episode of its barrier, or has exited, EPOCH rises and
the members that wait for it are ready. Once every live member has arrived at a boundary, the bytes they wrote become versions stamped with
it, of two writers of one byte the lower PID's, and that conflict is logged; each address with contributions takes its four bytes, as
the joined knowledge views them, with the contributions combined in PID order; each member takes the joined knowledge with this
episode and an empty write set; the members that wait are ready. A boundary of group 0 is the tenant's image: every process's knowledge is
joined, of each byte the one version that it views is kept, with its old stamp (log 31), and written to its frame, the log, sorted (ties:
log 29), is written with at most LOGMAX entries, and the image is published (the publications are counted, log 22); a `cfetch` of the tenant
that still awaits its page keeps the bytes that stood there (R129), and the tenant's other networks those of their cast-on
(log 31). In strict mode each member that wrote a conflicting byte takes
PHASECONFLICT instead, at the end of its `phase`, with the first such byte; one that is saved, or in a handler, takes it when it is back
(the model's choice, log 51); one that has stopped takes none (R349). -/
def Obligations.GroupEventResults : Prop :=
  (∀ (s : State) (net gid : Nat) (n : Net) (g : Group), s.nets[net]? = some n → n.group? gid = some g → gid < 256 →
    let mem := n.members g
    let waits (w : Wait) (i : Nat) : Prop := (∃ p ∈ mem, p.saved = false ∧ p.slotNo = i) ∧ (s.slot i).gen.wait = w
    let ready (like : Nat → Slot → Slot) (t : State) (w : Wait) (but : Nat → Prop) : Prop := ∀ i, ¬ but i →
      (waits w i → t.slot i = like i { s.slot i with gen := { (s.slot i).gen with wait := .none } }) ∧
      (¬ waits w i → t.slot i = like i (s.slot i))
    (let e := g.epoch + 1
     (∃ p ∈ mem, e ≤ Sparse.get 0 g.bar p.pid) → (∀ p ∈ mem, e ≤ Sparse.get 0 g.bar p.pid ∨ p.exited = true) →
      ∃ t, exec (.barrierRelease net gid) s = .next t ∧ ready (fun _ y => y) t (.barrier (BitVec.ofNat 8 gid) e) (fun _ => False) ∧
        t = { s with slots := t.slots, nets := t.nets } ∧ (∀ k, k ≠ net → t.nets[k]? = s.nets[k]?) ∧
        ∃ n', t.nets[net]? = some n' ∧ n' = { n with groups := n'.groups } ∧ n'.group? gid = some { g with epoch := e } ∧
          ∀ k, k ≠ gid → n'.group? k = n.group? k) ∧
    (let live := mem.filter fun p => !p.exited
     ∀ p rest, live = p :: rest → (n.procs.map (·.pid)).Nodup → (∀ q ∈ live, Sparse.get 0 g.ph q.pid = knows q.know gid + 1) →
      (∀ q ∈ live, ∀ c ∈ q.contribs, c.va % 4 = 0) → (∀ q ∈ live, Sparse.wf none q.wset = true) →
      ((live.filter fun q => !q.saved).map (·.slotNo)).Nodup →
      let e := knows p.know gid + 1
      let know := Sparse.set 0 (joinKnow (live.map (·.know))) gid e
      let all := if gid = 0 then Sparse.set 0 (joinKnow (n.procs.map (·.know))) gid e else know
      let wrote (q : Proc) (va : Nat) : Prop := (Sparse.get none q.wset va).isSome
      let gave (a : Nat) : List Proc := live.filter fun q => q.contribs.any fun c => c.va == a
      let merged : List Version := n.versions ++ (mergeVersions gid e live).1
      let sum (a : Nat) : BitVec 32 :=
        ((gave a).flatMap fun q => q.contribs.filter fun c => c.va == a).foldl (fun x c => combine c.op x c.val)
          (BitVec.ofNat 32 (leNat ((List.range 4).map fun k => viewByte s { n with versions := merged } know (a + k))))
      ∃ (t : State) (n' : Net) (vs : List Version), exec (.boundary net gid) s = .next t ∧ t.tiles = s.tiles ∧ t.regions = s.regions ∧
        (gid ≠ 0 → ∀ k, k ≠ net → t.nets[k]? = s.nets[k]?) ∧ t.nets[net]? = some n' ∧
        n' = { n with versions := n'.versions, procs := n'.procs, log := n'.log } ∧
        (∀ u, gave (u.va / 4 * 4) = [] → (u ∈ vs ↔ u ∈ merged)) ∧
        (∀ a k u, a % 4 = 0 → k < 4 → u.va = a + k → ∀ w ws, gave a = w :: ws →
          (u ∈ vs ↔ u = ⟨a + k, (sum a).extractLsb' (8 * k) 8, gid, e, w.pid, know⟩ ∨ (u ∈ merged ∧ ¬ (u.gid = gid ∧ u.ep = e)))) ∧
        (gid ≠ 0 → n'.versions = vs ∧ t.dram = s.dram ∧ t.pub = s.pub) ∧
        (gid = 0 → (∀ u, u ∈ n'.versions ↔ lowestWriter (candidates vs all u.va) = some u) ∧
          n'.versions.Pairwise (fun a b => a.va < b.va) ∧ t.pub = s.pub + 1 ∧
          (∀ k m, k ≠ net → s.nets[k]? = some m → ∃ m', t.nets[k]? = some m' ∧ m' = { m with base := m'.base } ∧
            (m.tenant ≠ n.tenant ∨ m.views = false → m' = m) ∧
            (m.tenant = n.tenant → m.views = true → ∀ va, Sparse.get none m'.base va =
              if (Sparse.get none m.base va).isNone ∧ ∃ v ∈ n'.versions, v.va = va then rawByte s n.tenant va else Sparse.get none m.base va)) ∧
          let w := n'.versions.foldl (fun u v => rawStore u n.tenant v.va [v.val]) s
          ∃ l : List Conflict, l.Perm n'.log ∧ l.Pairwise (fun a b => b.before a = false) ∧
            t.dram = (rawStore w n.tenant n.logVa.toNat ((l.take n.logMax.toNat).flatMap Conflict.bytesOf)).dram) ∧
        ((∀ c ∈ n.log, c.kind = 0 → c.wst ≠ (gid, e)) → ∀ va a b ws, live.filter (fun q => (Sparse.get none q.wset va).isSome) = a :: b :: ws →
          ∃ c ∈ n'.log, c.kind = 0 ∧ c.sec = va / 64 ∧ c.bytes.getLsbD (va % 64) = true ∧ c.wpid = a.pid ∧ c.lpid = b.pid ∧ c.gid = gid ∧
            c.ep = e) ∧
        (t.tenant n.tenant).phcount = min 0xFFFFFFFF ((s.tenant n.tenant).phcount + (n'.log.length - n.log.length)) ∧
        (let charged (q : Proc) (va : Nat) : Prop := n.strict = true ∧
           ((wrote q va ∧ ∃ r ∈ live, r.pid ≠ q.pid ∧ wrote r va) ∨
            (gid = 0 ∧ 1 < (candidates vs all va).length ∧ ∃ v ∈ candidates vs all va, v.wpid = q.pid) ∨
            (gid = 0 ∧ gave (va / 4 * 4) ≠ [] ∧ 1 < (candidates merged know va).length ∧ ∃ v ∈ candidates merged know va, v.wpid = q.pid))
         let first (q : Proc) (va : Nat) : Prop := q ∈ live ∧ q.stopped = false ∧ charged q va ∧ ∀ b, charged q b → va ≤ b
         let late (q : Proc) : Prop := q.saved = true ∨ (s.slot q.slotNo).atP = false
         let like (i : Nat) (y : Slot) : Slot := if gid = 0 then { y with segs := (t.slot i).segs } else y
         ready like t (.phase (BitVec.ofNat 8 gid) e) (fun i => ∃ q va, first q va ∧ ¬ late q ∧ q.slotNo = i) ∧
         (∀ q va, first q va → ¬ late q → (s.slot q.slotNo).committed = true →
           let x := s.slot q.slotNo
           ∃ v, Entered q.slotNo s v { cause := .phaseconflict, lvlE := false, pc := x.gen.pc, epc := x.gen.pc, eseq := x.bank.eseq
                                       fword := BitVec.ofNat 64 va, iter := 0, va := some (faultVa va .conflict) } ∧
             t.slot q.slotNo = like q.slotNo (v.slot q.slotNo)) ∧
         (∀ i k, let g := (s.slot i).seg k
           let g' := (t.slot i).seg k
           g' = { g with reqs := g'.reqs } ∧ g'.reqs.length = g.reqs.length ∧
           ∀ (j : Nat) (r r' : SegReq), g.reqs[j]? = some r → g'.reqs[j]? = some r' →
             let held (r : SegReq) (va : Nat) : Option (Nat × Byte) := r.view.find? fun v => v.1 == va
             let waits : Prop := r.sent = true ∧ r.image = none ∧ r.fail = none
             r' = { r with view := r'.view } ∧ (gid ≠ 0 ∨ (s.slot i).id.tenant ≠ n.tenant ∨ ¬ waits → r' = r) ∧
             (gid = 0 → (s.slot i).id.tenant = n.tenant → g.st = .inflight → waits → ∀ va,
               held r' va =
                 if (∃ u ∈ n'.versions, u.va = va) ∧ r.va.toNat ≤ va ∧ va < r.va.toNat + 4096 ∧ held r va = none then
                   (rawByte s n.tenant va).map fun b => (va, b)
                 else held r va)) ∧
         n'.procs.length = n.procs.length ∧ ∀ (k : Nat) (q q' : Proc), n.procs[k]? = some q → n'.procs[k]? = some q' →
           (q ∉ live → q' = q) ∧
           (q ∈ live → q' = { q with know := all, wset := [], contribs := [], use := if gid = 0 then [] else q.use, pend := q'.pend } ∧
             ((¬ ∃ va, first q va ∧ late q) → q'.pend = q.pend) ∧ ∀ va, first q va → late q → q'.pend = some va)))) ∧
  (∀ (ks : List (Sparse Nat)) (h : Nat), (∀ k ∈ ks, Sparse.wf 0 k = true) →
    knows (joinKnow ks) h = (ks.map fun k => knows k h).foldl max 0) ∧
  (∀ (gid e : Nat) (ps : List Proc) (va : Nat), (∀ q ∈ ps, Sparse.wf none q.wset = true) →
    let of_va := (mergeVersions gid e ps).1.filter fun v => v.va == va
    let ws := ps.filter fun q => (Sparse.get none q.wset va).isSome
    (ws = [] → of_va = []) ∧
    ∀ w l b, ws = w :: l → Sparse.get none w.wset va = some b → of_va = [⟨va, b, gid, e, w.pid, w.know⟩])

/-- R78, R79, R112, R138, R233, R253, R285, R364, R365, R377, R378: a save or a restore, with every page of the save area at hand and no segment
in flight, moves the whole record, in one step (the model's choice, log 41), and has then only to end; its end frees SAVECTL, with
STATE 0. A saved record reads as R364 lays it out: STATUS, PC, ESEQ and the wait descriptor, the registers of the process's bank,
RPAT and RIDX, the vector state, the windows, two dwords for each port, the masks, the vector registers, and the partition if PART asks
for it. A restored slot has what the record holds there (ACCOV: each bit is the slot's, and the accumulator's where that holds the running
context, R253), a port its generation from the binding; what of a port's counts the record
does not hold is the model's choice (log 27). The writes of special-purpose registers that are steps of their own, on a slot with nothing
unretired or held: each register takes its fields, and nothing else is changed. -/
def Obligations.SaveAndRegisterEvents : Prop :=
  (∀ (s : State) (part : Bool) (ls : List (Nat × Word)) (u : State),
    let i := s.cur
    let x := s.me
    let begun (op : Nat) : State :=
      s.modMe fun x => { x with tr := { x.tr with saveop := op, savepart := part, savewant := none } }
    let moved (out : Out) (v t : State) : Prop := out = .next t ∧
      SlotBecomes v t i { v.slot i with tr := { (v.slot i).tr with saveop := 3, savest := 0, savewant := none } }
    let va := x.tr.saveva.toNat
    let nums (n : Nat) (f : Nat → Word) : List Word := (List.range n).map f
    let port (k : Nat) : List Word :=
      let p := x.port k
      match (if p.bound then s.chan? p.net p.ch else none), s.nets[p.net]? with
      | some c, some n =>
        let low := if p.isW then (p.freeCount c n).getD 0 else p.kc % (c.cap0 * c.legs)
        let here := p.arr.sum - (if c.mirror then 2 * p.kc else p.kc)
        [BitVec.ofNat 64 (low % 2 ^ 32 + p.closed.toNat * 2 ^ 32 + p.closed.toNat * 2 ^ 33 + p.gen.toNat * 2 ^ 34),
         BitVec.ofNat 64 (if p.isW then p.seq % 2 ^ 24 else here % 2 ^ 32)]
      | _, _ => [0, 0]
    let layout : List (Nat × List Word) :=
      [(0x000, [x.status, x.tr.pc.zeroExtend 64, x.pb.eseq.zeroExtend 64, x.tr.waitd]), (0x040, nums 31 fun k => x.pb.readG (k + 1)),
       (0x140, nums 16 x.pb.readT), (0x1C0, nums 16 (x.pb.readE .vq)), (0x240, nums 16 (x.pb.readE .mq)), (0x2C0, nums 16 (x.pb.readE .xq)),
       (0x340, [x.tr.rpat]), (0x348, nums 6 fun k => (Sparse.get 0 x.tr.ridx k).zeroExtend 64),
       (0x380, [x.vec.fflags.zeroExtend 64, x.vec.fcsr.zeroExtend 64, BitVec.ofNat 64 x.vec.vl, x.csegvalid, x.vec.smap,
         x.vec.eos.zeroExtend 64, BitVec.ofNat 64 x.vec.closedwr, BitVec.ofNat 64 x.vec.staledrop, (s.accov i).zeroExtend 64]),
       (0x3C8, nums 7 fun k => Sparse.get 0 x.vec.win (k + 1)), (0x500, nums 7 fun k => Sparse.get 0 x.vec.m (k + 1))]
    (x.tr.saveop = 0 → (∀ g ∈ x.segs, g.2.st ≠ .inflight) →
      (let b := begun 1
       savePages b i (b.slot i).id true (b.slot i).saveVpns [] = (.ok ls, u) →
        ∃ t, moved (exec (.saveSlotRecord part) s) (writeRecord u i ls) t ∧
          (x.id.vlmax ≤ 64 → (∀ l ∈ ls, leafTarget l.2 ≤ 11 ∧ leafFrame l.2 < 2 ^ 15) →
            (∀ l ∈ ls, ∀ m ∈ ls, leafTarget l.2 = leafTarget m.2 → leafFrame l.2 = leafFrame m.2 → l = m) →
            (∀ o ds k j, (o, ds) ∈ layout → k < ds.length → j < 8 →
              loadLeaf t ls (va + o + 8 * k + j) = (ds.getD k 0).extractLsb' (8 * j) 8) ∧
            (∀ k h j, k < 16 → h < 2 → j < 8 →
              loadLeaf t ls (va + 0x400 + 16 * k + 8 * h + j) = ((port k).getD h 0).extractLsb' (8 * j) 8) ∧
            (∀ n j, n < 64 → j < 4 * x.id.vlmax →
              loadLeaf t ls (va + 0x600 + 4 * x.id.vlmax * n + j) = (x.vreg n).extractLsb' (8 * j) 8) ∧
            (part = true → ∀ j, j < x.id.size * 4096 →
              loadLeaf t ls (va + 0x8000 + j) = (s.tile (tileOf i)).sram.byte (x.id.base * 4096 + j)))) ∧
      (let b := begun 2
       savePages b i (b.slot i).id false (b.slot i).saveVpns [] = (.ok ls, u) → (∀ l ∈ ls, leafTarget l.2 ≤ 11) →
        ∃ t, moved (exec (.restoreSlotRecord part) s) (readRecord u i ls) t ∧
          let y := t.slot i
          let rd (o : Nat) : Byte := loadLeaf s ls (va + o)
          let d (o : Nat) : Word := BitVec.ofNat 64 (leNat ((List.range 8).map fun j => rd (o + j)))
          y.id = { x.id with plevel := (d 0).extractLsb' 2 2 } ∧ y.gen = x.gen ∧ y.eng = x.eng ∧ y.sb = x.sb ∧
          y.tr = { x.tr with saveop := 3, savest := 0, savewant := none, savepart := part, pc := (d 8).extractLsb' 2 19 ++ 0#2
                             waitd := d 0x18 &&& 0x3FFFFFFFFFF, rpat := d 0x340 &&& 0x800000007FFFFFFF, ridx := y.tr.ridx } ∧
          y.pb.eseq = (d 0x10).extractLsb' 0 32 ∧ (∀ n, 1 ≤ n → n ≤ 31 → y.pb.readG n = d (0x038 + 8 * n)) ∧
          (∀ n, n < 6 → Sparse.get 0 y.tr.ridx n = (d (0x348 + 8 * n)).extractLsb' 0 8) ∧
          (∀ n, n < 16 → y.pb.readT n = d (0x140 + 8 * n) ∧ y.pb.readE .vq n = d (0x1C0 + 8 * n) ∧
            y.pb.readE .mq n = d (0x240 + 8 * n) ∧ y.pb.readE .xq n = d (0x2C0 + 8 * n)) ∧
          y.vec.fflags = (d 0x380).extractLsb' 0 5 ∧
          y.vec.fcsr = (if 5 ≤ ((d 0x388).extractLsb' 0 3).toNat then 0 else (d 0x388).extractLsb' 0 3) ∧
          y.vec.vl = min (d 0x390).toNat x.id.vlmax ∧ y.vec.smap = d 0x3A0 &&& 0x8F8F8F8F8F8F8F8F ∧
          y.vec.eos = (d 0x3A8).extractLsb' 0 16 ∧ y.vec.closedwr = ((d 0x3B0).extractLsb' 0 32).toNat ∧
          y.vec.staledrop = ((d 0x3B8).extractLsb' 0 32).toNat ∧
          (∀ k, k < x.codeSegs → (y.seg k).st = if (d 0x398).getLsbD k then .valid else .invalid) ∧
          (∀ n, 1 ≤ n → n ≤ 7 → y.mask n = d (0x4F8 + 8 * n) &&& BitVec.ofNat 64 (2 ^ x.id.vlmax - 1)) ∧
          (∀ n k, n < 64 → k < 64 → lane (y.vreg n) k =
            if k < x.id.vlmax then leNat ((List.range 4).map fun j => rd (0x600 + 4 * x.id.vlmax * n + 4 * k + j)) else 0) ∧
          (∀ k c, k < 16 → (x.port k).bound = true → s.chan? (x.port k).net (x.port k).ch = some c →
            let p := y.port k
            let low := ((d (0x400 + 16 * k)).extractLsb' 0 32).toNat
            let cnt := ((d (0x408 + 16 * k)).extractLsb' 0 32).toNat
            p.gen = c.gen ∧ p.closed = (d (0x400 + 16 * k)).getLsbD 32 ∧ p.owed = [] ∧
            ((x.port k).isW = true → p.seq % 2 ^ 24 = cnt % 2 ^ 24 ∧ ∀ f ∈ p.free, low ≤ f) ∧
            ((x.port k).isW = false → p.kc % (c.cap0 * c.legs) = low % (c.cap0 * c.legs) ∧ p.k = p.kc ∧
              (c.streams = 1 → p.arr = [p.kc + cnt]))) ∧
          (∀ n, 1 ≤ n → n ≤ 7 → Sparse.get 0 y.vec.win n =
            let w := d (0x3C0 + 8 * n) &&& 0x80FFFFFFFF1FFFFF
            if winOk w (x.id.size * 4096) then w else w &&& 0x7FFFFFFFFFFFFFFF) ∧
          (s.ownsMatrix i = true → y.vec.accov = (d 0x3C0).extractLsb' 0 2 ∧ ∀ n, n < 2 → ((t.tile (tileOf i)).acc n).ov =
            if ((s.tile (tileOf i)).acc n).tag = (s.tile (tileOf i)).ctag then (d 0x3C0).getLsbD n else ((s.tile (tileOf i)).acc n).ov) ∧
          (part = true → ∀ j, j < x.id.size * 4096 → (t.tile (tileOf i)).sram.byte (x.id.base * 4096 + j) = rd (0x8000 + j)))) ∧
    (x.tr.saveop = 3 →
      ∃ t, exec .savectlDone s = .next t ∧ SlotBecomes s t i { x with tr := { x.tr with saveop := 0 } })) ∧
  (∀ (s : State) (v : Word), Idle s →
    let x := s.me
    let tile := s.tile (tileOf s.cur)
    let only (i : Instr) (y : Slot) : Prop := ∃ t, exec i s = .next t ∧ SlotBecomes s t s.cur y
    only (.fflagsWrite v) { x with vec := { x.vec with fflags := v.extractLsb' 0 5 } } ∧
    only (.streammapWrite v) { x with vec := { x.vec with smap := v &&& 0x8F8F8F8F8F8F8F8F } } ∧
    (∀ n, 1 ≤ n → n ≤ 7 →
      let w := v &&& 0x80FFFFFFFF1FFFFF
      let w := if winOk w (x.id.size * 4096) then w else w &&& 0x7FFFFFFFFFFFFFFF
      only (.winWrite n v) { x with vec := { x.vec with win := Sparse.set 0 x.vec.win n w } }) ∧
    (∃ t y, exec (.csegvalidWrite v) s = .next t ∧ SlotBecomes s t s.cur y ∧ y = { x with segs := y.segs } ∧
      ∀ k, (y.seg k).st = if k < x.codeSegs ∧ (x.seg k).st ≠ .inflight then (if v.getLsbD k then .valid else .invalid) else (x.seg k).st) ∧
    (s.ownsMatrix s.cur = true →
      let put (n : Nat) (a : Acc) : Acc := if a.tag = tile.ctag then { a with ov := v.getLsbD n } else a
      ∃ t, exec (.accovWrite v) s = .next t ∧
        t.tile (tileOf s.cur) = { tile with acc0 := put 0 tile.acc0, acc1 := put 1 tile.acc1 } ∧
        (∀ k, k ≠ tileOf s.cur → t.tile k = s.tile k) ∧ t.slot s.cur = { x with vec := { x.vec with accov := v.extractLsb' 0 2 } } ∧
        (∀ j, j ≠ s.cur → t.slot j = s.slot j) ∧ t = { s with slots := t.slots, tiles := t.tiles }) ∧
    (∀ k, s.selBucket = some k →
      let b : Bucket := { rate := v.extractLsb' 0 24, burst := v.extractLsb' 24 24, en := v.getLsbD 63, tok := max 4 (v.extractLsb' 24 24).toNat }
      ∃ t, exec (.tbcfgWrite v) s = .next t ∧ (∀ j, Sparse.get {} t.buckets j = if j = k then b else Sparse.get {} s.buckets j) ∧
        (∀ j, t.slot j = s.slot j) ∧ t = { s with slots := t.slots, buckets := t.buckets }) ∧
    (s.nets = [] →
      let k := (s.die.csel.extractLsb' 13 6).toNat
      let old := Sparse.get 0 s.die.wintab k
      let new := v &&& 0x00001FFFFFFFFFFF
      let down (e : Word) : Bool := e.extractLsb' 1 2 == 2#2
      let barred : Bool := new.extractLsb' 1 2 == 0#2 ||
        (!(s.slot Config.controlSlot).id.world && (down new || (down old && old.getLsbD 0)))
      ∃ t, exec (.wintabWrite v) s = .next t ∧
        (∀ j, Sparse.get 0 t.die.wintab j = if j = k ∧ barred = false then new else Sparse.get 0 s.die.wintab j) ∧
        (∀ j, t.slot j = s.slot j) ∧ t = { s with slots := t.slots, die := { s.die with wintab := t.die.wintab } }))


/-! ## Events of the package and the host (R33, R34, R37, R38, R346, R371, R373, R375, R386-R390, R395, R397) -/

/-- R371, R375, R386, R395, R397, R428: a reset's end gives its region the state that follows, lets a paused scrub of it go on, and ends
RESETTING of a function with no region in reset; the end of a scrub, which comes after the bind-off of a network of its tenant that has ended (the model's
reading, log 66), leaves its region FREE and its tiles and slots zero; a time slice that
ends, where TSLICE is not 0, begins the switch to the next context, its slots asked to be pre-empted (log 25); an interval of the arbiter
gives each region its FLOOR and its share (rounded down: the model's choice, log 24) and moves ARBFRAC; a die too hot forces ARBFRAC to
1 in its regions, and as it has cooled ARBFRAC stays 1 until the arbiter raises it (the model's choice, log 24); the package powers off, and comes up with every region FREE and every function ready, or
in recovery. -/
def Obligations.PackageEventResults : Prop :=
  ∀ (s : State),
    let regionIs (t : State) (r : Nat) (g : Region) : Prop := t.region r = g ∧ ∀ q, q ≠ r → t.region q = s.region q
    (∀ r, (s.region r).st = .reset →
      ∃ t, exec (.regionResetEnd r) s = .next t ∧ regionIs t r { s.region r with st := (s.region r).after } ∧ t.slots = s.slots ∧
        t.tiles = s.tiles ∧ t.nets = s.nets ∧
        (∀ k, k ≤ 16 →
          let held := (List.range 16).any fun q => (t.region q).st == .reset && (t.region q).tenant == k
          t.func k = { s.func k with resetting := (s.func k).resetting && held }) ∧
        t.die = { s.die with scrub := if s.die.scrub = 2 ∧ s.die.scrubRgn = r then 1 else s.die.scrub }) ∧
    (s.die.scrub = 1 → (∃ n ∈ s.nets, n.tenant = (s.region s.die.scrubRgn).tenant ∧ n.st = .bindoff ∧ n.closing = false) →
      exec .scrubDone s = .next s) ∧
    (s.die.scrub = 1 → (∀ n ∈ s.nets, n.tenant = (s.region s.die.scrubRgn).tenant → n.st = .bindoff → n.closing = true) →
      let r := s.die.scrubRgn
      ∃ t, exec .scrubDone s = .next t ∧
        regionIs t r { s.region r with st := .free, tenant := 0, world := false, ctag := 0, hcause := 0, ctxs := [] } ∧
        (∀ k, t.tile k = if k ∈ tilesOf r then {} else s.tile k) ∧ (∀ j, t.slot j = if tileOf j ∈ tilesOf r then {} else s.slot j) ∧
        t.die.scrub = 3 ∧ t.die.sramg = 32768 ∧ t.nets = s.nets ∧ t.funcs = s.funcs) ∧
    (∀ r c, (s.region r).st = .running → (s.region r).switching = none → (s.region r).tslice ≠ 0 →
      nextContext (s.region r) = some c →
      ∃ t, exec (.timeSliceExpiry r) s = .next t ∧ regionIs t r { s.region r with switching := some c } ∧ t.tiles = s.tiles ∧ t.nets = s.nets ∧
        ∀ j, let x := s.slot j
          let off : Bool := x.atP && x.gen.gfault.isSome
          t.slot j = if j ∈ switchSlots s r then
            { x with gen := { x.gen with preempt := true, gfault := if off then none else x.gen.gfault, wait := if off then .none else x.gen.wait } }
          else x) ∧
    (∀ r, (s.region r).st = .running → (s.region r).switching = none → (s.region r).tslice = 0 → exec (.timeSliceExpiry r) s = .next s) ∧
    (∀ meas : List Nat,
      let sum (f : Nat → Nat) : Nat := ((List.range 16).map f).sum
      let floor (r : Nat) : Nat := (s.region r).floor.toNat
      let rest := s.die.arblimit.toNat - sum floor
      let total := sum fun r => meas.getD r 0
      ∃ t, exec (.arbiterInterval meas) s = .next t ∧ t = { s with regions := t.regions } ∧ (∀ r, 16 ≤ r → t.region r = s.region r) ∧
        ∀ r, r < 16 →
          let g := s.region r
          let m := meas.getD r 0
          let grant := min 0xFFFF (floor r + if total = 0 then 0 else rest * m / total)
          let frac := g.arbfrac.toNat
          t.region r = { g with
            grant := BitVec.ofNat 16 grant
            arbfrac := if g.hot then 1 else if grant < m then BitVec.ofNat 4 (max 1 (frac - 1))
              else if 10 * m < 9 * grant then BitVec.ofNat 4 (max frac (min g.hvfrac.toNat (frac + 1))) else g.arbfrac }) ∧
    (∀ die,
      let ofDie (r : Nat) : Prop := r < 16 ∧ 2 * (r / 4 / 2) + r % 4 / 2 = die
      (∃ t, exec (.thermalThrottle die) s = .next t ∧ t = { s with regions := t.regions } ∧ ∀ r,
        (ofDie r → t.region r = { s.region r with hot := true, arbfrac := 1 }) ∧ (¬ ofDie r → t.region r = s.region r)) ∧
      (∃ t, exec (.thermalRecover die) s = .next t ∧ t = { s with regions := t.regions } ∧ ∀ r,
        (ofDie r → t.region r = { s.region r with hot := false }) ∧ (¬ ofDie r → t.region r = s.region r))) ∧
    exec .thermalShutdown s = .next { s with die := { s.die with poweredOff := true } } ∧
    (∃ t, exec (.powerOn true) s = .next t ∧
      t = { State.reset with agenda := s.agenda, free := s.free, regions := t.regions, funcs := t.funcs } ∧
      (∀ r, r < 16 → t.region r = { State.reset.region r with st := .free }) ∧ ∀ k, k ≤ 16 → t.func k = { State.reset.func k with ready := true }) ∧
    (∃ t, exec (.powerOn false) s = .next t ∧
      t = { State.reset with agenda := s.agenda, free := s.free, die := { State.reset.die with recovery := true } })

/-- R8, R37, R38, R346, R373, R387-R390, R393: what the host does to a function that is ready, and firmware for it: a doorbell outside the
microsecond of a wake takes every entry of the launch ring as a queued network and moves LQHEAD, and within it is kept for its end; the
heads of the other rings and the registers take what is written (LQBASE its bits [63:12]: the model's choice, log 43), VFSTAT's two W1C
bits clear, and each register reads as R387 says; the staging area takes what is written, a vector is sent where MSI-X is enabled and neither it nor
the function is masked (R3), else it is pending, and sent as it may be (the layout, the MSI-X capability, the widths of 8 and 4 bytes, and
that half a register of BAR0 takes and gives nothing are the model's, log 52); a queued network is validated, one that passes is LOADING, one that does not REJECTED; CANCEL
ends a network: a running one as `NetEnded` says, one that does not run yet awaits its record (the model's choice, log 37); a network
that binds off, its boundaries merged and what can still arrive delivered, leaves its slots, matrix units, channels, groups and what the
UALink ports hold of it, counts the slots left in its channels, of a partial result each contribution (log 50), frees its regions before the
completion record (log 37), and awaits that record, which goes into a free entry of the ring, with MSI-X vector 0; the host read that the host serves next is answered; a VF reset of a function that holds nothing clears its
registers. The record's place, the ticks and the host's view are the model's (logs 4, 5, 8). -/
def Obligations.HostEventResults : Prop :=
  ∀ (s : State) (fn : Nat),
    let f := s.func fn
    let funcOnly (t : State) (g : Func) : Prop := t.func fn = g ∧ (∀ k, k ≠ fn → t.func k = s.func k) ∧ t = { s with funcs := t.funcs }
    let count := (f.lqtail + 64 - f.lqhead) % 64
    let sent (g : Func) (v : Nat) : Func := { g with msgs := g.msgs ++ [(g.bar4.dword (16 * v), (g.bar4.dword (16 * v + 8)).extractLsb' 0 32)] }
    let raised (g : Func) (v : Nat) : Func :=
      let h : Func := { g with msix := g.msix ++ [v] }
      if g.msixEn && !g.funcMask && g.unmasked.getLsbD v then sent h v else { h with pba := g.pba ||| (1#3 <<< v) }
    (fn ≤ 16 → f.ready = true →
      (f.window = false → count ≠ 0 →
        ∃ t, exec (.doorbell fn) s = .next t ∧
          t.func fn = raised { f with window := true, due := false, lqhead := f.lqtail } 2 ∧
          (∀ k, k ≠ fn → t.func k = s.func k) ∧ t = { s with funcs := t.funcs, nets := t.nets } ∧
          t.nets = s.nets ++ (List.range count).map fun k =>
            let o := f.lqbase.toNat + 16 * ((f.lqhead + k) % 64)
            blankNet ((f.staging.dword (o + 8)).extractLsb' 0 32) fn (f.staging.dword o).toNat) ∧
      (f.window = true → ∃ t, exec (.doorbell fn) s = .next t ∧ funcOnly t { f with again := true, due := true }) ∧
      (∀ v, ∃ t, exec (.evheadWrite fn v) s = .next t ∧ funcOnly t { f with evhead := v.toNat % 64 }) ∧
      (∀ v, (∀ n ∈ s.nets, n.tenant = fn → n.closing = false) →
        ∃ t, exec (.cqheadWrite fn v) s = .next t ∧ funcOnly t { f with cqhead := v.toNat % 64 }) ∧
      (∀ v : Word,
        let put (off : Nat) (g : Func) : Prop := ∃ t, exec (.hostRegisterWrite fn off v) s = .next t ∧ funcOnly t g
        put 0x000 { f with again := f.again && !v.getLsbD 1, evlost := f.evlost && !v.getLsbD 3 } ∧
        put 0x008 { f with lqbase := v &&& 0xFFFFFFFFFFFFF000 } ∧ put 0x018 { f with lqtail := v.toNat % 64 } ∧
        put 0x028 { f with cqbase := v } ∧ put 0x038 { f with evbase := v.extractLsb' 0 32 } ∧
        put 0x050 { f with evhead := v.toNat % 64 } ∧ (∀ off ∈ [0x010, 0x030, 0x058], put off f) ∧
        (∀ off, off < 0x800 → off % 8 = 4 → put off f) ∧
        (∀ off, off + 4 ≤ 2 ^ 28 → put (2 ^ 30 + 2 ^ 28 + off) { f with staging := f.staging.putBytes off (natLe (v.toNat % 2 ^ 32) 4) }) ∧
        (∀ off, off + 8 ≤ 2 ^ 28 → put (2 ^ 28 + off) { f with staging := f.staging.putBytes off (natLe v.toNat 8) }) ∧
        (∀ off, 0 < off → put (2 ^ 31 + off) f) ∧
        (let e : Func := { f with msixEn := v.getLsbD 31, funcMask := v.getLsbD 30 }
         let flush (g : Func) (k : Nat) : Func := if e.msixEn && !e.funcMask && f.unmasked.getLsbD k && f.pba.getLsbD k then
           { sent g k with pba := g.pba &&& ~~~(1#3 <<< k) } else g
         put (2 ^ 31) (flush (flush (flush e 0) 1) 2)) ∧
        ∀ k, k < 3 → put (2 ^ 29 + 16 * k) { f with bar4 := f.bar4.putBytes (16 * k) (natLe v.toNat 8) } ∧
          (let g : Func := { f with bar4 := f.bar4.putBytes (16 * k + 8) (natLe (v.toNat % 2 ^ 32) 4) }
           let bit : BitVec 3 := 1#3 <<< k
           let control (g : Func) (mask : Bool) : Func :=
             if mask then { g with unmasked := g.unmasked &&& ~~~bit }
             else if g.msixEn && !g.funcMask && f.pba.getLsbD k then { sent { g with unmasked := g.unmasked ||| bit } k with pba := f.pba &&& ~~~bit }
             else { g with unmasked := g.unmasked ||| bit }
           let word (j : Nat) : Func := { f with bar4 := f.bar4.putBytes (16 * k + 4 * j) (natLe (v.toNat % 2 ^ 32) 4) }
           put (2 ^ 29 + 16 * k + 8) (control g (v.getLsbD 32)) ∧ put (2 ^ 29 + 16 * k + 4) (word 1) ∧
           put (2 ^ 29 + 16 * k + 12) (control f (v.getLsbD 0)) ∧ put (2 ^ 30 + 2 ^ 29 + 16 * k + 12) (control f (v.getLsbD 0)) ∧
           ∀ j, j < 3 → put (2 ^ 30 + 2 ^ 29 + 16 * k + 4 * j) (word j))) ∧
      (let rd := hostRead s fn
       rd 0x000 = BitVec.ofNat 64 (f.ready.toNat + 2 * f.again.toNat + 4 * f.resetting.toNat + 8 * f.evlost.toNat) ∧ rd 0x008 = f.lqbase ∧
       rd 0x010 = BitVec.ofNat 64 f.lqhead ∧ rd 0x018 = BitVec.ofNat 64 f.lqtail ∧ rd 0x020 = 0 ∧ rd 0x028 = f.cqbase ∧
       rd 0x030 = BitVec.ofNat 64 f.cqtail ∧ (rd 0x038).extractLsb' 0 32 = f.evbase ∧ (rd 0x038).extractLsb' 32 32 = BitVec.ofNat 32 f.evtail ∧
       rd 0x040 = 0 ∧ rd 0x048 = BitVec.ofNat 64 f.cqhead ∧ rd 0x050 = BitVec.ofNat 64 f.evhead ∧
       (∀ off, off + 8 ≤ 2 ^ 28 → rd (2 ^ 28 + off) = f.staging.dword off) ∧ rd (2 ^ 29 + 0x800) = f.pba.zeroExtend 64 ∧
       (∀ off, off < 0x800 → off % 8 = 4 → rd off = 0) ∧
       (∀ k : Nat, k < 32 → (rd (2 ^ 31)).getLsbD k = (k == 0 || k == 4 || k == 17 || (k == 30 && f.funcMask) || (k == 31 && f.msixEn))) ∧
       ∀ k, k < 3 → rd (2 ^ 29 + 16 * k) = f.bar4.dword (16 * k) ∧
         (rd (2 ^ 29 + 16 * k + 8)).extractLsb' 0 32 = (f.bar4.dword (16 * k + 8)).extractLsb' 0 32 ∧
         (rd (2 ^ 29 + 16 * k + 8)).getLsbD 32 = !f.unmasked.getLsbD k ∧
         (rd (2 ^ 29 + 16 * k + 12)).getLsbD 0 = !f.unmasked.getLsbD k)) ∧
    (f.window = true → f.due = false → ∃ t, exec (.deferredWake fn) s = .next t ∧ funcOnly t { f with window := false }) ∧
    (∀ k n, nextToValidate s fn = some (k, n) →
      let netOnly (t : State) (m : Net) : Prop := t.nets[k]? = some m ∧ (∀ j, j ≠ k → t.nets[j]? = s.nets[j]?) ∧ t = { s with nets := t.nets }
      let r : RecAt := ⟨(s.func n.tenant).staging, n.recOff⟩
      (n.st = .queued → ∃ t, exec (.validating fn) s = .next t ∧ netOnly t { n with st := .validating, regions := r.regions }) ∧
      (n.st = .validating →
        (∀ c, validate s fn r = some c →
          ∃ t, exec (.validating fn) s = .next t ∧ netOnly t { n with st := .rejected, reason := c, closing := true }) ∧
        (validate s fn r = none → ∃ t, exec (.validating fn) s = .next t ∧ netOnly t { n.filled r with st := .loading }))) ∧
    (∀ nid k n, netsOf s (some fn) nid = [k] → s.nets[k]? = some n →
      (n.st = .queued ∨ n.st = .validating ∨ n.st = .loading →
        ∃ t, exec (.cancel fn nid) s = .next t ∧ t = { s with nets := t.nets } ∧ (∀ j, j ≠ k → t.nets[j]? = s.nets[j]?) ∧
          ∃ m, t.nets[k]? = some m ∧ m.st = .bindoff ∧ m.closing = true ∧ m.status = some (n.status.getD 4)) ∧
      (n.st = .running → s.Placed k → ∃ t, exec (.cancel fn nid) s = .next t ∧ NetEnded s t k n 4)) ∧
    (∀ k n w, s.nets[k]? = some n → n.st = .bindoff → n.closing = false →
      let u := n.chans.foldl (fun u c => drainAll u k c.chid) (lastBoundary s k)
      u.nets[k]? = some w →
      let unread (c : Chan) (r : Nat) (e : Ep) : Nat :=
        let p := u.epPort e
        let kept := Sparse.get [] c.kept (2 * r)
        if e.remote then 0
        else if w.procs.any fun q => q.saved && q.tile == e.tile && q.slot == e.slot then kept.getD 4 0 - kept.getD 5 0
        else if p.bound ∧ p.net = k ∧ p.ch = c.chid then p.arr.sum - (if c.mirror then 2 * p.kc else p.kc) else 0
      let inputs (c : Chan) (lvl j : Nat) : Nat := (List.range c.writers.length).countP fun i => i / 2 ^ lvl == j
      let queued (c : Chan) : Nat := (u.ual.map fun (_, q) =>
        ((((q.reseq.filter fun m => m.net == k && m.chid == c.chid).map fun m => (m.src, m.seq, m.count)).eraseDups).map fun (src, _, l) =>
          if c.reduce = true ∧ c.endpt = false ∧ l < treeLevels c.writers.length then inputs c l (src / 2 ^ l)
          else (c.readers.filter fun e => !e.remote).length).sum).sum
      let left (c : Chan) : Nat :=
        ((c.transit.filter fun p => p.kind == .slot).map fun p => match p.node with | some (l, j) => inputs c l j | none => 1).sum +
        c.skein.length + (c.nodes.map fun x => inputs c x.lvl x.num).sum + queued c +
        ((List.range c.readers.length).map fun r => match c.readers[r]? with | some e => unread c r e | none => 0).sum
      ∃ t m, exec (.bindOff k) s = .next t ∧ t.nets[k]? = some m ∧ m.closing = true ∧ m.chans = [] ∧ m.groups = [] ∧ m.versions = [] ∧
        m.skeinUsed = 0 ∧ m.st = .bindoff ∧ m.status = n.status ∧ m.discarded = w.discarded + (w.chans.map left).sum ∧
        (∀ p ∈ n.procs, p.saved = false → (s.slot p.slotNo).id.net = k → (t.slot p.slotNo).id.loaded = false) ∧
        (∀ p ∈ n.procs, (u.region (regionOf p.tile)).runs k = true → (t.tile p.tile).owner ≠ some p.slot) ∧
        (∀ r, r < 16 → (u.region r).st = .running → (u.region r).runs k = true → (t.region r).st = .assigned) ∧
        ∀ p, ∀ m ∈ (t.ualPort p).reseq, m.net ≠ k) ∧
    (∀ k n, s.nets[k]? = some n → n.tenant = fn → n.closing = true → ringFull f.cqhead f.cqtail = false →
      let e := n.ending.getD ⟨0, 0, 0, 0⟩
      let code := if n.st = .rejected then 5 else n.status.getD 0
      let rec_ := dwordBytes [BitVec.ofNat 64 (code + 2 ^ 8 * n.reason + 2 ^ 32 * n.nid.toNat), BitVec.ofNat 64 n.discarded,
        BitVec.ofNat 64 (n.growths % 2 ^ 32 + 2 ^ 32 * ((s.tenant fn).phcount % 2 ^ 32)), BitVec.ofNat 64 (e.pid.toNat + 2 ^ 16 * e.cause.toNat),
        e.pc, e.fword, Config.freeWord s.free, 0]
      ∃ t, exec (.completionRecord k) s = .next t ∧ t = { s with funcs := t.funcs, nets := t.nets, free := s.free + 1 } ∧
        t.func fn = raised { f with staging := (t.func fn).staging, cqtail := (f.cqtail + 1) % 64 } 0 ∧
        (∀ a, (t.func fn).staging.byte a =
          let lo := f.cqbase.toNat + 64 * f.cqtail
          if lo ≤ a ∧ a < lo + 64 then rec_.getD (a - lo) 0 else f.staging.byte a) ∧
        (∀ j, j ≠ fn → t.func j = s.func j) ∧ (∀ j, j ≠ k → t.nets[j]? = s.nets[j]?) ∧
        t.nets[k]? = some { n with closing := false, st := if n.st = .bindoff then .retired else n.st }) ∧
    (∀ r rest data, s.host.reads = r :: rest → data.length = r.len →
      ∃ t e, exec (.packageHandleHostRead data) s = .next t ∧ t.slot r.slot = { s.slot r.slot with eng := e } ∧
        (∀ j, j ≠ r.slot → t.slot j = s.slot j) ∧
        t = { s with slots := t.slots, host := { s.host with reads := rest } } ∧
        ∀ q, e.queue q = ((s.slot r.slot).eng.queue q).map fun a =>
          if a.pos = r.pos ∧ a.sub = r.sub then { a with prog := { a.prog with host := a.prog.host ++ [(r.num, data)] } } else a) ∧
    (1 ≤ fn → fn ≤ 16 → (∀ r, r < 16 → (s.region r).heldBy fn = false) → (∀ n ∈ s.nets, n.tenant ≠ fn) → f.lqtail = f.lqhead →
      f.lqhead < 64 →
      ∃ t, exec (.vfReset fn) s = .next t ∧
        t.func fn = { ready := f.ready, staging := f.staging, msix := f.msix, msgs := f.msgs, mailbox := f.mailbox } ∧
        t.tenant fn = { troot := (s.tenant fn).troot } ∧ t.slots = s.slots ∧ t.tiles = s.tiles ∧ t.nets = s.nets ∧
        (∀ b ∈ t.buckets, b.1 % 32 ≠ fn) ∧ ∀ p ∈ t.pages, p.tenant ≠ fn)

/-! ## Encodings (R39-R54) -/

/-- R40, R46-R53: some words, taken bit by bit from the encodings of the spec, decode to the instructions they stand for. -/
def Obligations.DecodeKnownWords : Prop :=
  decodeGen 0x0850FFFE = .ok (.addi 5 3 (-2)) ∧
  decodeGen 0x0470A300 = .ok (.add 7 2 35) ∧
  decodeGen 0x98408312 = .ok (.emitt 0 4 2 3 1 2) ∧
  decodeGen 0xA0218700 = .ok (.tset 2 6 7) ∧
  decodeGen 0xA4301000 = .ok (.tld 3 0 0x1000) ∧
  decodeGen 0xA8000005 = .ok (.gwait 5) ∧
  decodeGen 0xC0200100 = .ok (.sysr 2 0x040) ∧
  decodeGen 0xC401001A = .ok (.syswClr 4 0x006) ∧
  decodeGen 0xC8000005 = .ok (.trap 5) ∧
  decodeGen 0xCC000000 = .ok .sret ∧
  decodeGen 0xD420C008 = .ok (.ctlKzero 2 3) ∧
  decodeGen 0xD0000001 = .error .unusedField ∧
  decodeEng 0x0000C72400000000 = .ok (.vadd ⟨3, 7, 9, 0, 0, 0, 0, 0, 0, 0⟩) ∧
  decodeEng 0x02B0000000000028 = .ok (.vsetvl ⟨0, 0, 0, 0, 0, 0, 0, 0, 0, 40⟩) ∧
  decodeEng 0x2001800000000000 = .ok (.mzero ⟨1, 1, 0, 0, 0, 0, 0, 0, 0⟩) ∧
  decodeEng 0x4016000000002010 = .ok (.esetH 6 0x2010) ∧
  decodeEng 0x4025000000000000 = .ok (.qjoin 5)

/-- R40, R46-R53, R54: every well-formed instruction that has an encoding decodes from it, with every operand as it was; the six region
commands share one word (R370), which decodes to the first of them. -/
def Obligations.EncodeDecode : Prop :=
  (∀ (i : Instr) (w : Word32), i.wf = true → encodeGen i = some w →
    decodeGen w = .ok (match i with
      | .rgncmdHalt d a | .rgncmdReset d a | .rgncmdScrub d a | .rgncmdSwitch d a | .rgncmdRelease d a => .rgncmdAssign d a
      | j => j)) ∧
  (∀ (i : Instr) (w : Word), i.wf = true → encodeEng i = some w → decodeEng w = .ok i)

/-! ## The step, reset, the invariant -/

/-- R45, R100, R113, R351: a step takes the next act of the agenda, if one is set (the model's choice, log 1: the spec gives no such order). A step that issues for a slot that may issue runs the instruction that its word at the pc decodes to (the region
command that a `rgncmd` word means is read from its argument, R370); the word is fetched with the slot's own held stores in it (the model's
reading, log 32); what the fetch raises below S: WINDOW outside the code area, CODEMISS in
an INVALID or INFLIGHT segment, MEMFAULT in a FAILED one, ILLEGAL for a word that is none; WINDOW at S is a double fault, and a
double-bit error halts the region, once every word has retired. A step that starts a word runs it; with none to start, it moves on the copy
word at work (R290); one that is an event does that event. A slot that may not issue does nothing (the model's choice, log 1: a turn is given to it all the same). Six more acts are inputs: a word of
SRAM or places of DRAM come to hold a double-bit error (the model's choice, log 19), a frame is given to a tenant (log 22), the host turns
to another read (R346), the detectors of a tenant's other packages have collected their part of a wave (R162, log 12), and a process of another package is
known to stand at a place there (R149, log 12). -/
def Obligations.StepRunsDecoded : Prop :=
  ∀ (s t : State), s.die.poweredOff = false →
    (∀ a l, s.agenda = a :: l → nextAct s = some (a, { s with agenda := l })) ∧
    (∀ j, nextAct s = some (.issue j, t) →
      let u : State := { t with cur := j }
      let x := u.me
      let pc := u.pc
      let k := pc.toNat / 4096
      let byte (n : Nat) : Byte := u.loadByte j (pc.toNat + n)
      let word : Word32 := byte 3 ++ byte 2 ++ byte 1 ++ byte 0
      let fetched : Prop := if x.atS = true then pc.toNat < 65536 else pc.toNat < x.codeSegs * 4096 ∧ (x.seg k).st = .valid
      (x.canIssue = false → step s = .next u) ∧
      (x.canIssue = true →
        (fetched → u.eccAt j pc.toNat 4 = false →
          (∀ i, decodeGen word = .ok i → step s = exec (refineRegion (regionArg u i) i) u) ∧
          (∀ e, x.atS = false → decodeGen word = .error e → Traps (step s) u .illegal u.instrWord)) ∧
        (x.atS = false → x.codeSegs * 4096 ≤ pc.toNat → Traps (step s) u .window pc) ∧
        (x.atS = false → pc.toNat < x.codeSegs * 4096 → (x.seg k).st = .invalid → Traps (step s) u .codemiss (BitVec.ofNat 64 k)) ∧
        (x.atS = false → pc.toNat < x.codeSegs * 4096 → (x.seg k).st = .inflight →
          Traps (step s) u .codemiss (BitVec.ofNat 64 (k + 256))) ∧
        (x.atS = false → pc.toNat < x.codeSegs * 4096 → (x.seg k).st = .failed →
          let v := (x.seg k).fva
          TrapsWith (step s) u { gFault u .memfault pc ((v.extractLsb' 0 57).zeroExtend 64) (some v) with seg := some k }) ∧
        (fetched → u.eccAt j pc.toNat 4 = true → x.committed = true →
          ∃ v, step s = .next v ∧ (v.region (regionOf (tileOf j))).st = .halted) ∧
        (x.atS = true → 65536 ≤ pc.toNat → x.committed = true → NoGroupWaits u →
          ∃ v, step s = .next v ∧ DoubleFaulted j u v .window false))) ∧
    (∀ j q, nextAct s = some (.start j q, t) →
      let u : State := { t with cur := j, curQ := q }
      (∀ w i, u.startable = some w → decodeEng w.word = .ok i → step s = exec i u) ∧
      (∀ w i, u.startable = none → u.mover = some w → w.q = q → decodeEng w.word = .ok i → step s = exec i u)) ∧
    (∀ j q e, nextAct s = some (.event j q e, t) → encodeGen e = none → encodeEng e = none → step s = exec e { t with cur := j, curQ := q }) ∧
    (∀ k w, nextAct s = some (.sramError k w, t) → ∃ u, step s = .next u ∧ u.tile k = { t.tile k with ecc := w :: (t.tile k).ecc } ∧
      (∀ j, j ≠ k → u.tile j = t.tile j) ∧ u = { t with tiles := u.tiles }) ∧
    (∀ l, nextAct s = some (.dramError l, t) → step s = .next { t with dramEcc := l ++ t.dramEcc }) ∧
    (∀ f k, nextAct s = some (.giveFrame f k, t) → ∃ u, step s = .next u ∧ u = { t with frames := u.frames } ∧
      ∀ j, Sparse.get 0 u.frames j = if j = f then k + 1 else Sparse.get 0 t.frames j) ∧
    (∀ n r, nextAct s = some (.hostTurn n, t) → t.host.reads[n]? = some r →
      step s = .next { t with host := { t.host with reads := r :: t.host.reads.eraseIdx n } }) ∧
    (∀ k w, nextAct s = some (.peerWave k w, t) → ∃ u, step s = .next u ∧ u = { t with host := { t.host with waves := u.host.waves } } ∧
      ∀ j, Sparse.get {} u.host.waves j = if j = k then w else Sparse.get {} t.host.waves j) ∧
    (∀ n pid q, nextAct s = some (.peerProc n pid q, t) → ∃ u, step s = .next u ∧ u = { t with host := { t.host with peers := u.host.peers } } ∧
      ∀ j, Sparse.get none u.host.peers j = if j = n + 32 * pid then some q else Sparse.get none t.host.peers j)

/-- R101, R103, R250, R285, R350, R354, R368, R373: the machine right after power-on. Every slot but the control tile's is empty; its
registers are zero, its queues, buffers and ports empty, its level C, PLEVEL 0; every tile is zero, every accumulator in FIX mode with nothing open; every
region is SCRUBBING under no tenant; tenant registers, buckets, key slots, page requests and translations are empty; no function is
ready; and every memory is in canonical form. The control tile's identity, its segments
and its pc are the model's choice (log 7), and so are the zeros that nothing has written: of DRAM (log 4), of the staging areas (log 5), of
registers for which the spec gives no reset value (log 8). -/
def Obligations.ResetState : Prop :=
  let s := State.reset
  let c := s.slot Config.controlSlot
  (∀ j, j ≠ Config.controlSlot → s.slot j = {}) ∧
  (c.id.level = 2 ∧ c.id.plevel = 0 ∧ (∀ r, c.bank.readG r = 0) ∧ (∀ r, c.bank.readT r = 0) ∧ (∀ q r, c.bank.readE q r = 0) ∧
    (∀ r, c.vreg r = 0) ∧ c.eng = {} ∧ c.ports = [] ∧ c.tr = {} ∧ c.vec.fflags = 0 ∧ c.vec.fcsr = 0 ∧ c.vec.smap = 0) ∧
  (∀ k, s.tile k = {} ∧ ∀ n, ((s.tile k).acc n).mode = .fix ∧ ((s.tile k).acc n).opn = 0 ∧ ∀ e, Sparse.get 0 ((s.tile k).acc n).el e = 0) ∧
  (∀ r, (s.region r).st = .scrubbing ∧ (s.region r).tenant = 0 ∧ (s.region r).ctxs = []) ∧
  (∀ t, s.tenant t = {}) ∧ s.buckets = [] ∧ (∀ k, (s.key k).full = false) ∧ s.pages = [] ∧ s.tlb1 = [] ∧ s.tlb2 = [] ∧ s.nets = [] ∧
  (∀ n, (s.func n).ready = false ∧ (s.func n).lqhead = 0 ∧ (s.func n).lqtail = 0) ∧ s.dram = [] ∧ s.MemOk

/-- The model's own invariant (the canonical form of log 4, log 5): whatever a step does, every byte memory of the machine stays in
canonical form, so that equal memories are equal data. -/
def Obligations.StepKeepsMemOk : Prop := ∀ (s t : State), s.MemOk → step s = .next t → t.MemOk
end

