-- ==== Sys2Proof/Laws/Dispatch.lean ====
section
/-! SUPPORT. What `exec` does with each instruction: its meaning, by name. -/

namespace Sys2Proof.Machine

variable (s : State)

@[simp] theorem exec_add d a b : exec (.add d a b) s = execAdd d a b s := rfl
@[simp] theorem exec_sub d a b : exec (.sub d a b) s = execSub d a b s := rfl
@[simp] theorem exec_and d a b : exec (.and d a b) s = execAnd d a b s := rfl
@[simp] theorem exec_or d a b : exec (.or d a b) s = execOr d a b s := rfl
@[simp] theorem exec_xor d a b : exec (.xor d a b) s = execXor d a b s := rfl
@[simp] theorem exec_andn d a b : exec (.andn d a b) s = execAndn d a b s := rfl
@[simp] theorem exec_sll d a b : exec (.sll d a b) s = execSll d a b s := rfl
@[simp] theorem exec_srl d a b : exec (.srl d a b) s = execSrl d a b s := rfl
@[simp] theorem exec_sra d a b : exec (.sra d a b) s = execSra d a b s := rfl
@[simp] theorem exec_slt d a b : exec (.slt d a b) s = execSlt d a b s := rfl
@[simp] theorem exec_sltu d a b : exec (.sltu d a b) s = execSltu d a b s := rfl
@[simp] theorem exec_min d a b : exec (.min d a b) s = execMin d a b s := rfl
@[simp] theorem exec_max d a b : exec (.max d a b) s = execMax d a b s := rfl
@[simp] theorem exec_minu d a b : exec (.minu d a b) s = execMinu d a b s := rfl
@[simp] theorem exec_maxu d a b : exec (.maxu d a b) s = execMaxu d a b s := rfl
@[simp] theorem exec_mul d a b : exec (.mul d a b) s = execMul d a b s := rfl
@[simp] theorem exec_mulh d a b : exec (.mulh d a b) s = execMulh d a b s := rfl
@[simp] theorem exec_mulhu d a b : exec (.mulhu d a b) s = execMulhu d a b s := rfl
@[simp] theorem exec_div d a b : exec (.div d a b) s = execDiv d a b s := rfl
@[simp] theorem exec_divu d a b : exec (.divu d a b) s = execDivu d a b s := rfl
@[simp] theorem exec_rem d a b : exec (.rem d a b) s = execRem d a b s := rfl
@[simp] theorem exec_remu d a b : exec (.remu d a b) s = execRemu d a b s := rfl
@[simp] theorem exec_clz d a : exec (.clz d a) s = execClz d a s := rfl
@[simp] theorem exec_ctz d a : exec (.ctz d a) s = execCtz d a s := rfl
@[simp] theorem exec_popc d a : exec (.popc d a) s = execPopc d a s := rfl
@[simp] theorem exec_sextb d a : exec (.sextb d a) s = execSextb d a s := rfl
@[simp] theorem exec_sexth d a : exec (.sexth d a) s = execSexth d a s := rfl
@[simp] theorem exec_sextw d a : exec (.sextw d a) s = execSextw d a s := rfl
@[simp] theorem exec_zextb d a : exec (.zextb d a) s = execZextb d a s := rfl
@[simp] theorem exec_zexth d a : exec (.zexth d a) s = execZexth d a s := rfl
@[simp] theorem exec_zextw d a : exec (.zextw d a) s = execZextw d a s := rfl
@[simp] theorem exec_addi d a imm : exec (.addi d a imm) s = execAddi d a imm s := rfl
@[simp] theorem exec_andi d a imm : exec (.andi d a imm) s = execAndi d a imm s := rfl
@[simp] theorem exec_ori d a imm : exec (.ori d a imm) s = execOri d a imm s := rfl
@[simp] theorem exec_xori d a imm : exec (.xori d a imm) s = execXori d a imm s := rfl
@[simp] theorem exec_slli d a sh : exec (.slli d a sh) s = execSlli d a sh s := rfl
@[simp] theorem exec_srli d a sh : exec (.srli d a sh) s = execSrli d a sh s := rfl
@[simp] theorem exec_srai d a sh : exec (.srai d a sh) s = execSrai d a sh s := rfl
@[simp] theorem exec_slti d a imm : exec (.slti d a imm) s = execSlti d a imm s := rfl
@[simp] theorem exec_sltiu d a imm : exec (.sltiu d a imm) s = execSltiu d a imm s := rfl
@[simp] theorem exec_lsi d imm : exec (.lsi d imm) s = execLsi d imm s := rfl
@[simp] theorem exec_addpc d imm : exec (.addpc d imm) s = execAddpc d imm s := rfl
@[simp] theorem exec_ldpc d imm : exec (.ldpc d imm) s = execLdpc d imm s := rfl
@[simp] theorem exec_ldb d a imm : exec (.ldb d a imm) s = execLdb d a imm s := rfl
@[simp] theorem exec_ldbu d a imm : exec (.ldbu d a imm) s = execLdbu d a imm s := rfl
@[simp] theorem exec_ldh d a imm : exec (.ldh d a imm) s = execLdh d a imm s := rfl
@[simp] theorem exec_ldhu d a imm : exec (.ldhu d a imm) s = execLdhu d a imm s := rfl
@[simp] theorem exec_ldw d a imm : exec (.ldw d a imm) s = execLdw d a imm s := rfl
@[simp] theorem exec_ldwu d a imm : exec (.ldwu d a imm) s = execLdwu d a imm s := rfl
@[simp] theorem exec_ldd d a imm : exec (.ldd d a imm) s = execLdd d a imm s := rfl
@[simp] theorem exec_stb v a imm : exec (.stb v a imm) s = execStb v a imm s := rfl
@[simp] theorem exec_sth v a imm : exec (.sth v a imm) s = execSth v a imm s := rfl
@[simp] theorem exec_stw v a imm : exec (.stw v a imm) s = execStw v a imm s := rfl
@[simp] theorem exec_std v a imm : exec (.std v a imm) s = execStd v a imm s := rfl
@[simp] theorem exec_beq a b o : exec (.beq a b o) s = execBeq a b o s := rfl
@[simp] theorem exec_bne a b o : exec (.bne a b o) s = execBne a b o s := rfl
@[simp] theorem exec_blt a b o : exec (.blt a b o) s = execBlt a b o s := rfl
@[simp] theorem exec_bge a b o : exec (.bge a b o) s = execBge a b o s := rfl
@[simp] theorem exec_bltu a b o : exec (.bltu a b o) s = execBltu a b o s := rfl
@[simp] theorem exec_bgeu a b o : exec (.bgeu a b o) s = execBgeu a b o s := rfl
@[simp] theorem exec_jal d imm : exec (.jal d imm) s = execJal d imm s := rfl
@[simp] theorem exec_jalr d a imm : exec (.jalr d a imm) s = execJalr d a imm s := rfl
@[simp] theorem exec_jmpf d a imm : exec (.jmpf d a imm) s = execJmpf d a imm s := rfl
@[simp] theorem exec_recvb p a b : exec (.recvb p a b) s = execRecvb p a b s := rfl
@[simp] theorem exec_sendb p a b : exec (.sendb p a b) s = execSendb p a b s := rfl
@[simp] theorem exec_chctlClose p : exec (.chctlClose p) s = execChctlClose p s := rfl
@[simp] theorem exec_chctlEosrd d p : exec (.chctlEosrd d p) s = execChctlEosrd d p s := rfl
@[simp] theorem exec_chctlEosclr p : exec (.chctlEosclr p) s = execChctlEosclr p s := rfl
@[simp] theorem exec_emit q a b : exec (.emit q a b) s = execEmit q a b s := rfl
@[simp] theorem exec_emitt q t a b x y : exec (.emitt q t a b x y) s = execEmitt q t a b x y s := rfl
@[simp] theorem exec_emitl q o : exec (.emitl q o) s = execEmitl q o s := rfl
@[simp] theorem exec_tset t a b : exec (.tset t a b) s = execTset t a b s := rfl
@[simp] theorem exec_tld t a imm : exec (.tld t a imm) s = execTld t a imm s := rfl
@[simp] theorem exec_gwait m : exec (.gwait m) s = execGwait m s := rfl
@[simp] theorem exec_mwaitb b : exec (.mwaitb b) s = execMwaitb b s := rfl
@[simp] theorem exec_cfetch a b : exec (.cfetch a b) s = execCfetch a b s := rfl
@[simp] theorem exec_cwait a : exec (.cwait a) s = execCwait a s := rfl
@[simp] theorem exec_gbar g : exec (.gbar g) s = execGbar g s := rfl
@[simp] theorem exec_phase g : exec (.phase g) s = execPhase g s := rfl
@[simp] theorem exec_sysr d r : exec (.sysr d r) s = execSysr d r s := rfl
@[simp] theorem exec_sysw a r : exec (.sysw a r) s = execSysw a r s := rfl
@[simp] theorem exec_syswSet a r : exec (.syswSet a r) s = execSyswSet a r s := rfl
@[simp] theorem exec_syswClr a r : exec (.syswClr a r) s = execSyswClr a r s := rfl
@[simp] theorem exec_trap code : exec (.trap code) s = execTrap code s := rfl
@[simp] theorem exec_sret : exec (.sret) s = execSret s := rfl
@[simp] theorem exec_exit : exec (.exit) s = execExit s := rfl
@[simp] theorem exec_ctlKload d a : exec (.ctlKload d a) s = execCtlKload d a s := rfl
@[simp] theorem exec_ctlKzero d a : exec (.ctlKzero d a) s = execCtlKzero d a s := rfl
@[simp] theorem exec_rgncmdAssign d a : exec (.rgncmdAssign d a) s = execRgncmdAssign d a s := rfl
@[simp] theorem exec_rgncmdHalt d a : exec (.rgncmdHalt d a) s = execRgncmdHalt d a s := rfl
@[simp] theorem exec_rgncmdReset d a : exec (.rgncmdReset d a) s = execRgncmdReset d a s := rfl
@[simp] theorem exec_rgncmdScrub d a : exec (.rgncmdScrub d a) s = execRgncmdScrub d a s := rfl
@[simp] theorem exec_rgncmdSwitch d a : exec (.rgncmdSwitch d a) s = execRgncmdSwitch d a s := rfl
@[simp] theorem exec_rgncmdRelease d a : exec (.rgncmdRelease d a) s = execRgncmdRelease d a s := rfl
@[simp] theorem exec_ctlTlbinv d a : exec (.ctlTlbinv d a) s = execCtlTlbinv d a s := rfl
@[simp] theorem exec_ctlPrget d a : exec (.ctlPrget d a) s = execCtlPrget d a s := rfl
@[simp] theorem exec_ctlPrans d a : exec (.ctlPrans d a) s = execCtlPrans d a s := rfl
@[simp] theorem exec_ctlCaston d a : exec (.ctlCaston d a) s = execCtlCaston d a s := rfl
@[simp] theorem exec_ctlCancel d a : exec (.ctlCancel d a) s = execCtlCancel d a s := rfl
@[simp] theorem exec_ctlAttest d a : exec (.ctlAttest d a) s = execCtlAttest d a s := rfl
@[simp] theorem exec_ctlRebind d a : exec (.ctlRebind d a) s = execCtlRebind d a s := rfl
@[simp] theorem exec_vadd f : exec (.vadd f) s = execVadd f s := rfl
@[simp] theorem exec_vsub f : exec (.vsub f) s = execVsub f s := rfl
@[simp] theorem exec_vmul f : exec (.vmul f) s = execVmul f s := rfl
@[simp] theorem exec_vfma f : exec (.vfma f) s = execVfma f s := rfl
@[simp] theorem exec_vfms f : exec (.vfms f) s = execVfms f s := rfl
@[simp] theorem exec_vfnma f : exec (.vfnma f) s = execVfnma f s := rfl
@[simp] theorem exec_vdiv f : exec (.vdiv f) s = execVdiv f s := rfl
@[simp] theorem exec_vsqrt f : exec (.vsqrt f) s = execVsqrt f s := rfl
@[simp] theorem exec_vrcp f : exec (.vrcp f) s = execVrcp f s := rfl
@[simp] theorem exec_vrsqrt f : exec (.vrsqrt f) s = execVrsqrt f s := rfl
@[simp] theorem exec_vexp2 f : exec (.vexp2 f) s = execVexp2 f s := rfl
@[simp] theorem exec_vlog2 f : exec (.vlog2 f) s = execVlog2 f s := rfl
@[simp] theorem exec_vmin f : exec (.vmin f) s = execVmin f s := rfl
@[simp] theorem exec_vmax f : exec (.vmax f) s = execVmax f s := rfl
@[simp] theorem exec_vabs f : exec (.vabs f) s = execVabs f s := rfl
@[simp] theorem exec_vneg f : exec (.vneg f) s = execVneg f s := rfl
@[simp] theorem exec_vcmp f : exec (.vcmp f) s = execVcmp f s := rfl
@[simp] theorem exec_vsel f : exec (.vsel f) s = execVsel f s := rfl
@[simp] theorem exec_vcvt f : exec (.vcvt f) s = execVcvt f s := rfl
@[simp] theorem exec_viadd f : exec (.viadd f) s = execViadd f s := rfl
@[simp] theorem exec_visub f : exec (.visub f) s = execVisub f s := rfl
@[simp] theorem exec_vimul f : exec (.vimul f) s = execVimul f s := rfl
@[simp] theorem exec_vimulh f : exec (.vimulh f) s = execVimulh f s := rfl
@[simp] theorem exec_vimin f : exec (.vimin f) s = execVimin f s := rfl
@[simp] theorem exec_vimax f : exec (.vimax f) s = execVimax f s := rfl
@[simp] theorem exec_viminu f : exec (.viminu f) s = execViminu f s := rfl
@[simp] theorem exec_vimaxu f : exec (.vimaxu f) s = execVimaxu f s := rfl
@[simp] theorem exec_vand f : exec (.vand f) s = execVand f s := rfl
@[simp] theorem exec_vor f : exec (.vor f) s = execVor f s := rfl
@[simp] theorem exec_vxor f : exec (.vxor f) s = execVxor f s := rfl
@[simp] theorem exec_vshl f : exec (.vshl f) s = execVshl f s := rfl
@[simp] theorem exec_vshr f : exec (.vshr f) s = execVshr f s := rfl
@[simp] theorem exec_vsra f : exec (.vsra f) s = execVsra f s := rfl
@[simp] theorem exec_vicmp f : exec (.vicmp f) s = execVicmp f s := rfl
@[simp] theorem exec_vredsum f : exec (.vredsum f) s = execVredsum f s := rfl
@[simp] theorem exec_vredmax f : exec (.vredmax f) s = execVredmax f s := rfl
@[simp] theorem exec_vredmin f : exec (.vredmin f) s = execVredmin f s := rfl
@[simp] theorem exec_viredsum f : exec (.viredsum f) s = execViredsum f s := rfl
@[simp] theorem exec_viota f : exec (.viota f) s = execViota f s := rfl
@[simp] theorem exec_vbcast f : exec (.vbcast f) s = execVbcast f s := rfl
@[simp] theorem exec_vmv f : exec (.vmv f) s = execVmv f s := rfl
@[simp] theorem exec_vmrg f : exec (.vmrg f) s = execVmrg f s := rfl
@[simp] theorem exec_vnorm f : exec (.vnorm f) s = execVnorm f s := rfl
@[simp] theorem exec_vsetvl f : exec (.vsetvl f) s = execVsetvl f s := rfl
@[simp] theorem exec_mand f : exec (.mand f) s = execMand f s := rfl
@[simp] theorem exec_mor f : exec (.mor f) s = execMor f s := rfl
@[simp] theorem exec_mxor f : exec (.mxor f) s = execMxor f s := rfl
@[simp] theorem exec_mnot f : exec (.mnot f) s = execMnot f s := rfl
@[simp] theorem exec_vld f : exec (.vld f) s = execVld f s := rfl
@[simp] theorem exec_vst f : exec (.vst f) s = execVst f s := rfl
@[simp] theorem exec_vlds f : exec (.vlds f) s = execVlds f s := rfl
@[simp] theorem exec_vsts f : exec (.vsts f) s = execVsts f s := rfl
@[simp] theorem exec_vldx f : exec (.vldx f) s = execVldx f s := rfl
@[simp] theorem exec_vstx f : exec (.vstx f) s = execVstx f s := rfl
@[simp] theorem exec_vscadd f : exec (.vscadd f) s = execVscadd f s := rfl
@[simp] theorem exec_vperm f : exec (.vperm f) s = execVperm f s := rfl
@[simp] theorem exec_vrot f : exec (.vrot f) s = execVrot f s := rfl
@[simp] theorem exec_vslide f : exec (.vslide f) s = execVslide f s := rfl
@[simp] theorem exec_vcompress f : exec (.vcompress f) s = execVcompress f s := rfl
@[simp] theorem exec_mzero f : exec (.mzero f) s = execMzero f s := rfl
@[simp] theorem exec_mstep f : exec (.mstep f) s = execMstep f s := rfl
@[simp] theorem exec_mcommit f : exec (.mcommit f) s = execMcommit f s := rfl
@[simp] theorem exec_mrd f : exec (.mrd f) s = execMrd f s := rfl
@[simp] theorem exec_mst f : exec (.mst f) s = execMst f s := rfl
@[simp] theorem exec_mcfg f : exec (.mcfg f) s = execMcfg f s := rfl
@[simp] theorem exec_msave f : exec (.msave f) s = execMsave f s := rfl
@[simp] theorem exec_mload f : exec (.mload f) s = execMload f s := rfl
@[simp] theorem exec_xcopy f : exec (.xcopy f) s = execXcopy f s := rfl
@[simp] theorem exec_xget f : exec (.xget f) s = execXget f s := rfl
@[simp] theorem exec_xput f : exec (.xput f) s = execXput f s := rfl
@[simp] theorem exec_xstream f : exec (.xstream f) s = execXstream f s := rfl
@[simp] theorem exec_xgather f : exec (.xgather f) s = execXgather f s := rfl
@[simp] theorem exec_xatom f : exec (.xatom f) s = execXatom f s := rfl
@[simp] theorem exec_esetL e imm : exec (.esetL e imm) s = execEsetL e imm s := rfl
@[simp] theorem exec_esetH e imm : exec (.esetH e imm) s = execEsetH e imm s := rfl
@[simp] theorem exec_qjoin m : exec (.qjoin m) s = execQjoin m s := rfl
@[simp] theorem exec_replay e res : exec (.replay e res) s = execReplay e res s := rfl
@[simp] theorem exec_enop : exec (.enop) s = execEnop s := rfl
@[simp] theorem exec_replayIssue : exec (.replayIssue) s = execReplayIssue s := rfl
@[simp] theorem exec_wordRetire : exec (.wordRetire) s = execWordRetire s := rfl
@[simp] theorem exec_streamSendRelease : exec (.streamSendRelease) s = execStreamSendRelease s := rfl
@[simp] theorem exec_slotWake : exec (.slotWake) s = execSlotWake s := rfl
@[simp] theorem exec_levelGFault : exec (.levelGFault) s = execLevelGFault s := rfl
@[simp] theorem exec_trapEntry : exec (.trapEntry) s = execTrapEntry s := rfl
@[simp] theorem exec_preempt : exec (.preempt) s = execPreempt s := rfl
@[simp] theorem exec_cfetchLanding seg : exec (.cfetchLanding seg) s = execCfetchLanding seg s := rfl
@[simp] theorem exec_cfetchFailure seg : exec (.cfetchFailure seg) s = execCfetchFailure seg s := rfl
@[simp] theorem exec_slotPacket net ch rd : exec (.slotPacket net ch rd) s = execSlotPacket net ch rd s := rfl
@[simp] theorem exec_creditPacket net ch wr : exec (.creditPacket net ch wr) s = execCreditPacket net ch wr s := rfl
@[simp] theorem exec_endMarkPacket net ch rd : exec (.endMarkPacket net ch rd) s = execEndMarkPacket net ch rd s := rfl
@[simp] theorem exec_severNotice net ch ep : exec (.severNotice net ch ep) s = execSeverNotice net ch ep s := rfl
@[simp] theorem exec_creditMergeExpiry net ch rd : exec (.creditMergeExpiry net ch rd) s = execCreditMergeExpiry net ch rd s := rfl
@[simp] theorem exec_ualinkWriteRequest port m : exec (.ualinkWriteRequest port m) s = execUalinkWriteRequest port m s := rfl
@[simp] theorem exec_ualinkWriteCompletion port net ch seq : exec (.ualinkWriteCompletion port net ch seq) s = execUalinkWriteCompletion port net ch seq s := rfl
@[simp] theorem exec_ualinkRetransmit port idx : exec (.ualinkRetransmit port idx) s = execUalinkRetransmit port idx s := rfl
@[simp] theorem exec_detectorWave tenant : exec (.detectorWave tenant) s = execDetectorWave tenant s := rfl
@[simp] theorem exec_skeinTransfer net ch rd : exec (.skeinTransfer net ch rd) s = execSkeinTransfer net ch rd s := rfl
@[simp] theorem exec_reduceNodeInput net ch : exec (.reduceNodeInput net ch) s = execReduceNodeInput net ch s := rfl
@[simp] theorem exec_barrierRelease net gid : exec (.barrierRelease net gid) s = execBarrierRelease net gid s := rfl
@[simp] theorem exec_boundary net gid : exec (.boundary net gid) s = execBoundary net gid s := rfl
@[simp] theorem exec_tokenRefill : exec (.tokenRefill) s = execTokenRefill s := rfl
@[simp] theorem exec_saveSlotRecord part : exec (.saveSlotRecord part) s = execSaveSlotRecord part s := rfl
@[simp] theorem exec_restoreSlotRecord part : exec (.restoreSlotRecord part) s = execRestoreSlotRecord part s := rfl
@[simp] theorem exec_csegvalidWrite x : exec (.csegvalidWrite x) s = execCsegvalidWrite x s := rfl
@[simp] theorem exec_streammapWrite x : exec (.streammapWrite x) s = execStreammapWrite x s := rfl
@[simp] theorem exec_winWrite n x : exec (.winWrite n x) s = execWinWrite n x s := rfl
@[simp] theorem exec_fflagsWrite x : exec (.fflagsWrite x) s = execFflagsWrite x s := rfl
@[simp] theorem exec_accovWrite x : exec (.accovWrite x) s = execAccovWrite x s := rfl
@[simp] theorem exec_tbcfgWrite x : exec (.tbcfgWrite x) s = execTbcfgWrite x s := rfl
@[simp] theorem exec_wintabWrite x : exec (.wintabWrite x) s = execWintabWrite x s := rfl
@[simp] theorem exec_regionResetEnd r : exec (.regionResetEnd r) s = execRegionResetEnd r s := rfl
@[simp] theorem exec_scrubDone : exec (.scrubDone) s = execScrubDone s := rfl
@[simp] theorem exec_vfReset vf : exec (.vfReset vf) s = execVfReset vf s := rfl
@[simp] theorem exec_timeSliceExpiry r : exec (.timeSliceExpiry r) s = execTimeSliceExpiry r s := rfl
@[simp] theorem exec_arbiterInterval meas : exec (.arbiterInterval meas) s = execArbiterInterval meas s := rfl
@[simp] theorem exec_thermalThrottle die : exec (.thermalThrottle die) s = execThermalThrottle die s := rfl
@[simp] theorem exec_thermalRecover die : exec (.thermalRecover die) s = execThermalRecover die s := rfl
@[simp] theorem exec_thermalShutdown : exec (.thermalShutdown) s = execThermalShutdown s := rfl
@[simp] theorem exec_powerOn verified : exec (.powerOn verified) s = execPowerOn verified s := rfl
@[simp] theorem exec_doorbell fn : exec (.doorbell fn) s = execDoorbell fn s := rfl
@[simp] theorem exec_deferredWake fn : exec (.deferredWake fn) s = execDeferredWake fn s := rfl
@[simp] theorem exec_validating fn : exec (.validating fn) s = execValidating fn s := rfl
@[simp] theorem exec_cancel fn net : exec (.cancel fn net) s = execCancel fn net s := rfl
@[simp] theorem exec_cqheadWrite fn v : exec (.cqheadWrite fn v) s = execCqheadWrite fn v s := rfl
@[simp] theorem exec_evheadWrite fn v : exec (.evheadWrite fn v) s = execEvheadWrite fn v s := rfl
@[simp] theorem exec_hostRegisterWrite fn off v : exec (.hostRegisterWrite fn off v) s = execHostRegisterWrite fn off v s := rfl
@[simp] theorem exec_bindOff net : exec (.bindOff net) s = execBindOff net s := rfl
@[simp] theorem exec_completionRecord net : exec (.completionRecord net) s = execCompletionRecord net s := rfl
@[simp] theorem exec_packageHandleHostRead data : exec (.packageHandleHostRead data) s = execPackageHandleHostRead data s := rfl
@[simp] theorem exec_savectlDone : exec (.savectlDone) s = execSavectlDone s := rfl

end Sys2Proof.Machine
end

