-- ==== Sys2Proof/Laws/Sparse.lean ====
section
/-! SUPPORT. Tables and memories: read after write, and the canonical form kept by every operation. -/

namespace Sys2Proof.Machine

variable {β : Type}

/-! ## Reading -/

@[simp] theorem sparse_get_nil (d : β) (n : Nat) : Sparse.get d [] n = d := rfl

/-- A dropped key reads as the default. -/
@[simp] theorem sparse_get_drop_self (d : β) (m : Sparse β) (n : Nat) : Sparse.get d (m.drop n) n = d := by
  induction m with
  | nil => rfl
  | cons p m ih =>
    obtain ⟨k, v⟩ := p
    by_cases h : k = n <;> simp [Sparse.drop, Sparse.get, h, ih]

/-- Dropping a key leaves the others alone. -/
@[simp] theorem sparse_get_drop_ne (d : β) (m : Sparse β) {n j : Nat} (h : j ≠ n) :
    Sparse.get d (m.drop n) j = Sparse.get d m j := by
  induction m with
  | nil => rfl
  | cons p m ih =>
    obtain ⟨k, v⟩ := p
    by_cases hk : k = n
    · have : k ≠ j := fun e => h (by omega)
      simp [Sparse.drop, Sparse.get, hk, ih, Ne.symm h]
    · rw [Sparse.drop, if_neg hk]; by_cases hj : k = j <;> simp [Sparse.get, hj, ih]

/-- An inserted key that was not there reads as its value. -/
theorem sparse_get_insert_self (d : β) (m : Sparse β) (n : Nat) (x : β) (h : ∀ p ∈ m, p.1 ≠ n) :
    Sparse.get d (m.insert n x) n = x := by
  induction m with
  | nil => simp [Sparse.insert, Sparse.get]
  | cons p m ih =>
    obtain ⟨k, v⟩ := p
    have hk : k ≠ n := h (k, v) (by simp)
    by_cases hlt : n < k
    · simp [Sparse.insert, Sparse.get, hlt]
    · simp [Sparse.insert, Sparse.get, hlt, hk, ih fun q hq => h q (by simp [hq])]

/-- An insertion leaves the other keys alone. -/
theorem sparse_get_insert_ne (d : β) (m : Sparse β) {n j : Nat} (x : β) (h : j ≠ n) :
    Sparse.get d (m.insert n x) j = Sparse.get d m j := by
  induction m with
  | nil => simp [Sparse.insert, Sparse.get, Ne.symm h]
  | cons p m ih =>
    obtain ⟨k, v⟩ := p
    by_cases hlt : n < k
    · simp [Sparse.insert, Sparse.get, hlt, Ne.symm h]
    · rw [Sparse.insert, if_neg hlt]; by_cases hj : k = j <;> simp [Sparse.get, hj, ih]

theorem sparse_drop_ne (m : Sparse β) (n : Nat) : ∀ p ∈ m.drop n, p.1 ≠ n := by
  induction m with
  | nil => simp [Sparse.drop]
  | cons p m ih =>
    obtain ⟨k, v⟩ := p
    by_cases h : k = n
    · simpa [Sparse.drop, h] using ih
    · intro q hq
      simp only [Sparse.drop, h, if_false, List.mem_cons] at hq
      rcases hq with rfl | hq
      · exact h
      · exact ih q hq

variable [DecidableEq β]

/-- Read after write at the same key. -/
@[simp] theorem sparse_get_set_self (d : β) (m : Sparse β) (n : Nat) (x : β) : Sparse.get d (Sparse.set d m n x) n = x := by
  unfold Sparse.set
  split
  · next h => simp [h]
  · exact sparse_get_insert_self d _ n x (sparse_drop_ne m n)

/-- A write leaves every other key alone. -/
@[simp] theorem sparse_get_set_ne (d : β) (m : Sparse β) {n j : Nat} (x : β) (h : j ≠ n) :
    Sparse.get d (Sparse.set d m n x) j = Sparse.get d m j := by
  unfold Sparse.set
  split
  · exact sparse_get_drop_ne d m h
  · rw [sparse_get_insert_ne d _ x h, sparse_get_drop_ne d m h]

/-- A write, at every key. -/
theorem sparse_get_set (d : β) (m : Sparse β) (n j : Nat) (x : β) :
    Sparse.get d (Sparse.set d m n x) j = if j = n then x else Sparse.get d m j := by
  by_cases h : j = n
  · simp [h]
  · simp [h]

/-! ## The canonical form -/

theorem sparse_wfFrom_mono (d : β) {a b : Option Nat} (m : Sparse β) (h : Sparse.wfFrom d b m = true)
    (hab : ∀ k, (match b with | none => true | some l => decide (l < k)) = true →
      (match a with | none => true | some l => decide (l < k)) = true) :
    Sparse.wfFrom d a m = true := by
  cases m with
  | nil => rfl
  | cons p m =>
    obtain ⟨k, v⟩ := p
    simp only [Sparse.wfFrom, Bool.and_eq_true] at h ⊢
    exact ⟨⟨hab k h.1.1, h.1.2⟩, h.2⟩

theorem sparse_wfFrom_drop (d : β) (m : Sparse β) (n : Nat) (lo : Option Nat) (h : Sparse.wfFrom d lo m = true) :
    Sparse.wfFrom d lo (m.drop n) = true := by
  induction m generalizing lo with
  | nil => rfl
  | cons p m ih =>
    obtain ⟨k, v⟩ := p
    simp only [Sparse.wfFrom, Bool.and_eq_true] at h
    by_cases hk : k = n
    · simp only [Sparse.drop, hk, if_true]
      apply ih
      refine sparse_wfFrom_mono d m h.2 fun j hj => ?_
      cases lo with
      | none => rfl
      | some l => simp only [decide_eq_true_eq] at hj h ⊢; omega
    · simp only [Sparse.drop, hk, if_false, Sparse.wfFrom, Bool.and_eq_true]
      exact ⟨h.1, ih _ h.2⟩

theorem sparse_wfFrom_insert (d : β) (m : Sparse β) (n : Nat) (x : β) (hx : x ≠ d) (lo : Option Nat)
    (hlo : (match lo with | none => true | some l => decide (l < n)) = true) (hm : ∀ p ∈ m, p.1 ≠ n)
    (h : Sparse.wfFrom d lo m = true) : Sparse.wfFrom d lo (m.insert n x) = true := by
  induction m generalizing lo with
  | nil => simp only [Sparse.insert, Sparse.wfFrom, Bool.and_eq_true, decide_eq_true_eq]; exact ⟨⟨hlo, hx⟩, trivial⟩
  | cons p m ih =>
    obtain ⟨k, v⟩ := p
    have hk : k ≠ n := hm (k, v) (by simp)
    simp only [Sparse.wfFrom, Bool.and_eq_true] at h
    by_cases hlt : n < k
    · simp only [Sparse.insert, hlt, if_true, Sparse.wfFrom, Bool.and_eq_true, decide_eq_true_eq]
      exact ⟨⟨hlo, hx⟩, ⟨trivial, by simpa using h.1.2⟩, h.2⟩
    · simp only [Sparse.insert, hlt, if_false, Sparse.wfFrom, Bool.and_eq_true]
      refine ⟨h.1, ih (some k) ?_ (fun q hq => hm q (by simp [hq])) h.2⟩
      simp only [decide_eq_true_eq]; omega

/-- A write keeps the canonical form. -/
theorem sparse_wf_set (d : β) (m : Sparse β) (n : Nat) (x : β) (h : Sparse.wf d m = true) : Sparse.wf d (Sparse.set d m n x) = true := by
  unfold Sparse.set
  split
  · exact sparse_wfFrom_drop d m n none h
  · next hx => exact sparse_wfFrom_insert d _ n x hx none rfl (sparse_drop_ne m n) (sparse_wfFrom_drop d m n none h)

/-- What is left of a table after a filter keeps the canonical form. -/
theorem sparse_wf_filter (d : β) (m : Sparse β) (f : Nat × β → Bool) (h : Sparse.wf d m = true) : Sparse.wf d (m.filter f) = true := by
  have : ∀ (m : Sparse β) (lo : Option Nat), Sparse.wfFrom d lo m = true → Sparse.wfFrom d lo (m.filter f) = true := by
    intro m
    induction m with
    | nil => intros; rfl
    | cons p m ih =>
      obtain ⟨k, v⟩ := p
      intro lo h
      simp only [Sparse.wfFrom, Bool.and_eq_true] at h
      by_cases hf : f (k, v)
      · simp only [List.filter_cons, hf, if_true, Sparse.wfFrom, Bool.and_eq_true]
        exact ⟨h.1, ih _ h.2⟩
      · simp only [List.filter_cons, hf]
        apply ih
        refine sparse_wfFrom_mono d m h.2 fun j hj => ?_
        cases lo with
        | none => rfl
        | some l => simp only [decide_eq_true_eq] at hj h ⊢; omega
  exact this m none h

/-! ## Memories -/

@[simp] theorem mem_byte_put_self (m : Mem) (a : Nat) (b : Byte) : (m.put a b).byte a = b := sparse_get_set_self 0 m a b

@[simp] theorem mem_byte_put_ne (m : Mem) {a c : Nat} (b : Byte) (h : c ≠ a) : (m.put a b).byte c = m.byte c :=
  sparse_get_set_ne 0 m b h

theorem mem_byte_put (m : Mem) (a c : Nat) (b : Byte) : (m.put a b).byte c = if c = a then b else m.byte c :=
  sparse_get_set 0 m a c b

/-- Writing one byte keeps the canonical form. -/
theorem memory_wf_put (m : Mem) (a : Nat) (b : Byte) (h : Memory.wf m = true) : Memory.wf (m.put a b) = true :=
  sparse_wf_set 0 m a b h

/-- Writing bytes keeps the canonical form. -/
theorem memory_wf_putBytes (m : Mem) (a : Nat) (bs : List Byte) (h : Memory.wf m = true) : Memory.wf (m.putBytes a bs) = true := by
  induction bs generalizing m a with
  | nil => exact h
  | cons b bs ih => exact ih (m.put a b) (a + 1) (memory_wf_put m a b h)

/-- Removing entries keeps the canonical form. -/
theorem memory_wf_filter (m : Mem) (f : Host.Cell → Bool) (h : Memory.wf m = true) : Memory.wf (m.filter f) = true :=
  sparse_wf_filter 0 m f h

@[simp] theorem memory_wf_nil : Memory.wf [] = true := rfl

/-- Bytes written, at every address: those written, and the others as before. -/
theorem mem_byte_putBytes (m : Mem) (a : Nat) (bs : List Byte) (c : Nat) :
    (m.putBytes a bs).byte c = if a ≤ c ∧ c < a + bs.length then bs.getD (c - a) 0 else m.byte c := by
  induction bs generalizing m a with
  | nil => simp [Mem.putBytes]
  | cons b bs ih =>
    simp only [Mem.putBytes, ih, mem_byte_put, List.length_cons]
    by_cases h1 : c = a
    · subst h1; simp
    · by_cases h2 : a + 1 ≤ c ∧ c < a + 1 + bs.length
      · rw [if_pos h2, if_pos (by omega)]
        obtain ⟨k, hk⟩ : ∃ k, c - a = k + 1 := ⟨c - a - 1, by omega⟩
        have : c - (a + 1) = k := by omega
        simp [hk, this]
      · rw [if_neg h2, if_neg h1, if_neg (by omega)]

/-! ## Bytes and values -/

/-- The value of two parts side by side. -/
theorem toNat_append_add {n m : Nat} (x : BitVec n) (y : BitVec m) : (x ++ y).toNat = x.toNat * 2 ^ m + y.toNat := by
  rw [BitVec.toNat_append, ← Nat.shiftLeft_add_eq_or_of_lt y.isLt, Nat.shiftLeft_eq]

theorem leNat_lt (bs : List Byte) : leNat bs < 256 ^ bs.length := by
  induction bs with
  | nil => simp [leNat]
  | cons b bs ih =>
    have := b.isLt
    simp only [leNat, List.length_cons, Nat.pow_succ]; omega

@[simp] theorem natLe_length (x n : Nat) : (natLe x n).length = n := by
  induction n generalizing x with
  | zero => rfl
  | succ n ih => simp [natLe, ih]

/-- A byte of a value (R5). -/
theorem natLe_getD (x n j : Nat) (hj : j < n) : (natLe x n).getD j 0 = BitVec.ofNat 8 (x / 256 ^ j) := by
  induction n generalizing x j with
  | zero => omega
  | succ n ih =>
    cases j with
    | zero => simp [natLe]
    | succ j =>
      have h := ih (x / 256) j (by omega)
      rw [Nat.div_div_eq_div_mul, ← Nat.pow_succ'] at h
      simpa [natLe] using h

end Sys2Proof.Machine
end

