-- ==== Sys2Proof/Laws/State.lean ====
section
/-! SUPPORT. The accessors of State: what each update leaves as it was, and what it changes. -/

namespace Sys2Proof.Machine

/-! ## Fields that an update leaves alone -/

section
variable (s : State) (i : Nat) (x : Slot)
@[simp] theorem putSlot_agenda : (s.putSlot i x).agenda = s.agenda := rfl
@[simp] theorem putSlot_cur : (s.putSlot i x).cur = s.cur := rfl
@[simp] theorem putSlot_curQ : (s.putSlot i x).curQ = s.curQ := rfl
@[simp] theorem putSlot_free : (s.putSlot i x).free = s.free := rfl
@[simp] theorem putSlot_tiles : (s.putSlot i x).tiles = s.tiles := rfl
@[simp] theorem putSlot_nets : (s.putSlot i x).nets = s.nets := rfl
@[simp] theorem putSlot_tenants : (s.putSlot i x).tenants = s.tenants := rfl
@[simp] theorem putSlot_regions : (s.putSlot i x).regions = s.regions := rfl
@[simp] theorem putSlot_funcs : (s.putSlot i x).funcs = s.funcs := rfl
@[simp] theorem putSlot_dram : (s.putSlot i x).dram = s.dram := rfl
@[simp] theorem putSlot_ktags : (s.putSlot i x).ktags = s.ktags := rfl
@[simp] theorem putSlot_dramEcc : (s.putSlot i x).dramEcc = s.dramEcc := rfl
@[simp] theorem putSlot_frames : (s.putSlot i x).frames = s.frames := rfl
@[simp] theorem putSlot_pub : (s.putSlot i x).pub = s.pub := rfl
@[simp] theorem putSlot_pubLog : (s.putSlot i x).pubLog = s.pubLog := rfl
@[simp] theorem putSlot_tlb1 : (s.putSlot i x).tlb1 = s.tlb1 := rfl
@[simp] theorem putSlot_tlb2 : (s.putSlot i x).tlb2 = s.tlb2 := rfl
@[simp] theorem putSlot_keys : (s.putSlot i x).keys = s.keys := rfl
@[simp] theorem putSlot_buckets : (s.putSlot i x).buckets = s.buckets := rfl
@[simp] theorem putSlot_pages : (s.putSlot i x).pages = s.pages := rfl
@[simp] theorem putSlot_ual : (s.putSlot i x).ual = s.ual := rfl
@[simp] theorem putSlot_host : (s.putSlot i x).host = s.host := rfl
@[simp] theorem putSlot_die : (s.putSlot i x).die = s.die := rfl
@[simp] theorem putSlot_tile (k : Nat) : (s.putSlot i x).tile k = s.tile k := rfl
@[simp] theorem putSlot_tenant (k : Nat) : (s.putSlot i x).tenant k = s.tenant k := rfl
@[simp] theorem putSlot_region (k : Nat) : (s.putSlot i x).region k = s.region k := rfl
@[simp] theorem putSlot_func (k : Nat) : (s.putSlot i x).func k = s.func k := rfl
@[simp] theorem putSlot_key (k : Nat) : (s.putSlot i x).key k = s.key k := rfl
@[simp] theorem putSlot_ualPort (k : Nat) : (s.putSlot i x).ualPort k = s.ualPort k := rfl
end

section
variable (s : State) (i : Nat) (f : Slot → Slot)
@[simp] theorem modSlot_agenda : (s.modSlot i f).agenda = s.agenda := rfl
@[simp] theorem modSlot_cur : (s.modSlot i f).cur = s.cur := rfl
@[simp] theorem modSlot_curQ : (s.modSlot i f).curQ = s.curQ := rfl
@[simp] theorem modSlot_free : (s.modSlot i f).free = s.free := rfl
@[simp] theorem modSlot_tiles : (s.modSlot i f).tiles = s.tiles := rfl
@[simp] theorem modSlot_nets : (s.modSlot i f).nets = s.nets := rfl
@[simp] theorem modSlot_tenants : (s.modSlot i f).tenants = s.tenants := rfl
@[simp] theorem modSlot_regions : (s.modSlot i f).regions = s.regions := rfl
@[simp] theorem modSlot_funcs : (s.modSlot i f).funcs = s.funcs := rfl
@[simp] theorem modSlot_dram : (s.modSlot i f).dram = s.dram := rfl
@[simp] theorem modSlot_ktags : (s.modSlot i f).ktags = s.ktags := rfl
@[simp] theorem modSlot_dramEcc : (s.modSlot i f).dramEcc = s.dramEcc := rfl
@[simp] theorem modSlot_frames : (s.modSlot i f).frames = s.frames := rfl
@[simp] theorem modSlot_pub : (s.modSlot i f).pub = s.pub := rfl
@[simp] theorem modSlot_pubLog : (s.modSlot i f).pubLog = s.pubLog := rfl
@[simp] theorem modSlot_tlb1 : (s.modSlot i f).tlb1 = s.tlb1 := rfl
@[simp] theorem modSlot_tlb2 : (s.modSlot i f).tlb2 = s.tlb2 := rfl
@[simp] theorem modSlot_keys : (s.modSlot i f).keys = s.keys := rfl
@[simp] theorem modSlot_buckets : (s.modSlot i f).buckets = s.buckets := rfl
@[simp] theorem modSlot_pages : (s.modSlot i f).pages = s.pages := rfl
@[simp] theorem modSlot_ual : (s.modSlot i f).ual = s.ual := rfl
@[simp] theorem modSlot_host : (s.modSlot i f).host = s.host := rfl
@[simp] theorem modSlot_die : (s.modSlot i f).die = s.die := rfl
@[simp] theorem modSlot_tile (k : Nat) : (s.modSlot i f).tile k = s.tile k := rfl
@[simp] theorem modSlot_tenant (k : Nat) : (s.modSlot i f).tenant k = s.tenant k := rfl
@[simp] theorem modSlot_region (k : Nat) : (s.modSlot i f).region k = s.region k := rfl
@[simp] theorem modSlot_func (k : Nat) : (s.modSlot i f).func k = s.func k := rfl
@[simp] theorem modSlot_key (k : Nat) : (s.modSlot i f).key k = s.key k := rfl
@[simp] theorem modSlot_ualPort (k : Nat) : (s.modSlot i f).ualPort k = s.ualPort k := rfl
end

section
variable (s : State) (f : Slot → Slot)
@[simp] theorem modMe_agenda : (s.modMe f).agenda = s.agenda := rfl
@[simp] theorem modMe_cur : (s.modMe f).cur = s.cur := rfl
@[simp] theorem modMe_curQ : (s.modMe f).curQ = s.curQ := rfl
@[simp] theorem modMe_free : (s.modMe f).free = s.free := rfl
@[simp] theorem modMe_tiles : (s.modMe f).tiles = s.tiles := rfl
@[simp] theorem modMe_nets : (s.modMe f).nets = s.nets := rfl
@[simp] theorem modMe_tenants : (s.modMe f).tenants = s.tenants := rfl
@[simp] theorem modMe_regions : (s.modMe f).regions = s.regions := rfl
@[simp] theorem modMe_funcs : (s.modMe f).funcs = s.funcs := rfl
@[simp] theorem modMe_dram : (s.modMe f).dram = s.dram := rfl
@[simp] theorem modMe_ktags : (s.modMe f).ktags = s.ktags := rfl
@[simp] theorem modMe_dramEcc : (s.modMe f).dramEcc = s.dramEcc := rfl
@[simp] theorem modMe_frames : (s.modMe f).frames = s.frames := rfl
@[simp] theorem modMe_pub : (s.modMe f).pub = s.pub := rfl
@[simp] theorem modMe_pubLog : (s.modMe f).pubLog = s.pubLog := rfl
@[simp] theorem modMe_tlb1 : (s.modMe f).tlb1 = s.tlb1 := rfl
@[simp] theorem modMe_tlb2 : (s.modMe f).tlb2 = s.tlb2 := rfl
@[simp] theorem modMe_keys : (s.modMe f).keys = s.keys := rfl
@[simp] theorem modMe_buckets : (s.modMe f).buckets = s.buckets := rfl
@[simp] theorem modMe_pages : (s.modMe f).pages = s.pages := rfl
@[simp] theorem modMe_ual : (s.modMe f).ual = s.ual := rfl
@[simp] theorem modMe_host : (s.modMe f).host = s.host := rfl
@[simp] theorem modMe_die : (s.modMe f).die = s.die := rfl
@[simp] theorem modMe_tile (k : Nat) : (s.modMe f).tile k = s.tile k := rfl
@[simp] theorem modMe_tenant (k : Nat) : (s.modMe f).tenant k = s.tenant k := rfl
@[simp] theorem modMe_region (k : Nat) : (s.modMe f).region k = s.region k := rfl
@[simp] theorem modMe_func (k : Nat) : (s.modMe f).func k = s.func k := rfl
@[simp] theorem modMe_key (k : Nat) : (s.modMe f).key k = s.key k := rfl
@[simp] theorem modMe_ualPort (k : Nat) : (s.modMe f).ualPort k = s.ualPort k := rfl
end

section
variable (s : State) (t : Nat) (f : Tile → Tile)
@[simp] theorem modTile_agenda : (s.modTile t f).agenda = s.agenda := rfl
@[simp] theorem modTile_cur : (s.modTile t f).cur = s.cur := rfl
@[simp] theorem modTile_curQ : (s.modTile t f).curQ = s.curQ := rfl
@[simp] theorem modTile_free : (s.modTile t f).free = s.free := rfl
@[simp] theorem modTile_slots : (s.modTile t f).slots = s.slots := rfl
@[simp] theorem modTile_nets : (s.modTile t f).nets = s.nets := rfl
@[simp] theorem modTile_tenants : (s.modTile t f).tenants = s.tenants := rfl
@[simp] theorem modTile_regions : (s.modTile t f).regions = s.regions := rfl
@[simp] theorem modTile_funcs : (s.modTile t f).funcs = s.funcs := rfl
@[simp] theorem modTile_dram : (s.modTile t f).dram = s.dram := rfl
@[simp] theorem modTile_ktags : (s.modTile t f).ktags = s.ktags := rfl
@[simp] theorem modTile_dramEcc : (s.modTile t f).dramEcc = s.dramEcc := rfl
@[simp] theorem modTile_frames : (s.modTile t f).frames = s.frames := rfl
@[simp] theorem modTile_pub : (s.modTile t f).pub = s.pub := rfl
@[simp] theorem modTile_pubLog : (s.modTile t f).pubLog = s.pubLog := rfl
@[simp] theorem modTile_tlb1 : (s.modTile t f).tlb1 = s.tlb1 := rfl
@[simp] theorem modTile_tlb2 : (s.modTile t f).tlb2 = s.tlb2 := rfl
@[simp] theorem modTile_keys : (s.modTile t f).keys = s.keys := rfl
@[simp] theorem modTile_buckets : (s.modTile t f).buckets = s.buckets := rfl
@[simp] theorem modTile_pages : (s.modTile t f).pages = s.pages := rfl
@[simp] theorem modTile_ual : (s.modTile t f).ual = s.ual := rfl
@[simp] theorem modTile_host : (s.modTile t f).host = s.host := rfl
@[simp] theorem modTile_die : (s.modTile t f).die = s.die := rfl
@[simp] theorem modTile_slot (k : Nat) : (s.modTile t f).slot k = s.slot k := rfl
@[simp] theorem modTile_tenant (k : Nat) : (s.modTile t f).tenant k = s.tenant k := rfl
@[simp] theorem modTile_region (k : Nat) : (s.modTile t f).region k = s.region k := rfl
@[simp] theorem modTile_func (k : Nat) : (s.modTile t f).func k = s.func k := rfl
@[simp] theorem modTile_key (k : Nat) : (s.modTile t f).key k = s.key k := rfl
@[simp] theorem modTile_ualPort (k : Nat) : (s.modTile t f).ualPort k = s.ualPort k := rfl
end

section
variable (s : State) (t : Nat) (f : Tenant → Tenant)
@[simp] theorem modTenant_agenda : (s.modTenant t f).agenda = s.agenda := rfl
@[simp] theorem modTenant_cur : (s.modTenant t f).cur = s.cur := rfl
@[simp] theorem modTenant_curQ : (s.modTenant t f).curQ = s.curQ := rfl
@[simp] theorem modTenant_free : (s.modTenant t f).free = s.free := rfl
@[simp] theorem modTenant_slots : (s.modTenant t f).slots = s.slots := rfl
@[simp] theorem modTenant_tiles : (s.modTenant t f).tiles = s.tiles := rfl
@[simp] theorem modTenant_nets : (s.modTenant t f).nets = s.nets := rfl
@[simp] theorem modTenant_regions : (s.modTenant t f).regions = s.regions := rfl
@[simp] theorem modTenant_funcs : (s.modTenant t f).funcs = s.funcs := rfl
@[simp] theorem modTenant_dram : (s.modTenant t f).dram = s.dram := rfl
@[simp] theorem modTenant_ktags : (s.modTenant t f).ktags = s.ktags := rfl
@[simp] theorem modTenant_dramEcc : (s.modTenant t f).dramEcc = s.dramEcc := rfl
@[simp] theorem modTenant_frames : (s.modTenant t f).frames = s.frames := rfl
@[simp] theorem modTenant_pub : (s.modTenant t f).pub = s.pub := rfl
@[simp] theorem modTenant_pubLog : (s.modTenant t f).pubLog = s.pubLog := rfl
@[simp] theorem modTenant_tlb1 : (s.modTenant t f).tlb1 = s.tlb1 := rfl
@[simp] theorem modTenant_tlb2 : (s.modTenant t f).tlb2 = s.tlb2 := rfl
@[simp] theorem modTenant_keys : (s.modTenant t f).keys = s.keys := rfl
@[simp] theorem modTenant_buckets : (s.modTenant t f).buckets = s.buckets := rfl
@[simp] theorem modTenant_pages : (s.modTenant t f).pages = s.pages := rfl
@[simp] theorem modTenant_ual : (s.modTenant t f).ual = s.ual := rfl
@[simp] theorem modTenant_host : (s.modTenant t f).host = s.host := rfl
@[simp] theorem modTenant_die : (s.modTenant t f).die = s.die := rfl
@[simp] theorem modTenant_slot (k : Nat) : (s.modTenant t f).slot k = s.slot k := rfl
@[simp] theorem modTenant_tile (k : Nat) : (s.modTenant t f).tile k = s.tile k := rfl
@[simp] theorem modTenant_region (k : Nat) : (s.modTenant t f).region k = s.region k := rfl
@[simp] theorem modTenant_func (k : Nat) : (s.modTenant t f).func k = s.func k := rfl
@[simp] theorem modTenant_key (k : Nat) : (s.modTenant t f).key k = s.key k := rfl
@[simp] theorem modTenant_ualPort (k : Nat) : (s.modTenant t f).ualPort k = s.ualPort k := rfl
end

section
variable (s : State) (r : Nat) (f : Region → Region)
@[simp] theorem modRegion_agenda : (s.modRegion r f).agenda = s.agenda := rfl
@[simp] theorem modRegion_cur : (s.modRegion r f).cur = s.cur := rfl
@[simp] theorem modRegion_curQ : (s.modRegion r f).curQ = s.curQ := rfl
@[simp] theorem modRegion_free : (s.modRegion r f).free = s.free := rfl
@[simp] theorem modRegion_slots : (s.modRegion r f).slots = s.slots := rfl
@[simp] theorem modRegion_tiles : (s.modRegion r f).tiles = s.tiles := rfl
@[simp] theorem modRegion_nets : (s.modRegion r f).nets = s.nets := rfl
@[simp] theorem modRegion_tenants : (s.modRegion r f).tenants = s.tenants := rfl
@[simp] theorem modRegion_funcs : (s.modRegion r f).funcs = s.funcs := rfl
@[simp] theorem modRegion_dram : (s.modRegion r f).dram = s.dram := rfl
@[simp] theorem modRegion_ktags : (s.modRegion r f).ktags = s.ktags := rfl
@[simp] theorem modRegion_dramEcc : (s.modRegion r f).dramEcc = s.dramEcc := rfl
@[simp] theorem modRegion_frames : (s.modRegion r f).frames = s.frames := rfl
@[simp] theorem modRegion_pub : (s.modRegion r f).pub = s.pub := rfl
@[simp] theorem modRegion_pubLog : (s.modRegion r f).pubLog = s.pubLog := rfl
@[simp] theorem modRegion_tlb1 : (s.modRegion r f).tlb1 = s.tlb1 := rfl
@[simp] theorem modRegion_tlb2 : (s.modRegion r f).tlb2 = s.tlb2 := rfl
@[simp] theorem modRegion_keys : (s.modRegion r f).keys = s.keys := rfl
@[simp] theorem modRegion_buckets : (s.modRegion r f).buckets = s.buckets := rfl
@[simp] theorem modRegion_pages : (s.modRegion r f).pages = s.pages := rfl
@[simp] theorem modRegion_ual : (s.modRegion r f).ual = s.ual := rfl
@[simp] theorem modRegion_host : (s.modRegion r f).host = s.host := rfl
@[simp] theorem modRegion_die : (s.modRegion r f).die = s.die := rfl
@[simp] theorem modRegion_slot (k : Nat) : (s.modRegion r f).slot k = s.slot k := rfl
@[simp] theorem modRegion_tile (k : Nat) : (s.modRegion r f).tile k = s.tile k := rfl
@[simp] theorem modRegion_tenant (k : Nat) : (s.modRegion r f).tenant k = s.tenant k := rfl
@[simp] theorem modRegion_func (k : Nat) : (s.modRegion r f).func k = s.func k := rfl
@[simp] theorem modRegion_key (k : Nat) : (s.modRegion r f).key k = s.key k := rfl
@[simp] theorem modRegion_ualPort (k : Nat) : (s.modRegion r f).ualPort k = s.ualPort k := rfl
end

section
variable (s : State) (n : Nat) (f : Func → Func)
@[simp] theorem modFunc_agenda : (s.modFunc n f).agenda = s.agenda := rfl
@[simp] theorem modFunc_cur : (s.modFunc n f).cur = s.cur := rfl
@[simp] theorem modFunc_curQ : (s.modFunc n f).curQ = s.curQ := rfl
@[simp] theorem modFunc_free : (s.modFunc n f).free = s.free := rfl
@[simp] theorem modFunc_slots : (s.modFunc n f).slots = s.slots := rfl
@[simp] theorem modFunc_tiles : (s.modFunc n f).tiles = s.tiles := rfl
@[simp] theorem modFunc_nets : (s.modFunc n f).nets = s.nets := rfl
@[simp] theorem modFunc_tenants : (s.modFunc n f).tenants = s.tenants := rfl
@[simp] theorem modFunc_regions : (s.modFunc n f).regions = s.regions := rfl
@[simp] theorem modFunc_dram : (s.modFunc n f).dram = s.dram := rfl
@[simp] theorem modFunc_ktags : (s.modFunc n f).ktags = s.ktags := rfl
@[simp] theorem modFunc_dramEcc : (s.modFunc n f).dramEcc = s.dramEcc := rfl
@[simp] theorem modFunc_frames : (s.modFunc n f).frames = s.frames := rfl
@[simp] theorem modFunc_pub : (s.modFunc n f).pub = s.pub := rfl
@[simp] theorem modFunc_pubLog : (s.modFunc n f).pubLog = s.pubLog := rfl
@[simp] theorem modFunc_tlb1 : (s.modFunc n f).tlb1 = s.tlb1 := rfl
@[simp] theorem modFunc_tlb2 : (s.modFunc n f).tlb2 = s.tlb2 := rfl
@[simp] theorem modFunc_keys : (s.modFunc n f).keys = s.keys := rfl
@[simp] theorem modFunc_buckets : (s.modFunc n f).buckets = s.buckets := rfl
@[simp] theorem modFunc_pages : (s.modFunc n f).pages = s.pages := rfl
@[simp] theorem modFunc_ual : (s.modFunc n f).ual = s.ual := rfl
@[simp] theorem modFunc_host : (s.modFunc n f).host = s.host := rfl
@[simp] theorem modFunc_die : (s.modFunc n f).die = s.die := rfl
@[simp] theorem modFunc_slot (k : Nat) : (s.modFunc n f).slot k = s.slot k := rfl
@[simp] theorem modFunc_tile (k : Nat) : (s.modFunc n f).tile k = s.tile k := rfl
@[simp] theorem modFunc_tenant (k : Nat) : (s.modFunc n f).tenant k = s.tenant k := rfl
@[simp] theorem modFunc_region (k : Nat) : (s.modFunc n f).region k = s.region k := rfl
@[simp] theorem modFunc_key (k : Nat) : (s.modFunc n f).key k = s.key k := rfl
@[simp] theorem modFunc_ualPort (k : Nat) : (s.modFunc n f).ualPort k = s.ualPort k := rfl
end

section
variable (s : State) (n : Nat) (f : Ual → Ual)
@[simp] theorem modUal_agenda : (s.modUal n f).agenda = s.agenda := rfl
@[simp] theorem modUal_cur : (s.modUal n f).cur = s.cur := rfl
@[simp] theorem modUal_curQ : (s.modUal n f).curQ = s.curQ := rfl
@[simp] theorem modUal_free : (s.modUal n f).free = s.free := rfl
@[simp] theorem modUal_slots : (s.modUal n f).slots = s.slots := rfl
@[simp] theorem modUal_tiles : (s.modUal n f).tiles = s.tiles := rfl
@[simp] theorem modUal_nets : (s.modUal n f).nets = s.nets := rfl
@[simp] theorem modUal_tenants : (s.modUal n f).tenants = s.tenants := rfl
@[simp] theorem modUal_regions : (s.modUal n f).regions = s.regions := rfl
@[simp] theorem modUal_funcs : (s.modUal n f).funcs = s.funcs := rfl
@[simp] theorem modUal_dram : (s.modUal n f).dram = s.dram := rfl
@[simp] theorem modUal_ktags : (s.modUal n f).ktags = s.ktags := rfl
@[simp] theorem modUal_dramEcc : (s.modUal n f).dramEcc = s.dramEcc := rfl
@[simp] theorem modUal_frames : (s.modUal n f).frames = s.frames := rfl
@[simp] theorem modUal_pub : (s.modUal n f).pub = s.pub := rfl
@[simp] theorem modUal_pubLog : (s.modUal n f).pubLog = s.pubLog := rfl
@[simp] theorem modUal_tlb1 : (s.modUal n f).tlb1 = s.tlb1 := rfl
@[simp] theorem modUal_tlb2 : (s.modUal n f).tlb2 = s.tlb2 := rfl
@[simp] theorem modUal_keys : (s.modUal n f).keys = s.keys := rfl
@[simp] theorem modUal_buckets : (s.modUal n f).buckets = s.buckets := rfl
@[simp] theorem modUal_pages : (s.modUal n f).pages = s.pages := rfl
@[simp] theorem modUal_host : (s.modUal n f).host = s.host := rfl
@[simp] theorem modUal_die : (s.modUal n f).die = s.die := rfl
@[simp] theorem modUal_slot (k : Nat) : (s.modUal n f).slot k = s.slot k := rfl
@[simp] theorem modUal_tile (k : Nat) : (s.modUal n f).tile k = s.tile k := rfl
@[simp] theorem modUal_tenant (k : Nat) : (s.modUal n f).tenant k = s.tenant k := rfl
@[simp] theorem modUal_region (k : Nat) : (s.modUal n f).region k = s.region k := rfl
@[simp] theorem modUal_func (k : Nat) : (s.modUal n f).func k = s.func k := rfl
@[simp] theorem modUal_key (k : Nat) : (s.modUal n f).key k = s.key k := rfl
end

section
variable (s : State) (n : Nat) (f : Net → Net)
@[simp] theorem modNet_agenda : (s.modNet n f).agenda = s.agenda := rfl
@[simp] theorem modNet_cur : (s.modNet n f).cur = s.cur := rfl
@[simp] theorem modNet_curQ : (s.modNet n f).curQ = s.curQ := rfl
@[simp] theorem modNet_free : (s.modNet n f).free = s.free := rfl
@[simp] theorem modNet_slots : (s.modNet n f).slots = s.slots := rfl
@[simp] theorem modNet_tiles : (s.modNet n f).tiles = s.tiles := rfl
@[simp] theorem modNet_tenants : (s.modNet n f).tenants = s.tenants := rfl
@[simp] theorem modNet_regions : (s.modNet n f).regions = s.regions := rfl
@[simp] theorem modNet_funcs : (s.modNet n f).funcs = s.funcs := rfl
@[simp] theorem modNet_dram : (s.modNet n f).dram = s.dram := rfl
@[simp] theorem modNet_ktags : (s.modNet n f).ktags = s.ktags := rfl
@[simp] theorem modNet_dramEcc : (s.modNet n f).dramEcc = s.dramEcc := rfl
@[simp] theorem modNet_frames : (s.modNet n f).frames = s.frames := rfl
@[simp] theorem modNet_pub : (s.modNet n f).pub = s.pub := rfl
@[simp] theorem modNet_pubLog : (s.modNet n f).pubLog = s.pubLog := rfl
@[simp] theorem modNet_tlb1 : (s.modNet n f).tlb1 = s.tlb1 := rfl
@[simp] theorem modNet_tlb2 : (s.modNet n f).tlb2 = s.tlb2 := rfl
@[simp] theorem modNet_keys : (s.modNet n f).keys = s.keys := rfl
@[simp] theorem modNet_buckets : (s.modNet n f).buckets = s.buckets := rfl
@[simp] theorem modNet_pages : (s.modNet n f).pages = s.pages := rfl
@[simp] theorem modNet_ual : (s.modNet n f).ual = s.ual := rfl
@[simp] theorem modNet_host : (s.modNet n f).host = s.host := rfl
@[simp] theorem modNet_die : (s.modNet n f).die = s.die := rfl
@[simp] theorem modNet_slot (k : Nat) : (s.modNet n f).slot k = s.slot k := rfl
@[simp] theorem modNet_tile (k : Nat) : (s.modNet n f).tile k = s.tile k := rfl
@[simp] theorem modNet_tenant (k : Nat) : (s.modNet n f).tenant k = s.tenant k := rfl
@[simp] theorem modNet_region (k : Nat) : (s.modNet n f).region k = s.region k := rfl
@[simp] theorem modNet_func (k : Nat) : (s.modNet n f).func k = s.func k := rfl
@[simp] theorem modNet_key (k : Nat) : (s.modNet n f).key k = s.key k := rfl
@[simp] theorem modNet_ualPort (k : Nat) : (s.modNet n f).ualPort k = s.ualPort k := rfl
end

section
variable (s : State) (n c : Nat) (f : Chan → Chan)
@[simp] theorem modChan_agenda : (s.modChan n c f).agenda = s.agenda := rfl
@[simp] theorem modChan_cur : (s.modChan n c f).cur = s.cur := rfl
@[simp] theorem modChan_curQ : (s.modChan n c f).curQ = s.curQ := rfl
@[simp] theorem modChan_free : (s.modChan n c f).free = s.free := rfl
@[simp] theorem modChan_slots : (s.modChan n c f).slots = s.slots := rfl
@[simp] theorem modChan_tiles : (s.modChan n c f).tiles = s.tiles := rfl
@[simp] theorem modChan_tenants : (s.modChan n c f).tenants = s.tenants := rfl
@[simp] theorem modChan_regions : (s.modChan n c f).regions = s.regions := rfl
@[simp] theorem modChan_funcs : (s.modChan n c f).funcs = s.funcs := rfl
@[simp] theorem modChan_dram : (s.modChan n c f).dram = s.dram := rfl
@[simp] theorem modChan_ktags : (s.modChan n c f).ktags = s.ktags := rfl
@[simp] theorem modChan_dramEcc : (s.modChan n c f).dramEcc = s.dramEcc := rfl
@[simp] theorem modChan_frames : (s.modChan n c f).frames = s.frames := rfl
@[simp] theorem modChan_pub : (s.modChan n c f).pub = s.pub := rfl
@[simp] theorem modChan_pubLog : (s.modChan n c f).pubLog = s.pubLog := rfl
@[simp] theorem modChan_tlb1 : (s.modChan n c f).tlb1 = s.tlb1 := rfl
@[simp] theorem modChan_tlb2 : (s.modChan n c f).tlb2 = s.tlb2 := rfl
@[simp] theorem modChan_keys : (s.modChan n c f).keys = s.keys := rfl
@[simp] theorem modChan_buckets : (s.modChan n c f).buckets = s.buckets := rfl
@[simp] theorem modChan_pages : (s.modChan n c f).pages = s.pages := rfl
@[simp] theorem modChan_ual : (s.modChan n c f).ual = s.ual := rfl
@[simp] theorem modChan_host : (s.modChan n c f).host = s.host := rfl
@[simp] theorem modChan_die : (s.modChan n c f).die = s.die := rfl
@[simp] theorem modChan_slot (k : Nat) : (s.modChan n c f).slot k = s.slot k := rfl
@[simp] theorem modChan_tile (k : Nat) : (s.modChan n c f).tile k = s.tile k := rfl
@[simp] theorem modChan_tenant (k : Nat) : (s.modChan n c f).tenant k = s.tenant k := rfl
@[simp] theorem modChan_region (k : Nat) : (s.modChan n c f).region k = s.region k := rfl
@[simp] theorem modChan_func (k : Nat) : (s.modChan n c f).func k = s.func k := rfl
@[simp] theorem modChan_key (k : Nat) : (s.modChan n c f).key k = s.key k := rfl
@[simp] theorem modChan_ualPort (k : Nat) : (s.modChan n c f).ualPort k = s.ualPort k := rfl
end

/-! ## What an update changes -/

section
variable (s : State)

theorem slot_putSlot (i j : Nat) (x : Slot) : (s.putSlot i x).slot j = if j = i then x else s.slot j := sparse_get_set ({} : Slot) s.slots i j x
@[simp] theorem slot_putSlot_self (i : Nat) (x : Slot) : (s.putSlot i x).slot i = x := sparse_get_set_self ({} : Slot) s.slots i x
@[simp] theorem slot_putSlot_ne {i j : Nat} (x : Slot) (h : j ≠ i) : (s.putSlot i x).slot j = s.slot j := sparse_get_set_ne ({} : Slot) s.slots x h
theorem slot_modSlot (i j : Nat) (f : Slot → Slot) : (s.modSlot i f).slot j = if j = i then f (s.slot i) else s.slot j := slot_putSlot s i j _
@[simp] theorem slot_modSlot_self (i : Nat) (f : Slot → Slot) : (s.modSlot i f).slot i = f (s.slot i) := slot_putSlot_self s i _
@[simp] theorem slot_modSlot_ne {i j : Nat} (f : Slot → Slot) (h : j ≠ i) : (s.modSlot i f).slot j = s.slot j := slot_putSlot_ne s _ h
theorem me_def : s.me = s.slot s.cur := rfl
@[simp] theorem me_modMe (f : Slot → Slot) : (s.modMe f).me = f s.me := slot_modSlot_self s s.cur f
@[simp] theorem slot_modMe_cur (f : Slot → Slot) : (s.modMe f).slot s.cur = f s.me := slot_modSlot_self s s.cur f
@[simp] theorem slot_modMe_ne {j : Nat} (f : Slot → Slot) (h : j ≠ s.cur) : (s.modMe f).slot j = s.slot j := slot_modSlot_ne s f h
theorem tile_modTile (t u : Nat) (f : Tile → Tile) : (s.modTile t f).tile u = if u = t then f (s.tile t) else s.tile u :=
  sparse_get_set ({} : Tile) s.tiles t u _
@[simp] theorem tile_modTile_self (t : Nat) (f : Tile → Tile) : (s.modTile t f).tile t = f (s.tile t) := sparse_get_set_self ({} : Tile) s.tiles t _
@[simp] theorem tile_modTile_ne {t u : Nat} (f : Tile → Tile) (h : u ≠ t) : (s.modTile t f).tile u = s.tile u := sparse_get_set_ne ({} : Tile) s.tiles _ h
theorem tenant_modTenant (t u : Nat) (f : Tenant → Tenant) :
    (s.modTenant t f).tenant u = if u = t then f (s.tenant t) else s.tenant u := sparse_get_set ({} : Tenant) s.tenants t u _
theorem region_modRegion (t u : Nat) (f : Region → Region) :
    (s.modRegion t f).region u = if u = t then f (s.region t) else s.region u := sparse_get_set ({} : Region) s.regions t u _
theorem func_modFunc (t u : Nat) (f : Func → Func) :
    (s.modFunc t f).func u = if u = t then f (s.func t) else s.func u := sparse_get_set ({} : Func) s.funcs t u _
@[simp] theorem me_modTile (t : Nat) (f : Tile → Tile) : (s.modTile t f).me = s.me := rfl
@[simp] theorem me_modNet (n : Nat) (f : Net → Net) : (s.modNet n f).me = s.me := rfl

/-- A fresh free value moves the counter only. -/
theorem fresh_snd : s.fresh.2 = { s with free := s.free + 1 } := rfl

end

/-! ## One slot -/

section
variable (x : Slot)

@[simp] theorem slot_modSeg_id (k : Nat) (f : Seg → Seg) : (x.modSeg k f).id = x.id := rfl
@[simp] theorem slot_modSeg_gen (k : Nat) (f : Seg → Seg) : (x.modSeg k f).gen = x.gen := rfl
@[simp] theorem slot_modSeg_pb (k : Nat) (f : Seg → Seg) : (x.modSeg k f).pb = x.pb := rfl
@[simp] theorem slot_modSeg_sb (k : Nat) (f : Seg → Seg) : (x.modSeg k f).sb = x.sb := rfl
@[simp] theorem slot_modSeg_eng (k : Nat) (f : Seg → Seg) : (x.modSeg k f).eng = x.eng := rfl
@[simp] theorem slot_modSeg_vec (k : Nat) (f : Seg → Seg) : (x.modSeg k f).vec = x.vec := rfl
@[simp] theorem slot_modSeg_tr (k : Nat) (f : Seg → Seg) : (x.modSeg k f).tr = x.tr := rfl
@[simp] theorem slot_modSeg_ports (k : Nat) (f : Seg → Seg) : (x.modSeg k f).ports = x.ports := rfl
@[simp] theorem slot_modPort_id (n : Nat) (f : Port → Port) : (x.modPort n f).id = x.id := rfl
@[simp] theorem slot_modPort_gen (n : Nat) (f : Port → Port) : (x.modPort n f).gen = x.gen := rfl
@[simp] theorem slot_modPort_pb (n : Nat) (f : Port → Port) : (x.modPort n f).pb = x.pb := rfl
@[simp] theorem slot_modPort_sb (n : Nat) (f : Port → Port) : (x.modPort n f).sb = x.sb := rfl
@[simp] theorem slot_modPort_eng (n : Nat) (f : Port → Port) : (x.modPort n f).eng = x.eng := rfl
@[simp] theorem slot_modPort_vec (n : Nat) (f : Port → Port) : (x.modPort n f).vec = x.vec := rfl
@[simp] theorem slot_modPort_tr (n : Nat) (f : Port → Port) : (x.modPort n f).tr = x.tr := rfl
@[simp] theorem slot_modPort_segs (n : Nat) (f : Port → Port) : (x.modPort n f).segs = x.segs := rfl
@[simp] theorem slot_modBank_id (f : Bank → Bank) : (x.modBank f).id = x.id := by unfold Slot.modBank; split <;> rfl
@[simp] theorem slot_modBank_gen (f : Bank → Bank) : (x.modBank f).gen = x.gen := by unfold Slot.modBank; split <;> rfl
@[simp] theorem slot_modBank_eng (f : Bank → Bank) : (x.modBank f).eng = x.eng := by unfold Slot.modBank; split <;> rfl
@[simp] theorem slot_modBank_vec (f : Bank → Bank) : (x.modBank f).vec = x.vec := by unfold Slot.modBank; split <;> rfl
@[simp] theorem slot_modBank_tr (f : Bank → Bank) : (x.modBank f).tr = x.tr := by unfold Slot.modBank; split <;> rfl
@[simp] theorem slot_modBank_segs (f : Bank → Bank) : (x.modBank f).segs = x.segs := by unfold Slot.modBank; split <;> rfl
@[simp] theorem slot_modBank_ports (f : Bank → Bank) : (x.modBank f).ports = x.ports := by unfold Slot.modBank; split <;> rfl
@[simp] theorem slot_bank_modBank (f : Bank → Bank) : (x.modBank f).bank = f x.bank := by
  unfold Slot.modBank Slot.bank Slot.atS; split <;> simp_all
@[simp] theorem slot_port_modPort_self (n : Nat) (f : Port → Port) : (x.modPort n f).port n = f (x.port n) := sparse_get_set_self ({} : Port) x.ports n _
@[simp] theorem slot_port_modPort_ne {n j : Nat} (f : Port → Port) (h : j ≠ n) : (x.modPort n f).port j = x.port j := sparse_get_set_ne ({} : Port) x.ports _ h
@[simp] theorem slot_seg_modSeg_self (k : Nat) (f : Seg → Seg) : (x.modSeg k f).seg k = f (x.seg k) := sparse_get_set_self ({} : Seg) x.segs k _
@[simp] theorem slot_seg_modSeg_ne {k j : Nat} (f : Seg → Seg) (h : j ≠ k) : (x.modSeg k f).seg j = x.seg j := sparse_get_set_ne ({} : Seg) x.segs _ h

end

/-! ## One bank (R41, R103, R173, R175) -/

section
variable (b : Bank)

/-- R103: g0 reads zero. -/
@[simp] theorem bank_readG_zero : b.readG 0 = 0 := rfl
/-- R103: a write to g0 is discarded. -/
@[simp] theorem bank_writeG_zero (v : Word) : b.writeG 0 v = b := rfl
theorem bank_readG_writeG (r j : Nat) (v : Word) : (b.writeG r v).readG j = if j = r ∧ r ≠ 0 then v else b.readG j := by
  unfold Bank.writeG Bank.readG
  by_cases hr : r = 0
  · simp [hr]
  · by_cases hj : j = r
    · subst hj; simp [hr]
    · simp [hr, hj]
@[simp] theorem bank_writeG_t (r : Nat) (v : Word) : (b.writeG r v).t = b.t := by unfold Bank.writeG; split <;> rfl
@[simp] theorem bank_writeG_eseq (r : Nat) (v : Word) : (b.writeG r v).eseq = b.eseq := by unfold Bank.writeG; split <;> rfl
@[simp] theorem bank_writeG_readT (r n : Nat) (v : Word) : (b.writeG r v).readT n = b.readT n := by unfold Bank.writeG Bank.readT; split <;> rfl
@[simp] theorem bank_writeG_readE (r n : Nat) (q : Queue) (v : Word) : (b.writeG r v).readE q n = b.readE q n := by
  unfold Bank.writeG; split <;> cases q <;> rfl
theorem bank_readT_writeT (r j : Nat) (v : Word) : (b.writeT r v).readT j = if j = r then v else b.readT j := sparse_get_set 0 b.t r j v
@[simp] theorem bank_writeT_readG (r n : Nat) (v : Word) : (b.writeT r v).readG n = b.readG n := rfl
@[simp] theorem bank_writeT_readE (r n : Nat) (q : Queue) (v : Word) : (b.writeT r v).readE q n = b.readE q n := by cases q <;> rfl
theorem bank_readE_writeE (q p : Queue) (r j : Nat) (v : Word) :
    (b.writeE q r v).readE p j = if p = q ∧ j = r then v else b.readE p j := by
  cases q <;> cases p <;> simp [Bank.writeE, Bank.readE, sparse_get_set]
@[simp] theorem bank_writeE_readG (q : Queue) (r n : Nat) (v : Word) : (b.writeE q r v).readG n = b.readG n := by cases q <;> rfl
@[simp] theorem bank_writeE_readT (q : Queue) (r n : Nat) (v : Word) : (b.writeE q r v).readT n = b.readT n := by cases q <;> rfl

end

end Sys2Proof.Machine
end

