-- ==== Sys2Proof/Laws/Faults.lean ====
section
/-! SUPPORT. Taking an exception (R119, R358), waiting (R24), and the frames of an engine word (R170-R172), each said once. -/

namespace Sys2Proof.Machine

variable {s : State}

/-- R358: what entering the supervisor for a fault leaves. -/
theorem enterTrap_entered (s : State) (i : Nat) (f : FaultRec) (hc : f.cause ≠ .preempt) : Entered i s (enterTrap s i f) f := by
  have hb : (f.cause == .preempt) = false := by simpa using hc
  have hm : (0x7FFFFFFFFFFFFFFF#64 : Word) = ~~~(1#64 <<< 63) := by decide
  have hj : ∀ j, j ≠ i → (enterTrap s i f).slot j = s.slot j := fun j hj => by simp [enterTrap, hj]
  cases hg : f.seg with
  | none =>
    refine ⟨?_, fun k => ?_, ?_, ?_, ?_, ?_, ?_, ?_, ?_, hj, rfl⟩
    · simp [enterTrap, hb, hg, hm] <;> rfl
    · rw [hg]; simp [enterTrap, hb, hg, Slot.seg]
    all_goals simp [enterTrap, hb, hg]
  | some n =>
    refine ⟨?_, fun k => ?_, ?_, ?_, ?_, ?_, ?_, ?_, ?_, hj, rfl⟩
    · simp [enterTrap, hb, hg, hm, Slot.modSeg] <;> rfl
    · rw [hg]
      by_cases hk : n = k
      · subst hk; simp [enterTrap, hb, hg, Slot.seg, Slot.modSeg]
      · simp [enterTrap, hb, hg, Slot.seg, Slot.modSeg, hk, Ne.symm hk]
    all_goals simp [enterTrap, hb, hg, Slot.modSeg]

/-- R119: below level S a fault at level G traps. -/
theorem raiseG_traps (c : Cause) (pc fw : Word) (va : Option Word) (seg : Option Nat) (h : s.me.atS = false) (he : c ≠ .eccfatal)
    (hc : c ≠ .preempt) : TrapsWith (.next (raiseG s s.cur c pc fw va seg)) s { gFault s c pc fw va with seg := seg } := by
  have hb : (c == .eccfatal) = false := by simpa using he
  have h' : (s.slot s.cur).atS = false := h
  unfold raiseG takeG
  simp only [hb, h', Bool.false_eq_true, if_false]
  by_cases hm : (s.slot s.cur).committed = true
  · refine ⟨_, rfl, fun _ => ?_, fun hn => ?_⟩
    · rw [if_pos hm]; exact enterTrap_entered s s.cur _ hc
    · exact absurd (hn.symm.trans hm) (by simp)
  · refine ⟨_, rfl, fun hn => absurd hn hm, fun _ => ?_⟩
    rw [if_neg hm]; rfl

theorem trapG_traps (c : Cause) (fw : Word) (h : s.me.atS = false) (he : c ≠ .eccfatal) (hc : c ≠ .preempt) :
    Traps (trapG s c fw none) s c fw := raiseG_traps c s.pc fw none none h he hc

/-- R189: below level S a level-E fault unwinds to the emit of its word. -/
theorem raiseE_faults (w : QEntry) (c : Cause) (va : Option Word) (h : s.me.atS = false) (he : c ≠ .eccfatal) (hc : c ≠ .preempt) :
    FaultsE (.next (raiseE s s.cur w c va)) s w c va := by
  have hb : (c == .eccfatal) = false := by simpa using he
  have h' : (s.slot s.cur).atS = false := h
  unfold raiseE raiseEW
  simp only [hb, h', Bool.false_eq_true, if_false]
  refine ⟨_, rfl, ?_⟩
  dsimp only
  generalize unwindTo (markPattern s s.cur w) s.cur w.pos w.sub w.eseq w.mask0 = u
  refine ⟨fun hm => ?_, fun hm => ?_⟩
  · rw [if_pos hm]; exact enterTrap_entered _ _ _ hc
  · rw [if_neg (by simp [hm])]; rfl

/-- R24: a wait leaves everything but the wait state. -/
theorem waitG_waits (s : State) (w : Wait) : Waits (waitG s w) s w := rfl

/-- R170: nothing starts where no word may. -/
theorem startWord_none (k : QEntry → State → EngRes) (h : s.startable = none) : startWord s k = .next s := by
  unfold startWord; rw [h]

/-- R171: a word whose body passes its fault point leaves the body's state, its entry in the state that the body names. -/
theorem startWord_ok {k : QEntry → State → EngRes} {w : QEntry} {t : State} {st : WStat} (h : s.startable = some w)
    (hk : k w s = .ok t st) :
    startWord s k = .next (t.modMe fun x => x.mapWord w fun a => { a with stat := st }) := by
  unfold startWord; rw [h]; dsimp only; rw [hk]

/-- R189: a word whose body faults raises its fault. -/
theorem startWord_fault {k : QEntry → State → EngRes} {w : QEntry} {c : Cause} {va : Option Word} (h : s.startable = some w)
    (hk : k w s = .fault c va) : startWord s k = .next (raiseE s s.cur w c va) := by
  unfold startWord; rw [h]; dsimp only; rw [hk]

/-- R172: a word that retires as it starts. -/
theorem startAndRetire_some {k : QEntry → State → State} {w : QEntry} (h : s.startable = some w) :
    startAndRetire s k = .next (retireWord (k w s) s.cur w) := by
  unfold startAndRetire; rw [h]

end Sys2Proof.Machine
end

