-- ==== Sys2Proof/Laws/Memory.lean ====
section
/-! SUPPORT. The canonical form of every byte memory (`State.MemOk`): every operation that writes a memory keeps it, and so does an
update that writes none. -/

namespace Sys2Proof.Machine

variable {s t : State}

/-- An update that leaves DRAM, the tiles and the functions as they are keeps the canonical form. -/
theorem State.MemOk.congr (h : s.MemOk) (hd : t.dram = s.dram) (ht : t.tiles = s.tiles) (hf : t.funcs = s.funcs) : t.MemOk where
  dram := by rw [hd]; exact h.dram
  sram k := by have : t.tile k = s.tile k := by unfold State.tile; rw [ht]
               rw [this]; exact h.sram k
  staging n := by have : t.func n = s.func n := by unfold State.func; rw [hf]
                  rw [this]; exact h.staging n
  mailbox n := by have : t.func n = s.func n := by unfold State.func; rw [hf]
                  rw [this]; exact h.mailbox n
  bar4 n := by have : t.func n = s.func n := by unfold State.func; rw [hf]
               rw [this]; exact h.bar4 n

theorem memOk_modSlot (h : s.MemOk) (i : Nat) (f : Slot → Slot) : (s.modSlot i f).MemOk := h.congr rfl rfl rfl
theorem memOk_modMe (h : s.MemOk) (f : Slot → Slot) : (s.modMe f).MemOk := h.congr rfl rfl rfl
theorem memOk_putSlot (h : s.MemOk) (i : Nat) (x : Slot) : (s.putSlot i x).MemOk := h.congr rfl rfl rfl
theorem memOk_modTenant (h : s.MemOk) (k : Nat) (f : Tenant → Tenant) : (s.modTenant k f).MemOk := h.congr rfl rfl rfl
theorem memOk_modRegion (h : s.MemOk) (k : Nat) (f : Region → Region) : (s.modRegion k f).MemOk := h.congr rfl rfl rfl
theorem memOk_modUal (h : s.MemOk) (k : Nat) (f : Ual → Ual) : (s.modUal k f).MemOk := h.congr rfl rfl rfl

theorem memOk_modNet (h : s.MemOk) (k : Nat) (f : Net → Net) : (s.modNet k f).MemOk := h.congr rfl rfl rfl

/-- Another tile's contents, in canonical form. -/
theorem memOk_modTile (h : s.MemOk) (k : Nat) (f : Tile → Tile) (hf : Memory.wf (f (s.tile k)).sram = true) : (s.modTile k f).MemOk where
  dram := h.dram
  sram j := by
    rw [tile_modTile]
    split
    · exact hf
    · exact h.sram j
  staging := h.staging
  mailbox := h.mailbox
  bar4 := h.bar4

/-- Another function's contents, in canonical form. -/
theorem memOk_modFunc (h : s.MemOk) (k : Nat) (f : Func → Func) (hs : Memory.wf (f (s.func k)).staging = true)
    (hm : Memory.wf (f (s.func k)).mailbox = true) (hb : Memory.wf (f (s.func k)).bar4 = true) : (s.modFunc k f).MemOk where
  dram := h.dram
  sram := h.sram
  staging j := by
    rw [func_modFunc]
    split
    · exact hs
    · exact h.staging j
  mailbox j := by
    rw [func_modFunc]
    split
    · exact hm
    · exact h.mailbox j
  bar4 j := by
    rw [func_modFunc]
    split
    · exact hb
    · exact h.bar4 j

/-! ## Tile SRAM -/

theorem memOk_putByteAt (h : s.MemOk) (i a : Nat) (b : Byte) : (s.putByteAt i a b).MemOk := by
  unfold State.putByteAt
  split
  · exact memOk_modTile h _ _ (memory_wf_put _ _ _ (h.sram _))
  · exact h

theorem memOk_putSeq (h : s.MemOk) (i a : Nat) (bs : List Byte) : (s.putSeq i a bs).MemOk := by
  induction bs generalizing s a with
  | nil => exact h
  | cons b bs ih => exact ih (memOk_putByteAt h i a b) (a + 1)

theorem memOk_putBytesAt (h : s.MemOk) (i a : Nat) (bs : List Byte) : (s.putBytesAt i a bs).MemOk := by
  unfold State.putBytesAt
  dsimp only
  have h' := memOk_putSeq h i a bs
  split
  · exact memOk_modTile h' _ _ (h'.sram _)
  · exact h'

/-- A slot placed into a reader's buffer. -/
theorem memOk_placeSlot (h : s.MemOk) (c : Chan) (e : Ep) (st : Nat) (data : List Byte) : (placeSlot s c e st data).MemOk := by
  unfold placeSlot
  exact memOk_modSlot (memOk_modTile h _ _ (memory_wf_putBytes _ _ _ (h.sram _))) _ _

/-! ## DRAM -/

theorem memOk_frameStore (h : s.MemOk) (tag key : Nat) (b : Byte) : (frameStore s tag key b).MemOk := by
  have fold : ∀ (l : List Nat) (m : Mem) (g : Nat) (v : Nat → Byte), Memory.wf m = true →
      Memory.wf (l.foldl (fun m k => Mem.put m (g + k) (v k)) m) = true := by
    intro l
    induction l with
    | nil => exact fun _ _ _ hm => hm
    | cons k l ih => exact fun m g v hm => ih _ g v (memory_wf_put m _ _ hm)
  have key : ∀ u : State, u.MemOk → State.MemOk
      (if Sparse.get 0 u.ktags (key / 256) = tag then { u with dram := u.dram.put key b }
       else { u with dram := ((List.range 256).foldl (fun m k => Mem.put m (key / 256 * 256 + k)
                (frameByte u tag (key / 256 * 256 + k))) u.dram).put key b, ktags := Sparse.set 0 u.ktags (key / 256) tag }) := by
    intro u hu
    split
    · exact ⟨memory_wf_put _ _ _ hu.dram, hu.sram, hu.staging, hu.mailbox, hu.bar4⟩
    · exact ⟨memory_wf_put _ _ _ (fold _ _ _ _ hu.dram), hu.sram, hu.staging, hu.mailbox, hu.bar4⟩
  exact key _ (by split <;> exact h.congr rfl rfl rfl)

theorem memOk_keepGranule (h : s.MemOk) (owner g : Nat) : (keepGranule s owner g).MemOk := by
  unfold keepGranule
  split
  · exact h
  · exact h.congr rfl rfl rfl

theorem memOk_pageStore (h : s.MemOk) (l : Word) (off : Nat) (b : Byte) : (pageStore s l off b).MemOk := by
  unfold pageStore
  split
  · refine memOk_frameStore ?_ _ _ _
    split
    · exact h
    · exact memOk_keepGranule h _ _
  · split <;> exact h.congr rfl rfl rfl

theorem memOk_rawStore (h : s.MemOk) (tenant va : Nat) (bs : List Byte) : (rawStore s tenant va bs).MemOk := by
  induction bs generalizing s va with
  | nil => exact h
  | cons b bs ih =>
    unfold rawStore
    dsimp only
    refine ih ?_ (va + 1)
    split
    · split
      · exact h
      · exact memOk_pageStore h _ _ _
    · exact h

theorem memOk_zeroGranule (h : s.MemOk) (st frame k : Nat) : (zeroGranule s st frame k).MemOk :=
  ⟨memory_wf_filter _ _ h.dram, h.sram, h.staging, h.mailbox, h.bar4⟩

/-! ## The host's memories, reset -/

theorem func_raise_mems (f : Func) (v : Nat) :
    (f.raise v).staging = f.staging ∧ (f.raise v).mailbox = f.mailbox ∧ (f.raise v).bar4 = f.bar4 := by
  unfold Func.raise; dsimp only; split <;> exact ⟨rfl, rfl, rfl⟩

theorem memOk_regionEvent (h : s.MemOk) (tenant : Nat) (ev : BitVec 128) : (regionEvent s tenant ev).MemOk := by
  have hr := func_raise_mems (s.func tenant) 1
  unfold regionEvent
  refine memOk_modFunc h _ _ ?_ ?_ ?_ <;> dsimp only <;> split
  · rw [hr.1]; exact h.staging _
  · rw [hr.1]; exact memory_wf_putBytes _ _ _ (h.staging _)
  · rw [hr.2.1]; exact h.mailbox _
  · rw [hr.2.1]; exact h.mailbox _
  · rw [hr.2.2]; exact h.bar4 _
  · rw [hr.2.2]; exact h.bar4 _

/-- The machine right after reset has every memory in canonical form. -/
theorem memOk_reset : State.reset.MemOk := ⟨rfl, fun _ => rfl, fun _ => rfl, fun _ => rfl, fun _ => rfl⟩

end Sys2Proof.Machine
end

