-- ==== Sys2Proof/Laws/Ops.lean ====
section
/-! SUPPORT. The shared operations of a generator instruction: what each can change, said once, and when an instruction over them
completes. -/

namespace Sys2Proof.Machine

variable {i : Nat} {W V : Nat → Nat → Prop} {s t u : State}

/-! ## `Kept` as a relation -/

theorem PortsCut.refl (x : Slot) : PortsCut x x := ⟨rfl, fun _ => rfl⟩

theorem PortsCut.trans {x y z : Slot} (h : PortsCut x y) (k : PortsCut y z) : PortsCut x z :=
  ⟨by rw [k.1, h.1], fun n => by rw [k.2 n, h.2 n]⟩

theorem Kept.refl (i : Nat) (W : Nat → Nat → Prop) (s : State) : Kept i W s s := by
  constructor <;> intros <;> first | rfl | exact PortsCut.refl _ | assumption

theorem Kept.trans (h : Kept i W s t) (k : Kept i W t u) : Kept i W s u where
  cur := k.cur.trans h.cur
  agenda := k.agenda.trans h.agenda
  curQ := k.curQ.trans h.curQ
  slots j hj := (h.slots j hj).trans (k.slots j hj)
  id := by rw [k.id, h.id]
  gen := by rw [k.gen, h.gen]
  eng := by rw [k.eng, h.eng]
  vec := by rw [k.vec, h.vec]
  tr := k.tr.trans h.tr
  other := k.other.trans h.other
  tile n := by rw [k.tile n, h.tile n]
  sram n p hp := (k.sram n p hp).trans (h.sram n p hp)
  ecc n w hw := h.ecc n w (k.ecc n w hw)
  tenant n := by rw [k.tenant n, h.tenant n]
  dram := k.dram.trans h.dram
  ktags := k.ktags.trans h.ktags
  dramEcc := k.dramEcc.trans h.dramEcc
  frames := k.frames.trans h.frames
  pub := k.pub.trans h.pub
  pubLog := k.pubLog.trans h.pubLog
  regions := k.regions.trans h.regions
  funcs := k.funcs.trans h.funcs
  keys := k.keys.trans h.keys
  buckets st n := by rw [k.buckets st n, h.buckets st n]
  host := k.host.trans h.host
  die := k.die.trans h.die

theorem Kept.weaken (h : Kept i W s t) (hw : ∀ k p, W k p → V k p) : Kept i V s t :=
  { h with sram := fun k p hp => h.sram k p fun hW => hp (hw k p hW) }

theorem GKept.refl (i : Nat) (d : Option Nat) (s : State) : GKept i d s s := by
  constructor <;> intros <;> rfl

theorem GKept.trans {d : Option Nat} (h : GKept i d s t) (k : GKept i d t u) : GKept i d s u where
  g r hr := (k.g r hr).trans (h.g r hr)
  tmpl := k.tmpl.trans h.tmpl
  ev := k.ev.trans h.ev
  em := k.em.trans h.em
  ex := k.ex.trans h.ex
  eseq := k.eseq.trans h.eseq

/-- Both banks are as they were. -/
structure Banks (i : Nat) (s t : State) : Prop where
  pb : (t.slot i).pb = (s.slot i).pb
  sb : (t.slot i).sb = (s.slot i).sb

theorem Banks.trans (h : Banks i s t) (k : Banks i t u) : Banks i s u := ⟨k.pb.trans h.pb, k.sb.trans h.sb⟩

/-- What one operation of the commit point can change: `Kept`, with both banks, the pc and EOSBITS as they were, and no new wait. -/
structure Calm (i : Nat) (W : Nat → Nat → Prop) (s t : State) : Prop extends Kept i W s t, Banks i s t where
  pcs : (t.slot i).gen.pc = (s.slot i).gen.pc
  icnts : (t.slot i).gen.icnt = (s.slot i).gen.icnt
  waits : (s.slot i).gen.wait = .none → (t.slot i).gen.wait = .none
  eoss : (t.slot i).vec.eos = (s.slot i).vec.eos

theorem Calm.refl (i : Nat) (W : Nat → Nat → Prop) (s : State) : Calm i W s s :=
  ⟨Kept.refl i W s, ⟨rfl, rfl⟩, rfl, rfl, id, rfl⟩
theorem Calm.trans (h : Calm i W s t) (k : Calm i W t u) : Calm i W s u :=
  ⟨h.toKept.trans k.toKept, h.toBanks.trans k.toBanks, k.pcs.trans h.pcs, k.icnts.trans h.icnts, fun w => k.waits (h.waits w),
    k.eoss.trans h.eoss⟩

theorem Calm.foldl2 {α β : Type} (f : β × State → α → β × State) (hf : ∀ a n, Calm i W a.2 (f a n).2) (l : List α) (a : β × State) :
    Calm i W a.2 (l.foldl f a).2 := by
  induction l generalizing a with
  | nil => exact Calm.refl i W a.2
  | cons n l ih => exact (hf a n).trans (ih (f a n))

theorem Calm.foldl {α : Type} (f : State → α → State) (hf : ∀ s a, Calm i W s (f s a)) (l : List α) (s : State) :
    Calm i W s (l.foldl f s) := by
  induction l generalizing s with
  | nil => exact Calm.refl i W s
  | cons a l ih => exact (hf s a).trans (ih (f s a))

/-- An update of the slot that leaves alone what `Kept` speaks of. -/
theorem kept_modSlot (f : Slot → Slot)
    (hid : (f (s.slot i)).id = { (s.slot i).id with exited := (f (s.slot i)).id.exited })
    (hgen : (f (s.slot i)).gen = { (s.slot i).gen with pc := (f (s.slot i)).gen.pc, icnt := (f (s.slot i)).gen.icnt
                                                       wait := (f (s.slot i)).gen.wait, heldExit := (f (s.slot i)).gen.heldExit })
    (heng : (f (s.slot i)).eng = { (s.slot i).eng with hist := (f (s.slot i)).eng.hist, stores := (f (s.slot i)).eng.stores })
    (hvec : (f (s.slot i)).vec = { (s.slot i).vec with eos := (f (s.slot i)).vec.eos, closedwr := (f (s.slot i)).vec.closedwr })
    (htr : (f (s.slot i)).tr = (s.slot i).tr) (hother : (f (s.slot i)).otherBank = (s.slot i).otherBank) :
    Kept i W s (s.modSlot i f) := by
  constructor <;> intros <;> first
    | rfl
    | assumption
    | (rw [slot_modSlot_ne s f ‹_›]; exact PortsCut.refl _)
    | (rw [slot_modSlot_self]; assumption)

/-- An update of the slot that leaves all but its ports, held effects, segments and wait alone. -/
theorem calm_modSlot (f : Slot → Slot)
    (hid : (f (s.slot i)).id = { (s.slot i).id with exited := (f (s.slot i)).id.exited })
    (hgen : (f (s.slot i)).gen = { (s.slot i).gen with wait := (f (s.slot i)).gen.wait, heldExit := (f (s.slot i)).gen.heldExit })
    (hwait : (s.slot i).gen.wait = .none → (f (s.slot i)).gen.wait = .none)
    (heng : (f (s.slot i)).eng = { (s.slot i).eng with hist := (f (s.slot i)).eng.hist, stores := (f (s.slot i)).eng.stores })
    (hvec : (f (s.slot i)).vec = { (s.slot i).vec with closedwr := (f (s.slot i)).vec.closedwr })
    (htr : (f (s.slot i)).tr = (s.slot i).tr) (hpb : (f (s.slot i)).pb = (s.slot i).pb) (hsb : (f (s.slot i)).sb = (s.slot i).sb) :
    Calm i W s (s.modSlot i f) := by
  refine ⟨kept_modSlot f hid (by rw [hgen]) heng (by rw [hvec]) htr ?_, ⟨by simpa using hpb, by simpa using hsb⟩, ?_, ?_, by simpa using hwait, ?_⟩
  · have : (f (s.slot i)).atS = (s.slot i).atS := by unfold Slot.atS; rw [hid]
    simp [Slot.otherBank, this, hpb, hsb]
  all_goals (rw [slot_modSlot_self]; first | rw [hgen] | rw [hvec])

theorem calm_modPort (n : Nat) (f : Port → Port) : Calm i W s (s.modSlot i fun x => x.modPort n f) :=
  calm_modSlot _ (by rfl) (by rfl) id (by rfl) (by rfl) rfl rfl rfl

theorem calm_modSeg (n : Nat) (f : Seg → Seg) : Calm i W s (s.modSlot i fun x => x.modSeg n f) :=
  calm_modSlot _ (by rfl) (by rfl) id (by rfl) (by rfl) rfl rfl rfl

/-- A state that differs only in what `Kept` does not speak of. -/
theorem calm_other (h : t = { s with nets := t.nets, ual := t.ual, tlb1 := t.tlb1, tlb2 := t.tlb2, pages := t.pages, free := t.free }) :
    Calm i W s t := by
  rw [h]
  refine ⟨?_, ⟨rfl, rfl⟩, rfl, rfl, id, rfl⟩
  constructor <;> intros <;> first | rfl | exact PortsCut.refl _ | assumption

theorem calm_modNet (n : Nat) (f : Net → Net) : Calm i W s (s.modNet n f) := calm_other rfl
theorem calm_modChan (n c : Nat) (f : Chan → Chan) : Calm i W s (s.modChan n c f) := calm_other rfl
theorem calm_modUal (n : Nat) (f : Ual → Ual) : Calm i W s (s.modUal n f) := calm_other rfl

/-- Legs cut off at the read port of an endpoint, of any slot. -/
theorem calm_cutEp (e : Ep) (f : Port → Port) (hf : ∀ p, f p = { p with arr := (f p).arr, owed := (f p).owed }) :
    Calm i W s (s.modEp e f) := by
  unfold State.modEp
  by_cases he : e.slotNo = i
  · subst he; exact calm_modPort _ _
  · have hi : ((s.modSlot e.slotNo fun x => x.modPort e.port f).slot i) = s.slot i := slot_modSlot_ne s _ (Ne.symm he)
    refine ⟨?_, ⟨by rw [hi], by rw [hi]⟩, by rw [hi], by rw [hi], fun h => by rwa [hi], by rw [hi]⟩
    constructor <;> intros <;> first | rfl | assumption | (rw [hi]; done) | skip
    next j hj =>
      by_cases hje : j = e.slotNo
      · subst hje
        rw [slot_modSlot_self]
        refine ⟨rfl, fun n => ?_⟩
        by_cases hn : n = e.port
        · subst hn; rw [slot_port_modPort_self]; exact hf _
        · rw [slot_port_modPort_ne _ _ hn]
      · rw [slot_modSlot_ne s _ hje]; exact PortsCut.refl _

/-! ## The fabric's side of a commit -/

theorem calm_launchOut (n : Nat) (c : Chan) (k : Pkt) : Calm i W s (launchOut s n c k) := calm_modUal _ _

theorem calm_launch (n : Nat) (c : Chan) (k : Pkt) (r : Bool) : Calm i W s (launch s n c k r) := by
  unfold launch
  split
  · exact calm_launchOut _ _ _
  · exact calm_modChan _ _ _

theorem calm_launchHere (n : Nat) (c : Chan) (k : Nat → Pkt) : Calm i W s (launchHere s n c k) := by
  unfold launchHere
  refine Calm.foldl _ (fun s r => ?_) _ s
  split
  · split
    · exact Calm.refl _ _ _
    · exact calm_launch _ _ _ _
  · exact Calm.refl _ _ _

theorem calm_launchReaders (n : Nat) (c : Chan) (k : Nat → Pkt) : Calm i W s (launchReaders s n c k) := by
  unfold launchReaders
  dsimp only
  split
  · exact (calm_launchHere _ _ _).trans (calm_launchOut _ _ _)
  · exact calm_launchHere _ _ _

theorem calm_discardInput (n : Nat) (c : Chan) (g : BitVec 8) (lvl j : Nat) (new : Bool) :
    Calm i W s (discardInput s n c g lvl j new) := by
  unfold discardInput
  dsimp only
  exact (calm_modChan _ _ _).trans ((calm_modNet _ _).trans
    (Calm.foldl _ (fun s w => Calm.foldl _ (fun s r => calm_launch _ _ _ _) _ s) _ _))

theorem calm_cutNodes (n : Nat) (c : Chan) : Calm i W s (cutNodes s n c) := by
  unfold cutNodes
  dsimp only
  exact (calm_modChan _ _ _).trans (Calm.foldl _ (fun s x => calm_discardInput _ _ _ _ _ _) _ _)

theorem calm_launchCredits (n : Nat) (c : Chan) (r w m : Nat) : Calm i W s (launchCredits s n c r w m) :=
  Calm.foldl _ (fun _ _ => calm_launch _ _ _ _) _ s

theorem calm_dropLegs (n : Nat) (c : Chan) (r : Nat) (e : Ep) (saved : Bool) (st a b : Nat) :
    Calm i W s (dropLegs s n c r e saved st a b) := by
  unfold dropLegs
  dsimp only
  split
  · exact (calm_modChan _ _ _).trans ((calm_modChan _ _ _).trans (calm_launchCredits _ _ _ _ _))
  · exact (calm_modChan _ _ _).trans (calm_cutEp _ _ fun p => rfl)

theorem calm_cutReader (n : Nat) (c : Chan) (k r : Nat) : Calm i W s (cutReader s n c k r) := by
  unfold cutReader
  split
  · exact Calm.refl _ _ _
  · dsimp only
    split
    · exact Calm.refl _ _ _
    · exact Calm.foldl _ (fun s st => (calm_dropLegs _ _ _ _ _ _ _ _).trans (calm_modNet _ _)) _ s

theorem calm_cutEnds (n : Nat) (c : Chan) : Calm i W s (cutEnds s n c) := by
  unfold cutEnds
  split
  · split
    · exact Calm.foldl _ (fun s r => calm_cutReader _ _ _ _) _ _
    · exact Calm.refl _ _ _
  · exact calm_cutNodes _ _

/-- R144: a slot lies whole in the buffer of its reader, wherever its position in the sequence. -/
theorem place_whole (c : Chan) (pos : Nat) (h : 0 < c.cap0 * c.legs) :
    c.buf ≤ c.place pos ∧ c.place pos + c.size ≤ c.buf + c.cap0 * c.legs * c.size := by
  have hm := Nat.mod_lt pos h
  have := Nat.mul_le_mul_right c.size (Nat.succ_le_of_lt hm)
  unfold Chan.place
  refine ⟨Nat.le_add_right _ _, ?_⟩
  rw [Nat.succ_mul] at this
  omega

/-- What the end of a contributor can change. -/
theorem calm_endContributor (n : Nat) (c : Chan) (w k : Nat) : Calm i W s (endContributor s n c w k) := by
  unfold endContributor
  dsimp only
  split
  · exact ((calm_modChan _ _ _).trans (calm_cutEnds _ _)).trans (calm_launchHere _ _ _)
  · exact (calm_modChan _ _ _).trans (calm_cutEnds _ _)

theorem calm_commitRead (p n : Nat) : Calm i W s (commitRead s i p n) := by
  unfold commitRead
  dsimp only
  split
  · exact Calm.refl _ _ _
  · exact (calm_modPort _ _).trans (calm_modNet _ _)

theorem calm_launchInput (n : Nat) (c : Chan) (lvl j : Nat) (k : Pkt) : Calm i W s (launchInput s n c lvl j k) := by
  have h : ∀ (p : Prop) [Decidable p] (k : Pkt), Calm i W s (if p then launchOut s n c k else s) := fun p _ k => by
    split
    · exact calm_launchOut _ _ _
    · exact Calm.refl _ _ _
  unfold launchInput
  dsimp only
  split
  · exact (h _ _).trans (calm_launch _ _ _ _)
  · exact h _ _

theorem calm_transmit (p : Nat) (d : List Byte) : Calm i W s (transmit s i p d) := by
  unfold transmit
  dsimp only
  split
  · refine (calm_modPort p fun p => { p with seq := p.seq + 1 }).trans ?_
    split
    · exact Calm.refl _ _ _
    · split
      · exact calm_modSlot _ (by rfl) (by rfl) id (by rfl) (by rfl) rfl rfl rfl
      · split
        · exact (calm_launchInput _ _ _ _ _).trans (calm_modNet _ _)
        · exact (calm_launchReaders _ _ _).trans (calm_modNet _ _)
  · exact Calm.refl _ _ _

theorem calm_closePort (p : Nat) : Calm i W s (closePort s i p) := by
  unfold closePort
  dsimp only
  split
  · exact Calm.refl _ _ _
  · refine (calm_modPort p fun p => { p with closed := true }).trans ?_
    split
    · exact Calm.refl _ _ _
    · split
      · split
        · exact (calm_endContributor _ _ _ _).trans (calm_launchOut _ _ _)
        · exact calm_endContributor _ _ _ _
      · exact calm_launchReaders _ _ _

/-! ## The memory's side of a commit -/

theorem calm_translate (tile tenant : Nat) (world : Bool) (vpn : Nat) (wr atom : Bool) :
    Calm i W s (translate s tile tenant world vpn wr atom).2 := by
  unfold translate
  dsimp only
  split
  · exact Calm.refl _ _ _
  · split
    · dsimp only
      split
      · exact Calm.refl _ _ _
      · exact calm_other rfl
    · split
      · exact Calm.refl _ _ _
      · exact Calm.refl _ _ _
      · dsimp only
        split
        · exact Calm.refl _ _ _
        · exact calm_other rfl

theorem calm_pageRequest (r : Requester) (vpn : Nat) : Calm i W s (pageRequest s r vpn) := by
  unfold pageRequest
  dsimp only
  split <;> exact calm_other rfl

theorem calm_pageByte (far : Option Far) (l : Word) (off : Nat) : Calm i W s (pageByte s far l off).2 := by
  unfold pageByte
  split
  · exact Calm.refl _ _ _
  · split
    · exact Calm.refl _ _ _
    · exact calm_other rfl

theorem calm_readVa (j : Nat) (l : Word) (va : Nat) (far : Far) : Calm i W s (readVa s j l va far).2 := by
  unfold readVa
  dsimp only
  split
  · exact Calm.refl _ _ _
  · exact calm_pageByte _ _ _

/-- Tokens charged. -/
theorem calm_chargeBucket (st k n : Nat) : Calm i W s (chargeBucket s st k n) := by
  unfold chargeBucket
  dsimp only
  split
  · refine ⟨?_, ⟨rfl, rfl⟩, rfl, rfl, id, rfl⟩
    constructor <;> intros <;> first | rfl | exact PortsCut.refl _ | assumption | skip
    next st' n' =>
      unfold State.bucket
      rw [sparse_get_set]
      split
      · next h => rw [h]
      · rfl
  · exact Calm.refl _ _ _

theorem calm_chargeLeaf (k a n : Nat) (l : Word) : Calm i W s (chargeLeaf s k a n l) := by
  unfold chargeLeaf
  split
  · exact calm_chargeBucket _ _ _
  · exact Calm.refl _ _ _

theorem calm_noteConflicts (net : Nat) (cs : List Conflict) : Calm i W s (noteConflicts s net cs) := by
  unfold noteConflicts
  split
  · exact Calm.refl _ _ _
  · next n hn =>
    refine (calm_modNet net fun m => { m with log := cs.foldl logConflict n.log }).trans ?_
    refine ⟨?_, ⟨rfl, rfl⟩, rfl, rfl, id, rfl⟩
    constructor <;> intros <;> first | rfl | exact PortsCut.refl _ | assumption | skip
    rw [tenant_modTenant]; split
    · next h => subst h; rfl
    · rfl

theorem calm_takeImage (l : Word) (view : List (Nat × Byte)) (va n : Nat) : Calm i W s (takeImage s i l view va n).2 := by
  unfold takeImage
  dsimp only
  refine (calm_other (i := i) (W := W) (s := s) (t := { s with free := s.free + 1 }) rfl).trans ?_
  refine Calm.foldl2 _ (fun a k => ?_) (List.range n) ([], { s with free := s.free + 1 })
  dsimp only
  split
  · exact Calm.refl _ _ _
  · exact calm_pageByte _ _ _

theorem calm_noteFound (cs : List Conflict) : Calm i W s (noteFound s i cs) := by
  unfold noteFound
  split
  · exact Calm.refl _ _ _
  · exact calm_noteConflicts _ _

theorem calm_sendFetch (k : Nat) : Calm i W s (sendFetch s i k) := by
  unfold sendFetch
  dsimp only
  split
  · exact Calm.refl _ _ _
  · next r hr =>
    split
    · exact Calm.refl _ _ _
    · have ht := calm_translate (i := i) (W := W) (s := s) (tileOf i) (s.slot i).id.tenant (s.slot i).id.world (vpnOf r.va.toNat) false false
      split
      · next s1 h1 =>
        rw [h1] at ht
        refine ht.trans (Calm.trans ?_ (calm_modSeg _ _))
        split
        · exact Calm.refl _ _ _
        · exact calm_pageRequest _ _
      · next h1 => rw [h1] at ht; exact ht.trans (calm_modSeg _ _)
      · next l s1 h1 =>
        rw [h1] at ht
        exact ht.trans ((calm_chargeLeaf _ _ _ _).trans ((calm_takeImage _ _ _ _).trans (calm_modSeg _ _)))

/-- What the commit of a held effect can change. -/
theorem calm_commitHeld (h : HistE) : Calm i W s (commitHeld s i h) := by
  unfold commitHeld
  split
  · exact calm_commitRead _ _
  · exact calm_transmit _ _
  · exact calm_closePort _
  · exact (calm_modSeg _ _).trans ((calm_noteFound _).trans (calm_sendFetch _))
  all_goals exact Calm.refl _ _ _

/-! ## Held stores -/

@[simp] theorem putByteAt_slot (i j a : Nat) (b : Byte) : (s.putByteAt i a b).slot j = s.slot j := by
  unfold State.putByteAt; split <;> rfl

@[simp] theorem putSeq_slot (i j a : Nat) (bs : List Byte) : (s.putSeq i a bs).slot j = s.slot j := by
  induction bs generalizing s a with
  | nil => rfl
  | cons b bs ih => simp [State.putSeq, ih]

@[simp] theorem putBytesAt_slot (i j a : Nat) (bs : List Byte) : (s.putBytesAt i a bs).slot j = s.slot j := by
  unfold State.putBytesAt; dsimp only; split <;> simp

/-- An update of tile SRAM and of its check bits only, which makes no error. -/
theorem calm_modTile (k : Nat) (f : Tile → Tile)
    (hf : f (s.tile k) = { s.tile k with sram := (f (s.tile k)).sram, ecc := (f (s.tile k)).ecc, last := (f (s.tile k)).last })
    (hw : ∀ p, ¬ W k p → (f (s.tile k)).sram.byte p = (s.tile k).sram.byte p)
    (he : ∀ w, w ∈ (f (s.tile k)).ecc → w ∈ (s.tile k).ecc) : Calm i W s (s.modTile k f) := by
  refine ⟨?_, ⟨rfl, rfl⟩, rfl, rfl, id, rfl⟩
  constructor <;> intros <;> first | rfl | exact PortsCut.refl _ | skip
  · rw [tile_modTile]; split
    · next h => subst h; exact hf
    · rfl
  · next n p hp =>
    rw [tile_modTile]; split
    · next h => subst h; exact hw p hp
    · rfl
  · next n w h =>
    rw [tile_modTile] at h; split at h
    · next hn => subst hn; exact he w h
    · exact h

theorem calm_putByteAt (a : Nat) (b : Byte) (h : ∀ p, (s.slot i).phys a = some p → W (tileOf i) p) :
    Calm i W s (s.putByteAt i a b) := by
  unfold State.putByteAt
  split
  · next q hq =>
    refine calm_modTile _ _ rfl (fun p hp => mem_byte_put_ne _ _ ?_) fun _ h => h
    rintro rfl
    exact hp (h _ hq)
  · exact Calm.refl _ _ _

theorem calm_putSeq (a : Nat) (bs : List Byte)
    (h : ∀ j, j < bs.length → ∀ p, (s.slot i).phys (a + j) = some p → W (tileOf i) p) : Calm i W s (s.putSeq i a bs) := by
  induction bs generalizing s a with
  | nil => exact Calm.refl _ _ _
  | cons b bs ih =>
    refine (calm_putByteAt a b fun p hp => h 0 (by simp) p (by simpa using hp)).trans (ih (a + 1) fun j hj p hp => ?_)
    exact h (j + 1) (by simpa using hj) p (by simpa [Nat.add_assoc, Nat.add_comm 1] using hp)

/-- A store changes nothing but the bytes it names. -/
theorem calm_putBytesAt (a : Nat) (bs : List Byte)
    (h : ∀ j, j < bs.length → ∀ p, (s.slot i).phys (a + j) = some p → W (tileOf i) p) : Calm i W s (s.putBytesAt i a bs) := by
  unfold State.putBytesAt
  dsimp only
  refine (calm_putSeq a bs h).trans ?_
  split
  · exact calm_modTile _ _ rfl (fun _ _ => rfl) fun w h => (List.mem_filter.mp h).1
  · exact Calm.refl _ _ _

/-- A store leaves at a byte what it has for it. -/
theorem putSeq_byte (s : State) (i a : Nat) (bs : List Byte) (p j : Nat) (hj : j < bs.length)
    (hp : (s.slot i).phys (a + j) = some p) (hu : ∀ k, k < bs.length → (s.slot i).phys (a + k) = some p → k = j) :
    ((s.putSeq i a bs).tile (tileOf i)).sram.byte p = bs.getD j 0 := by
  induction bs generalizing s a j with
  | nil => simp at hj
  | cons b bs ih =>
    unfold State.putSeq
    cases j with
    | zero =>
      have h1 : Kept i (fun k q => k = tileOf i ∧ q ≠ p) (s.putByteAt i a b) ((s.putByteAt i a b).putSeq i (a + 1) bs) :=
        (calm_putSeq (a + 1) bs fun k hk q hq => ⟨rfl, by
          rintro rfl
          have := hu (k + 1) (by simpa using hk) (by simpa [Nat.add_assoc, Nat.add_comm 1] using hq)
          omega⟩).toKept
      rw [h1.sram _ _ (by simp)]
      unfold State.putByteAt
      simp only [Nat.add_zero] at hp
      rw [hp]; simp
    | succ j =>
      rw [ih (s.putByteAt i a b) (a + 1) j (by simpa using hj) (by simpa [Nat.add_assoc, Nat.add_comm 1] using hp) fun k hk hq => by
        have := hu (k + 1) (by simpa using hk) (by simpa [Nat.add_assoc, Nat.add_comm 1] using hq)
        omega]
      simp

theorem putBytesAt_byte (s : State) (i a : Nat) (bs : List Byte) (p j : Nat) (hj : j < bs.length)
    (hp : (s.slot i).phys (a + j) = some p) (hu : ∀ k, k < bs.length → (s.slot i).phys (a + k) = some p → k = j) :
    ((s.putBytesAt i a bs).tile (tileOf i)).sram.byte p = bs.getD j 0 := by
  rw [← putSeq_byte s i a bs p j hj hp hu]
  unfold State.putBytesAt; dsimp only
  split
  · rw [tile_modTile_self]; rfl
  · rfl

theorem Kept.phys (h : Kept i W s t) (a : Nat) : (t.slot i).phys a = (s.slot i).phys a := by
  unfold Slot.phys Slot.atS; rw [h.id]

/-- Where nothing has come to hold an error, no access meets one that it would not have met. -/
theorem Kept.eccAt (h : Kept i W s t) {a n : Nat} (hs : s.eccAt i a n = false) : t.eccAt i a n = false := by
  unfold State.eccAt at *
  rw [h.phys]
  cases hp : (s.slot i).phys a with
  | none => rfl
  | some p =>
    rw [hp] at hs
    dsimp only at *
    unfold Tile.eccHit at *
    simp only [List.any_eq_false] at *
    exact fun w hw => hs w (h.ecc _ w hw)

/-- R109, R116: held stores that meet no error land. -/
theorem calm_landStores (l : List Store)
    (h : ∀ x ∈ l, ∀ j, j < x.data.length → ∀ p, (s.slot i).phys (x.addr + j) = some p → W (tileOf i) p)
    (hc : ∀ x ∈ l, x.data.length < 8 → s.eccAt i x.addr x.data.length = false) :
    Calm i W s (landStores s i l) ∧ landStores s i l = l.foldl (fun s h => s.putBytesAt i h.addr h.data) s := by
  induction l generalizing s with
  | nil => exact ⟨Calm.refl _ _ _, rfl⟩
  | cons x l ih =>
    have hp := calm_putBytesAt (i := i) (W := W) (s := s) x.addr x.data fun j hj p hp => h x (by simp) j hj p hp
    have hl := ih (s := s.putBytesAt i x.addr x.data)
      (fun y hy j hj p hq => h y (by simp [hy]) j hj p (by simpa using hq))
      (fun y hy hn => hp.toKept.eccAt (hc y (by simp [hy]) hn))
    have hb : (decide (x.data.length < 8) && s.eccAt i x.addr x.data.length) = false := by
      by_cases hn : x.data.length < 8
      · simp [hc x (by simp) hn]
      · simp [hn]
    unfold landStores
    dsimp only
    rw [hb]
    simp only [Bool.false_eq_true, if_false, List.foldl_cons]
    exact ⟨hp.trans hl.1, hl.2⟩

/-! ## The commit point -/

theorem calm_setStatus (n c : Nat) (e : Option Ending) : Calm i W s (setStatus s n c e) := calm_modNet _ _

theorem calm_checkEnd (n : Nat) : Calm i W s (checkEnd s n) := by
  unfold checkEnd
  split
  · exact Calm.refl _ _ _
  · split
    · exact (calm_setStatus _ _ _).trans (calm_modNet _ _)
    · exact Calm.refl _ _ _

theorem calm_commitExit : Calm i W s (commitExit s i) := by
  unfold commitExit
  dsimp only
  refine (Calm.foldl (fun s (q : Nat × Port) => if q.2.bound && q.2.isW then closePort s i q.1 else s) (fun s q => ?_) (s.slot i).ports s).trans ?_
  · split
    · exact calm_closePort _
    · exact Calm.refl _ _ _
  · exact (calm_modSlot (fun x => { x with id := { x.id with exited := true }, gen := { x.gen with heldExit := false, wait := .none } })
      (by rfl) (by rfl) (fun _ => rfl) (by rfl) (by rfl) rfl rfl rfl).trans ((calm_modNet _ _).trans (calm_checkEnd _))

/-- R116, R187: what the commit point can change, where no held store meets an error: the effects it has passed are performed, and of
memory only the bytes of held stores are written. -/
theorem commitSlot_calm (s : State) (i : Nat) (hc : StoresClean s i) : Calm i (heldBytes s i) s (commitSlot s i) := by
  unfold commitSlot
  dsimp only
  have h1 : Calm i (heldBytes s i) s (s.modSlot i fun x =>
      { x with eng := { x.eng with hist := x.eng.hist.filter fun h => !passedCommit (s.slot i).eng.commitPos h.pos
                                   stores := x.eng.stores.filter fun h => !passedCommit (s.slot i).eng.commitPos h.pos } }) :=
    calm_modSlot _ (by rfl) (by rfl) id (by rfl) (by rfl) rfl rfl rfl
  have h2 := h1.trans (Calm.foldl (fun s h => commitHeld s i h) (fun _ h => calm_commitHeld h)
    ((s.slot i).eng.hist.filter fun h => passedCommit (s.slot i).eng.commitPos h.pos) _)
  have h3 := h2.trans (calm_landStores ((s.slot i).eng.stores.filter fun h => passedCommit (s.slot i).eng.commitPos h.pos)
    (fun x hx j hj p hp => ⟨rfl, x, (List.mem_filter.mp hx).1, j, hj, (h2.toKept.phys _).symm.trans hp⟩)
    (fun x hx hn => h2.toKept.eccAt (hc x (List.mem_filter.mp hx).1 hn))).1
  split
  · exact h3.trans calm_commitExit
  · exact h3

/-- R116, R187: the frame of the commit point. -/
theorem commitSlot_kept (s : State) (i : Nat) (hc : StoresClean s i) : Kept i (heldBytes s i) s (commitSlot s i) :=
  (commitSlot_calm s i hc).toKept

theorem Kept.atS (h : Kept i W s t) : (t.slot i).atS = (s.slot i).atS := by unfold Slot.atS; rw [h.id]

theorem Calm.bank (h : Calm i W s t) : (t.slot i).bank = (s.slot i).bank := by
  unfold Slot.bank; rw [h.toKept.atS, h.pb, h.sb]

theorem Calm.gKept (h : Calm i W s t) (d : Option Nat) : GKept i d s t := by
  constructor <;> intros <;> rw [h.bank]

theorem foldl_commitPos_none (l : List QEntry) (o : Option Nat) :
    l.foldl (fun o w => match o with | none => some w.pos | some p => some (min p w.pos)) o = none ↔ l = [] ∧ o = none := by
  induction l generalizing o with
  | nil => simp
  | cons w l ih => rw [List.foldl_cons, ih]; cases o <;> simp

/-- The commit point has passed everything exactly where no word is unretired. -/
theorem commitPos_none (e : Eng) : e.commitPos = none ↔ e.idle = true := by
  unfold Eng.commitPos Eng.words
  refine (foldl_commitPos_none _ none).trans ?_
  simp [Eng.idle, List.append_eq_nil_iff, and_assoc]

/-- An effect whose commit performs nothing: it only records what an unwind restores. -/
def Held.inert : Held → Bool
  | .greg _ _ _ | .tmpl _ _ _ | .eos _ _ | .segs _ | .smap _ | .fflags _ | .fcsr _ => true
  | .read _ _ | .send _ _ | .close _ | .seg _ _ => false

theorem commitHeld_inert (h : HistE) (hi : h.act.inert = true) : commitHeld s i h = s := by
  unfold commitHeld; cases ha : h.act <;> simp_all [Held.inert]

theorem foldl_commitHeld_inert (l : List HistE) (hl : ∀ h ∈ l, h.act.inert = true) :
    l.foldl (fun s h => commitHeld s i h) s = s := by
  induction l with
  | nil => rfl
  | cons h l ih =>
    rw [List.foldl_cons, commitHeld_inert h (hl h (by simp))]
    exact ih fun g hg => hl g (by simp [hg])

theorem Still.refl (i : Nat) (s : State) : Still i s s := by constructor <;> intros <;> rfl
theorem Still.trans (h : Still i s t) (k : Still i t u) : Still i s u :=
  ⟨fun j hj => (k.slots j hj).trans (h.slots j hj), k.buckets.trans h.buckets, k.nets.trans h.nets, k.ual.trans h.ual,
    k.tlb1.trans h.tlb1, k.tlb2.trans h.tlb2, k.pages.trans h.pages, k.free.trans h.free,
    k.tenants.trans h.tenants, k.segs.trans h.segs, k.ports.trans h.ports, k.vec.trans h.vec⟩

theorem still_modTile (k : Nat) (f : Tile → Tile) : Still i s (s.modTile k f) := by constructor <;> intros <;> rfl

theorem still_putByteAt (a : Nat) (b : Byte) : Still i s (s.putByteAt i a b) := by
  unfold State.putByteAt; split
  · exact still_modTile _ _
  · exact Still.refl _ _

theorem still_putSeq (a : Nat) (bs : List Byte) : Still i s (s.putSeq i a bs) := by
  induction bs generalizing s a with
  | nil => exact Still.refl _ _
  | cons b bs ih => exact (still_putByteAt a b).trans (ih (a + 1))

theorem still_putBytesAt (a : Nat) (bs : List Byte) : Still i s (s.putBytesAt i a bs) := by
  unfold State.putBytesAt; dsimp only
  refine (still_putSeq a bs).trans ?_
  split
  · exact still_modTile _ _
  · exact Still.refl _ _

/-- With only inert effects held, and no store that meets an error, the commit point changes nothing but tile SRAM. -/
theorem commitSlot_still (hi : ∀ h ∈ (s.slot i).eng.hist, h.act.inert = true) (he : (s.slot i).gen.heldExit = false)
    (hc : StoresClean s i) : Still i s (commitSlot s i) := by
  unfold commitSlot
  dsimp only
  rw [foldl_commitHeld_inert _ fun h hh => hi h (List.mem_filter.mp hh).1]
  simp only [he, Bool.false_and, Bool.false_eq_true, if_false]
  have h0 : Calm i (fun _ _ => True) s (s.modSlot i fun x =>
      { x with eng := { x.eng with hist := x.eng.hist.filter fun h => !passedCommit (s.slot i).eng.commitPos h.pos
                                   stores := x.eng.stores.filter fun h => !passedCommit (s.slot i).eng.commitPos h.pos } }) :=
    calm_modSlot _ (by rfl) (by rfl) id (by rfl) (by rfl) rfl rfl rfl
  have h1 : Still i s (s.modSlot i fun x =>
      { x with eng := { x.eng with hist := x.eng.hist.filter fun h => !passedCommit (s.slot i).eng.commitPos h.pos
                                   stores := x.eng.stores.filter fun h => !passedCommit (s.slot i).eng.commitPos h.pos } }) := by
    constructor <;> first | rfl | (intro j hj; exact slot_modSlot_ne s _ hj) | simp
  refine h1.trans ?_
  rw [(calm_landStores (W := fun _ _ => True) ((s.slot i).eng.stores.filter fun h => passedCommit (s.slot i).eng.commitPos h.pos)
    (fun _ _ _ _ _ _ => trivial)
    (fun x hx hn => h0.toKept.eccAt (hc x (List.mem_filter.mp hx).1 hn))).2]
  generalize (s.modSlot i _) = u
  generalize (s.slot i).eng.stores.filter _ = l
  induction l generalizing u with
  | nil => exact Still.refl _ _
  | cons x l ih => exact (still_putBytesAt x.addr x.data).trans (ih _)

/-! ## Logging -/

section
variable (x : Slot) (h : Held)
@[simp] theorem log_id : (x.log h).id = x.id := rfl
@[simp] theorem log_gen : (x.log h).gen = x.gen := rfl
@[simp] theorem log_pb : (x.log h).pb = x.pb := rfl
@[simp] theorem log_sb : (x.log h).sb = x.sb := rfl
@[simp] theorem log_vec : (x.log h).vec = x.vec := rfl
@[simp] theorem log_tr : (x.log h).tr = x.tr := rfl
@[simp] theorem log_segs : (x.log h).segs = x.segs := rfl
@[simp] theorem log_ports : (x.log h).ports = x.ports := rfl
@[simp] theorem log_port (n : Nat) : (x.log h).port n = x.port n := rfl
@[simp] theorem log_bank : (x.log h).bank = x.bank := rfl
@[simp] theorem log_atS : (x.log h).atS = x.atS := rfl
@[simp] theorem log_hist : (x.log h).eng.hist = x.eng.hist ++ [⟨x.gen.icnt, h⟩] := rfl
@[simp] theorem log_stores : (x.log h).eng.stores = x.eng.stores := rfl
end

/-! ## Taking the operands -/

/-- What taking the source operands can change: cursors, EOSBITS and what is logged of them. -/
structure Took (s t : State) : Prop where
  kept : Kept s.cur (fun _ _ => False) s t
  banks : Banks s.cur s t
  tiles : t.tiles = s.tiles
  gen : t.me.gen = s.me.gen
  stores : t.me.eng.stores = s.me.eng.stores
  free : ∀ n, (t.me.port n).free = (s.me.port n).free
  nets : t.nets = s.nets

theorem Took.cur (h : Took s t) : t.cur = s.cur := h.kept.cur

theorem Took.refl (s : State) : Took s s := ⟨Kept.refl _ _ _, ⟨rfl, rfl⟩, rfl, rfl, rfl, fun _ => rfl, rfl⟩

theorem Took.trans (h : Took s t) (k : Took t u) : Took s u := by
  have hc := h.cur
  refine ⟨h.kept.trans (hc ▸ k.kept), h.banks.trans (hc ▸ k.banks), k.tiles.trans h.tiles, k.gen.trans h.gen, k.stores.trans h.stores,
    fun n => (k.free n).trans (h.free n), k.nets.trans h.nets⟩

theorem took_modSlot (f : Slot → Slot) (hid : (f (s.slot s.cur)).id = (s.slot s.cur).id)
    (hgen : (f (s.slot s.cur)).gen = (s.slot s.cur).gen)
    (heng : (f (s.slot s.cur)).eng = { (s.slot s.cur).eng with hist := (f (s.slot s.cur)).eng.hist })
    (hvec : (f (s.slot s.cur)).vec = { (s.slot s.cur).vec with eos := (f (s.slot s.cur)).vec.eos })
    (htr : (f (s.slot s.cur)).tr = (s.slot s.cur).tr) (hpb : (f (s.slot s.cur)).pb = (s.slot s.cur).pb)
    (hsb : (f (s.slot s.cur)).sb = (s.slot s.cur).sb)
    (hfree : ∀ n, ((f (s.slot s.cur)).port n).free = ((s.slot s.cur).port n).free) : Took s (s.modSlot s.cur f) := by
  have hb : (f (s.slot s.cur)).atS = (s.slot s.cur).atS := by unfold Slot.atS; rw [hid]
  refine ⟨kept_modSlot f (by rw [hid]) (by rw [hgen]) (by rw [heng]) (by rw [hvec]) htr (by simp [Slot.otherBank, hb, hpb, hsb]),
    ⟨by simpa using hpb, by simpa using hsb⟩, rfl, ?_, ?_, fun n => ?_, rfl⟩
  · show ((s.modSlot s.cur f).slot s.cur).gen = _; rw [slot_modSlot_self, hgen]; rfl
  · show ((s.modSlot s.cur f).slot s.cur).eng.stores = _; rw [slot_modSlot_self, heng]; rfl
  · show (((s.modSlot s.cur f).slot s.cur).port n).free = _; rw [slot_modSlot_self, hfree]; rfl

theorem took_takePort (p : Nat) : Took s (takePort s s.cur p).2 := by
  unfold takePort
  dsimp only
  split
  · exact Took.refl _
  · split
    · dsimp only
      apply took_modSlot <;> try rfl
      intro n
      by_cases h : n = p
      · subst h; rw [slot_port_modPort_self]; rfl
      · rw [slot_port_modPort_ne _ _ h]; rfl
    · dsimp only
      apply took_modSlot <;> intros <;> rfl

theorem took_takeSrc (o : Opnd) : Took s (takeSrc s o).2 := by
  unfold takeSrc; split
  · exact took_takePort _
  · exact Took.refl _

/-- R44: what taking the sources can change. -/
theorem took_takeSrcs (srcs : List Opnd) : Took s (takeSrcs s srcs).2 := by
  induction srcs generalizing s with
  | nil => exact Took.refl _
  | cons o os ih => exact (took_takeSrc o).trans ih

/-- Sources that are no ports leave the state as it was. -/
theorem takeSrcs_noPorts (srcs : List Opnd) (h : ∀ o ∈ srcs, opIsPort o = false) : (takeSrcs s srcs).2 = s := by
  induction srcs with
  | nil => rfl
  | cons o os ih =>
    have ho : (takeSrc s o).2 = s := by simp [takeSrc, h o (by simp)]
    show (takeSrcs (takeSrc s o).2 os).2 = s
    rw [ho]; exact ih fun q hq => h q (by simp [hq])

/-! ## Issuing -/

/-- The state that `finishG` commits. -/
def atPc (s : State) (pc : Word) : State :=
  issued (s.modMe fun x => { x with gen := { x.gen with pc := pc, icnt := x.gen.icnt + 1, wait := .none } })

theorem finishG_eq (s : State) (pc : Word) : finishG s pc = commitSlot (atPc s pc) s.cur := rfl

@[simp] theorem atPc_slot (s : State) (pc : Word) : (atPc s pc).slot s.cur =
    { s.slot s.cur with gen := { (s.slot s.cur).gen with pc := pc, icnt := (s.slot s.cur).gen.icnt + 1, wait := .none } } := by
  unfold atPc issued State.modMe; rw [modTile_slot, slot_modSlot_self]

theorem atPc_kept (s : State) (pc : Word) : Kept s.cur W s (atPc s pc) := by
  have h1 : Kept s.cur W s (s.modMe fun x => { x with gen := { x.gen with pc := pc, icnt := x.gen.icnt + 1, wait := .none } }) :=
    kept_modSlot _ rfl rfl rfl rfl rfl rfl
  refine h1.trans ?_
  unfold atPc issued
  exact (calm_modTile _ _ rfl (fun _ _ => rfl) fun _ h => h).toKept

theorem StoresClean.congr (h : StoresClean s i) (hk : Kept i W s t) (hst : (t.slot i).eng.stores = (s.slot i).eng.stores) :
    StoresClean t i := fun x hx hn => hk.eccAt (h x (hst ▸ hx) hn)

theorem atPc_banks (s : State) (pc : Word) : Banks s.cur s (atPc s pc) := ⟨by rw [atPc_slot], by rw [atPc_slot]⟩

theorem heldBytes_congr (hid : (t.slot i).id = (s.slot i).id) (hst : (t.slot i).eng.stores = (s.slot i).eng.stores) (k p : Nat) :
    heldBytes t i k p ↔ heldBytes s i k p := by
  unfold heldBytes Slot.phys Slot.atS; rw [hid, hst]

/-- The end of an instruction: the slot has gone on to `pc`, and besides that the commit point has done its work. -/
theorem finishG_spec (s : State) (pc : Word) (hs : StoresClean s s.cur) :
    Issued s (finishG s pc) pc ∧ Kept s.cur (heldBytes s s.cur) s (finishG s pc) ∧
      (∀ d, GKept s.cur d s (finishG s pc)) ∧ ((finishG s pc).slot s.cur).bank = s.me.bank ∧
      ((finishG s pc).slot s.cur).vec.eos = s.me.vec.eos := by
  have hc := commitSlot_calm (atPc s pc) s.cur (hs.congr (W := fun _ _ => True) (atPc_kept s pc) (by rw [atPc_slot]))
  have hw : ∀ k p, heldBytes (atPc s pc) s.cur k p → heldBytes s s.cur k p := fun k p h =>
    (heldBytes_congr (by rw [atPc_slot]) (by rw [atPc_slot]) k p).mp h
  have hb : ((finishG s pc).slot s.cur).bank = s.me.bank := by
    rw [finishG_eq, hc.bank, atPc_slot]; rfl
  refine ⟨⟨?_, ?_, ?_⟩, ?_, ?_, hb, ?_⟩
  · rw [finishG_eq, hc.pcs, atPc_slot]
  · rw [finishG_eq, hc.icnts, atPc_slot]; rfl
  · rw [finishG_eq]; exact hc.waits (by rw [atPc_slot])
  · exact (atPc_kept s pc).trans (hc.toKept.weaken hw)
  · intro d; constructor <;> intros <;> rw [hb] <;> rfl
  · rw [finishG_eq, hc.eoss, atPc_slot]; rfl

/-- With only inert effects held, the end of an instruction leaves the fabric, the pages and the segments alone. -/
theorem finishG_still (s : State) (pc : Word) (hi : ∀ h ∈ s.me.eng.hist, h.act.inert = true) (he : s.me.gen.heldExit = false)
    (hs : StoresClean s s.cur) : Still s.cur s (finishG s pc) := by
  have h1 : Still s.cur s (atPc s pc) := by
    constructor <;> first
      | rfl
      | (intro j hj; unfold atPc issued State.modMe; rw [modTile_slot]; exact slot_modSlot_ne s _ hj)
      | rw [atPc_slot]
  rw [finishG_eq]
  refine h1.trans (commitSlot_still ?_ ?_ (hs.congr (W := fun _ _ => True) (atPc_kept s pc) (by rw [atPc_slot])))
  · rw [atPc_slot]; exact hi
  · rw [atPc_slot]; exact he

/-- R44: with its operands in order, a generator instruction does what its body says. -/
theorem genOp_ok {srcs : List Opnd} {dst : Option Opnd} {k : List Word → State → Body} {v pc : Word} {s2 : State}
    (h : OperandsOk s srcs dst) (hk : k (takeSrcs s srcs).1 (takeSrcs s srcs).2 = .ok v pc s2) :
    genOp s srcs dst k = .next (finishG (dst.elim s2 fun o => putDst s2 o v) pc) := by
  unfold genOp
  rw [h.named]
  simp only [Bool.false_eq_true, if_false, h.checked, h.ready, h.room]
  rw [hk]; cases dst <;> rfl

/-- The slot that moves after `putDst`, when the destination is a g register. -/
theorem putG_slot (s : State) (r : Nat) (v : Word) (hr : r ≠ 0) :
    (putG s r v).slot s.cur = ((s.slot s.cur).log (.greg (s.slot s.cur).atS r ((s.slot s.cur).bank.readG r))).modBank fun b => b.writeG r v := by
  unfold putG State.modMe; rw [if_neg hr, slot_modSlot_self]

/-- A destination written: the frame, before the end of the instruction. -/
theorem putDst_kept (s : State) (d : Opnd) (v : Word) :
    Kept s.cur (fun _ _ => False) s (putDst s d v) ∧ GKept s.cur (gOf (some d)) s (putDst s d v) ∧
      (putDst s d v).me.gen = s.me.gen ∧ (putDst s d v).me.eng.stores = s.me.eng.stores ∧
      (putDst s d v).me.vec = s.me.vec ∧ (putDst s d v).nets = s.nets := by
  by_cases hp : opIsPort d = true
  · have he : putDst s d v = s.modSlot s.cur fun x =>
        (x.log (.send (opPort d) (natLe v.toNat 8))).modPort (opPort d) fun p => p.takeFree := by simp [putDst, hp, State.modMe]
    have hk : Took s (putDst s d v) → Kept s.cur (fun _ _ => False) s (putDst s d v) := fun h => h.kept
    rw [he]
    refine ⟨kept_modSlot _ rfl rfl rfl rfl rfl rfl, ?_, ?_, ?_, ?_, rfl⟩
    · constructor <;> intros <;> (rw [slot_modSlot_self]; rfl)
    · show ((s.modSlot s.cur _).slot s.cur).gen = _; rw [slot_modSlot_self]; rfl
    · show ((s.modSlot s.cur _).slot s.cur).eng.stores = _; rw [slot_modSlot_self]; rfl
    · show ((s.modSlot s.cur _).slot s.cur).vec = _; rw [slot_modSlot_self]; rfl
  · have he : putDst s d v = putG s d.toNat v := by simp [putDst, hp]
    have hg : gOf (some d) = some d.toNat := by simp [gOf, hp]
    rw [he, hg]
    by_cases h0 : d.toNat = 0
    · have : putG s d.toNat v = s := by simp [putG, h0]
      rw [this]; exact ⟨Kept.refl _ _ _, GKept.refl _ _ _, rfl, rfl, rfl, rfl⟩
    · have hs := putG_slot s d.toNat v h0
      have hm : putG s d.toNat v = s.modSlot s.cur fun x =>
          (x.log (.greg x.atS d.toNat (x.bank.readG d.toNat))).modBank fun b => b.writeG d.toNat v := by
        unfold putG State.modMe; rw [if_neg h0]
      have hb : ((putG s d.toNat v).slot s.cur).bank = (s.slot s.cur).bank.writeG d.toNat v := by rw [hs]; simp
      have hc : (putG s d.toNat v).cur = s.cur := by rw [hm]; rfl
      have hgl : (((s.slot s.cur).log (.greg (s.slot s.cur).atS d.toNat ((s.slot s.cur).bank.readG d.toNat))).modBank fun b =>
          b.writeG d.toNat v).otherBank = (s.slot s.cur).otherBank := by
        unfold Slot.otherBank Slot.modBank; simp only [log_atS]; split <;> simp_all [Slot.atS]
      refine ⟨?_, ?_, ?_, ?_, ?_, by rw [hm]; rfl⟩
      · rw [hm]; exact kept_modSlot _ (by simp) (by simp) (by rw [slot_modBank_eng]; rfl) (by simp) (by simp) hgl
      · constructor
        · intro r hr; rw [hb, bank_readG_writeG, if_neg]; intro hh; exact hr (by rw [hh.1])
        all_goals (rw [hb]; unfold Bank.writeG; rw [if_neg h0])
      · unfold State.me; rw [hc, hs]; simp
      · unfold State.me; rw [hc, hs]; simp
      · unfold State.me; rw [hc, hs]; simp

/-- No store is about to meet an error after a destination is written either. -/
theorem putDst_clean {u : State} (d : Opnd) (v : Word) (hk : Took s u) (hs : StoresClean s s.cur) :
    StoresClean (putDst u d v) (putDst u d v).cur := by
  have hp := putDst_kept u d v
  have hc := hk.cur
  have hu : StoresClean u u.cur := by
    have := hs.congr hk.kept (by have := hk.stores; unfold State.me at this; rw [hc] at this; exact this)
    rwa [hc]
  have := hu.congr hp.1 (by have := hp.2.2.2.1; unfold State.me at this; rw [hp.1.cur] at this; exact this)
  rwa [hp.1.cur]

theorem Wrote.of_put {u : State} (d : Opnd) (v pc : Word) (hk : Took s u) (hs : StoresClean s s.cur) :
    Wrote s (finishG (putDst u d v) pc) d v := by
  have hc := hk.cur
  unfold Wrote
  by_cases hp : opIsPort d = true
  · rw [if_pos hp]
    have he : putDst u d v = u.modSlot u.cur fun x =>
        (x.log (.send (opPort d) (natLe v.toNat 8))).modPort (opPort d) fun p => p.takeFree := by simp [putDst, hp, State.modMe]
    have hs : (putDst u d v).slot s.cur = ((u.slot s.cur).log (.send (opPort d) (natLe v.toNat 8))).modPort (opPort d) fun p => p.takeFree := by
      rw [he, hc, slot_modSlot_self]
    have hcur : (putDst u d v).cur = s.cur := by rw [he]; exact hc
    refine ⟨atPc (putDst u d v) pc, by rw [finishG_eq, hcur], ?_, ?_⟩
    · have := atPc_slot (putDst u d v) pc
      rw [hcur] at this
      rw [this]
      show ((putDst u d v).slot s.cur).eng.hist.getLast? = _
      rw [hs]
      show ((u.slot s.cur).eng.hist ++ [_]).getLast? = _
      rw [List.getLast?_concat]
      have := hk.gen
      unfold State.me at this ⊢
      rw [hc] at this
      rw [this]
    · have := atPc_slot (putDst u d v) pc
      rw [hcur] at this
      rw [this]
      show (((putDst u d v).slot s.cur).port (opPort d)).free = _
      rw [hs, slot_port_modPort_self]
      show ((u.slot s.cur).port (opPort d)).free.map _ = _
      have := hk.free (opPort d)
      unfold State.me at this ⊢
      rw [hc] at this
      rw [this]
  · rw [if_neg hp]
    have hcp : (putDst u d v).cur = s.cur := (putDst_kept u d v).1.cur.trans hc
    have hf := (finishG_spec (putDst u d v) pc (putDst_clean d v hk hs)).2.2.2.1
    rw [hcp] at hf
    rw [hf]
    unfold State.me
    rw [hcp]
    by_cases h0 : d = 0
    · subst h0; simp
    · have hd : d.toNat ≠ 0 := fun h => h0 (BitVec.eq_of_toNat_eq (by simpa using h))
      have := putG_slot u d.toNat v hd
      rw [hc] at this
      simp only [putDst, hp, Bool.false_eq_true, if_false, h0]
      rw [this]
      simp [bank_readG_writeG, hd]

/-- R44, R137: with its operands in order, an instruction that computes a value completes. -/
theorem genOp_completes {srcs : List Opnd} {d : Opnd} {k : List Word → State → Body} {v pc : Word}
    (h : OperandsOk s srcs (some d)) (hk : k (takeSrcs s srcs).1 (takeSrcs s srcs).2 = .ok v pc (takeSrcs s srcs).2) :
    Completes (genOp s srcs (some d) k) s srcs d v pc := by
  refine ⟨_, genOp_ok h hk, ?_, ?_, ?_, ?_⟩
  all_goals
    dsimp only [Option.elim]
    have ht := took_takeSrcs (s := s) srcs
    generalize hu : (takeSrcs s srcs).2 = u at *
    have hp := putDst_kept u d v
    have hc := ht.cur
    have hcp : (putDst u d v).cur = s.cur := hp.1.cur.trans hc
    have hs := putDst_clean d v ht h.clean
    have hf := finishG_spec (putDst u d v) pc hs
    rw [hcp] at hf
    have hgen : ((putDst u d v).slot s.cur).gen = s.me.gen := by
      have := hp.2.2.1; unfold State.me at this ⊢; rw [hcp, hc] at this; rw [this]
      have := ht.gen; unfold State.me at this; rw [hc] at this; exact this
  · exact Wrote.of_put d v pc ht h.clean
  · refine ⟨?_, ?_, ?_⟩
    · have := hf.1.pc; rwa [hcp] at this
    · have := hf.1.icnt; rw [hcp] at this; rw [this]; unfold State.me; rw [hcp, hgen]; rfl
    · have := hf.1.wait; rwa [hcp] at this
  · have hst : ((putDst u d v).slot s.cur).eng.stores = (s.slot s.cur).eng.stores := by
      have := hp.2.2.2.1; unfold State.me at this; rw [hcp, hc] at this; rw [this]
      have := ht.stores; unfold State.me at this; rw [hc] at this; exact this
    have hk1 : Kept s.cur (fun _ _ => False) s (putDst u d v) := ht.kept.trans (hc ▸ hp.1)
    have hw : ∀ k p, heldBytes (putDst u d v) s.cur k p → heldBytes s s.cur k p ∨ False := by
      intro k p hh
      left
      unfold heldBytes at hh ⊢
      rw [hst] at hh
      obtain ⟨h1, x, hx, j, hj, hq⟩ := hh
      exact ⟨h1, x, hx, j, hj, (hk1.phys _).symm.trans hq⟩
    refine ⟨(hk1.weaken fun _ _ h => h.elim).trans (hf.2.1.weaken hw), ?_, ?_⟩
    · intro hno
      have hus : u = s := by rw [← hu]; exact takeSrcs_noPorts srcs hno
      subst hus
      have := hf.2.2.2.2
      rw [this]; rw [hp.2.2.2.2.1]
    · intro hh he hno
      have hus : u = s := by rw [← hu]; exact takeSrcs_noPorts srcs fun o ho => hno o (by simp [ho])
      subst hus
      have hd : opIsPort d = false := hno d (by simp)
      have hpd : putDst u d v = putG u d.toNat v := by simp [putDst, hd]
      have h1 : Still u.cur u (putDst u d v) := by
        rw [hpd]; unfold putG; split
        · exact Still.refl _ _
        · constructor <;> first | rfl | (intro j hj; exact slot_modSlot_ne u _ hj) | (rw [State.modMe, slot_modSlot_self]; simp)
      have h2 := finishG_still (putDst u d v) pc (by
        unfold State.me; rw [hcp, hpd]; unfold putG; split
        · intro h hx; unfold State.me at hh; rw [hh] at hx; simp at hx
        · rw [State.modMe, slot_modSlot_self]; simp only [slot_modBank_eng, log_hist]
          unfold State.me at hh; rw [hh]; simp [Held.inert]) (by
        unfold State.me; rw [hcp, hgen]; exact he) hs
      rw [hcp] at h2
      exact h1.trans h2
  · have h1 : GKept s.cur (gOf (some d)) s u := by
      have : (u.slot s.cur).bank = (s.slot s.cur).bank := by
        unfold Slot.bank; rw [ht.kept.atS, ht.banks.pb, ht.banks.sb]
      constructor <;> intros <;> rw [this]
    exact (h1.trans (hc ▸ hp.2.1)).trans (hf.2.2.1 _)

/-- R120: with its operands in order, a computation of one source completes. -/
theorem genUn_completes {d a : Opnd} (h : OperandsOk s [a] (some d)) (f : Word → Word) :
    Completes (genUn s d a f) s [a] d (f (srcVal s [a] 0)) (s.pc + 4) := genOp_completes h rfl

/-- R120: with its operands in order, a computation of two sources completes. -/
theorem genBin_completes {d a b : Opnd} (h : OperandsOk s [a, b] (some d)) (f : Word → Word → Word) :
    Completes (genBin s d a b f) s [a, b] d (f (srcVal s [a, b] 0) (srcVal s [a, b] 1)) (s.pc + 4) := genOp_completes h rfl

/-- The end of an instruction whose body has led from `s` to `u`: what is spoken of besides the body's own effects. -/
theorem finishG_after {pc : Word} (hk : Kept s.cur W s u) (hs : StoresClean u u.cur) (hg : u.me.gen = s.me.gen)
    (hst : ∀ h ∈ (u.slot s.cur).eng.stores, h ∈ (s.slot s.cur).eng.stores ∨
      ∀ j, j < h.data.length → ∀ p, (s.slot s.cur).phys (h.addr + j) = some p → W (tileOf s.cur) p) :
    Issued s (finishG u pc) pc ∧ Kept s.cur (fun k p => heldBytes s s.cur k p ∨ W k p) s (finishG u pc) ∧
      ((finishG u pc).slot s.cur).bank = (u.slot s.cur).bank ∧ ((finishG u pc).slot s.cur).vec.eos = (u.slot s.cur).vec.eos := by
  have hc := hk.cur
  have hf := finishG_spec u pc hs
  have hgen : (u.slot s.cur).gen = s.me.gen := by unfold State.me at hg ⊢; rw [hc] at hg; exact hg
  unfold State.me at hf
  rw [hc] at hf
  refine ⟨⟨?_, ?_, ?_⟩, ?_, hf.2.2.2.1, hf.2.2.2.2⟩
  · have := hf.1.pc; rwa [hc] at this
  · have := hf.1.icnt; rw [hc] at this; rw [this]; unfold State.me; rw [hc, hgen]; rfl
  · have := hf.1.wait; rwa [hc] at this
  · refine (hk.weaken fun _ _ h => Or.inr h).trans (hf.2.1.weaken ?_)
    rintro k p ⟨hkt, x, hx, j, hj, hq⟩
    rw [hk.phys] at hq
    rcases hst x hx with h | h
    · exact Or.inl ⟨hkt, x, h, j, hj, hq⟩
    · exact Or.inr (by rw [hkt]; exact h j hj p hq)

/-- With its operands in order, an instruction without a destination that leaves the state alone passes. -/
theorem genOp_passes {srcs : List Opnd} {k : List Word → State → Body} {v pc : Word}
    (h : OperandsOk s srcs none) (hk : k (takeSrcs s srcs).1 (takeSrcs s srcs).2 = .ok v pc (takeSrcs s srcs).2) :
    Passes (genOp s srcs none k) s srcs pc := by
  have ht := took_takeSrcs (s := s) srcs
  have hst : ((takeSrcs s srcs).2.slot s.cur).eng.stores = (s.slot s.cur).eng.stores := by
    have := ht.stores; unfold State.me at this; rw [ht.cur] at this; exact this
  have hcl : StoresClean (takeSrcs s srcs).2 (takeSrcs s srcs).2.cur := by rw [ht.cur]; exact h.clean.congr ht.kept hst
  have hf := finishG_after (pc := pc) ht.kept hcl ht.gen fun x hx => Or.inl (hst ▸ hx)
  refine ⟨_, genOp_ok h hk, hf.1, ⟨hf.2.1, ?_, ?_⟩, ?_⟩
  · intro hno
    dsimp only [Option.elim]
    rw [hf.2.2.2, takeSrcs_noPorts srcs hno]; rfl
  · intro hh he hno
    dsimp only [Option.elim]
    rw [takeSrcs_noPorts srcs fun o ho => hno o (by simp [ho])]
    exact finishG_still s pc (by rw [hh]; simp) he h.clean
  · have : (((takeSrcs s srcs).2).slot s.cur).bank = (s.slot s.cur).bank := by
      unfold Slot.bank; rw [ht.kept.atS, ht.banks.pb, ht.banks.sb]
    constructor <;> intros <;> (dsimp only [Option.elim]; rw [hf.2.2.1, this])

/-! ## Stream sources -/

/-- The sources that a word waits for are all its stream sources, where none of them faults. -/
theorem fitSrcs_eq {n : Nat} (vs : List Nat) (seen : List StreamSrc) (srcs : List (Option StreamSrc))
    (h : streamSrcs s i n vs seen = .ok srcs) : fitSrcs s i n vs seen = srcs := by
  induction vs generalizing seen srcs with
  | nil => simpa [streamSrcs, fitSrcs] using h
  | cons v vs ih =>
    simp only [streamSrcs, fitSrcs] at h ⊢
    split at h
    · rename_i h0
      cases hr : streamSrcs s i n vs seen with
      | error e => simp [hr, Except.map] at h
      | ok r => simp only [hr, Except.map, Except.ok.injEq] at h; subst h; simp [h0, ih _ _ hr, Except.map]
    · rename_i h0
      split at h
      · cases h
      · rename_i h1
        split at h
        · cases h
        · rename_i c hc
          split at h
          · cases h
          · rename_i h2
            cases hr : streamSrcs s i n vs (⟨streamPort (s.slot i).vec.smap v, (seen.filter fun a =>
                a.port == streamPort (s.slot i).vec.smap v).foldl (fun k a => k + a.num) 0, n / c.size⟩ :: seen) with
            | error e => simp [hr, Except.map] at h
            | ok r =>
              simp only [hr, Except.map, Except.ok.injEq] at h
              subst h
              simp only [h0, h1, h2, Bool.false_eq_true, if_false, Except.map, ih _ _ hr]

/-! ## ACCOV -/

theorem putAccov_eq (v : BitVec 2) :
    s.putAccov i v = { s with slots := (s.putAccov i v).slots, tiles := (s.putAccov i v).tiles } := rfl
@[simp] theorem putAccov_slot (v : BitVec 2) :
    (s.putAccov i v).slot i = { s.slot i with vec := { (s.slot i).vec with accov := v } } := by
  unfold State.putAccov; rw [slot_modSlot_self]; rfl
theorem putAccov_slot_ne (v : BitVec 2) {j : Nat} (h : j ≠ i) : (s.putAccov i v).slot j = s.slot j := by
  unfold State.putAccov; rw [slot_modSlot_ne _ _ h]; rfl
end Sys2Proof.Machine
end

