-- ==== Sys2Proof/Laws/PerInstr.lean ====
section
/-! SUPPORT. The family of laws Encode, one lemma for each constructor of `Instr`: an instruction has an encoding in one of the two
forms or in none; a word of the generator has one of its 53 major opcodes (R39), an engine word one of its five classes (R48); a row
without an encoding is an event, which is well-formed with every operand. -/

namespace Sys2Proof.Laws

theorem fMop_encA (m : BitVec 6) (d a b : Opnd) (fn : BitVec 8) : fMop (encA m d a b fn) = m := by
  apply BitVec.eq_of_getLsbD_eq; intro i hi
  simp only [fMop, encA, BitVec.getLsbD_extractLsb', BitVec.getLsbD_append]
  grind

theorem fMop_encI (m : BitVec 6) (d a : Opnd) (i : BitVec 14) : fMop (encI m d a i) = m := by
  apply BitVec.eq_of_getLsbD_eq; intro i hi
  simp only [fMop, encI, BitVec.getLsbD_extractLsb', BitVec.getLsbD_append]
  grind

theorem fMop_encJ (m : BitVec 6) (d : Opnd) (i : BitVec 20) : fMop (encJ m d i) = m := by
  apply BitVec.eq_of_getLsbD_eq; intro i hi
  simp only [fMop, encJ, BitVec.getLsbD_extractLsb', BitVec.getLsbD_append]
  grind

theorem fMop_encE (m : BitVec 6) (q : BitVec 2) (t : BitVec 4) (a b : Opnd) (fn : BitVec 8) : fMop (encE m q t a b fn) = m := by
  apply BitVec.eq_of_getLsbD_eq; intro i hi
  simp only [fMop, encE, BitVec.getLsbD_extractLsb', BitVec.getLsbD_append]
  grind

theorem fMop_encS (m : BitVec 6) (d a : Opnd) (r : BitVec 12) (fn2 : BitVec 2) : fMop (encS m d a r fn2) = m := by
  apply BitVec.eq_of_getLsbD_eq; intro i hi
  simp only [fMop, encS, BitVec.getLsbD_extractLsb', BitVec.getLsbD_append]
  grind

theorem fMop_emitl (q : BitVec 2) (o : BitVec 24) : fMop (0x27#6 ++ q ++ o) = 0x27#6 := by
  apply BitVec.eq_of_getLsbD_eq; intro i hi
  simp only [fMop, BitVec.getLsbD_extractLsb', BitVec.getLsbD_append]
  grind

theorem fEcls_encVec (op : BitVec 8) (f : VecF) : fEcls (encVec op f) = 0 := by
  apply BitVec.eq_of_getLsbD_eq; intro i hi
  simp only [fEcls, encVec, BitVec.getLsbD_extractLsb', BitVec.getLsbD_append]
  grind

theorem fEcls_encMem (op : BitVec 8) (f : MemF) : fEcls (encMem op f) = 1 := by
  apply BitVec.eq_of_getLsbD_eq; intro i hi
  simp only [fEcls, encMem, BitVec.getLsbD_extractLsb', BitVec.getLsbD_append]
  grind

theorem fEcls_encMat (op : BitVec 8) (f : MatF) : fEcls (encMat op f) = 2 := by
  apply BitVec.eq_of_getLsbD_eq; intro i hi
  simp only [fEcls, encMat, BitVec.getLsbD_extractLsb', BitVec.getLsbD_append]
  grind

theorem fEcls_encCopy (op : BitVec 8) (f : CopyF) : fEcls (encCopy op f) = 3 := by
  apply BitVec.eq_of_getLsbD_eq; intro i hi
  simp only [fEcls, encCopy, BitVec.getLsbD_extractLsb', BitVec.getLsbD_append]
  grind

theorem fEcls_esetL (e : BitVec 4) (i : BitVec 48) : fEcls (4#4 ++ 0#8 ++ e ++ i) = 4 := by
  apply BitVec.eq_of_getLsbD_eq; intro i hi
  simp only [fEcls, BitVec.getLsbD_extractLsb', BitVec.getLsbD_append]
  grind

theorem fEcls_esetH (e : BitVec 4) (i : BitVec 16) : fEcls (4#4 ++ 1#8 ++ e ++ 0#32 ++ i) = 4 := by
  apply BitVec.eq_of_getLsbD_eq; intro i hi
  simp only [fEcls, BitVec.getLsbD_extractLsb', BitVec.getLsbD_append]
  grind

theorem fEcls_qjoin (m : BitVec 3) : fEcls (4#4 ++ 2#8 ++ 0#1 ++ m ++ 0#48) = 4 := by
  apply BitVec.eq_of_getLsbD_eq; intro i hi
  simp only [fEcls, BitVec.getLsbD_extractLsb', BitVec.getLsbD_append]
  grind

theorem fEcls_replay (e : BitVec 4) (r : BitVec 1) : fEcls (4#4 ++ 3#8 ++ e ++ r ++ 0#47) = 4 := by
  apply BitVec.eq_of_getLsbD_eq; intro i hi
  simp only [fEcls, BitVec.getLsbD_extractLsb', BitVec.getLsbD_append]
  grind

/-- A word of the generator is as the family says where its major opcode is known. -/
theorem genOk (w : Word32) (m : BitVec 6) (h : fMop w = m) (k : 1 ≤ m.toNat ∧ m.toNat ≤ 0x35) :
    1 ≤ (fMop w).toNat ∧ (fMop w).toNat ≤ 0x35 := by rw [h]; exact k

/-- An engine word is as the family says where its class is known. -/
theorem engOk (w : Word) (c : BitVec 4) (h : fEcls w = c) (k : c.toNat ≤ 4) : (fEcls w).toNat ≤ 4 := by rw [h]; exact k

namespace Encode

/-- What the family says of an instruction. -/
def Statement (i : Instr) : Prop :=
  match encodeGen i, encodeEng i with
  | some w, none => 1 ≤ (fMop w).toNat ∧ (fMop w).toNat ≤ 0x35
  | none, some w => (fEcls w).toNat ≤ 4
  | none, none => i.wf = true
  | some _, some _ => False

theorem add (d a b : Opnd) : Statement (.add d a b) := genOk _ 0x01 (fMop_encA _ _ _ _ _) (by decide)
theorem sub (d a b : Opnd) : Statement (.sub d a b) := genOk _ 0x01 (fMop_encA _ _ _ _ _) (by decide)
theorem and (d a b : Opnd) : Statement (.and d a b) := genOk _ 0x01 (fMop_encA _ _ _ _ _) (by decide)
theorem or (d a b : Opnd) : Statement (.or d a b) := genOk _ 0x01 (fMop_encA _ _ _ _ _) (by decide)
theorem xor (d a b : Opnd) : Statement (.xor d a b) := genOk _ 0x01 (fMop_encA _ _ _ _ _) (by decide)
theorem andn (d a b : Opnd) : Statement (.andn d a b) := genOk _ 0x01 (fMop_encA _ _ _ _ _) (by decide)
theorem sll (d a b : Opnd) : Statement (.sll d a b) := genOk _ 0x01 (fMop_encA _ _ _ _ _) (by decide)
theorem srl (d a b : Opnd) : Statement (.srl d a b) := genOk _ 0x01 (fMop_encA _ _ _ _ _) (by decide)
theorem sra (d a b : Opnd) : Statement (.sra d a b) := genOk _ 0x01 (fMop_encA _ _ _ _ _) (by decide)
theorem slt (d a b : Opnd) : Statement (.slt d a b) := genOk _ 0x01 (fMop_encA _ _ _ _ _) (by decide)
theorem sltu (d a b : Opnd) : Statement (.sltu d a b) := genOk _ 0x01 (fMop_encA _ _ _ _ _) (by decide)
theorem min (d a b : Opnd) : Statement (.min d a b) := genOk _ 0x01 (fMop_encA _ _ _ _ _) (by decide)
theorem max (d a b : Opnd) : Statement (.max d a b) := genOk _ 0x01 (fMop_encA _ _ _ _ _) (by decide)
theorem minu (d a b : Opnd) : Statement (.minu d a b) := genOk _ 0x01 (fMop_encA _ _ _ _ _) (by decide)
theorem maxu (d a b : Opnd) : Statement (.maxu d a b) := genOk _ 0x01 (fMop_encA _ _ _ _ _) (by decide)
theorem mul (d a b : Opnd) : Statement (.mul d a b) := genOk _ 0x01 (fMop_encA _ _ _ _ _) (by decide)
theorem mulh (d a b : Opnd) : Statement (.mulh d a b) := genOk _ 0x01 (fMop_encA _ _ _ _ _) (by decide)
theorem mulhu (d a b : Opnd) : Statement (.mulhu d a b) := genOk _ 0x01 (fMop_encA _ _ _ _ _) (by decide)
theorem div (d a b : Opnd) : Statement (.div d a b) := genOk _ 0x01 (fMop_encA _ _ _ _ _) (by decide)
theorem divu (d a b : Opnd) : Statement (.divu d a b) := genOk _ 0x01 (fMop_encA _ _ _ _ _) (by decide)
theorem rem (d a b : Opnd) : Statement (.rem d a b) := genOk _ 0x01 (fMop_encA _ _ _ _ _) (by decide)
theorem remu (d a b : Opnd) : Statement (.remu d a b) := genOk _ 0x01 (fMop_encA _ _ _ _ _) (by decide)
theorem clz (d a : Opnd) : Statement (.clz d a) := genOk _ 0x01 (fMop_encA _ _ _ _ _) (by decide)
theorem ctz (d a : Opnd) : Statement (.ctz d a) := genOk _ 0x01 (fMop_encA _ _ _ _ _) (by decide)
theorem popc (d a : Opnd) : Statement (.popc d a) := genOk _ 0x01 (fMop_encA _ _ _ _ _) (by decide)
theorem sextb (d a : Opnd) : Statement (.sextb d a) := genOk _ 0x01 (fMop_encA _ _ _ _ _) (by decide)
theorem sexth (d a : Opnd) : Statement (.sexth d a) := genOk _ 0x01 (fMop_encA _ _ _ _ _) (by decide)
theorem sextw (d a : Opnd) : Statement (.sextw d a) := genOk _ 0x01 (fMop_encA _ _ _ _ _) (by decide)
theorem zextb (d a : Opnd) : Statement (.zextb d a) := genOk _ 0x01 (fMop_encA _ _ _ _ _) (by decide)
theorem zexth (d a : Opnd) : Statement (.zexth d a) := genOk _ 0x01 (fMop_encA _ _ _ _ _) (by decide)
theorem zextw (d a : Opnd) : Statement (.zextw d a) := genOk _ 0x01 (fMop_encA _ _ _ _ _) (by decide)
theorem addi (d a : Opnd) (i : BitVec 14) : Statement (.addi d a i) := genOk _ 0x02 (fMop_encI _ _ _ _) (by decide)
theorem andi (d a : Opnd) (i : BitVec 14) : Statement (.andi d a i) := genOk _ 0x03 (fMop_encI _ _ _ _) (by decide)
theorem ori (d a : Opnd) (i : BitVec 14) : Statement (.ori d a i) := genOk _ 0x04 (fMop_encI _ _ _ _) (by decide)
theorem xori (d a : Opnd) (i : BitVec 14) : Statement (.xori d a i) := genOk _ 0x05 (fMop_encI _ _ _ _) (by decide)
theorem slli (d a : Opnd) (sh : BitVec 6) : Statement (.slli d a sh) := genOk _ 0x06 (fMop_encI _ _ _ _) (by decide)
theorem srli (d a : Opnd) (sh : BitVec 6) : Statement (.srli d a sh) := genOk _ 0x07 (fMop_encI _ _ _ _) (by decide)
theorem srai (d a : Opnd) (sh : BitVec 6) : Statement (.srai d a sh) := genOk _ 0x08 (fMop_encI _ _ _ _) (by decide)
theorem slti (d a : Opnd) (i : BitVec 14) : Statement (.slti d a i) := genOk _ 0x09 (fMop_encI _ _ _ _) (by decide)
theorem sltiu (d a : Opnd) (i : BitVec 14) : Statement (.sltiu d a i) := genOk _ 0x0A (fMop_encI _ _ _ _) (by decide)
theorem lsi (d : Opnd) (i : BitVec 20) : Statement (.lsi d i) := genOk _ 0x0B (fMop_encJ _ _ _) (by decide)
theorem addpc (d : Opnd) (i : BitVec 20) : Statement (.addpc d i) := genOk _ 0x0C (fMop_encJ _ _ _) (by decide)
theorem ldpc (d : Opnd) (i : BitVec 20) : Statement (.ldpc d i) := genOk _ 0x0D (fMop_encJ _ _ _) (by decide)
theorem ldb (d a : Opnd) (i : BitVec 14) : Statement (.ldb d a i) := genOk _ 0x0E (fMop_encI _ _ _ _) (by decide)
theorem ldbu (d a : Opnd) (i : BitVec 14) : Statement (.ldbu d a i) := genOk _ 0x0F (fMop_encI _ _ _ _) (by decide)
theorem ldh (d a : Opnd) (i : BitVec 14) : Statement (.ldh d a i) := genOk _ 0x10 (fMop_encI _ _ _ _) (by decide)
theorem ldhu (d a : Opnd) (i : BitVec 14) : Statement (.ldhu d a i) := genOk _ 0x11 (fMop_encI _ _ _ _) (by decide)
theorem ldw (d a : Opnd) (i : BitVec 14) : Statement (.ldw d a i) := genOk _ 0x12 (fMop_encI _ _ _ _) (by decide)
theorem ldwu (d a : Opnd) (i : BitVec 14) : Statement (.ldwu d a i) := genOk _ 0x13 (fMop_encI _ _ _ _) (by decide)
theorem ldd (d a : Opnd) (i : BitVec 14) : Statement (.ldd d a i) := genOk _ 0x14 (fMop_encI _ _ _ _) (by decide)
theorem stb (v a : Opnd) (i : BitVec 14) : Statement (.stb v a i) := genOk _ 0x15 (fMop_encI _ _ _ _) (by decide)
theorem sth (v a : Opnd) (i : BitVec 14) : Statement (.sth v a i) := genOk _ 0x16 (fMop_encI _ _ _ _) (by decide)
theorem stw (v a : Opnd) (i : BitVec 14) : Statement (.stw v a i) := genOk _ 0x17 (fMop_encI _ _ _ _) (by decide)
theorem std (v a : Opnd) (i : BitVec 14) : Statement (.std v a i) := genOk _ 0x18 (fMop_encI _ _ _ _) (by decide)
theorem beq (a b : Opnd) (o : BitVec 14) : Statement (.beq a b o) := genOk _ 0x19 (fMop_encI _ _ _ _) (by decide)
theorem bne (a b : Opnd) (o : BitVec 14) : Statement (.bne a b o) := genOk _ 0x1A (fMop_encI _ _ _ _) (by decide)
theorem blt (a b : Opnd) (o : BitVec 14) : Statement (.blt a b o) := genOk _ 0x1B (fMop_encI _ _ _ _) (by decide)
theorem bge (a b : Opnd) (o : BitVec 14) : Statement (.bge a b o) := genOk _ 0x1C (fMop_encI _ _ _ _) (by decide)
theorem bltu (a b : Opnd) (o : BitVec 14) : Statement (.bltu a b o) := genOk _ 0x1D (fMop_encI _ _ _ _) (by decide)
theorem bgeu (a b : Opnd) (o : BitVec 14) : Statement (.bgeu a b o) := genOk _ 0x1E (fMop_encI _ _ _ _) (by decide)
theorem jal (d : Opnd) (i : BitVec 20) : Statement (.jal d i) := genOk _ 0x1F (fMop_encJ _ _ _) (by decide)
theorem jalr (d a : Opnd) (i : BitVec 14) : Statement (.jalr d a i) := genOk _ 0x20 (fMop_encI _ _ _ _) (by decide)
theorem jmpf (d a : Opnd) (i : BitVec 14) : Statement (.jmpf d a i) := genOk _ 0x21 (fMop_encI _ _ _ _) (by decide)
theorem recvb (p a b : Opnd) : Statement (.recvb p a b) := genOk _ 0x22 (fMop_encA _ _ _ _ _) (by decide)
theorem sendb (p a b : Opnd) : Statement (.sendb p a b) := genOk _ 0x23 (fMop_encA _ _ _ _ _) (by decide)
theorem chctlClose (p : Opnd) : Statement (.chctlClose p) := genOk _ 0x24 (fMop_encA _ _ _ _ _) (by decide)
theorem chctlEosrd (d p : Opnd) : Statement (.chctlEosrd d p) := genOk _ 0x24 (fMop_encA _ _ _ _ _) (by decide)
theorem chctlEosclr (p : Opnd) : Statement (.chctlEosclr p) := genOk _ 0x24 (fMop_encA _ _ _ _ _) (by decide)
theorem emit (q : BitVec 2) (a b : Opnd) : Statement (.emit q a b) := genOk _ 0x25 (fMop_encE _ _ _ _ _ _) (by decide)
theorem emitt (q : BitVec 2) (t : BitVec 4) (a b : Opnd) (x y : BitVec 4) : Statement (.emitt q t a b x y) :=
  genOk _ 0x26 (fMop_encE _ _ _ _ _ _) (by decide)
theorem emitl (q : BitVec 2) (o : BitVec 24) : Statement (.emitl q o) := genOk _ 0x27 (fMop_emitl _ _) (by decide)
theorem tset (t : BitVec 4) (a b : Opnd) : Statement (.tset t a b) := genOk _ 0x28 (fMop_encE _ _ _ _ _ _) (by decide)
theorem tld (t : BitVec 4) (a : Opnd) (i : BitVec 14) : Statement (.tld t a i) := genOk _ 0x29 (fMop_encI _ _ _ _) (by decide)
theorem gwait (m : BitVec 3) : Statement (.gwait m) := genOk _ 0x2A (fMop_encI _ _ _ _) (by decide)
theorem mwaitb (b : BitVec 3) : Statement (.mwaitb b) := genOk _ 0x2B (fMop_encI _ _ _ _) (by decide)
theorem cfetch (a b : Opnd) : Statement (.cfetch a b) := genOk _ 0x2C (fMop_encA _ _ _ _ _) (by decide)
theorem cwait (a : Opnd) : Statement (.cwait a) := genOk _ 0x2D (fMop_encI _ _ _ _) (by decide)
theorem gbar (g : BitVec 8) : Statement (.gbar g) := genOk _ 0x2E (fMop_encI _ _ _ _) (by decide)
theorem phase (g : BitVec 8) : Statement (.phase g) := genOk _ 0x2F (fMop_encI _ _ _ _) (by decide)
theorem sysr (d : Opnd) (r : BitVec 12) : Statement (.sysr d r) := genOk _ 0x30 (fMop_encS _ _ _ _ _) (by decide)
theorem sysw (a : Opnd) (r : BitVec 12) : Statement (.sysw a r) := genOk _ 0x31 (fMop_encS _ _ _ _ _) (by decide)
theorem syswSet (a : Opnd) (r : BitVec 12) : Statement (.syswSet a r) := genOk _ 0x31 (fMop_encS _ _ _ _ _) (by decide)
theorem syswClr (a : Opnd) (r : BitVec 12) : Statement (.syswClr a r) := genOk _ 0x31 (fMop_encS _ _ _ _ _) (by decide)
theorem trap (code : BitVec 14) : Statement (.trap code) := genOk _ 0x32 (fMop_encI _ _ _ _) (by decide)
theorem sret : Statement .sret := genOk 0xCC000000 0x33 rfl (by decide)
theorem exit : Statement .exit := genOk 0xD0000000 0x34 rfl (by decide)
theorem ctlKload (d a : Opnd) : Statement (.ctlKload d a) := genOk _ 0x35 (fMop_encS _ _ _ _ _) (by decide)
theorem ctlKzero (d a : Opnd) : Statement (.ctlKzero d a) := genOk _ 0x35 (fMop_encS _ _ _ _ _) (by decide)
theorem rgncmdAssign (d a : Opnd) : Statement (.rgncmdAssign d a) := genOk _ 0x35 (fMop_encS _ _ _ _ _) (by decide)
theorem rgncmdHalt (d a : Opnd) : Statement (.rgncmdHalt d a) := genOk _ 0x35 (fMop_encS _ _ _ _ _) (by decide)
theorem rgncmdReset (d a : Opnd) : Statement (.rgncmdReset d a) := genOk _ 0x35 (fMop_encS _ _ _ _ _) (by decide)
theorem rgncmdScrub (d a : Opnd) : Statement (.rgncmdScrub d a) := genOk _ 0x35 (fMop_encS _ _ _ _ _) (by decide)
theorem rgncmdSwitch (d a : Opnd) : Statement (.rgncmdSwitch d a) := genOk _ 0x35 (fMop_encS _ _ _ _ _) (by decide)
theorem rgncmdRelease (d a : Opnd) : Statement (.rgncmdRelease d a) := genOk _ 0x35 (fMop_encS _ _ _ _ _) (by decide)
theorem ctlTlbinv (d a : Opnd) : Statement (.ctlTlbinv d a) := genOk _ 0x35 (fMop_encS _ _ _ _ _) (by decide)
theorem ctlPrget (d a : Opnd) : Statement (.ctlPrget d a) := genOk _ 0x35 (fMop_encS _ _ _ _ _) (by decide)
theorem ctlPrans (d a : Opnd) : Statement (.ctlPrans d a) := genOk _ 0x35 (fMop_encS _ _ _ _ _) (by decide)
theorem ctlCaston (d a : Opnd) : Statement (.ctlCaston d a) := genOk _ 0x35 (fMop_encS _ _ _ _ _) (by decide)
theorem ctlCancel (d a : Opnd) : Statement (.ctlCancel d a) := genOk _ 0x35 (fMop_encS _ _ _ _ _) (by decide)
theorem ctlAttest (d a : Opnd) : Statement (.ctlAttest d a) := genOk _ 0x35 (fMop_encS _ _ _ _ _) (by decide)
theorem ctlRebind (d a : Opnd) : Statement (.ctlRebind d a) := genOk _ 0x35 (fMop_encS _ _ _ _ _) (by decide)
theorem vadd (f : VecF) : Statement (.vadd f) := engOk _ 0 (fEcls_encVec _ _) (by decide)
theorem vsub (f : VecF) : Statement (.vsub f) := engOk _ 0 (fEcls_encVec _ _) (by decide)
theorem vmul (f : VecF) : Statement (.vmul f) := engOk _ 0 (fEcls_encVec _ _) (by decide)
theorem vfma (f : VecF) : Statement (.vfma f) := engOk _ 0 (fEcls_encVec _ _) (by decide)
theorem vfms (f : VecF) : Statement (.vfms f) := engOk _ 0 (fEcls_encVec _ _) (by decide)
theorem vfnma (f : VecF) : Statement (.vfnma f) := engOk _ 0 (fEcls_encVec _ _) (by decide)
theorem vdiv (f : VecF) : Statement (.vdiv f) := engOk _ 0 (fEcls_encVec _ _) (by decide)
theorem vsqrt (f : VecF) : Statement (.vsqrt f) := engOk _ 0 (fEcls_encVec _ _) (by decide)
theorem vrcp (f : VecF) : Statement (.vrcp f) := engOk _ 0 (fEcls_encVec _ _) (by decide)
theorem vrsqrt (f : VecF) : Statement (.vrsqrt f) := engOk _ 0 (fEcls_encVec _ _) (by decide)
theorem vexp2 (f : VecF) : Statement (.vexp2 f) := engOk _ 0 (fEcls_encVec _ _) (by decide)
theorem vlog2 (f : VecF) : Statement (.vlog2 f) := engOk _ 0 (fEcls_encVec _ _) (by decide)
theorem vmin (f : VecF) : Statement (.vmin f) := engOk _ 0 (fEcls_encVec _ _) (by decide)
theorem vmax (f : VecF) : Statement (.vmax f) := engOk _ 0 (fEcls_encVec _ _) (by decide)
theorem vabs (f : VecF) : Statement (.vabs f) := engOk _ 0 (fEcls_encVec _ _) (by decide)
theorem vneg (f : VecF) : Statement (.vneg f) := engOk _ 0 (fEcls_encVec _ _) (by decide)
theorem vcmp (f : VecF) : Statement (.vcmp f) := engOk _ 0 (fEcls_encVec _ _) (by decide)
theorem vsel (f : VecF) : Statement (.vsel f) := engOk _ 0 (fEcls_encVec _ _) (by decide)
theorem vcvt (f : VecF) : Statement (.vcvt f) := engOk _ 0 (fEcls_encVec _ _) (by decide)
theorem viadd (f : VecF) : Statement (.viadd f) := engOk _ 0 (fEcls_encVec _ _) (by decide)
theorem visub (f : VecF) : Statement (.visub f) := engOk _ 0 (fEcls_encVec _ _) (by decide)
theorem vimul (f : VecF) : Statement (.vimul f) := engOk _ 0 (fEcls_encVec _ _) (by decide)
theorem vimulh (f : VecF) : Statement (.vimulh f) := engOk _ 0 (fEcls_encVec _ _) (by decide)
theorem vimin (f : VecF) : Statement (.vimin f) := engOk _ 0 (fEcls_encVec _ _) (by decide)
theorem vimax (f : VecF) : Statement (.vimax f) := engOk _ 0 (fEcls_encVec _ _) (by decide)
theorem viminu (f : VecF) : Statement (.viminu f) := engOk _ 0 (fEcls_encVec _ _) (by decide)
theorem vimaxu (f : VecF) : Statement (.vimaxu f) := engOk _ 0 (fEcls_encVec _ _) (by decide)
theorem vand (f : VecF) : Statement (.vand f) := engOk _ 0 (fEcls_encVec _ _) (by decide)
theorem vor (f : VecF) : Statement (.vor f) := engOk _ 0 (fEcls_encVec _ _) (by decide)
theorem vxor (f : VecF) : Statement (.vxor f) := engOk _ 0 (fEcls_encVec _ _) (by decide)
theorem vshl (f : VecF) : Statement (.vshl f) := engOk _ 0 (fEcls_encVec _ _) (by decide)
theorem vshr (f : VecF) : Statement (.vshr f) := engOk _ 0 (fEcls_encVec _ _) (by decide)
theorem vsra (f : VecF) : Statement (.vsra f) := engOk _ 0 (fEcls_encVec _ _) (by decide)
theorem vicmp (f : VecF) : Statement (.vicmp f) := engOk _ 0 (fEcls_encVec _ _) (by decide)
theorem vredsum (f : VecF) : Statement (.vredsum f) := engOk _ 0 (fEcls_encVec _ _) (by decide)
theorem vredmax (f : VecF) : Statement (.vredmax f) := engOk _ 0 (fEcls_encVec _ _) (by decide)
theorem vredmin (f : VecF) : Statement (.vredmin f) := engOk _ 0 (fEcls_encVec _ _) (by decide)
theorem viredsum (f : VecF) : Statement (.viredsum f) := engOk _ 0 (fEcls_encVec _ _) (by decide)
theorem viota (f : VecF) : Statement (.viota f) := engOk _ 0 (fEcls_encVec _ _) (by decide)
theorem vbcast (f : VecF) : Statement (.vbcast f) := engOk _ 0 (fEcls_encVec _ _) (by decide)
theorem vmv (f : VecF) : Statement (.vmv f) := engOk _ 0 (fEcls_encVec _ _) (by decide)
theorem vmrg (f : VecF) : Statement (.vmrg f) := engOk _ 0 (fEcls_encVec _ _) (by decide)
theorem vnorm (f : VecF) : Statement (.vnorm f) := engOk _ 0 (fEcls_encVec _ _) (by decide)
theorem vsetvl (f : VecF) : Statement (.vsetvl f) := engOk _ 0 (fEcls_encVec _ _) (by decide)
theorem mand (f : VecF) : Statement (.mand f) := engOk _ 0 (fEcls_encVec _ _) (by decide)
theorem mor (f : VecF) : Statement (.mor f) := engOk _ 0 (fEcls_encVec _ _) (by decide)
theorem mxor (f : VecF) : Statement (.mxor f) := engOk _ 0 (fEcls_encVec _ _) (by decide)
theorem mnot (f : VecF) : Statement (.mnot f) := engOk _ 0 (fEcls_encVec _ _) (by decide)
theorem vld (f : MemF) : Statement (.vld f) := engOk _ 1 (fEcls_encMem _ _) (by decide)
theorem vst (f : MemF) : Statement (.vst f) := engOk _ 1 (fEcls_encMem _ _) (by decide)
theorem vlds (f : MemF) : Statement (.vlds f) := engOk _ 1 (fEcls_encMem _ _) (by decide)
theorem vsts (f : MemF) : Statement (.vsts f) := engOk _ 1 (fEcls_encMem _ _) (by decide)
theorem vldx (f : MemF) : Statement (.vldx f) := engOk _ 1 (fEcls_encMem _ _) (by decide)
theorem vstx (f : MemF) : Statement (.vstx f) := engOk _ 1 (fEcls_encMem _ _) (by decide)
theorem vscadd (f : MemF) : Statement (.vscadd f) := engOk _ 1 (fEcls_encMem _ _) (by decide)
theorem vperm (f : MemF) : Statement (.vperm f) := engOk _ 1 (fEcls_encMem _ _) (by decide)
theorem vrot (f : MemF) : Statement (.vrot f) := engOk _ 1 (fEcls_encMem _ _) (by decide)
theorem vslide (f : MemF) : Statement (.vslide f) := engOk _ 1 (fEcls_encMem _ _) (by decide)
theorem vcompress (f : MemF) : Statement (.vcompress f) := engOk _ 1 (fEcls_encMem _ _) (by decide)
theorem mzero (f : MatF) : Statement (.mzero f) := engOk _ 2 (fEcls_encMat _ _) (by decide)
theorem mstep (f : MatF) : Statement (.mstep f) := engOk _ 2 (fEcls_encMat _ _) (by decide)
theorem mcommit (f : MatF) : Statement (.mcommit f) := engOk _ 2 (fEcls_encMat _ _) (by decide)
theorem mrd (f : MatF) : Statement (.mrd f) := engOk _ 2 (fEcls_encMat _ _) (by decide)
theorem mst (f : MatF) : Statement (.mst f) := engOk _ 2 (fEcls_encMat _ _) (by decide)
theorem mcfg (f : MatF) : Statement (.mcfg f) := engOk _ 2 (fEcls_encMat _ _) (by decide)
theorem msave (f : MatF) : Statement (.msave f) := engOk _ 2 (fEcls_encMat _ _) (by decide)
theorem mload (f : MatF) : Statement (.mload f) := engOk _ 2 (fEcls_encMat _ _) (by decide)
theorem xcopy (f : CopyF) : Statement (.xcopy f) := engOk _ 3 (fEcls_encCopy _ _) (by decide)
theorem xget (f : CopyF) : Statement (.xget f) := engOk _ 3 (fEcls_encCopy _ _) (by decide)
theorem xput (f : CopyF) : Statement (.xput f) := engOk _ 3 (fEcls_encCopy _ _) (by decide)
theorem xstream (f : CopyF) : Statement (.xstream f) := engOk _ 3 (fEcls_encCopy _ _) (by decide)
theorem xgather (f : CopyF) : Statement (.xgather f) := engOk _ 3 (fEcls_encCopy _ _) (by decide)
theorem xatom (f : CopyF) : Statement (.xatom f) := engOk _ 3 (fEcls_encCopy _ _) (by decide)
theorem esetL (e : BitVec 4) (imm : BitVec 48) : Statement (.esetL e imm) := engOk _ 4 (fEcls_esetL e imm) (by decide)
theorem esetH (e : BitVec 4) (imm : BitVec 16) : Statement (.esetH e imm) := engOk _ 4 (fEcls_esetH e imm) (by decide)
theorem qjoin (m : BitVec 3) : Statement (.qjoin m) := engOk _ 4 (fEcls_qjoin m) (by decide)
theorem replay (e : BitVec 4) (res : BitVec 1) : Statement (.replay e res) := engOk _ 4 (fEcls_replay e res) (by decide)
theorem enop : Statement .enop := engOk (4#4 ++ 4#8 ++ 0#52) 4 rfl (by decide)
theorem replayIssue : Statement .replayIssue := rfl
theorem wordRetire : Statement .wordRetire := rfl
theorem streamSendRelease : Statement .streamSendRelease := rfl
theorem slotWake : Statement .slotWake := rfl
theorem levelGFault : Statement .levelGFault := rfl
theorem trapEntry : Statement .trapEntry := rfl
theorem preempt : Statement .preempt := rfl
theorem cfetchLanding (seg : Nat) : Statement (.cfetchLanding seg) := rfl
theorem cfetchFailure (seg : Nat) : Statement (.cfetchFailure seg) := rfl
theorem slotPacket (net ch rd : Nat) : Statement (.slotPacket net ch rd) := rfl
theorem creditPacket (net ch wr : Nat) : Statement (.creditPacket net ch wr) := rfl
theorem endMarkPacket (net ch rd : Nat) : Statement (.endMarkPacket net ch rd) := rfl
theorem severNotice (net ch ep : Nat) : Statement (.severNotice net ch ep) := rfl
theorem creditMergeExpiry (net ch rd : Nat) : Statement (.creditMergeExpiry net ch rd) := rfl
theorem ualinkWriteRequest (port : Nat) (m : UalMsg) : Statement (.ualinkWriteRequest port m) := rfl
theorem ualinkWriteCompletion (port : Nat) (net ch : Nat) (seq : BitVec 24) : Statement (.ualinkWriteCompletion port net ch seq) := rfl
theorem ualinkRetransmit (port : Nat) (idx : Nat) : Statement (.ualinkRetransmit port idx) := rfl
theorem detectorWave (tenant : Nat) : Statement (.detectorWave tenant) := rfl
theorem skeinTransfer (net ch rd : Nat) : Statement (.skeinTransfer net ch rd) := rfl
theorem reduceNodeInput (net ch : Nat) : Statement (.reduceNodeInput net ch) := rfl
theorem barrierRelease (net gid : Nat) : Statement (.barrierRelease net gid) := rfl
theorem boundary (net gid : Nat) : Statement (.boundary net gid) := rfl
theorem tokenRefill : Statement .tokenRefill := rfl
theorem saveSlotRecord (part : Bool) : Statement (.saveSlotRecord part) := rfl
theorem restoreSlotRecord (part : Bool) : Statement (.restoreSlotRecord part) := rfl
theorem csegvalidWrite (x : Word) : Statement (.csegvalidWrite x) := rfl
theorem streammapWrite (x : Word) : Statement (.streammapWrite x) := rfl
theorem winWrite (n : Nat) (x : Word) : Statement (.winWrite n x) := rfl
theorem fflagsWrite (x : Word) : Statement (.fflagsWrite x) := rfl
theorem accovWrite (x : Word) : Statement (.accovWrite x) := rfl
theorem tbcfgWrite (x : Word) : Statement (.tbcfgWrite x) := rfl
theorem wintabWrite (x : Word) : Statement (.wintabWrite x) := rfl
theorem regionResetEnd (r : Nat) : Statement (.regionResetEnd r) := rfl
theorem scrubDone : Statement .scrubDone := rfl
theorem vfReset (vf : Nat) : Statement (.vfReset vf) := rfl
theorem timeSliceExpiry (r : Nat) : Statement (.timeSliceExpiry r) := rfl
theorem arbiterInterval (meas : List Nat) : Statement (.arbiterInterval meas) := rfl
theorem thermalThrottle (die : Nat) : Statement (.thermalThrottle die) := rfl
theorem thermalRecover (die : Nat) : Statement (.thermalRecover die) := rfl
theorem thermalShutdown : Statement .thermalShutdown := rfl
theorem powerOn (verified : Bool) : Statement (.powerOn verified) := rfl
theorem doorbell (fn : Nat) : Statement (.doorbell fn) := rfl
theorem deferredWake (fn : Nat) : Statement (.deferredWake fn) := rfl
theorem validating (fn : Nat) : Statement (.validating fn) := rfl
theorem cancel (fn : Nat) (net : BitVec 32) : Statement (.cancel fn net) := rfl
theorem cqheadWrite (fn : Nat) (v : Word) : Statement (.cqheadWrite fn v) := rfl
theorem evheadWrite (fn : Nat) (v : Word) : Statement (.evheadWrite fn v) := rfl
theorem hostRegisterWrite (fn : Nat) (off : Nat) (v : Word) : Statement (.hostRegisterWrite fn off v) := rfl
theorem bindOff (net : Nat) : Statement (.bindOff net) := rfl
theorem completionRecord (net : Nat) : Statement (.completionRecord net) := rfl
theorem packageHandleHostRead (data : List Byte) : Statement (.packageHandleHostRead data) := rfl
theorem savectlDone : Statement .savectlDone := rfl

end Encode

end Sys2Proof.Laws
end

