-- ==== Sys2Proof/Tests/Slice0.lean ====
section
/-! SUPPORT. Tests of this sitting: ill-formed terms that the checks refuse, words written bit by bit from the spec's encodings, one step
of some instructions with results worked out by hand from the spec, and for every statement a state and operands that meet its
hypotheses. -/

namespace Sys2Proof.Tests

open Sys2Proof.Machine

/-! ## Well-formedness: a term that breaks each check is refused -/

def zV : VecF := ⟨0, 0, 0, 0, 0, 0, 0, 0, 0, 0⟩
def zM : MemF := ⟨0, 0, 0, 0, 0, 0, 0, 0⟩
def zX : MatF := ⟨0, 0, 0, 0, 0, 0, 0, 0, 0⟩
def zC : CopyF := ⟨0, 0, 0, 0, 0, 0⟩

theorem test_wf_good : (Instr.add 1 2 3).wf = true ∧ (Instr.vadd zV).wf = true ∧ (Instr.vld zM).wf = true ∧ (Instr.mstep zX).wf = true ∧
    (Instr.xcopy zC).wf = true := by decide

/-- R45, R55, R142, R352. -/
theorem test_wf_generator :
    (Instr.recvb 31 1 2).wf = false ∧ (Instr.recvb 32 0 2).wf = false ∧ (Instr.recvb 32 1 32).wf = false ∧ (Instr.recvb 32 2 2).wf = false ∧
    (Instr.chctlClose 0).wf = false ∧ (Instr.emit 3 0 0).wf = false ∧ (Instr.emitl 3 0).wf = false ∧ (Instr.emitt 3 0 0 0 0 0).wf = false ∧
    (Instr.emitt 0 0 1 0 0 0).wf = false ∧ (Instr.emitt 0 0 0 1 0 0).wf = false ∧ (Instr.sysr 0 0x007).wf = false ∧
    (Instr.sysw 0 0x028).wf = false ∧ (Instr.sysw 0 0x10E).wf = false := by decide

/-- R54, R205, R208, R218: ECLS 0. -/
theorem test_wf_vector :
    (Instr.vadd { zV with rm := 5 }).wf = false ∧ (Instr.vadd { zV with sub := 8, vb := 1 }).wf = false ∧ (Instr.vadd { zV with imm := 1 }).wf = false ∧
    (Instr.vadd { zV with vc := 1 }).wf = false ∧ (Instr.vfma { zV with sat := 1 }).wf = false ∧ (Instr.vsqrt { zV with vb := 1 }).wf = false ∧
    (Instr.vabs { zV with rm := 1 }).wf = false ∧ (Instr.vmin { zV with sub := 1 }).wf = false ∧
    (Instr.vshl { zV with sub := 8, imm := 32 }).wf = false ∧ (Instr.viadd { zV with sub := 2 }).wf = false ∧
    (Instr.vimulh { zV with sat := 1 }).wf = false ∧ (Instr.vcmp { zV with vd := 0 }).wf = false ∧ (Instr.vcmp { zV with vd := 1, sub := 7 }).wf = false ∧
    (Instr.vicmp { zV with vd := 8 }).wf = false ∧ (Instr.vsel { zV with mz := 1 }).wf = false ∧ (Instr.vcvt { zV with sub := 5 }).wf = false ∧
    (Instr.vredsum { zV with mz := 1 }).wf = false ∧ (Instr.vredmax { zV with mz := 1 }).wf = false ∧ (Instr.viredsum { zV with rm := 1 }).wf = false ∧
    (Instr.viota { zV with va := 1 }).wf = false ∧ (Instr.vbcast { zV with sub := 1 }).wf = false ∧ (Instr.vbcast { zV with sub := 8, va := 1 }).wf = false ∧
    (Instr.vmrg { zV with msk := 1 }).wf = false ∧ (Instr.vnorm { zV with vc := 0 }).wf = false ∧ (Instr.vsetvl { zV with sub := 2 }).wf = false ∧
    (Instr.vsetvl { zV with va := 1 }).wf = false ∧ (Instr.mand { zV with vd := 1, va := 8 }).wf = false ∧
    (Instr.mnot { zV with vd := 1, vb := 1 }).wf = false := by decide

/-- R239: ECLS 1. -/
theorem test_wf_memory :
    (Instr.vld { zM with es := 1 }).wf = false ∧ (Instr.vlds { zM with vi := 1 }).wf = false ∧ (Instr.vldx { zM with es := 1 }).wf = false ∧
    (Instr.vst { zM with ff := 1 }).wf = false ∧ (Instr.vsts { zM with vi := 1 }).wf = false ∧ (Instr.vstx { zM with ff := 1 }).wf = false ∧
    (Instr.vscadd { zM with es := 1 }).wf = false ∧ (Instr.vperm { zM with off := 1 }).wf = false ∧ (Instr.vrot { zM with vi := 1 }).wf = false ∧
    (Instr.vslide { zM with win := 1 }).wf = false ∧ (Instr.vcompress { zM with off := 1 }).wf = false := by decide

/-- R51, R257, R258: ECLS 2. -/
theorem test_wf_matrix :
    (Instr.mzero { zX with fmt := 5 }).wf = false ∧ (Instr.mstep { zX with a := 15 }).wf = false ∧ (Instr.mstep { zX with flags := 2 }).wf = false ∧
    (Instr.mcommit { zX with acc := 1 }).wf = false ∧ (Instr.mrd { zX with depth := 63, b := 1 }).wf = false ∧ (Instr.mrd { zX with flags := 2 }).wf = false ∧
    (Instr.mst { zX with a := 15 }).wf = false ∧ (Instr.mst { zX with flags := 8 }).wf = false ∧ (Instr.mcfg { zX with batch := 1 }).wf = false ∧
    (Instr.msave { zX with a := 16 }).wf = false ∧ (Instr.mload { zX with b := 1 }).wf = false := by decide

/-- R286: ECLS 3. -/
theorem test_wf_copy :
    (Instr.xcopy { zC with ef := 1 }).wf = false ∧ (Instr.xget { zC with mode := 1 }).wf = false ∧ (Instr.xput { zC with fo := 1 }).wf = false ∧
    (Instr.xstream { zC with mode := 2 }).wf = false ∧ (Instr.xstream { zC with imm := 16 }).wf = false ∧
    (Instr.xgather { zC with mode := 2 }).wf = false ∧ (Instr.xgather { zC with mode := 1, fo := 1 }).wf = false ∧
    (Instr.xatom { zC with op := 4 }).wf = false := by decide

/-! ## Decoding: words from the spec's encodings, R40 and R49-R53, and from its worked examples -/

theorem test_decode_alu : decodeGen 0x0470A300 = .ok (.add 7 2 35) ∧ decodeGen 0x04300416 = .error .unusedField ∧
    decodeGen 0x0430801F = .error .unassignedFn := by decide
theorem test_decode_imm : decodeGen 0x0850FFFE = .ok (.addi 5 3 (-2)) ∧ decodeGen 0x0A00800A = .ok (.addi 32 2 10) := by decide
theorem test_decode_load : decodeGen 0x3E208008 = .ok (.ldbu 34 2 8) ∧ decodeGen 0x54108008 = .ok (.stb 1 2 8) := by decide
theorem test_decode_branch : decodeGen 0x6410BFFF = .ok (.beq 1 2 (-1)) ∧ decodeGen 0x7C100004 = .ok (.jal 1 4) := by decide
theorem test_decode_channel : decodeGen 0x8A004200 = .ok (.recvb 32 1 2) ∧ decodeGen 0x90088000 = .ok (.chctlClose 34) := by decide
theorem test_decode_emit : decodeGen 0x98408312 = .ok (.emitt 0 4 2 3 1 2) ∧ decodeGen 0x9811C060 = .ok (.emitt 0 1 7 0 6 0) := by decide
theorem test_decode_template : decodeGen 0xA0218700 = .ok (.tset 2 6 7) ∧ decodeGen 0xA4301000 = .ok (.tld 3 0 0x1000) := by decide
theorem test_decode_wait : decodeGen 0xA8000005 = .ok (.gwait 5) ∧ decodeGen 0xAC000001 = .ok (.mwaitb 1) := by decide
theorem test_decode_sync : decodeGen 0xB8000003 = .ok (.gbar 3) ∧ decodeGen 0xBC000003 = .ok (.phase 3) := by decide
theorem test_decode_system : decodeGen 0xC0200100 = .ok (.sysr 2 0x040) ∧ decodeGen 0xC401001A = .ok (.syswClr 4 0x006) := by decide
theorem test_decode_level : decodeGen 0xC8000005 = .ok (.trap 5) ∧ decodeGen 0xCC000000 = .ok .sret ∧ decodeGen 0xD0000000 = .ok .exit ∧
    decodeGen 0xD420C008 = .ok (.ctlKzero 2 3) := by decide
theorem test_decode_none : decodeGen 0 = .error .reservedMop := by decide
theorem test_decode_vector : decodeEng 0x0000C72400000000 = .ok (.vadd ⟨3, 7, 9, 0, 0, 0, 0, 0, 0, 0⟩) ∧
    decodeEng 0x0000C72405000000 = .ok (.vadd ⟨3, 7, 9, 0, 2, 1, 0, 0, 0, 0⟩) ∧
    decodeEng 0x02610003D00F000A = .ok (.viota ⟨4, 0, 0, 61, 0, 0, 0, 0, 15, 10⟩) := by decide
theorem test_decode_vsetvl : decodeEng 0x02B0000000000028 = .ok (.vsetvl { zV with imm := 40 }) ∧
    decodeEng 0x0280380000000000 = .ok (.vmv { zV with va := 56 }) := by decide
theorem test_decode_memory : decodeEng 0x1000C02480000010 = .ok (.vld ⟨3, 0, 1, 1, 2, 0, 0, 16⟩) ∧
    decodeEng 0x1000C02480400010 = .error .badField := by decide
theorem test_decode_matrix : decodeEng 0x2001800000000000 = .ok (.mzero { zX with fmt := 1, acc := 1 }) ∧
    decodeEng 0x2020000001000000 = .ok (.mcommit { zX with batch := 1 }) ∧
    decodeEng 0x2050007C18000000 = .ok (.mcfg { zX with a := -2, b := 3 }) := by decide
theorem test_decode_copy : decodeEng 0x3011000000000000 = .ok (.xget { zC with ed := 1 }) := by decide
theorem test_decode_control : decodeEng 0x4016000000002010 = .ok (.esetH 6 0x2010) ∧ decodeEng 0x4025000000000000 = .ok (.qjoin 5) := by decide

/-! ## Small states -/

/-- A process in slot 0: 64 granules, 16 lanes, segment 0 VALID, at 0x100; g1 = 7, g2 = -3, g3 = 0x2000, g4 = 0, g5 the least integer,
g6 = -1. -/
def tSlot : Slot :=
  { id := { loaded := true, tenant := 1, size := 64, vlmax := 16, gids := [3] }
    gen := { pc := 0x100, icnt := 5 }
    pb := { g := [(1, 7), (2, -3), (3, 0x2000), (5, 0x8000000000000000), (6, -1)] }
    vec := { vl := 16 }
    segs := [(0, { st := .valid })] }

/-- The process alone. -/
def tState (x : Slot) : State := { cur := 0, slots := [(0, x)] }

/-- The same at level S. -/
def tSup : Slot :=
  { tSlot with id := { tSlot.id with level := 1, timing := true }, sb := tSlot.pb, gen := { tSlot.gen with pc := 0x200 } }

/-- A word on VQ that has not started, of an older instruction. -/
def tWord (w : Word) (pos : Nat) : QEntry :=
  { word := w, epc := 0x80, eseq := 0, pos := pos, rm := 0, mask0 := 0, hulls := [], dhull := [], fo := none, sub := 0, stat := .queued
    prog := {}, iter := 0 }

/-- The process with one older `enop` unretired. -/
def tBusy : Slot := { tSlot with eng := { vq := [tWord 0x4040000000000000 3] } }

/-- A channel from port 1 of slot 0 to port 0 of slot 0, of 8-byte slots, two places at 0x3000. -/
def tChan : Chan :=
  { chid := 0, gen := 0, size := 8, route := 0, reduce := false, mirror := false, crypt := false, eostol := true, rop := 0, endpt := false
    cap := 2, cap0 := 2, buf := 0x3000, skoff := 0, grown := 0, uport := 0, rpkg := 0, writers := [⟨0, 0, 1, 0, false⟩]
    readers := [⟨0, 0, 0, 0, false⟩], transit := [], skein := [], nodes := [], ends := [], dropped := 0, kept := [], sev := false, roots := 0 }

/-- The process of the network. -/
def tProc : Proc :=
  { pid := 0, tile := 0, slot := 0, timing := false, matrix := true, world := false, vlmax := 16, base := 0, size := 64, entry := 0x100
    gids := [3], extents := [], tmpl := 0, winoff := 0, cseg := 1, saved := false, exited := false, stopped := false, wset := [], contribs := []
    know := [], use := [] }

/-- Its network: one channel, groups 0 and 3. -/
def tNet : Net :=
  { blankNet 1 1 0 with
    st := .running, regions := 1, procs := [tProc], chans := [tChan]
    groups := [⟨0, 0, (0, 0, 1, 1), [0], 0, [], []⟩, ⟨3, 0, (0, 0, 1, 1), [0], 0, [], []⟩] }

/-- The process in its network: port 0 holds one slot, the value 5, port 1 may send two. -/
def tLinked : Slot :=
  { tSlot with
    ports := [(0, { bound := true, net := 0, ch := 0, arr := [1] }), (1, { bound := true, isW := true, net := 0, ch := 0, free := [2] })] }

/-- The machine with that network. -/
def tNetState (x : Slot) : State :=
  { cur := 0, slots := [(0, x)], nets := [tNet], tiles := [(0, { sram := [(0x3000, 5)] })] }

/-- A g register of slot 0 after a step. -/
def outG (o : Out) (r : Nat) : Option Word := match o with | .next t => some ((t.slot 0).bank.readG r) | _ => none
/-- The pc of slot 0 after a step. -/
def outPc (o : Out) : Option Word := match o with | .next t => some (t.slot 0).gen.pc | _ => none
/-- The low byte of TRAPCAUSE and FAULTWORD of slot 0 after a step. -/
def outTrap (o : Out) : Option (BitVec 9 × Word) := match o with | .next t => some ((t.slot 0).tr.cause, (t.slot 0).tr.fword) | _ => none

/-! ## One step; the results are worked out by hand from the rules -/

theorem test_add : outG (exec (.add 7 1 2) (tState tSlot)) 7 = some 4 := by decide
theorem test_mulh : outG (exec (.mulh 7 5 6) (tState tSlot)) 7 = some 0 := by decide
theorem test_mulhu : outG (exec (.mulhu 7 6 6) (tState tSlot)) 7 = some 0xFFFFFFFFFFFFFFFE := by decide
theorem test_div : outG (exec (.div 7 5 6) (tState tSlot)) 7 = some 0x8000000000000000 ∧ outG (exec (.div 7 1 2) (tState tSlot)) 7 = some (-2) := by decide
theorem test_rem : outG (exec (.rem 7 2 1) (tState tSlot)) 7 = some (-3) ∧ outG (exec (.remu 7 1 4) (tState tSlot)) 7 = some 7 := by decide
theorem test_divu_zero : outG (exec (.divu 7 1 4) (tState tSlot)) 7 = some (-1) := by decide
theorem test_sra : outG (exec (.srai 7 2 1) (tState tSlot)) 7 = some (-2) := by decide
theorem test_slt : outG (exec (.slt 7 2 1) (tState tSlot)) 7 = some 1 ∧ outG (exec (.sltu 7 2 1) (tState tSlot)) 7 = some 0 := by decide
theorem test_clz : outG (exec (.clz 7 1) (tState tSlot)) 7 = some 61 ∧ outG (exec (.clz 7 4) (tState tSlot)) 7 = some 64 := by decide
theorem test_ctz : outG (exec (.ctz 7 3) (tState tSlot)) 7 = some 13 := by decide
theorem test_g0_discards : outG (exec (.add 0 1 2) (tState tSlot)) 0 = some 0 ∧ outPc (exec (.add 0 1 2) (tState tSlot)) = some 0x104 := by decide
theorem test_lsi : outG (exec (.lsi 7 (-1)) (tState tSlot)) 7 = some (-16384) := by decide
/-- R41, R136: a port operand supplies the slot at its cursor, little-endian. -/
theorem test_port_read : outG (exec (.add 7 32 1) (tNetState tLinked)) 7 = some 12 := by decide
/-- R137: a result sent leaves its packet on the channel, at the commit point. -/
theorem test_port_write : (match exec (.add 33 1 1) (tNetState tLinked) with
    | .next t => ((t.nets[0]?).bind fun n => n.chans[0]?).map fun c => c.transit.map (·.data)
    | _ => none) = some [[14, 0, 0, 0, 0, 0, 0, 0]] := by decide
theorem test_ldb : outG (exec (.ldb 7 3 0) (tNetState { tLinked with ports := [] })) 7 = some 0 ∧
    outG (exec (.ldbu 7 3 0x1000) (tNetState { tLinked with ports := [] })) 7 = some 5 := by decide
theorem test_std : (match exec (.std 2 3 8) (tState tSlot) with | .next t => some ((List.range 3).map fun k => t.byteAt 0 (0x2006 + k)) | _ => none) =
    some [0, 0, 0xFD] := by decide
theorem test_align : outTrap (exec (.ldw 7 1 0) (tState tSlot)) = some (5, 7) := by decide
theorem test_window : outTrap (exec (.std 1 4 0) (tState tSlot)) = some (6, 0) := by decide
theorem test_branch : outPc (exec (.blt 2 1 (-2)) (tState tSlot)) = some 0xF8 ∧ outPc (exec (.bltu 2 1 (-2)) (tState tSlot)) = some 0x104 := by decide
theorem test_jalr : outG (exec (.jalr 3 3 4) (tState tSlot)) 3 = some 0x104 ∧ outPc (exec (.jalr 3 3 4) (tState tSlot)) = some 0x2004 := by decide
theorem test_codemiss : outTrap (exec (.jmpf 0 3 0) (tState tSlot)) = some (11, 2) := by decide
theorem test_trap : outTrap (exec (.trap 9) (tState tSlot)) = some (25, 9) ∧ outPc (exec (.trap 9) (tState tSlot)) = some 0 := by decide
theorem test_priv : outTrap (exec .sret (tState tSlot)) = some (4, (tState tSlot).instrWord) := by decide
theorem test_emit : (match exec (.emit 0 0 4) (tState { tSlot with pb := { g := [(4, 0x40400000)] } }) with
    | .next t => some ((t.slot 0).eng.vq.map (·.word)) | _ => none) = some [0x4040000000000000] := by decide
theorem test_badword : outTrap (exec (.emit 0 1 4) (tState tSlot)) = some (3, 7) := by decide
theorem test_exit : (match exec .exit (tNetState tLinked) with
    | .next t => (t.nets[0]?).map fun n => (n.st, n.status) | _ => none) = some (.bindoff, some 0) := by decide

/-! ## States and operands that meet the hypotheses of the statements, in their order -/

/-- The slot with other registers. -/
def tRegs (l : Sparse Word) : Slot := { tSlot with pb := { g := l } }

theorem w_operands : OperandsOk (tState tSlot) [1, 2] (some 7) ∧ OperandsOk (tState tSlot) [1] (some 7) ∧
    OperandsOk (tState tSlot) [] (some 7) ∧ OperandsOk (tState tSlot) [1, 2] none ∧ OperandsOk (tState tSlot) [1] none ∧
    OperandsOk (tState tSlot) [] none :=
  ⟨⟨by decide, by decide, rfl, rfl, by decide⟩, ⟨by decide, by decide, rfl, rfl, by decide⟩, ⟨by decide, by decide, rfl, rfl, by decide⟩, ⟨by decide, by decide, rfl, rfl, by decide⟩,
    ⟨by decide, by decide, rfl, rfl, by decide⟩, ⟨by decide, by decide, rfl, rfl, by decide⟩⟩

/-- BinaryResults, with every operand a port or a register. -/
theorem w_binaryResults : OperandsOk (tState tSlot) [1, 2] (some 0) ∧ OperandsOk (tNetState tLinked) [32, 1] (some 33) :=
  ⟨⟨by decide, by decide, rfl, rfl, by decide⟩, ⟨by decide, by decide, rfl, rfl, by decide⟩⟩

/-- DivisionResults: each of its cases. -/
theorem w_divisionResults :
    (OperandsOk (tState tSlot) [1, 4] (some 7) ∧ srcVal (tState tSlot) [1, 4] 1 = 0) ∧
    (OperandsOk (tState tSlot) [5, 6] (some 7) ∧ srcVal (tState tSlot) [5, 6] 0 = BitVec.intMin 64 ∧
      srcVal (tState tSlot) [5, 6] 1 = BitVec.allOnes 64) ∧
    (OperandsOk (tState tSlot) [2, 1] (some 7) ∧ srcVal (tState tSlot) [2, 1] 1 ≠ 0) :=
  ⟨⟨⟨by decide, by decide, rfl, rfl, by decide⟩, by decide⟩, ⟨⟨by decide, by decide, rfl, rfl, by decide⟩, by decide, by decide⟩,
    ⟨⟨by decide, by decide, rfl, rfl, by decide⟩, by decide⟩⟩

/-- UnaryResults: the least and the greatest count. -/
theorem w_unaryResults : OperandsOk (tState tSlot) [4] (some 7) ∧
    (∀ k, k < 64 → (srcVal (tState tSlot) [4] 0).getLsbD (63 - k) = false) ∧ (∀ k, k < 64 → (srcVal (tState tSlot) [4] 0).getLsbD k = false) ∧
    OperandsOk (tState tSlot) [6] (some 7) ∧ (srcVal (tState tSlot) [6] 0).getLsbD 63 = true ∧ (srcVal (tState tSlot) [6] 0).getLsbD 0 = true :=
  ⟨⟨by decide, by decide, rfl, rfl, by decide⟩, by decide, by decide, ⟨by decide, by decide, rfl, rfl, by decide⟩, by decide, by decide⟩

theorem w_immediateResults : OperandsOk (tState tSlot) [5] (some 31) ∧ OperandsOk (tNetState tLinked) [] (some 33) :=
  ⟨⟨by decide, by decide, rfl, rfl, by decide⟩, ⟨by decide, by decide, rfl, rfl, by decide⟩⟩

/-- The process with port 0 at its end mark. -/
def tEnded : Slot := { tLinked with ports := [(0, { bound := true, net := 0, ch := 0, arr := [0], fin := some 0 })] }

/-- SourceForms: a register, a port with a slot, a port at its end mark. -/
theorem w_sourceForms : opReserved 0 = false ∧ opIsPort 31 = false ∧ opReserved 47 = false ∧ opIsPort 32 = true ∧
    (tNetState tLinked).chan? ((tNetState tLinked).me.port 0).net ((tNetState tLinked).me.port 0).ch = some tChan ∧
    ((tNetState tLinked).me.port 0).readAt tChan 0 = .data ∧ ((tNetState tEnded).me.port 0).readAt tChan 0 = .fin := by decide

/-- Two held stores, the first before and the second beyond the commit point. -/
def tHeld : Slot := { tBusy with eng := { tBusy.eng with stores := [⟨2, 0x2000, [1, 2]⟩, ⟨4, 0x2001, [9]⟩] } }

/-- StoreBuffer: a byte that the older store has alone, one that none has; a store that the commit point has passed. -/
theorem w_storeBuffer : ((tState tHeld).slot 0).eng.stores = [] ++ ⟨2, 0x2000, [1, 2]⟩ :: [⟨4, 0x2001, [9]⟩] ∧
    (∀ g ∈ [(⟨4, 0x2001, [9]⟩ : Store)], 0x2000 < g.addr ∨ g.addr + g.data.length ≤ 0x2000) ∧
    (∀ g ∈ ((tState tHeld).slot 0).eng.stores, 0x2002 < g.addr ∨ g.addr + g.data.length ≤ 0x2002) ∧
    ((tState tHeld).slot 0).phys 0x2001 = some 0x2001 ∧
    (((tState tHeld).slot 0).eng.stores.filter fun h => passedCommit ((tState tHeld).slot 0).eng.commitPos h.pos) = [] ++ ⟨2, 0x2000, [1, 2]⟩ :: [] := by
  decide

/-- The slot with one register, g8. -/
def tAt (a : Word) : State := tState (tRegs [(8, a)])

/-- LoadResults: the last bytes of the partition, in each width, and a literal. -/
theorem w_loadResults : OperandsOk (tAt 0x40000) [8] (some 7) ∧ (srcVal (tAt 0x40000) [8] 0 + (-1#14).signExtend 64).toNat = 0x3FFFF ∧
    loadAccess (taken (tAt 0x40000) [8]) 0 0x3FFFF 1 = .go ∧ loadAccess (taken (tAt 0x40000) [8]) 0 0x3FFFE 2 = .go ∧
    loadAccess (taken (tAt 0x40000) [8]) 0 0x3FFFC 4 = .go ∧ loadAccess (taken (tAt 0x40000) [8]) 0 0x3FFF8 8 = .go ∧
    literalAccess (tState tSlot) 0 0x110 = .go ∧ (((tState tSlot).pc &&& ~~~7#64) + (2#20).signExtend 64 * 8).toNat = 0x110 :=
  ⟨⟨by decide, by decide, rfl, rfl, by decide⟩, by decide, by decide, by decide, by decide, by decide, by decide, by decide⟩

/-- StoreResults: the last bytes of the partition, in each width. -/
theorem w_storeResults : OperandsOk (tAt 0x40000) [8, 8] none ∧ storeAccess (taken (tAt 0x40000) [8, 8]) 0 0x3FFFF 1 = .go ∧
    storeAccess (taken (tAt 0x40000) [8, 8]) 0 0x3FFFE 2 = .go ∧ storeAccess (taken (tAt 0x40000) [8, 8]) 0 0x3FFFC 4 = .go ∧
    storeAccess (taken (tAt 0x40000) [8, 8]) 0 0x3FFF8 8 = .go :=
  ⟨⟨by decide, by decide, rfl, rfl, by decide⟩, by decide, by decide, by decide, by decide⟩

theorem w_templateResults : OperandsOk (tState tSlot) [1, 2] none ∧ (tState tSlot).me.histFull (histNeed [1, 2] none + 1) = false ∧
    OperandsOk (tState tSlot) [3] none ∧ (tState tSlot).me.histFull (histNeed [3] none + 1) = false ∧
    loadAccess (taken (tState tSlot) [3]) 0 0x2000 8 = .go :=
  ⟨⟨by decide, by decide, rfl, rfl, by decide⟩, by decide, ⟨by decide, by decide, rfl, rfl, by decide⟩, by decide, by decide⟩

/-- AccessTraps: an address that is not aligned; one past the partition's end; one in a buffer; a store into a VALID segment. -/
theorem w_accessTraps : (tState tSlot).me.atS = false ∧ OperandsOk (tState tSlot) [1] (some 7) ∧ OperandsOk (tState tSlot) [1, 2] none ∧
    (srcVal (tState tSlot) [1] 0 + (0#14).signExtend 64).toNat % 2 ≠ 0 ∧ (tState tSlot).me.id.size * 4096 < 0x40000 + 1 ∧
    (tNetState tLinked).inBuffer (tNetState tLinked).me 0x300F 1 = true ∧ (tNetState tLinked).inBuffer (tNetState tLinked).me 0x3010 1 = false ∧
    (tState tSlot).me.inCode 0xFF8 8 = true ∧ (tState tSlot).me.inCode 0x1000 8 = false :=
  ⟨by decide, ⟨by decide, by decide, rfl, rfl, by decide⟩, ⟨by decide, by decide, rfl, rfl, by decide⟩, by decide, by decide, by decide, by decide, by decide,
    by decide⟩

/-- BranchResults: a branch taken and one not. -/
theorem w_branchResults : OperandsOk (tState tSlot) [1, 2] none ∧ srcVal (tState tSlot) [1, 2] 0 ≠ srcVal (tState tSlot) [1, 2] 1 ∧
    OperandsOk (tState tSlot) [1, 1] none ∧ srcVal (tState tSlot) [1, 1] 0 = srcVal (tState tSlot) [1, 1] 1 :=
  ⟨⟨by decide, by decide, rfl, rfl, by decide⟩, by decide, ⟨by decide, by decide, rfl, rfl, by decide⟩, by decide⟩

/-- The process with segment 1 INFLIGHT, and its request. -/
def tFetching : Slot :=
  { tSlot with segs := [(0, { st := .valid }), (1, { st := .inflight, reqs := [⟨2, 0x2000, true, some [1], false, none, [], []⟩] })] }

/-- JumpResults: a target in the last bytes of a VALID segment; at S, of the supervisor partition; targets not aligned, outside the code
area, in an INVALID and in an INFLIGHT segment. -/
theorem w_jumpResults : OperandsOk (tAt 0xFFC) [8] (some 1) ∧ (0xFFC : Nat) < (tAt 0xFFC).me.codeSegs * 4096 ∧
    ((tAt 0xFFC).me.seg (0xFFC / 4096)).st = .valid ∧ OperandsOk (tState tSup) [3] (some 1) ∧ (tState tSup).me.atS = true ∧
    (srcVal (tState tSup) [3] 0 + (0#14).signExtend 64).toNat < Config.supSize ∧ OperandsOk (tState tSlot) [1] (some 1) ∧
    (srcVal (tState tSlot) [1] 0 + (0#14).signExtend 64).toNat % 4 ≠ 0 ∧ (tAt 0x40000).me.codeSegs * 4096 ≤ 0x40000 ∧
    ((tAt 0x1000).me.seg 1).st = .invalid ∧ ((tState tFetching).me.seg 1).st = .inflight :=
  ⟨⟨by decide, by decide, rfl, rfl, by decide⟩, by decide, by decide, ⟨by decide, by decide, rfl, rfl, by decide⟩, by decide, by decide,
    ⟨by decide, by decide, rfl, rfl, by decide⟩, by decide, by decide, by decide, by decide⟩

/-- OverlayResults: the last segment of the code area is fetched; a wait on each state of a segment. -/
theorem w_overlayResults : let s := tState (tRegs [(8, 63), (3, 0x2000)])
    OperandsOk s [8, 3] none ∧ s.me.atS = false ∧ (srcVal s [8, 3] 1).toNat % 4096 = 0 ∧ (srcVal s [8, 3] 1).toNat < 2 ^ 57 ∧
    (srcVal s [8, 3] 0).toNat < s.me.codeSegs ∧ s.pc.toNat / 4096 ≠ (srcVal s [8, 3] 0).toNat ∧
    s.me.histFull (histNeed [8, 3] none + 1) = false ∧ OperandsOk s [8] none ∧ (s.me.seg 63).st = .invalid ∧ (s.me.seg 0).st = .valid ∧
    ((tState tFetching).me.seg 1).st = .inflight :=
  ⟨⟨by decide, by decide, rfl, rfl, by decide⟩, by decide, by decide, by decide, by decide, by decide, by decide, ⟨by decide, by decide, rfl, rfl, by decide⟩,
    by decide, by decide, by decide⟩

/-- EmitResults: an `enop` is accepted on every queue. -/
theorem w_emitResults : let s := tState (tRegs [(8, 0x40400000)])
    OperandsOk s [0, 8] none ∧ OperandsOk s [] none ∧ EmitOk (taken s [0, 8]) .vq 0x4040000000000000 s.instrWord [] [] ∧
    EmitOk (taken s [0, 8]) .xq 0x4040000000000000 s.instrWord [] [] ∧ literalAccess s 0 0x100 = .go :=
  ⟨⟨by decide, by decide, rfl, rfl, by decide⟩, ⟨by decide, by decide, rfl, rfl, by decide⟩, ⟨rfl, by decide, by decide, Or.inl (by decide), by decide⟩,
    ⟨rfl, by decide, by decide, Or.inl (by decide), by decide⟩, by decide⟩

/-- RefusedWordTraps: a word that is none; a vector word for MQ. -/
theorem w_refusedWordTraps : OperandsOk (tState tSlot) [1, 4] none ∧ (tState tSlot).me.atS = false ∧
    (∃ r, decodeEng ((srcVal (tState tSlot) [1, 4] 1).extractLsb' 0 32 ++ (srcVal (tState tSlot) [1, 4] 0).extractLsb' 0 32) = .error r) ∧
    classFits ((srcVal (tState tSlot) [4, 4] 1).extractLsb' 0 32 ++ (srcVal (tState tSlot) [4, 4] 0).extractLsb' 0 32) (queueOf 1) = false :=
  ⟨⟨by decide, by decide, rfl, rfl, by decide⟩, by decide, ⟨.badField, by decide⟩, by decide⟩

/-- PatchFields: the least and the greatest selector and bit. -/
theorem w_patchFields : (0 : Nat) ≤ 15 ∧ (15 : Nat) ≤ 15 ∧ (63 : Nat) < 64 := by decide

/-- The process owning the matrix unit, with an open batch and a `mcommit` of batch 1 on MQ. -/
def tOwner (x : Slot) : State := { tState x with tiles := [(0, { owner := some 0 })] }

/-- QueueWaits: queues empty and not; the unit not owned; a mask not known; a batch open; a batch with a word and one without. -/
theorem w_queueWaits : OperandsOk (tState tSlot) [] none ∧ (¬ ∃ q : Queue, (7#3).getLsbD (queueNum q) = true ∧ (tState tSlot).me.eng.queue q ≠ []) ∧
    (∃ q : Queue, (1#3).getLsbD (queueNum q) = true ∧ (tState tBusy).me.eng.queue q ≠ []) ∧ (tState tSlot).ownsMatrix 0 = false ∧
    (tOwner tSlot).ownsMatrix 0 = true ∧ (tOwner tSlot).me.maskUnknown = false ∧
    (tOwner { tSlot with eng := { mq := [tWord 0x4030000000000000 3] } }).me.maskUnknown = true ∧
    (tOwner { tSlot with eng := { omask := 2 } }).me.eng.omask.getLsbD (1#3).toNat = true ∧
    (∃ w ∈ (tOwner { tSlot with eng := { mq := [tWord 0x2020000001000000 3] } }).me.eng.mq, ∃ f : MatF, f.batch = 1 ∧
      (decodeEng w.word = .ok (.mstep f) ∨ decodeEng w.word = .ok (.mcommit f))) :=
  ⟨⟨by decide, by decide, rfl, rfl, by decide⟩, by rintro ⟨q, _, h⟩; cases q <;> exact h rfl, ⟨.vq, by decide, by decide⟩, by decide, by decide,
    by decide, by decide, by decide, ⟨_, List.mem_singleton.mpr rfl, { zX with batch := 1 }, by decide, Or.inr (by decide)⟩⟩

/-- RecvbResults: one slot to an aligned range; no slot; the read of one slot. -/
theorem w_recvbResults : let s := tNetState { tLinked with pb := { g := [(1, 0x2000), (2, 1)] } }
    opReserved 32 = false ∧ burstRegs 1 2 = true ∧ s.me.committed = true ∧ s.portChan (opPort 32) = some tChan ∧ (s.me.port 0).isW = false ∧
    (s.me.bank.readG 1).toNat % 8 = 0 ∧ (s.me.bank.readG 2).toNat = 1 ∧ s.badRange 0 0x2000 (1 * tChan.size) true = false ∧
    (∀ j, j < 1 → (s.me.port 0).readAt tChan ((s.me.port 0).k + j) = .data) ∧
    (tNetState tLinked).portChan 0 = some tChan ∧ ((tNetState tLinked).me.port 0).readAt tChan 0 = .data := by decide

/-- SendbCompletes: as many slots as the port may send. -/
theorem w_sendbCompletes : let s := tNetState { tLinked with pb := { g := [(1, 0x2000), (2, 2)] } }
    opReserved 33 = false ∧ burstRegs 1 2 = true ∧ s.me.committed = true ∧ s.portChan (opPort 33) = some tChan ∧
    s.nets[(s.me.port 1).net]? = some tNet ∧ (s.me.port 1).isW = true ∧ s.me.writeClosed 1 = false ∧
    s.badRange 0 0x2000 (2 * tChan.size) false = false ∧ s.me.waitsSeg 0x2000 16 = false ∧ s.eccAt 0 0x2000 16 = false ∧
    (s.me.port 1).sev = false ∧ (∀ r ∈ tChan.liveReaders tNet, 2 ≤ (s.me.port 1).free.getD r 0) :=
  ⟨by decide, by decide, by decide, by decide, rfl, by decide, by decide, by decide, by decide, by decide, by decide, by decide⟩

/-- ChctlResults: a write port, a read port. -/
theorem w_chctlResults : let s := tNetState tLinked
    OperandsOk s [] none ∧ opIsPort 33 = true ∧ (s.me.port 1).bound = true ∧ (s.me.port 1).isW = true ∧ (s.me.port 1).sev = false ∧
    s.me.histFull 1 = false ∧ s.me.writeClosed 1 = false ∧ s.me.committed = true ∧ OperandsOk s [] (some 7) ∧ (s.me.port 0).bound = true ∧
    (s.me.port 0).isW = false ∧ s.me.streamReader 0 = false :=
  ⟨⟨by decide, by decide, rfl, rfl, by decide⟩, by decide, by decide, by decide, by decide, by decide, by decide, by decide,
    ⟨by decide, by decide, rfl, rfl, by decide⟩, by decide, by decide, by decide⟩

/-- The network with a channel of another slot size, or one that does not tolerate its end. -/
def tNetWith (x : Slot) (c : Chan) : State := { tNetState x with nets := [{ tNet with chans := [c] }] }

/-- PortOperandTraps: each of its cases. -/
theorem w_portOperandTraps : (tNetState tLinked).me.atS = false ∧ opReserved 48 = true ∧ opIsPort 32 = true ∧
    ((tState tSlot).me.port 0).bound = false ∧ ((tNetState tLinked).me.port 1).isW = true ∧
    portMapped (tNetState { tLinked with vec := { tLinked.vec with smap := 0x80 } }).me.vec.smap 0 = true ∧
    portMapped (tNetState tLinked).me.vec.smap 0 = false ∧
    (tNetWith tLinked { tChan with size := 16 }).chan? 0 0 = some { tChan with size := 16 } ∧
    (tNetWith tEnded { tChan with eostol := false }).chan? 0 0 = some { tChan with eostol := false } ∧
    (((tNetWith tEnded { tChan with eostol := false }).me.port 0).readAt { tChan with eostol := false } 0) = .fin ∧
    ({ bound := true, arr := [0], sev := true } : Port).readAt tChan 0 = .sev ∧ ({ bound := true, arr := [0] } : Port).readAt tChan 0 = .empty := by
  decide

/-- ArrivalResults: group 0, and a group of the slot. -/
theorem w_arrivalResults : let s := tNetState tLinked
    s.cur ≠ Config.controlSlot ∧ s.me.committed = true ∧ s.me.gen.heldExit = false ∧ s.me.eng.hist = [] ∧ s.nets[s.me.id.net]? = some tNet ∧
    (tNet.group? 0).isSome = true ∧ (tNet.group? 3).isSome = true ∧ s.me.id.gids.contains 3 = true :=
  ⟨by decide, by decide, by decide, by decide, rfl, by decide, by decide, by decide⟩

/-- GroupTraps: a group of others; one of the slot's with an older word unretired. -/
theorem w_groupTraps : (tNetState tLinked).me.atS = false ∧ (tNetState tLinked).inGroup 4 = false ∧ (tNetState tLinked).inGroup 0 = true ∧
    (tNetState { tLinked with eng := tBusy.eng }).inGroup 3 = true ∧ (tNetState { tLinked with eng := tBusy.eng }).me.committed = false := by decide

/-- SysrResults and SyswResults: each of their levels, the registers that a unit selects, the reads that wait for a unit. -/
theorem w_sysrResults : OperandsOk (tState tSlot) [] (some 7) ∧ OperandsOk (tState tSup) [] (some 7) ∧ OperandsOk State.reset [] (some 7) ∧
    ((tState tSlot).me.atP = true ∧ (tState tSlot).me.id.timing = false) ∧ (tState tSlot).me.segs.all (fun g => g.2.st != .inflight) = true ∧
    (∀ p, p < 16 → (tState tSlot).me.streamReader p = false) ∧ ((tState tSlot).me.eng.vq = [] ∧ (tState tSlot).me.eng.mq = []) ∧
    (1 ≤ (tState tSup).me.id.level.toNat ∧ (tState tSup).me.tr.saveop = 0 ∧ (tState tSup).selTenant = some 1) ∧
    2 ≤ State.reset.me.id.level.toNat ∧ State.reset.cur = Config.controlSlot ∧ (State.reset.die.csel.extractLsb' 0 5).toNat ≤ 16 ∧
    State.reset.selBucket = some 0 ∧ State.reset.die.scrub ≠ 1 ∧ State.reset.die.scrub ≠ 2 :=
  ⟨⟨by decide, by decide, rfl, rfl, by decide⟩, ⟨by decide, by decide, rfl, rfl, by decide⟩, ⟨by decide, by decide, rfl, rfl, by decide⟩, by decide, by decide, by decide,
    by decide, by decide, by decide, by decide, by decide, by decide, by decide, by decide⟩

theorem w_syswResults : OperandsOk (tState tSlot) [2] none ∧ OperandsOk (tState tSup) [2] none ∧ OperandsOk State.reset [2] none ∧
    (tState tSlot).me.histFull (histNeed [2] none + 1) = false ∧ (tState tSlot).me.committed = true ∧ (tState tSlot).me.eng.vq = [] ∧
    (tState tSlot).me.eng.mq = [] ∧ writeLevel (0x002 : BitVec 12).toNat = none ∧ (tState tSlot).levelOk (readLevel (0x002 : BitVec 12).toNat) = true :=
  ⟨⟨by decide, by decide, rfl, rfl, by decide⟩, ⟨by decide, by decide, rfl, rfl, by decide⟩, ⟨by decide, by decide, rfl, rfl, by decide⟩, by decide, by decide, by decide,
    by decide, by decide, by decide⟩

/-- PrivilegeTraps. -/
theorem w_privilegeTraps : (tState tSlot).me.atS = false ∧ (tState tSlot).levelOk (readLevel (0x040 : BitVec 12).toNat) = false ∧
    (tState tSlot).levelOk ((writeLevel (0x003 : BitVec 12).toNat).getD (readLevel (0x003 : BitVec 12).toNat)) = false ∧
    (tState tSlot).me.atP = true ∧ (tState tSlot).levelOk 2 = false := by decide

/-- TrapAndReturn: at and before the commit point, at P and at S. -/
theorem w_trapAndReturn : (tState tSlot).me.atS = false ∧ (tState tSlot).me.committed = true ∧ (tState tBusy).me.committed = false ∧
    (tState tSup).me.atP = false ∧ (tState tSup).me.committed = true ∧ (tState tSup).me.gen.heldExit = false ∧
    (tState { tSup with eng := tBusy.eng }).me.committed = false := by decide

/-- ExitResults: at P, at S in a running network, at C. -/
theorem w_exitResults : ((tNetState tLinked).me.atP = true ∧ (tNetState tLinked).me.committed = true) ∧
    (tNetState { tLinked with eng := tBusy.eng }).me.committed = false ∧ (tNetState { tLinked with id := tSup.id }).me.atS = true ∧
    (tNetState { tLinked with id := tSup.id }).nets[0]? = some tNet ∧ tNet.st = .running ∧ State.reset.me.atS = false ∧
    State.reset.me.atP = false :=
  ⟨by decide, by decide, by decide, rfl, by decide, by decide, by decide⟩

/-- DoubleFaults: level S; no slot waits. -/
theorem w_doubleFaults : (tState tSup).me.atS = true ∧ NoGroupWaits (tState tSup) := by
  refine ⟨by decide, fun i g e => ?_⟩
  have h : ((tState tSup).slot i).gen.wait = .none := by
    by_cases hi : i = 0
    · subst hi; rfl
    · simp [tState, State.slot, Sparse.get, Ne.symm hi]
  rw [h]; exact ⟨by simp, by simp⟩

/-- The control tile with register g1 set and bytes in its partition. -/
def tCtl (v : Word) (mem : Mem) : State :=
  { slots := [(4096, { controlSlotReset with pb := { g := [(1, v)] } })], tiles := [(1024, { sram := mem })] }

theorem ctlReady (v : Word) (mem : Mem) (h : OperandsOk (tCtl v mem) [1] (some 2)) : CtlReady (tCtl v mem) 2 1 := ⟨rfl, rfl, h⟩

/-- Every operation of `ctl`: it may act. -/
theorem w_ctlReady : CtlReady (tCtl 0 []) 2 1 ∧ CtlReady (tCtl 0x200000 []) 2 1 :=
  ⟨⟨by decide, by decide, by decide, by decide, rfl, rfl, by decide⟩, ⟨by decide, by decide, by decide, by decide, rfl, rfl, by decide⟩⟩

/-- CtlKeysAndTranslations: a buffer at the end of the partition and one past it; a record with a field out of range; a key slot empty and
full; a slot number out of range, a slot in use; a page whose leaf a word holds. -/
theorem w_ctlKeys : let s := tCtl 0x1FFFA0 []
    (srcVal s [1] 0).toNat + 96 ≤ s.me.id.size * 4096 ∧ ¬ (srcVal s [1] 0).toNat + 97 ≤ s.me.id.size * 4096 ∧ (s.key 0).full = false ∧
    s.secureState = true ∧ ((tCtl 0 [(0, 32)]).loadBytes 4096 0 96).getD 0 0 = 32 ∧
    ({ s with keys := [(0, { full := true })] }.key 0).full = true ∧ (srcVal (tCtl 32 []) [1] 0).toNat = 32 ∧
    keyInUse s 31 = false ∧ leafHeld s 0 0 = false := by decide

/-- CtlRequestsAndReports: no request queued, one queued; an answer to one that is pending. -/
theorem w_ctlRequests : let p : PageReq := ⟨1, 5, true, false, false, 0, 0, 0, 0, false, true, []⟩
    let s := { tCtl 0x1FFFE0 [] with pages := [p] }
    (srcVal s [1] 0).toNat + 32 ≤ s.me.id.size * 4096 ∧ s.pages = [] ++ p :: [] ∧ p.queued = true ∧ (tCtl 0 []).pages = [] ∧
    (∃ q ∈ s.pages, q.queued = true ∧ q.tenant = 1 ∧ q.vpn = 5) ∧ (tCtl 0 []).selTenant = some 0 ∧
    { tCtl 0 [] with die := { csel := 31 } }.selTenant = none ∧ secureTenant (tCtl 0 []) 0 = false := by
  refine ⟨by decide, rfl, rfl, rfl, ⟨_, List.mem_singleton.mpr rfl, rfl, rfl, rfl⟩, by decide, by decide, by decide⟩

/-- The control tile with the word of a region command in g1, on a region in a state. -/
def tRgn (v : Word) (g : Region) : State := { tCtl v [] with regions := [(0, g)] }

/-- The command word of a region command on region 0 for tenant 1. -/
def tCmd (n : Nat) (ctag : Nat) (tenant : Nat) : Word := BitVec.ofNat 64 (16 * n + 128 * tenant + 2 ^ 13 * ctag)

/-- A region that runs context 1 of tenant 1 and holds its context 0. -/
def tRunning : Region := { st := .running, tenant := 1, ctag := 1, ctxs := [⟨1, 1, none⟩, ⟨1, 0, none⟩] }

/-- RegionCommands: each command in order and out of order, on a region in a state that it takes and in one that it does not. -/
theorem w_regionCommands :
    (readRgnCmd (srcVal (tRgn (tCmd 0 0 1) {}) [1] 0)).bad 0 = false ∧ (readRgnCmd (srcVal (tRgn (-1) {}) [1] 0)).bad 0 = true ∧
    (readRgnCmd (tCmd 1 0 0)).bad 1 = false ∧ (readRgnCmd (tCmd 1 0 1)).bad 1 = true ∧ (readRgnCmd (tCmd 2 0 0)).bad 2 = false ∧
    (readRgnCmd (tCmd 3 0 16)).bad 3 = false ∧ (readRgnCmd (tCmd 3 0 17)).bad 3 = true ∧ (readRgnCmd (tCmd 5 255 1)).bad 5 = false ∧
    ((tRgn 0 { st := .free }).region 0).st = .free ∧ ((tRgn 0 tRunning).region 0).st = .running ∧
    (1, 1) ∈ [(1, 1), (2, 1), (1, 2), (2, 2), (2, 4), (4, 2), (4, 4)] ∧ ((tRgn 0 {}).tenant 1).rect = none ∧
    tRunning.ctxs.any (fun x => x.tenant == 1 && x.ctag == 2) = false ∧ tRunning.ctxs.length < 4 ∧
    tRunning.ctxs.find? (fun x => x.tenant == 1 && x.ctag == 0) = some ⟨1, 0, none⟩ ∧ tRunning.switching ≠ some ⟨1, 0, none⟩ ∧
    (tRgn 0 tRunning).die.scrub ≠ 1 := by decide

/-- The control tile's state with a loaded process of context 1 in slot 0 as well. -/
def tSwitch (x : Slot) : State :=
  let s := tRgn (tCmd 4 0 1) tRunning
  { s with slots := (0, x) :: s.slots }

/-- SwitchResults: a process still to be pre-empted; no process. -/
theorem w_switchResults : (readRgnCmd (srcVal (tSwitch tSlot) [1] 0)).bad 4 = false ∧ ((tSwitch tSlot).region 0).st = .running ∧
    tRunning.ctxs.find? (fun x => x.tenant == 1 && x.ctag == 0) = some ⟨1, 0, none⟩ ∧ ((tSwitch tSlot).region 0).switching = none ∧
    0 ∈ switchSlots (tSwitch tSlot) 0 ∧ ((tSwitch tSlot).slot 0).switchReady = false ∧
    switchSlots (tRgn (tCmd 4 0 1) tRunning) 0 = [] ∧ (readRgnCmd (tCmd 4 0 17)).bad 4 = true ∧ tRunning.ctxs.any (fun x => x.tenant == 1 && x.ctag == 2) = false := by
  refine ⟨by decide, by decide, by decide, by decide, by decide, by decide, ?_, by decide, by decide⟩
  have h : ∀ i ∈ slotsOfRegion 0, ((tRgn (tCmd 4 0 1) tRunning).slot i).id.loaded = false := by decide +kernel
  unfold switchSlots
  rw [List.filter_eq_nil_iff]
  intro i hi
  simp [h i hi]

/-- The control tile's state with a network LOADING for tenant 1, whose record stands at 4. -/
def tLoading (st : RgnSt) : State :=
  { tRgn (2 ^ 28 + 4) { st := st, tenant := 1 } with nets := [{ tNet with st := .loading, recOff := 4, procs := [] }] }

/-- The control tile's state with a network that runs and a saved process, and a rebinding block at 0x100 that sends it to slot 1 of
tile 64. -/
def tRebind (saved : Bool) (mem : Mem) : State :=
  { tCtl 0x100 mem with nets := [{ tNet with procs := [{ tProc with saved := saved }], chans := [] }]
                        regions := [(2, { st := .running, tenant := 1, ctxs := [⟨1, 0, none⟩] })] }

/-- CtlNetworks: a record that is named, in a region that is assigned and one that is not; none named; a network to be cancelled; a
rebinding of a process that is saved and of one that is not. -/
theorem w_ctlNetworks : (tLoading .assigned).nets[0]? = some { tNet with st := .loading, recOff := 4, procs := [] } ∧
    (srcVal (tLoading .assigned) [1] 0).toNat / 2 ^ 28 = 1 ∧ (srcVal (tLoading .assigned) [1] 0).toNat % 2 ^ 28 = 4 ∧
    (∀ j < 16, tNet.regions.getLsbD j = true → ((tLoading .assigned).region j).st = .assigned ∧ ((tLoading .assigned).region j).tenant = 1) ∧
    ((tLoading .free).region 0).st ≠ .assigned ∧ (tCtl 0 []).nets = [] ∧
    (tNet.nid.toNat = 1 ∧ tNet.st ≠ .retired ∧ tNet.st ≠ .rejected ∧ tNet.st ≠ .bindoff) ∧ rebindArg (tRebind true []) 0x100 = none ∧
    (rebindArg (tRebind true [(0x100, 1), (0x108, 16), (0x109, 4)]) 0x100).isSome = true ∧
    ((tRebind true []).region 2).runs 0 = false ∧ ((tRebind true []).slot 65).tr.savewant = none :=
  ⟨rfl, by decide, by decide, by decide, by decide, rfl, by decide, by decide +kernel, by decide +kernel, by decide, by decide⟩

/-- The process with one word on VQ. -/
def tVec (w : Word) : State := tState { tSlot with eng := { vq := [tWord w 3] } }

/-- The process with one word on VQ, whose v56 reads port 0, which has a slot, and whose v57 sends to port 1; slots of 64 bytes. -/
def tStream (w : Word) : State :=
  tNetWith { tLinked with eng := { vq := [tWord w 3] }, vec := { tLinked.vec with smap := 0x8180 } } { tChan with size := 64 }

/-- VectorFloatResults: register operands; an immediate; a stream source and a stream destination. -/
theorem w_vectorFloatResults : VecGo (tVec 0) (.vadd zV) (tWord 0 3) [none, none] none ∧
    VecGo (tVec 0) (.vadd { zV with sub := 8 }) (tWord 0 3) [none] none ∧
    VecGo (tStream 0) (.vsqrt { zV with vd := 57, va := 56 }) (tWord 0 3) [some ⟨0, 0, 1⟩] (some 1) :=
  ⟨⟨by decide, rfl, rfl, by decide, by decide, Or.inl rfl⟩, ⟨by decide, rfl, rfl, by decide, by decide, Or.inl rfl⟩,
    ⟨by decide, rfl, rfl, by decide, by decide, Or.inr (by decide)⟩⟩

theorem w_vectorIntResults : VecGo (tVec 0) (.viadd zV) (tWord 0 3) [none, none] none ∧
    VecGo (tStream 0) (.vsel { zV with vd := 57, va := 56, vb := 1 }) (tWord 0 3) [some ⟨0, 0, 1⟩, none] (some 1) ∧
    VecGo (tVec 0) (.viota zV) (tWord 0 3) [] none ∧ VecGo (tVec 0) (.vbcast zV) (tWord 0 3) [none] none :=
  ⟨⟨by decide, rfl, rfl, by decide, by decide, Or.inl rfl⟩, ⟨by decide, rfl, rfl, by decide, by decide, Or.inr (by decide)⟩,
    ⟨by decide, rfl, rfl, by decide, by decide, Or.inl rfl⟩, ⟨by decide, rfl, rfl, by decide, by decide, Or.inl rfl⟩⟩

theorem w_vectorMaskResults : VecGo (tVec 0) (.vcmp { zV with vd := 1 }) (tWord 0 3) [none, none] none ∧
    VecGo (tVec 0) (.mand { zV with vd := 7 }) (tWord 0 3) [] none ∧ VecGo (tVec 0) (.vsetvl { zV with imm := 65535 }) (tWord 0 3) [] none ∧
    VecGo (tStream 0) (.vicmp { zV with vd := 1, va := 56 }) (tWord 0 3) [some ⟨0, 0, 1⟩, none] none :=
  ⟨⟨by decide, rfl, rfl, by decide, by decide, Or.inl rfl⟩, ⟨by decide, rfl, rfl, by decide, by decide, Or.inl rfl⟩,
    ⟨by decide, rfl, rfl, by decide, by decide, Or.inl rfl⟩, ⟨by decide, rfl, rfl, by decide, by decide, Or.inl rfl⟩⟩

/-- VectorGroupResults: a reduction, a merge, the last row of a normalisation; VL zero and not. -/
theorem w_vectorGroupResults : VecGo (tVec 0) (.vredsum zV) (tWord 0 3) [none] none ∧ 0 < (tVec 0).me.id.vlmax ∧ (tVec 0).me.vec.vl ≠ 0 ∧
    (tState { tSlot with vec := {} }).me.vec.vl = 0 ∧ VecGo (tVec 0) (.vmrg { zV with va := 8, vb := 16 }) (tWord 0 3) [none, none] none ∧
    VecGo (tVec 0) (.vnorm { zV with va := 8, vc := 1, imm := 15 }) (tWord 0 3) [none] none ∧
    ({ zV with imm := 15 }).imm.toNat < (tVec 0).me.id.vlmax :=
  ⟨⟨by decide, rfl, rfl, by decide, by decide, Or.inl rfl⟩, by decide, by decide, by decide,
    ⟨by decide, rfl, rfl, by decide, by decide, Or.inl rfl⟩, ⟨by decide, rfl, rfl, by decide, by decide, Or.inl rfl⟩, by decide⟩

/-- The process with a memory word on VQ whose base is in e1. -/
def tMem (base : Word) : State := tState { tSlot with eng := { vq := [tWord 0x1000000000000000 3] }, pb := { ev := [(1, base)] } }

/-- VectorLoadResults: a load of which every element may be accessed, up to the last byte of the partition; a first-faulting one whose last
lane may not. -/
theorem w_vectorLoadResults : VecGo (tMem 0x3FFC0) (.vld { zM with eb := 1 }) (tWord 0x1000000000000000 3) [] none ∧
    (∀ k < 16, elemBad (tMem 0x3FFC0) ((tMem 0x3FFC0).me.window 0) false (0x3FFC0 + k * 4) = false) ∧
    ((tMem 0x3FFC0).me.window 0).fmt.size = 4 ∧ (tMem 0x3FFC4).me.active 0 15 = true ∧
    elemBad (tMem 0x3FFC4) ((tMem 0x3FFC4).me.window 0) false (0x3FFC4 + 15 * 4) = true ∧
    (∀ k < 15, elemBad (tMem 0x3FFC4) ((tMem 0x3FFC4).me.window 0) false (0x3FFC4 + k * 4) = false) ∧ (tMem 0x3FFC4).me.active 0 0 = true :=
  ⟨⟨by decide, rfl, rfl, by decide, by decide, Or.inl rfl⟩, by decide, by decide, by decide, by decide, by decide, by decide⟩

/-- VectorStoreResults: a store, and a scatter-add whose lanes all meet at index 0. -/
theorem w_vectorStoreResults : VecGo (tMem 0x3FFC0) (.vst { zM with eb := 1 }) (tWord 0x1000000000000000 3) [none] none ∧
    VecGo (tMem 0x3FFC0) (.vscadd { zM with eb := 1 }) (tWord 0x1000000000000000 3) [none, none] none ∧
    (∀ k < 16, elemBad (tMem 0x3FFC0) ((tMem 0x3FFC0).me.window 0) true (0x3FFC0 + k * 4) = false ∧
      (tMem 0x3FFC0).eccAt 0 (0x3FFC0 + k * 4) 4 = false) :=
  ⟨⟨by decide, rfl, rfl, by decide, by decide, Or.inl rfl⟩, ⟨by decide, rfl, rfl, by decide, by decide, Or.inl rfl⟩, by decide⟩

theorem w_permuteResults : VecGo (tVec 0) (.vperm zM) (tWord 0 3) [none, none] none ∧ VecGo (tVec 0) (.vcompress zM) (tWord 0 3) [none] none ∧
    VecGo (tStream 0) (.vrot { zM with vd := 57, off := 56 * 65536 }) (tWord 0 3) [some ⟨0, 0, 1⟩] (some 1) :=
  ⟨⟨by decide, rfl, rfl, by decide, by decide, Or.inl rfl⟩, ⟨by decide, rfl, rfl, by decide, by decide, Or.inl rfl⟩,
    ⟨by decide, rfl, rfl, by decide, by decide, Or.inr (by decide)⟩⟩

/-- The process with a word on MQ: e0, e1 describe one row of 64 elements at 0x2000. -/
def tMat (w : Word) : State :=
  { tState { tSlot with eng := { mq := [{ tWord w 3 with q := .mq }] }, pb := { em := [(0, 0x2000), (1, 64)] } } with curQ := .mq }

/-- AccumulatorResults: an accumulator of the process, both operands in SRAM, in the mode of the format. -/
theorem w_accumulatorResults : let s := tMat 0x2010000000000000
    s.startable = some { tWord 0x2010000000000000 3 with q := .mq } ∧ s.accForeign 1 = false ∧ s.panelFault 0 0 = false ∧ s.panelOut 0 0 1 2 = false ∧
    s.panelEcc 0 0 1 2 = false ∧ (s.acc 1).mode = modeOf 0 ∧ matDepth zX = 1 ∧ matSize 0 true = 2 ∧ matSize 0 false = 2 := by
  refine ⟨by decide, by decide, by decide, ?_, by decide, by decide, by decide, by decide, by decide⟩
  decide

/-- ReadoutResults: a readout; a store through window 0; a save block at the start of the data area. -/
theorem w_readoutResults : let s := tMat 0x2030000000000000
    s.startable = some { tWord 0x2030000000000000 3 with q := .mq } ∧ s.accForeign 0 = false ∧ (s.acc 0).opn = 0 ∧ (s.acc 0).mode ≠ .flt ∧
    (s.me.panel 0).wrong = false ∧ (s.me.panel 0).rot = 0 ∧
    (∀ e < 1 * (s.me.panel 0).nel, elemBad s (s.me.window 0) true ((s.me.panel 0).addr 4 (e / 64) (e % 64)) = false ∧
      s.eccAt 0 ((s.me.panel 0).addr 4 (e / 64) (e % 64)) 4 = false) ∧
    s.blockOut 0x2000 true = false ∧ s.blockOut 0x2000 false = false ∧ eccRanges s 0 [(0x2000, 49216)] = false := by
  refine ⟨by decide, by decide, by decide, by decide, by decide, by decide, ?_, by decide, by decide, by decide⟩
  decide

/-- The descriptor of one element of 8 bytes: source 0x4000, destination 0x5000 or none. -/
def tDesc (dst : Bool) : Mem := [(0x2001, 0x40)] ++ (if dst then [(0x2009, 0x50)] else []) ++ [(0x2010, 0x31), (0x2020, 1)]
/-- A parameter block of one row of 8 bytes. -/
def tGather (dst : Bool) : Mem := (if dst then [(0x2011, 0x50)] else []) ++ [(0x2018, 1), (0x2021, 8)]

/-- A copy word past its fault point, of a process of the network, with its descriptor at 0x2000. -/
def tMover (i : Instr) (part : List Byte) (mem : Mem) : QEntry :=
  { tWord ((encodeEng i).getD 0) 3 with
    stat := .passed, q := .xq, prog := { part := part, idx := [0], leaves := [(0, 1)], desc := 0x2000, block := mem.bytes 0x2000 64 } }
/-- The machine with it. -/
def tCopy (i : Instr) (part : List Byte) (mem : Mem) : State :=
  { tNetState { tLinked with eng := { xq := [tMover i part mem] }, pb := { ex := [(0, 0x7000)] } } with
    tiles := [(0, { sram := mem })], curQ := .xq }
/-- The machine with the word not yet started, its descriptor at 0x2000. -/
def tCopyStart (i : Instr) (mem : Mem) : State :=
  { tNetState { tLinked with eng := { xq := [{ tWord ((encodeEng i).getD 0) 3 with q := .xq }] }, pb := { ex := [(0, 0x2000)] } } with
    tiles := [(0, { sram := mem })], curQ := .xq, tlb1 := [⟨memoryPort 0 0, 1, 0, 3⟩] }

/-- CopyMoves: an element of each copy word, from the partition and from DRAM; one whose source holds an error; a descriptor in a bad word,
one that is not well formed; a side out of bounds; a port not bound; the page at hand, a page that is not, one out of range. -/
theorem w_copyMoves : (tCopy (.xcopy zC) [] (tDesc true)).startable = none ∧
    (tCopy (.xcopy zC) [] (tDesc true)).mover = some (tMover (.xcopy zC) [] (tDesc true)) ∧
    (∃ j, (tCopy (.xcopy zC) [] (tDesc true)).jobAt ⟨false, .part, false⟩ (tMover (.xcopy zC) [] (tDesc true)) = some j ∧ j.size = 8 ∧
      j.dst 0 = 0x5000 ∧ j.src 0 = 0x4000 ∧ srcBad (tCopy (.xcopy zC) [] (tDesc true)) ⟨false, .part, false⟩ (tMover (.xcopy zC) [] (tDesc true)) j 0 = false) ∧
    (tCopy (.xgather zC) [] (tGather true)).mover = some (tMover (.xgather zC) [] (tGather true)) ∧
    (∃ j, (tCopy (.xgather zC) [] (tGather true)).jobAt ⟨true, .part, true⟩ (tMover (.xgather zC) [] (tGather true)) = some j ∧ j.size = 8 ∧
      j.dst 0 = 0x5000) ∧
    (tCopy (.xcopy zC) [] (tDesc true)).badRange 0 0x5000 8 true = false ∧ (tCopy (.xcopy zC) [] (tDesc true)).eccAt 0 0x4000 8 = false ∧
    ({ tCopy (.xcopy zC) [] (tDesc true) with tiles := [(0, { sram := tDesc true, ecc := [0x4000 / 8] })] }).eccAt 0 0x4000 8 = true ∧
    (∃ bs u, fetchRange (tCopy (.xget zC) [] (tDesc true)) 0 (tMover (.xget zC) [] (tDesc true)) 0x4000 8 = (some bs, u)) ∧
    (tCopy (.xput zC) [] (tDesc true)).procOf 0 = some (0, tNet, tProc) ∧ leafOf [(0, 1#64)] (vpnOf 0x5007) = some 1 ∧ leafTarget 1 ≠ 12 :=
  ⟨by decide, by decide, ⟨_, rfl, by decide, by decide, by decide, by decide⟩, by decide, ⟨_, rfl, by decide, by decide⟩, by decide, by decide,
    by decide, ⟨_, _, rfl⟩, rfl, by decide, by decide⟩

theorem w_copyStarts : (tCopyStart (.xcopy zC) (tDesc true)).startable.isSome = true ∧
    descEcc (tCopyStart (.xcopy zC) (tDesc true)) ⟨false, .part, false⟩ 0x2000 = false ∧
    descEcc { tCopyStart (.xcopy zC) [] with tiles := [(0, { ecc := [0x2000 / 8] })] } ⟨false, .part, false⟩ 0x2000 = true ∧
    (jobOf (tCopyStart (.xcopy zC) [(0x2020, 1)]) ((tCopyStart (.xcopy zC) [(0x2020, 1)]).byteAt 0) ⟨false, .part, false⟩ 0x2000 []).isNone = true ∧
    (∃ j, jobOf (tCopyStart (.xcopy zC) (tDesc true)) ((tCopyStart (.xcopy zC) (tDesc true)).byteAt 0) ⟨false, .part, false⟩ 0x2000 [] = some j ∧
      jobOut (tCopyStart (.xcopy zC) (tDesc true)) ⟨false, .part, false⟩ j = false ∧
      j.count * j.size % tChan.size = 0 ∧ jobOut (tState tSlot) ⟨false, .part, false⟩ { j with dst := fun _ => 0x40000 } = true) ∧
    ((tState tSlot).me.port 0).bound = false ∧ ((tNetState tLinked).me.port 0).isW = false ∧ ((tNetState tLinked).me.port 1).isW = true ∧
    ((tNetState tLinked).me.port 1).sev = false ∧
    (∃ lv us t, touchPages (tCopyStart (.xget zC) (tDesc true)) 0 ⟨false, false, false, 0, none⟩ [(0x4000, 8)] [] [] = (.ok lv us, t) ∧
      rangeConflicts t 0 lv [(0x4000, 8)] = ([], none)) ∧
    (∃ r, translate (tState tSlot) 0 1 false 0 false false = r) :=
  ⟨by decide, by decide, by decide, by decide, ⟨_, rfl, by decide, by decide, by decide⟩, by decide, by decide, by decide, by decide,
    ⟨_, _, _, rfl, rfl⟩, ⟨_, rfl⟩⟩

/-- StreamMoves: a slot not yet full, a slot to send, of a descriptor and of a gather; a port that is not severed. -/
theorem w_streamMoves : let x : CopyF := { zC with imm := 1, mode := 1 }
    let s := tCopy (.xstream x) [] (tDesc false)
    s.startable = none ∧ s.mover = some (tMover (.xstream x) [] (tDesc false)) ∧
    (∃ j, s.jobAt ⟨true, .chan 1 true, false⟩ (tMover (.xstream x) [] (tDesc false)) = some j ∧ j.size = 8) ∧
    (∃ j, (tCopy (.xgather x) [] (tGather false)).jobAt ⟨true, .chan 1 false, true⟩ (tMover (.xgather x) [] (tGather false)) = some j ∧ j.size = 8) ∧
    (tCopy (.xgather x) [] (tGather false)).mover = some (tMover (.xgather x) [] (tGather false)) ∧ (s.me.port 1).sev = false ∧
    (∀ a ∈ s.me.eng.words, a.olderFor (tMover (.xstream x) [] (tDesc false)) = false) ∧
    (tMover (.xstream x) [] (tDesc false)).prog.part.length < tChan.size ∧
    tChan.size ≤ (tMover (.xstream x) [1, 2, 3, 4, 5, 6, 7, 8] (tDesc false)).prog.part.length ∧
    (tCopy (.xstream x) [1, 2, 3, 4, 5, 6, 7, 8] (tDesc false)).mover.isSome = true ∧ (s.me.port 1).freeCount tChan tNet ≠ some 0 :=
  ⟨by decide, by decide, ⟨_, rfl, by decide⟩, ⟨_, rfl, by decide⟩, by decide, by decide, by decide, by decide, by decide, by decide, by decide⟩

/-- A pattern of one `enop` at 0x2000, without levels. -/
def tPattern : Mem := [(0x2026, 0x40), (0x2027, 0x40)]

/-- The process with a word on VQ, and the pattern. -/
def tQueue (w : Word) (rpat : Word) : State :=
  { tState { tSlot with eng := { vq := [tWord w 3] }, pb := { ev := [(1, 0x2000)] }, tr := { rpat := rpat } } with
    tiles := [(0, { sram := tPattern })] }

/-- QueueWordResults: a word that may start, a join that holds and one that does not; a replay from its first position, one from a parked
position, one without; a pattern that cannot be read, one that is not well formed, one in a bad word. -/
theorem w_queueWordResults : (tQueue 0x4040000000000000 0).startable = some (tWord 0x4040000000000000 3) ∧ StoresClean (tQueue 0 0) 0 ∧
    (let s := tState { tSlot with eng := { vq := [tWord 0x4025000000000000 3]
                                           mq := [{ tWord 0x2000000000000000 2 with stat := .done, q := .mq }] } }
     s.startable = some (tWord 0x4025000000000000 3) ∧
       s.me.eng.words.any (fun o => o.olderFor (tWord 0x4025000000000000 3) && o.q != s.curQ && (2#3).getLsbD (queueNum o.q)) = true ∧
       s.me.eng.words.any (fun o => o.olderFor (tWord 0x4025000000000000 3) && o.q != s.curQ && (4#3).getLsbD (queueNum o.q)) = false) ∧
    (∃ h, readPHead ((tQueue 0 0).byteAt 0) (tQueue 0 0).me.outside (tQueue 0 0).me.partSize 0x2000 = some h ∧ h.total = 5 ∧
      (tQueue 0 0).eccAt 0 0x2000 (8 * h.total) = false ∧ patternOk ((tQueue 0 0).byteAt 0) 0x2000 h = true ∧
      patternOk (fun _ => 255) 0x2000 h = false ∧
      { tQueue 0 0 with tiles := [(0, { ecc := [0x2000 / 8] })] }.eccAt 0 0x2000 (8 * h.total) = true) ∧
    readPHead ((tQueue 0 0).byteAt 0) (tQueue 0 0).me.outside (tQueue 0 0).me.partSize 0x40000 = none ∧
    ((0x8000000000002000 : Word).getLsbD 63 = true ∧ ((0x8000000000002000 : Word).extractLsb' 0 21).toNat = 0x2000) :=
  ⟨by decide, by decide, by decide, ⟨_, rfl, by decide, by decide, by decide, by decide, by decide⟩, by decide, by decide⟩

/-- WakeAndEntryResults: a read port with a slot, a write port with room, a barrier and a phase whose episode has come, and one with a
member that is stopped; a fault that waits; a slot to be pre-empted at P, with a word at work, and at S; a verdict taken so. -/
theorem w_wakeAndEntry : (∀ v, readReady (tNetState tLinked) 0 0 0 ≠ .wait v) ∧ (∀ v, writeReady (tNetState tLinked) 0 1 ≠ .wait v) ∧
    tNet.group? 3 = some ⟨3, 0, (0, 0, 1, 1), [0], 0, [], []⟩ ∧ 0 ≤ (tNetState tLinked).episodes 0 0 3 ∧
    (∃ p ∈ [{ tProc with stopped := true }], [0].contains p.pid = true ∧ p.exited = false ∧ Sparse.get 0 [] p.pid < 1 ∧ p.stopped = true) ∧
    (tNetState tLinked).me.gen.heldExit = false ∧ (tState tSlot).me.committed = true ∧ StoresClean (tState tSlot) 0 ∧
    (Cause.align ≠ .preempt ∧ Cause.align ≠ .eccfatal ∧ Cause.deadlock ≠ .preempt) ∧
    ((tState tSlot).me.id.loaded = true ∧ (tState tSlot).me.id.exited = false ∧ (tState tSlot).me.id.stopped = false ∧
      (tState tSlot).me.gen.stopping = false) ∧
    ((tState tSlot).me.id.level = 0 ∧ (tState tSlot).me.gen.entering = none ∧ (tState tSlot).me.gen.verdict = none) ∧
    drained { tSlot with eng := { vq := [{ tWord 0 3 with stat := .passed }] } } = false ∧ (tState tSup).me.id.level ≠ 0 := by
  refine ⟨fun v h => ?_, fun v h => ?_, by decide, by decide, ⟨_, List.mem_singleton.mpr rfl, by decide, by decide, by decide, by decide⟩,
    by decide, by decide, by decide, by decide, by decide, by decide, by decide, by decide⟩
  · have : readReady (tNetState tLinked) 0 0 0 = .go := rfl
    rw [this] at h; cases h
  · have : writeReady (tNetState tLinked) 0 1 = .go := rfl
    rw [this] at h; cases h

/-- SegmentEvents: a request whose image is at hand, alone and with a later one behind it; one that has failed. -/
theorem w_segmentEvents : ((tState tFetching).me.seg 1).queued = some ⟨2, 0x2000, true, some [1], false, none, [], []⟩ ∧
    ((tState tFetching).me.seg 1).st = .inflight ∧ ((tState tFetching).me.seg 1).later = [] ∧
    ({ st := .inflight, reqs := [⟨2, 0x2000, true, some [1], false, none, [], []⟩, ⟨4, 0x3000, false, none, false, none, [], []⟩] } : Seg).later =
      ⟨4, 0x3000, false, none, false, none, [], []⟩ :: [] ∧
    ((⟨2, 0x2000, true, none, false, some 1, [], []⟩ : SegReq)).fail = some 1 := by decide

/-- A `replay` at work on VQ, before position `w` of its pattern. -/
def tReplaying (w : Nat) : State :=
  { tState { tSlot with eng := { vq := [{ tWord 0x4031000000000000 3 with stat := .waiting }]
                                 replay := some ⟨.vq, 0x2000, [], w, 1, 1, 0, 0, 0, []⟩ } } with tiles := [(0, { sram := tPattern })] }

/-- EngineEventResults: a pattern with a word to issue and one at its end; a word that can retire; an entry of the hold buffer. -/
theorem w_engineEvents :
    ((tReplaying 0).me.eng.ordered.find? fun w => w.stat == .waiting && isReplay w.word) =
      some { tWord 0x4031000000000000 3 with stat := .waiting } ∧
    bodyWord ((tReplaying 0).byteAt 0) 0x2000 ⟨1, 0, 0, 0, 0, []⟩ [] 0 = 0x4040000000000000 ∧
    bodyIssues ((tReplaying 0).byteAt 0) 0x2000 ⟨1, 0, 0, 0, 0, []⟩ [] 0 = true ∧ (1 ≤ 1) ∧
    judgeWord (tReplaying 0) 0 (issueSide (tReplaying 0) 0 3) .vq 0x4040000000000000 0x4040000000000000 = .ok [] [] ∧
    (let x := { tSlot with eng := { vq := [{ tWord 0 3 with stat := .done }] } }
     x.eng.ordered.find? x.retirable = some { tWord 0 3 with stat := .done } ∧ copyGathers 0 = none ∧ isReplay 0 = false) ∧
    (let s := tNetState { tLinked with eng := { hold := [⟨3, 0, 1, [[1]]⟩] } }
     s.me.eng.hold = ⟨3, 0, 1, [[1]]⟩ :: [] ∧ (s.me.port 1).sev = false ∧ (s.me.port 1).freeCount tChan tNet ≠ some 0) :=
  ⟨by decide, by decide, by decide, by decide, rfl, by decide, by decide⟩

/-- A packet of the channel for its first endpoint. -/
def tPkt (k : PktKind) (node : Option (Nat × Nat)) : Pkt :=
  { kind := k, gen := 0, seq := 0, count := 1, src := 0, dst := 0, node := node, data := [1, 2, 3, 4, 5, 6, 7, 8] }

/-- PacketResults: each kind of packet of a channel, one of another generation, one that no gate admits, a full buffer, an end mark whose
slots have not all come, credits that are owed, a slot of the skein. -/
theorem w_packetResults : let e : Ep := ⟨0, 0, 0, 0, false⟩
    let s := tNetWith tLinked { tChan with transit := [tPkt .slot none] }
    s.chan? 0 0 = some { tChan with transit := tPkt .slot none :: [] } ∧ tChan.readers[0]? = some e ∧ tChan.mirror = false ∧
    tNet.savedAt e = false ∧ s.gateAdmits tNet tChan (tPkt .slot none) = true ∧ s.epLive 0 tChan e 0 = true ∧ s.epLive 0 tChan e 1 = false ∧
    (s.epPort e).sev = false ∧ (s.epPort e).held tChan 0 < tChan.cap0 ∧ { tChan with cap0 := 1 }.cap0 ≤ (s.epPort e).held { tChan with cap0 := 1 } 0 ∧
    (tPkt .slot none).data.length = tChan.size ∧ (0 < tChan.streams ∧ e.slot < 4) ∧
    (tChan.reduce && tChan.endpt && atOrBelow tChan.cut 0) = false ∧ s.epLive 0 tChan ⟨0, 0, 1, 0, false⟩ 0 = true ∧
    tChan.writers[0]? = some ⟨0, 0, 1, 0, false⟩ ∧ (∀ j, j < tChan.streams → 0 / tChan.legs ≤ (s.epPort e).arr.getD j 0) ∧
    (s.epPort e).arr.getD 0 0 < 2 / tChan.legs ∧
    (let c : Chan := { tChan with writers := [⟨16, 0, 1, 0, false⟩] }
     s.gateAdmits tNet c (tPkt .slot none) = false) ∧
    (tNetState { tEnded with ports := [(0, { bound := true, owed := [(0, 255)] })] }).epPort e = { bound := true, owed := [(0, 255)] } := by decide

/-- A mirrored channel of two writers. -/
def tMirror : Chan := { tChan with mirror := true, writers := [⟨0, 0, 1, 0, false⟩, ⟨0, 1, 1, 1, false⟩] }

/-- PacketResults, of a mirrored channel: the first slot of a pair, the second, equal and different; an end mark. -/
theorem w_mirroredResults : let e : Ep := ⟨0, 0, 0, 0, false⟩
    let one : Slot := { tLinked with ports := [(0, { bound := true, arr := [0, 1] })] }
    let s := tNetWith one { tMirror with transit := [tPkt .slot none] }
    s.chan? 0 0 = some { tMirror with transit := tPkt .slot none :: [] } ∧ tMirror.skein = [] ∧ tMirror.readers[0]? = some e ∧
    s.gateAdmits tNet tMirror (tPkt .slot none) = true ∧ s.epLive 0 tMirror e 0 = true ∧ (0 < tMirror.size ∧ (tPkt .slot none).src < 2) ∧
    (s.epPort e).diff = none ∧ (s.epPort e).arr.getD 0 0 - (s.epPort e).kc < tMirror.cap0 ∧ Sparse.get none tMirror.ends 0 = none ∧
    (0 < (s.epPort e).arr.getD 1 0 ∧ (s.epPort e).kc ≤ 0 ∧ (s.tile 0).sram.bytes (0x3000 + 2 * 8) 8 ≠ (tPkt .slot none).data) ∧
    (s.tile 0).sram.bytes (0x3000 + 2 * 8) 8 = List.replicate 8 0 ∧
    (((tNetState tEnded).epPort e).arr.getD 1 0 ≤ 0 ∧ (0 : Nat) ≤ ((tNetState tEnded).epPort e).kc) := by decide

/-- PacketResults, at a node of a tree of three: an input that waits, one whose partner is there, the odd one, one over a contributor that
has closed; a router with room. -/
theorem w_reduceNodeResults :
    let c : Chan := { tChan with reduce := true, writers := [⟨0, 0, 1, 0, false⟩, ⟨0, 1, 1, 0, false⟩, ⟨0, 2, 1, 0, false⟩]
                                 nodes := [⟨0, 1, 0, [1]⟩] }
    let s := tNetWith tLinked { c with transit := [tPkt .slot (some (0, 0))] }
    s.gateAdmits tNet c (tPkt .slot (some (0, 0))) = true ∧ (∀ e ∈ c.readers ++ c.writers, e.remote = false) ∧
    c.cutOff 1 0 0 = false ∧ nodeSingle 3 0 0 = false ∧ nodeSingle 3 0 2 = true ∧ 0 + 1 < treeLevels 3 ∧ treeLevels 3 ≤ 1 + 1 ∧
    (c.nodes.find? fun x => x.lvl == 0 && x.k == 0 && x.num / 2 == 0 / 2 && x.num != 0) = some ⟨0, 1, 0, [1]⟩ ∧
    (c.nodes.find? fun x => x.lvl == 0 && x.k == 1 && x.num / 2 == 2 / 2 && x.num != 2) = none ∧
    routerHolds s (c.nodeTile 1 0) < 64 ∧ { c with ends := [(1, some 0)] }.cutOff 1 0 0 = true := by decide

/-- LinkAndTimeEvents: the greatest SEQ is expected and comes, one ahead, one delivered before; a message of another generation; a request
kept. -/
theorem w_linkEvents : let m : UalMsg := ⟨0, 0, 0, 0xFFFFFF, .slot, 0, 0, 0, 0, []⟩
    let s := { tNetState tLinked with ual := [(2, { next := [(0, 0xFFFFFF)], sent := [m] })] }
    m.part = 0 ∧ (s.ualPort 2).reseq = [] ∧ s.chan? m.net m.chid = some tChan ∧ tChan.size ≠ 272 ∧ m.gen = tChan.gen ∧ tChan.crypt = false ∧
    Sparse.get 0 (s.ualPort 2).next ((65536 * 0 + 0) * 4096 + 0) % 2 ^ 24 = m.seq.toNat ∧
    (0xFFFFFF + (2 ^ 24 - 0xFFFFFE % 2 ^ 24)) % 2 ^ 24 = 1 ∧ 2 ^ 23 ≤ (0xFFFFFF + (2 ^ 24 - 0x1000000 % 2 ^ 24)) % 2 ^ 24 ∧
    { m with gen := 1 }.gen ≠ tChan.gen ∧ (tChan.readers.map (·.slotNo)).Nodup ∧ (s.ualPort 2).sent = m :: [] ∧
    0 < (s.ualPort 2).sent.length ∧ Sparse.wf {} (tNetState tLinked).buckets = true := by decide

/-- The process blocked on the write of port 1, whose two places are taken. -/
def tBlocked : Slot :=
  { tLinked with ports := [(1, { bound := true, isW := true, net := 0, ch := 0, free := [0] })], gen := { tSlot.gen with wait := .writePort 1 } }

/-- LinkAndTimeEvents: a tenant of which one process runs, one is blocked on a write, on a read; a network with room in its skein and one
without; a process blocked at its instruction, at a word, at one past its fault point. -/
theorem w_detectorEvents :
    heldBack (tNetState tLinked) 1 = false ∧ (tNetState tLinked).tenant 1 = {} ∧
    (liveProcs (tNetState tLinked) 1).map (fun x => x.2.2.st) = [0] ∧ (liveProcs (tNetState tBlocked) 1).map (fun x => x.2.2.st) = [2] ∧
    (liveProcs (tNetState { tEnded with ports := [(0, { bound := true })], gen := { tSlot.gen with wait := .readPort 0 0 } }) 1).map
      (fun x => x.2.2.st) = [1] ∧
    waveTotals (tNetState tBlocked) 1 {} = [0, 0, 0, 0] ∧ waveBusy (tNetState tBlocked) 1 {} = false ∧
    blockedChans (tNetState tBlocked) 1 (liveProcs (tNetState tBlocked) 1) {} = [(0, tChan)] ∧
    ¬ tNet.skeinUsed + 64 * tChan.size * (tChan.readers.length * tChan.legs) ≤ tNet.skeinSize.toNat ∧
    0 + 64 * tChan.size * (tChan.readers.length * tChan.legs) ≤ 512 ∧ tChan.grown < 0xFFFF ∧ (tNetState tBlocked).me.atP = true ∧
    (tNetState tBlocked).me.committed = true ∧ (tState tBusy).me.committed = false ∧ (tWord 0 3).isPast = false ∧
    { tWord 0 3 with stat := .passed }.isPast = true := by decide

theorem w_detectorWave : tenantNets (tNetState tLinked) 1 ≠ [] := by
  have : tenantNets (tNetState tLinked) 1 = [(0, tNet)] := rfl
  rw [this]; simp

/-- GroupEventResults: the only member has arrived, at a barrier and at a boundary, of group 3 and of group 0; two members that wrote one
byte, of a network in strict mode; a contribution. -/
theorem w_groupEvents : let g : Group := ⟨3, 0, (0, 0, 1, 1), [0], 0, [(0, 1)], [(0, 1)]⟩
    let n : Net := { tNet with groups := [g, { g with gid := 0 }] }
    n.group? 3 = some g ∧ n.group? 0 = some { g with gid := 0 } ∧ (∃ p ∈ n.members g, g.epoch + 1 ≤ Sparse.get 0 g.bar p.pid) ∧
    (n.members g).filter (fun p => !p.exited) = tProc :: [] ∧ (n.procs.map (·.pid)).Nodup ∧
    Sparse.get 0 g.ph tProc.pid = knows tProc.know 3 + 1 ∧ Sparse.wf none tProc.wset = true ∧ Sparse.wf 0 tProc.know = true ∧
    (∀ c ∈ [(⟨0, 0x1000, 1⟩ : Contrib)], c.va % 4 = 0) ∧
    (let p : Proc := { tProc with wset := [(0x1000, some 1)] }
     let q : Proc := { p with pid := 1, slot := 1 }
     let m : Net := { n with strict := true, procs := [p, q], groups := [{ g with members := [0, 1] }] }
     (m.members { g with members := [0, 1] }).filter (fun p => !p.exited) = p :: [q] ∧ [p, q].filter (fun q => (Sparse.get none q.wset 0x1000).isSome) = p :: q :: [] ∧
       (([p, q].filter fun q => !q.saved).map (·.slotNo)).Nodup ∧ (tNetState tLinked).me.atP = true ∧ (tNetState tLinked).me.committed = true) := by
  decide

/-- SaveAndRegisterEvents: a save area whose page a TLB holds; a slot with nothing unretired; the unit owned; a bucket selected. -/
theorem w_saveAndRegisters :
    (let s := { tState tSlot with tlb1 := [⟨memoryPort 0 0, 1, 0, 3⟩] }
     s.me.tr.saveop = 0 ∧ (∀ g ∈ s.me.segs, g.2.st ≠ .inflight) ∧
       ∃ u, savePages s 0 s.me.id true s.me.saveVpns [] = (.ok [(0, 3)], u) ∧ s.pubLog = [] ∧ s.me.id.vlmax ≤ 32 ∧ leafTarget 3 ≤ 11 ∧
         leafFrame 3 < 2 ^ 15) ∧
    Idle (tState tSlot) ∧ (tOwner tSlot).ownsMatrix 0 = true ∧ State.reset.selBucket = some 0 ∧ (tState tSlot).nets = [] ∧
    ({ saveop := 3 } : TrapRegs).saveop = 3 :=
  ⟨⟨by decide, by decide, ⟨_, rfl, rfl, by decide, by decide, by decide⟩⟩, ⟨by decide, rfl, rfl, rfl⟩, by decide, by decide, rfl, rfl⟩

/-- PackageEventResults: a region in reset, a scrub under way, a running region with a slice and another context. -/
theorem w_packageEvents : ({ st := .reset } : Region).st = .reset ∧ ({ scrub := 1 } : Die).scrub = 1 ∧ tRunning.st = .running ∧
    tRunning.switching = none ∧ ({ tRunning with tslice := 1 }).tslice ≠ 0 ∧ nextContext tRunning = some ⟨1, 0, none⟩ := by decide

/-- A record of one process, in slot 0 of tile 0, without channels. -/
def tRecord : Mem :=
  [(0x01, 0x22), (0x04, 1), (0x08, 1), (0x10, 1), (0x12, 1), (0x58, 0xC0), (0x71, 1), (0xC4, 16), (0xC6, 64)]

/-- Function 1 of tenant 1 with that record, or none, and region 0 assigned to it. -/
def tHost (mem : Mem) (st : NetState) : State :=
  { nets := [{ blankNet 1 1 0 with st := st }], regions := [(0, { st := .assigned, tenant := 1 })], tenants := [(1, { rect := some (0, 0, 1, 1) })]
    funcs := [(1, { ready := true, staging := mem, lqhead := 63, lqtail := 1 })] }

/-- HostEventResults: entries of a ring that wraps; a network queued, one whose record passes and one whose record does not; one to be
cancelled, one bound off, one whose record is to be written; a read being served; a function that holds nothing. -/
theorem w_hostEvents : ((tHost [] .queued).func 1).ready = true ∧ ((tHost [] .queued).func 1).window = false ∧
    (((tHost [] .queued).func 1).lqtail + 64 - ((tHost [] .queued).func 1).lqhead) % 64 = 2 ∧
    (∃ n, nextToValidate (tHost [] .queued) 1 = some (0, n)) ∧ (∃ n, nextToValidate (tHost [] .validating) 1 = some (0, n)) ∧
    validate (tHost [] .validating) 1 ⟨[], 0⟩ = some 13 ∧ netsOf (tHost [] .loading) (some 1) 1 = [0] ∧ (blankNet 1 1 0).closing = false ∧
    ringFull 0 62 = false ∧ ringFull 0 63 = true ∧ (∀ r, r < 16 → (State.reset.region r).heldBy 1 = false) ∧
    (State.reset.func 1).lqtail = (State.reset.func 1).lqhead ∧ (State.reset.func 1).lqhead < 64 ∧
    ({ reads := [⟨0, 3, 0, 0, 0, 1⟩] } : HostIO).reads = ⟨0, 3, 0, 0, 0, 1⟩ :: [] :=
  ⟨by decide, by decide, by decide, ⟨_, rfl⟩, ⟨_, rfl⟩, by decide, by decide, rfl, by decide, by decide, by decide, by decide, by decide, rfl⟩

/-- The group table of the record is all zero. -/
theorem recordGroups : (⟨tRecord, 0⟩ : RecAt).groups = [(⟨tRecord, 0⟩ : RecAt).group 0] ∧ ∀ i, (⟨tRecord, 0⟩ : RecAt).badGroup i = false := by
  have byte : ∀ a, 0xC7 ≤ a → Mem.byte tRecord a = 0 := by
    intro a h
    simp only [Mem.byte, tRecord, Sparse.get]
    repeat rw [if_neg (by omega)]
  have gd : ∀ i k, (⟨tRecord, 0⟩ : RecAt).gd i k = 0 := by
    intro i k
    have : (⟨tRecord, 0⟩ : RecAt).grpoff = 0x100 := by decide
    unfold RecAt.gd RecAt.d Mem.dword
    rw [this]
    simp only [Mem.bytes]
    repeat rw [byte _ (by omega)]
    rfl
  constructor
  · unfold RecAt.groups
    have : ((List.range 256).filter fun i => decide (i = 0 ∨ fld ((⟨tRecord, 0⟩ : RecAt).gd i 0) 9 8 ≠ 0)) = [0] := by
      simp only [gd]; decide +kernel
    simp only [Bool.decide_or] at this ⊢
    rw [this]; rfl
  · intro i
    unfold RecAt.badGroup
    simp only [gd, fld]
    by_cases h : i = 0 <;> simp [h]
    decide

theorem w_validRecord : validate (tHost tRecord .validating) 1 ⟨tRecord, 0⟩ = none := by
  have h : ((List.range 256).any (⟨tRecord, 0⟩ : RecAt).badGroup) = false := by simp [recordGroups.2]
  unfold validate
  simp only [h, recordGroups.1]
  decide +kernel

/-- ReadoutResults: a block of zeros at the place of a load is an accumulator. -/
theorem w_zeroBlock : ∃ c, Acc.ofBlock ((tMat 0).acc 0) true ((tMat 0).bytesAt 0 0x2000 49216) = some c := by
  have zero : ∀ n a, (tMat 0).bytesAt 0 a n = List.replicate n 0 := by
    intro n a
    unfold State.bytesAt
    refine List.eq_replicate_iff.mpr ⟨by simp, fun b hb => ?_⟩
    obtain ⟨k, -, rfl⟩ := List.mem_map.mp hb
    unfold State.byteAt
    split <;> rfl
  rw [zero]
  unfold Acc.ofBlock dwords
  simp only [List.drop_replicate, List.take_replicate]
  exact ⟨_, rfl⟩

/-- EncodeDecode: an instruction of each form. -/
theorem w_encodeDecode : (Instr.rgncmdHalt 2 1).wf = true ∧ encodeGen (.rgncmdHalt 2 1) = some 0xD420400C ∧
    encodeEng (.vadd zV) = some 0 := by decide

/-- StepRunsDecoded: an issue and a start that the agenda asks for; a slot that may issue and one that may not. -/
theorem w_stepRunsDecoded : (tState tSlot).die.poweredOff = false ∧
    nextAct { tState tSlot with agenda := [.issue 0] } = some (.issue 0, { tState tSlot with agenda := [] }) ∧ (tState tSlot).me.canIssue = true ∧
    (tState { tSlot with gen := { tSlot.gen with wait := .engine } }).me.canIssue = false ∧ (0x100 : Nat) < (tState tSlot).me.codeSegs * 4096 ∧
    ((tState tSlot).me.seg 0).st = .valid ∧ (tState tSlot).eccAt 0 0x100 4 = false ∧ (tState tSup).me.atS = true :=
  ⟨by decide, rfl, by decide, by decide, by decide, by decide, by decide, by decide⟩

/-- StepKeepsMemOk: reset. -/
theorem w_memOk : State.reset.MemOk := ⟨rfl, fun _ => rfl, fun _ => rfl, fun _ => rfl, fun _ => rfl⟩

/-- Decoding and running one placed instruction from reset (log 1). -/
theorem test_placed : (match step (State.reset.withFetchWord 32 0x0850FFFE) with
    | .next t => some ((t.slot 4096).bank.readG 5, (t.slot 4096).gen.pc) | _ => none) = some (0xFFFFFFFFFFFFFFFE, 4) := by decide

/-- FIPS 197: the S-box example of section 4.2.1, a column of MixColumns, and the first new word of the AES-256 key expansion
example of appendix A.3. -/
theorem test_aesParts : subByte 0x53 = 0xED ∧ unsubByte 0xED = 0x53 ∧
    (mixColumns [2, 3, 1, 1] (natLe 0x455313DB 16)).take 4 = natLe 0xBCA14D8E 4 ∧
    (keyWords 1 8 [natLe 0x10EB3D60 4, natLe 0xBE71CA15 4, natLe 0xF0AE732B 4, natLe 0x81777D85 4, natLe 0x072C351F 4,
      natLe 0xD708613B 4, natLe 0xA310982D 4, natLe 0xF4DF1409 4] 1).head? = some (natLe 0x1154A39B 4) := by decide +kernel

/-! ## More cases of the statements -/

/-- A held store of two bytes, passed by the commit point, over a word with a double-bit error. -/
def tHeldEcc : State :=
  { tState { tSlot with eng := { stores := [⟨2, 0x2000, [1, 2]⟩] } } with tiles := [(0, { ecc := [0x400] })] }

theorem noWaits (x : Slot) (h : x.gen.wait = .none) : NoGroupWaits (tState x) := by
  intro i g e
  have k : ((tState x).slot i).gen.wait = .none := by
    by_cases hi : i = 0
    · subst hi; exact h
    · simp [tState, State.slot, Sparse.get, Ne.symm hi]
  rw [k]; exact ⟨by simp, by simp⟩

/-- StoreBuffer: a held store that meets an error as it is performed. -/
theorem w_storeBufferEcc : NoGroupWaits tHeldEcc ∧
    ((tHeldEcc.slot 0).eng.stores.filter fun h => passedCommit (tHeldEcc.slot 0).eng.commitPos h.pos) = ⟨2, 0x2000, [1, 2]⟩ :: [] ∧
    ([1, 2] : List Byte).length < 8 ∧ tHeldEcc.eccAt 0 0x2000 2 = true ∧ tHeldEcc.eccAt 0 0x2008 2 = false :=
  ⟨fun i => noWaits { tSlot with eng := { stores := [⟨2, 0x2000, [1, 2]⟩] } } rfl i, by decide, by decide, by decide, by decide⟩

/-- StoreResults: a store of fewer than 8 bytes into a word without an error, and one of 8 bytes into a word with one. -/
theorem w_storeEcc : (taken (tAt 0x40000) [8, 8]).eccAt 0 0x3FFFF 1 = false ∧
    storeAccess { tState tSlot with tiles := [(0, { ecc := [0x400] })] } 0 0x2000 8 = .go := by decide

/-- The process with segment 1 FAILED. -/
def tFailed : Slot := { tSlot with segs := [(0, { st := .valid }), (1, { st := .failed, fva := 0x1000000000002000 })] }

/-- JumpResults and OverlayResults: a FAILED segment; a `cfetch` whose address is not aligned or too long, of the pc's own segment, of one
past the code area; one behind an older word and one at the commit point. -/
theorem w_overlayTraps : ((tState tFailed).me.seg 1).st = .failed ∧ (1 : Nat) < (tState tFailed).me.codeSegs ∧ (tState tFailed).me.atS = false ∧
    (srcVal (tState tSlot) [4, 1] 1).toNat % 4096 ≠ 0 ∧ 2 ^ 57 ≤ (srcVal (tState tSlot) [4, 5] 1).toNat ∧
    (tState tSlot).pc.toNat / 4096 = (srcVal (tState tSlot) [4, 3] 0).toNat ∧ (tState tSlot).me.codeSegs ≤ (srcVal (tState tSlot) [6, 3] 0).toNat ∧
    (tState tSlot).me.committed = true ∧ (∃ w ∈ (tState tBusy).me.eng.words, w.pos ≤ (tState tBusy).me.gen.icnt) :=
  ⟨by decide, by decide, by decide, by decide, by decide, by decide, by decide, by decide, ⟨_, List.mem_singleton.mpr rfl, by decide⟩⟩

/-- RefusedWordTraps: a patched word and a literal that are none. -/
theorem w_refusedForms : OperandsOk (tState tSlot) [1, 4] none ∧ OperandsOk (tState tSlot) [] none ∧
    (∃ r, decodeEng (patch (patch ((tState tSlot).me.bank.readT 0) 11 (srcVal (tState tSlot) [1, 4] 0)) 0 0) = .error r) ∧
    literalAccess { tState tSlot with tiles := [(0, { sram := [(0x117, 0xFF)] })] } 0 0x110 = .go ∧
    (∃ r, decodeEng (BitVec.ofNat 64 (({ tState tSlot with tiles := [(0, { sram := [(0x117, 0xFF)] })] } : State).loadNat 0 0x110 8)) = .error r) :=
  ⟨⟨by decide, by decide, rfl, rfl, by decide⟩, ⟨by decide, by decide, rfl, rfl, by decide⟩, ⟨.badField, by decide⟩, by decide,
    ⟨.reservedClass, by decide⟩⟩

/-- A word on MQ. -/
def tMq (w : Word) : QEntry := { tWord w 3 with q := .mq }

/-- QueueWaits: a word of a queue that the mask names, by the queue whose order it keeps; none. -/
theorem w_queueWaitsWords : (∃ w ∈ (tState tBusy).me.eng.words, (1#3).getLsbD (queueNum w.q) = true) ∧
    (¬ ∃ w ∈ (tState tBusy).me.eng.words, (6#3).getLsbD (queueNum w.q) = true) ∧
    (∃ w ∈ (tOwner { tSlot with eng := { mq := [tMq 0x2020000001000000] } }).me.eng.words, (2#3).getLsbD (queueNum w.q) = true ∧
      ∃ f : MatF, f.batch = 1 ∧ (decodeEng w.word = .ok (.mstep f) ∨ decodeEng w.word = .ok (.mcommit f))) :=
  ⟨⟨_, List.mem_singleton.mpr rfl, by decide⟩, by decide,
    ⟨_, List.mem_singleton.mpr rfl, by decide, { zX with batch := 1 }, by decide, Or.inr (by decide)⟩⟩

/-- RecvbResults, SendbCompletes, ArrivalResults, TrapAndReturn: no held store over an error; the network of the slot, with no PHASECONFLICT
that stands over. -/
theorem w_clean : StoresClean (tNetState tLinked) 0 ∧ tChan.reduce = false ∧ tChan.sev = false ∧ tChan.chid = ((tNetState tLinked).me.port 1).ch ∧
    tChan.liveReaders tNet ≠ [] ∧ (∀ e ∈ tChan.readers, e.remote = false) ∧ (tNetState tLinked).me.eng.hist = [] ∧
    (∀ p, ((tNetState tLinked).nets[(tNetState tLinked).me.id.net]?.bind fun n => n.procs.find? fun p => p.pid == 0) = some p → p.pend = none) := by
  refine ⟨by decide, by decide, by decide, by decide, by decide, by decide, by decide, ?_⟩
  intro p h
  cases h
  rfl

/-- PortOperandTraps: a slot whose copies differ; a write port that is unbound, a read port, closed, severed, full. -/
theorem w_portWrites : ({ bound := true, arr := [1, 1], diff := some 0 } : Port).readAt { tChan with mirror := true } 0 = .diff ∧
    ((tState tSlot).me.port 1).bound = false ∧ ((tNetState tLinked).me.port 0).isW = false ∧
    (tNetState { tLinked with ports := [(1, { bound := true, isW := true, closed := true })] }).me.writeClosed 1 = true ∧
    (tNetState tLinked).me.writeClosed 1 = false ∧
    (∃ r ∈ tChan.liveReaders tNet, ({ bound := true, isW := true, free := [0] } : Port).free.getD r 0 = 0) ∧ opReserved 33 = false ∧
    opIsPort 33 = true := by decide

/-- GroupTraps: a member of group 0 and of group 3; none of group 4, and none at all on the control tile. -/
theorem w_groupMembers : (∃ n r, (tNetState tLinked).nets[(tNetState tLinked).me.id.net]? = some n ∧ n.group? (3#8).toNat = some r ∧
      (tNetState tLinked).me.id.gids.contains 3 = true) ∧
    (tNetState tLinked).me.id.gids.contains 4 = false ∧ State.reset.cur = Config.controlSlot ∧ State.reset.me.atS = false :=
  ⟨⟨tNet, _, rfl, rfl, by decide⟩, by decide, by decide, by decide⟩

/-- SysrResults and SyswResults: words of no other queue than XQ; no save under way; a selected bucket; channels in their places. -/
theorem w_sysConditions : (∀ w ∈ (tState tBusy).me.eng.words, w.q ≠ .mq) ∧ (∀ w ∈ (tState tSlot).me.eng.words, w.q = .xq) ∧
    (tState tSup).me.tr.saveop = 0 ∧ State.reset.selBucket.isSome = true ∧ 2 ≤ State.reset.me.id.level.toNat ∧
    writeLevel 0x002 = none ∧ (tState tSlot).levelOk (readLevel 0x002) = true ∧
    (∀ (n : Nat) (m : Net), (tNetState tLinked).nets[n]? = some m → ∀ (i : Nat) (d : Chan), m.chans[i]? = some d → d.chid = i) ∧
    (tNetState tLinked).nets[0]? = some tNet ∧ tNet.chans[0]? = some tChan ∧ tNet.st = .running := by
  refine ⟨by decide, by decide, by decide, by decide, by decide, by decide, by decide, ?_, rfl, rfl, rfl⟩
  intro n m hn i d hd
  match n, hn with
  | 0, hn =>
    cases hn
    match i, hd with
    | 0, hd => cases hd; rfl
    | k + 1, hd => simp [tNet] at hd
  | k + 1, hn => simp [tNetState] at hn

/-- CtlKeysAndTranslations and CtlRequestsAndReports: a word of the tenant that holds the page's leaf; a tenant for whose slots no save is
under way; BADARG, BUSY and DENIED of `kload` on their own. -/
theorem w_ctlHeld : let x : Slot := { tSlot with eng := { xq := [{ tWord 0 3 with prog := { leaves := [(5, 0)] } }] } }
    let s := { tCtl 0 [] with slots := (0, x) :: (tCtl 0 []).slots }
    (∃ y ∈ s.slots, y.2.id.tenant = 1 ∧ ∃ e ∈ y.2.eng.words, ∃ l ∈ e.prog.leaves, l.1 = 5) ∧ leafHeld s 1 5 = true ∧ leafHeld s 1 6 = false := by
  refine ⟨⟨_, List.mem_cons_self .., by decide, _, List.mem_singleton.mpr rfl, _, List.mem_singleton.mpr rfl, rfl⟩, by decide, by decide⟩

/-- CtlRequestsAndReports: in this state no slot saves or restores, whichever tenant asks. -/
theorem w_ctlAsks : ∀ i, ((tCtl 0 []).slot i).tr.saveop = 0 ∧ ((tCtl 0 []).slot i).tr.savewant = none := by
  intro i
  by_cases hi : i = 4096
  · subst hi; decide
  · simp [tCtl, State.slot, Sparse.get, Ne.symm hi]

/-- SwitchResults: another switch under way. RegionCommands: a context with a network whose processes stand in their places. CtlNetworks: a
network whose processes stand in slots of their own. -/
theorem w_switching : { tRunning with switching := some ⟨1, 2, none⟩ }.switching = some ⟨1, 2, none⟩ ∧ (⟨1, 2, none⟩ : Context) ≠ ⟨1, 0, none⟩ ∧
    (tNet.procs.map (·.slotNo)).Nodup := by decide

/-- The process with a word on VQ and with v56 mapped to a port that is not bound. -/
def tUnbound : State := tState { tSlot with eng := { vq := [tWord 0 3] }, vec := { tSlot.vec with smap := 0x80 } }

/-- StreamStops: a source that is bound to no port; slots that are not at hand; a source at its end. -/
theorem w_streamStops : tUnbound.startable = some (tWord 0 3) ∧
    (∃ c, streamSrcs tUnbound 0 64 [56] [] = .error c) ∧
    streamsReady (tNetWith { tLinked with ports := [(0, { bound := true, arr := [0] })] } { tChan with size := 64 }) 0 [some ⟨0, 0, 1⟩] = false ∧
    streamsReady (tStream 0) 0 [some ⟨0, 0, 1⟩] = true ∧
    (∃ c, streamFault (tNetWith { tLinked with ports := [(0, { bound := true, arr := [0], sev := true })] } { tChan with size := 64 }) 0
      [some ⟨0, 0, 1⟩] = some c) :=
  ⟨by decide, ⟨_, rfl⟩, by decide, by decide, ⟨_, rfl⟩⟩

/-- VectorLoadResults and VectorStoreResults: an element over a double-bit error; a lane that may not be accessed, under `ff` and without. -/
theorem w_vectorMemoryFaults :
    { tMem 0x3FFC0 with tiles := [(0, { ecc := [0x3FFC0 / 8] })] }.eccAt 0 0x3FFC0 4 = true ∧ (tMem 0x3FFC0).me.active 0 0 = true ∧
    elemBad (tMem 0x40000) ((tMem 0x40000).me.window 0) true 0x40000 = true ∧ (tMem 0x40000).me.active 0 0 = true ∧
    ({ zM with ff := 1 } : MemF).ff = 1 ∧ zM.ff = 0 ∧ f32.dec 0x7F800000 = .inf false ∧ f32.dec 0x7FC00001 = .nan false ∧
    f32.dec 0x7F800001 = .nan true := by decide

/-- AccumulatorResults and ReadoutResults: each check that fails, with those before it passed. -/
theorem w_matrixFaults :
    ({ tMat 0x2010000000000000 with tiles := [(0, { acc0 := { tag := 1 } })] }).accForeign 0 = true ∧
    ({ tMat 0x2010000000000000 with tiles := [(0, { acc0 := { mode := .int, opn := 1 } })] }.acc 0).mode ≠ modeOf 0 ∧
    ({ tMat 0x2010000000000000 with tiles := [(0, { acc0 := { mode := .flt, opn := 1 } })] }.acc 0).opn ≠ 0 ∧
    (tMat 0).panelFault 0 0 = false ∧
    ({ tMat 0x2010000000000000 with slots := [(0, { tSlot with pb := { em := [(0, 0x2000), (1, 65)] } })] }).panelFault 0 0 = true ∧
    ({ tMat 0x2010000000000000 with slots := [(0, { tSlot with pb := { em := [(0, 0x3FFFF), (1, 64)] } })] }).panelOut 0 0 1 2 = true ∧
    ({ tMat 0x2010000000000000 with tiles := [(0, { ecc := [0x2000 / 8] })] }).panelEcc 0 0 1 2 = true ∧
    (tMat 0).blockOut 0x3FFFF true = true ∧ (Acc.ofBlock ((tMat 0).acc 0) true ((tMat 0).bytesAt 0 0x2000 49216)).isSome = true ∧
    eccRanges { tMat 0 with tiles := [(0, { ecc := [0x2000 / 8] })] } 0 [(0x2000, 49216)] = true := by
  refine ⟨by decide, by decide, by decide, by decide, by decide, by decide, by decide, by decide, ?_, by decide⟩
  exact Option.isSome_iff_exists.mpr w_zeroBlock

/-- StepRunsDecoded: a slot in each state of the segment that its pc is in; a fetch beyond; an error in the word; the inputs as acts; a copy
word to be moved on. -/
theorem w_stepFetches :
    (tState tSlot).me.canIssue = true ∧ ((tState tFetching).me.seg 1).st = .inflight ∧
    (tState { tFetching with gen := { tFetching.gen with pc := 0x1FFC } }).pc.toNat / 4096 = 1 ∧
    (tState { tFailed with gen := { tFailed.gen with pc := 0x1000 } }).me.canIssue = true ∧
    (tState { tSlot with gen := { tSlot.gen with pc := 0x40000 } }).me.codeSegs * 4096 ≤ 0x40000 ∧
    { tState tSlot with tiles := [(0, { ecc := [0x100 / 8] })] }.eccAt 0 0x100 4 = true ∧ (tState tSlot).me.committed = true ∧
    (tState { tSup with gen := { tSup.gen with pc := 65536 } }).me.canIssue = true ∧
    (nextAct { tState tSlot with agenda := [.sramError 0 5] }).isSome = true ∧ (nextAct { tState tSlot with agenda := [.giveFrame 7 1, .hostTurn 0, .peerWave 1 {}] }).isSome = true ∧
    (tCopy (.xcopy zC) [] (tDesc true)).startable = none ∧ (tCopy (.xcopy zC) [] (tDesc true)).mover.isSome = true ∧
    (tMover (.xcopy zC) [] (tDesc true)).q = .xq ∧ (tState { tSlot with gen := { tSlot.gen with wait := .engine } }).me.canIssue = false := by decide

/-- PackageEventResults: a region with no time slices and one with. -/
theorem w_slices : tRunning.tslice = 0 ∧ { tRunning with tslice := 100 }.tslice ≠ 0 ∧ tRunning.switching = none := by decide

/-! ## Cases of the second review -/

/-- The worked examples of R85, with 8192 and what lies above it; the decoding of 0xE5. -/
theorem test_tap8 : winEnc .tap8 0 0x42C80000 = (0x1F, fNX) ∧ winEnc .tap8 0 0xC2C80000 = (0x9F, fNX) ∧ winEnc .tap8 0 0x3E99999A = (0x2A, fNX) ∧
    winEnc .tap8 0 0x42E00000 = (0x0C, fNX) ∧ winEnc .tap8 0 0x45400000 = (0x06, fNX) ∧ winEnc .tap8 0 0x37800000 = (0, fNX ||| fUF) ∧
    winEnc .tap8 0 0x46000000 = (0x03, 0) ∧ winEnc .tap8 0 0x46000001 = (0x03, fOF ||| fNX) ∧ tapDec 0xE5 = .fin true 37 (-5) := by decide +kernel

/-- A replay on XQ whose pattern, of one word, is an `xget` with a follow-on, and one without. -/
def tAhead (fo : Bool) : State :=
  { tState { tSlot with eng := { xq := [{ tWord 0x4030000000000000 3 with q := .xq }] }, pb := { ex := [(0, 0x2000)] } } with
    tiles := [(0, { sram := tPattern.putBytes 0x2020 (natLe ((encodeEng (.xget { zC with fo := if fo then 1 else 0 })).getD 0).toNat 8) })] }

/-- QueueWaits: a follow-on that a replay has still to issue, and none. -/
theorem w_followsAhead : (tAhead true).followsAhead 0 = true ∧ (tAhead false).followsAhead 0 = false := by decide

/-- OverlayResults: a `cfetch` at level S, of the segment that the pc lies in. -/
theorem w_overlayAtS : (tState tSup).me.atS = true ∧ (0 : Nat) < (tState tSup).me.codeSegs ∧ (tState tSup).pc.toNat / 4096 = 0 ∧
    (tState tSup).me.histFull (histNeed [0, 0] none + 1) = false ∧ OperandsOk (tState tSup) [0, 0] none ∧
    srcVal (tState tSup) [0, 0] 0 = 0 ∧ srcVal (tState tSup) [0, 0] 1 = 0 :=
  ⟨by decide, by decide, by decide, by decide, ⟨by decide, by decide, rfl, rfl, by decide⟩, by decide, by decide⟩

/-- GroupEventResults: a `cfetch` of the tenant that awaits its page at a boundary of group 0. -/
theorem w_heldView : let r : SegReq := ⟨2, 0x1000, true, none, true, none, [], []⟩
    let x : Slot := { tLinked with segs := [(1, { st := .inflight, reqs := [r] })] }
    (x.seg 1).st = .inflight ∧ (x.seg 1).reqs[0]? = some r ∧ r.sent = true ∧ r.image = none ∧ r.fail = none ∧
    ((tNetState x).slot 0).id.tenant = tNet.tenant ∧ (r.view.find? fun v => v.1 == 0x1000) = none ∧ tProc.stopped = false := by decide

/-- HostEventResults: a network that binds off, before its channels are counted; a reader that is saved; a region that it runs in. -/
theorem w_bindOff : let n : Net := { tNet with st := .bindoff }
    let s := { tNetState tLinked with nets := [n], regions := [(0, { st := .running, tenant := 1, ctxs := [⟨1, 0, some 0⟩] })] }
    n.closing = false ∧ (∃ w, (n.chans.foldl (fun u c => drainAll u 0 c.chid) (lastBoundary s 0)).nets[0]? = some w) ∧
    (s.region 0).runs 0 = true ∧ (s.region 0).st = .running ∧ tProc.saved = false ∧ (s.slot tProc.slotNo).id.net = 0 :=
  ⟨rfl, ⟨_, rfl⟩, by decide, rfl, rfl, rfl⟩

/-! ## Bursts part way, faults at S, values, and what other packages and the host do -/

/-- The network with these g registers and this port 0. -/
def tBurst (ga gb : Word) (p : Port) : State :=
  tNetState { tLinked with pb := { g := [(1, ga), (2, gb)] }, ports := [(0, p), (1, { bound := true, isW := true, net := 0, ch := 0, free := [2] })] }

/-- R143: of three slots one is at hand: it moves, and the burst waits; at the end mark it completes with gb 2 and EOSBITS set. -/
theorem test_recvb_part :
    (match exec (.recvb 32 1 2) (tBurst 0x2000 3 { bound := true, net := 0, ch := 0, arr := [1] }) with
      | .next t => some ((t.slot 0).bank.readG 1, (t.slot 0).bank.readG 2, (t.slot 0).gen.wait, t.byteAt 0 0x2000) | _ => none) =
      some (0x2008, 2, .readPort 0 0, 5) ∧
    (match exec (.recvb 32 1 2) (tBurst 0x2000 3 { bound := true, net := 0, ch := 0, arr := [1], fin := some 1 }) with
      | .next t => some ((t.slot 0).bank.readG 1, (t.slot 0).bank.readG 2, (t.slot 0).vec.eos, (t.slot 0).gen.pc) | _ => none) =
      some (0x2008, 2, 1, 0x104) := by decide +kernel

/-- R143: of three slots two have room: they are sent, and the burst waits. -/
theorem test_sendb_part :
    (match exec (.sendb 33 1 2) (tBurst 0x2000 3 { bound := true, net := 0, ch := 0 }) with
      | .next t => some ((t.slot 0).bank.readG 1, (t.slot 0).bank.readG 2, (t.slot 0).gen.wait) | _ => none) =
      some (0x2010, 1, .writePort 1) := by decide +kernel

/-- RecvbResults, SendbCompletes: the waits, the port faults and the ends of a burst part way. -/
theorem w_bursts : (tState tBusy).me.committed = false ∧ (tState tSlot).portChan 0 = none ∧ ((tNetState tLinked).me.port 1).isW = true ∧
    (tNetState tLinked).portChan 1 = some tChan ∧ ((tNetState tLinked).me.port 0).isW = false ∧
    ((tNetState tLinked).me.bank.readG 1).toNat % 8 ≠ 0 ∧ (tNetState tLinked).badRange 0 0x40000 8 true = true ∧
    (tNetState tLinked).badRange 0 0x40000 8 false = true ∧
    (let p : Port := { bound := true, net := 0, ch := 0, arr := [1] }
     p.readAt tChan 0 = .data ∧ p.readAt tChan 1 = .empty ∧ { p with fin := some 1 }.readAt tChan 1 = .fin ∧
       { p with sev := true }.readAt tChan 1 = .sev ∧ { p with diff := some 1 }.readAt tChan 1 = .diff) ∧
    tChan.eostol = true ∧ { tChan with eostol := false }.eostol = false ∧ { tLinked with ports := [(1, { closed := true })] }.writeClosed 1 = true ∧
    (tState tFetching).me.waitsSeg 0x1000 8 = true ∧ { tState tSlot with tiles := [(0, { ecc := [0x400] })] }.eccAt 0 0x2000 8 = true ∧
    ({ isW := true, sev := true } : Port).sev = true ∧ (∃ r ∈ tChan.liveReaders tNet, ((tNetState tLinked).me.port 1).free.getD r 0 = 2) := by
  decide

/-- PrivilegeTraps: `ctl` at level S is a double fault: the region is HALTED with PRIV. -/
theorem test_priv_at_s : (tState tSup).levelOk 2 = false ∧ (tState tSup).me.atS = true ∧
    (match exec (.ctlKload 2 1) (tState tSup) with | .next t => some ((t.region 0).st, (t.region 0).hcause) | _ => none) = some (.halted, 4) := by
  decide +kernel

/-- R90: 1/3, the square root of 2 and special cases; R91: −0 lies below +0. -/
theorem test_quotients : f32.divV (f32.dec 0x3F800000) (f32.dec 0x40400000) = (0x3EAAAAAB, fNX) ∧
    f32.sqrtV (f32.dec 0x40000000) = (0x3FB504F3, fNX) ∧ f32.rcpV (f32.dec 0x80000000) = (0xFF800000, fDZ) ∧
    f32.rsqrtV (f32.dec 0x40800000) = (0x3F000000, 0) ∧ log2V (f32.dec 0x41000000) = (0x40400000, 0) ∧
    minMax false 0 0x80000000 = (0x80000000, 0) ∧ minMax true 0x80000000 0 = (0, 0) := by decide +kernel

/-- R90: 2^3, 2^-149 and 2^128. -/
theorem test_exp2 : exp2V (f32.dec 0x40400000) = (0x41000000, 0) ∧ exp2V (f32.dec 0xC3150000) = (1, 0) ∧
    exp2V (f32.dec 0x43000000) = (0x7F800000, fOF ||| fNX) := by decide +kernel

/-- R216: the worked example of `vcvt.f2i`, and `.rint` of -0.3. -/
theorem test_vcvt : f2i .rne false 0x40200000 = (2, fNX) ∧ f2i .rna false 0x40200000 = (3, fNX) ∧ f2i .rdn false 0xC0200000 = (0xFFFFFFFD, fNX) ∧
    f2i .rtz false 0x4F800000 = (0x7FFFFFFF, fNV) ∧ f2i .rne false 0x7FC00000 = (0, fNV) ∧ rint .rne 0xBE99999A = (0x80000000, fNX) := by
  decide +kernel

/-- VectorFloatResults: values of each kind: finite ones, an integer, a power of two, none of either. -/
theorem w_values : (f32.dec 0x40400000 = .fin false 0xC00000 (-22)) ∧ (f32.dec 0x7FC00000 = .nan false) ∧ (f32.dec 0xFF800000 = .inf true) ∧
    (f32.dec 0x80000000).isNan = false ∧ (0x80000000 : Nat) < 2 ^ 32 ∧ (magLe 0xC00000 (-22) 3 0 ∧ magLe 3 0 0xC00000 (-22)) ∧
    (magLe 0x800000 (-20) 1 3 ∧ magLe 1 3 0x800000 (-20)) ∧ magLe 128 0 0x800000 (-16) := by
  refine ⟨by decide, by decide, by decide, by decide, by decide, ?_, ?_, ?_⟩ <;> unfold magLe <;> decide

/-- AccumulatorResults, CopyMoves: element (1, 9) of a panel of bytes with a rotation; the elements of a descriptor with two dimensions. -/
theorem test_places : (panelOf (0x2000 ||| (0x800 <<< 21)) (16 ||| (3 <<< 8) ||| (0x40 <<< 16))).addr 1 1 9 = 0x2000 + 0x800 + 0x40 + 3 * 64 + 1 ∧
    (jobOf (tState tSlot) (fun a => Mem.byte
      [(0x2001, 0x40), (0x2010, 0x22), (0x2020, 2), (0x2028, 4), (0x2030, 8), (0x2038, 2), (0x2040, 16), (0x2049, 1)] a)
      ⟨false, .part, false⟩ 0x2000 []).map (fun j => (j.count, j.size, j.src 3, j.dst 3)) = some (4, 4, 0x4000 + 4 + 16, 8 + 256) := by
  decide +kernel

/-- WakeAndEntryResults, EngineEventResults: a wait for a second slot of one port; a pattern that a word at work still writes. -/
theorem w_seconds : (∃ v, readReady (tNetState tLinked) 0 0 1 = .wait v) ∧ (∀ v, readReady (tNetState tEnded) 0 0 1 ≠ .wait v) ∧
    (let s : State := { tReplaying 0 with slots := [(0, { (tReplaying 0).me with eng :=
       { (tReplaying 0).me.eng with out := [{ tWord 0 3 with stat := .passed, hulls := [⟨0x80, 0x80, true⟩] }] } })] }
     ((issueSide s 0 3).blocked 0x2000 (8 * 4)).isSome = true) ∧
    ((issueSide (tReplaying 0) 0 3).blocked 0x2000 (8 * 4)).isSome = false := by
  refine ⟨⟨_, rfl⟩, ?_, by decide +kernel, by decide +kernel⟩
  intro v h
  have : readReady (tNetState tEnded) 0 0 1 = .go := rfl
  rw [this] at h; cases h

/-- R3, R390: a vector raised while MSI-X is off is pending, and is sent as the host enables it. -/
theorem test_msix_enable :
    let f := ({ unmasked := 7 } : Func).raise 1
    f.pba = 2 ∧ f.msgs = [] ∧ (f.configWrite 0 0x80000000).pba = 0 ∧ (f.configWrite 0 0x80000000).msgs = [(0, 0)] ∧
      (f.configWrite 0 0xC0000000).pba = 2 ∧ (f.configWrite 0 0x80000000).configRead 0 = 0x80020011 := by decide

/-- PackageEventResults: a scrub that waits for an image, and one that does not; R425: a network of another tenant. -/
theorem w_scrubWaits : imageDue { tNetState tSlot with nets := [{ tNet with st := .bindoff }] } 1 = true ∧
    imageDue { tNetState tSlot with nets := [{ tNet with st := .bindoff }] } 2 = false ∧ imageDue (tNetState tSlot) 1 = false := by decide

/-- CtlNetworks: a process of another package with a channel here, saved and not. -/
theorem w_rebindAway :
    let c : Chan := { tChan with readers := [⟨64, 1, 0, 0, true⟩], rpkg := 2 }
    let s (saved : Bool) : State :=
      { tCtl 0x100 [(0x100, 1), (0x102, 7), (0x108, 16)] with
        nets := [{ tNet with chans := [c] }], host := { peers := [(peerProcKey 1 7, some ⟨2, 64, 1, saved⟩)] } }
    rebindArg (s true) 0x100 = none ∧ (rebindAway (s true) 0x100).map (fun r => (r.1, r.2.2.2.2)) = some (0, ⟨2, 16, 0, true⟩) ∧
    (rebindAway (s false) 0x100).map (fun r => r.2.2.2.1.saved) = some false ∧ c.endsAway ⟨2, 64, 1, true⟩ = true ∧
    chanQuiet (s true) 0 c = true := by decide +kernel

/-- GroupEventResults: another network of the tenant that still reads, and one that does not. -/
theorem w_otherNets : tNet.views = true ∧ { tNet with st := .bindoff }.views = true ∧ { tNet with st := .retired }.views = false ∧
    Sparse.get none tNet.base 0x1000 = none := by decide

end Sys2Proof.Tests
end

section
/-! PROOFS of the statements about the model's scope: what every step keeps (O60), and what the host does (O55). -/

namespace Sys2Proof.Machine

-- One proof at a time: with the proofs of the one text elaborated side by side, their threads' stacks exceed the check's memory limit.
set_option Elab.async false

section
/-! PROOFS. What the fabric's arrivals and the boundaries of a network keep, whatever is kept (`FabricInv`): the canonical form of the memories
(O60), and of the slots and the networks the identities and the life (O55). -/

/-- What the life of a network is told by: its state and the status it has reached (R37, R38). -/
def Net.life (n : Net) : NetState × Option Nat := (n.st, n.status)

/-- `P` speaks of the memories, the slots' identities and the networks' lives only, and the stores of the fabric and of the boundaries
keep it. -/
structure FabricInv (P : State → Prop) : Prop where
  rest : ∀ {s t : State}, P s → (hs : t.slots = s.slots := by rfl) → (hn : t.nets = s.nets := by rfl) → (ht : t.tiles = s.tiles := by rfl) →
    (hf : t.funcs = s.funcs := by rfl) → (hd : t.dram = s.dram := by rfl) → P t
  slot : ∀ {s : State}, P s → ∀ (i : Nat) (f : Slot → Slot), (hf : ∀ x, (f x).id = x.id := by intros; rfl) → P (s.modSlot i f)
  net : ∀ {s : State}, P s → ∀ (k : Nat) (f : Net → Net), (hf : ∀ n, (f n).life = n.life := by intros; rfl) → P (s.modNet k f)
  place : ∀ {s : State}, P s → ∀ (c : Chan) (e : Ep) (st : Nat) (d : List Byte), P (placeSlot s c e st d)
  store : ∀ {s : State}, P s → ∀ (tenant va : Nat) (bs : List Byte), P (rawStore s tenant va bs)
  event : ∀ {s : State}, P s → ∀ (tenant : Nat) (ev : BitVec 128), P (regionEvent s tenant ev)

namespace FabricInv

variable {P : State → Prop} {s t : State}

/-! ## The shapes that a meaning is built from -/

theorem ite (_ : FabricInv P) {p : Prop} [Decidable p] (h : P s) (k : P t) : P (if p then s else t) := by
  split
  · exact h
  · exact k

theorem foldl (_ : FabricInv P) {α : Type} {f : State → α → State} (hf : ∀ s a, P s → P (f s a)) (l : List α) (h : P s) : P (l.foldl f s) := by
  induction l generalizing s with
  | nil => exact h
  | cons a l ih => exact ih (hf s a h)

variable (F : FabricInv P)
include F

theorem ep (h : P s) (e : Ep) (f : Port → Port) : P (s.modEp e f) := F.slot h _ _

theorem chan (h : P s) (n c : Nat) (f : Chan → Chan) : P (s.modChan n c f) := F.net h _ _

theorem tenant (h : P s) (k : Nat) (f : Tenant → Tenant) : P (s.modTenant k f) := F.rest h

theorem ual (h : P s) (k : Nat) (f : Ual → Ual) : P (s.modUal k f) := F.rest h

/-! ## Tokens and conflicts -/

theorem noteConflicts (h : P s) (net : Nat) (cs : List Conflict) : P (noteConflicts s net cs) := by
  unfold Machine.noteConflicts
  split
  · exact h
  · exact F.tenant (F.net h _ _) _ _

theorem chargeBucket (h : P s) (st k n : Nat) : P (chargeBucket s st k n) := by
  unfold Machine.chargeBucket
  exact F.ite (F.rest h) h

theorem chargeLeaf (h : P s) (k a n : Nat) (l : Word) : P (chargeLeaf s k a n l) := by
  unfold Machine.chargeLeaf
  exact F.ite (F.chargeBucket h _ _ _) h

theorem chargeVa (h : P s) (k va n : Nat) : P (chargeVa s k va n) := by
  unfold Machine.chargeVa
  split
  · exact F.chargeLeaf h _ _ _ _
  · exact h

/-! ## Channels -/

theorem launchOut (h : P s) (n : Nat) (c : Chan) (k : Pkt) : P (launchOut s n c k) := F.ual h _ _

theorem launch (h : P s) (n : Nat) (c : Chan) (k : Pkt) (r : Bool) : P (launch s n c k r) :=
  F.ite (F.launchOut h _ _ _) (F.chan h _ _ _)

theorem launchHere (h : P s) (n : Nat) (c : Chan) (k : Nat → Pkt) : P (launchHere s n c k) := by
  unfold Machine.launchHere
  refine F.foldl (fun s r h => ?_) _ h
  split
  · exact F.ite h (F.launch h _ _ _ _)
  · exact h

theorem launchInput (h : P s) (n : Nat) (c : Chan) (lvl j : Nat) (k : Pkt) : P (launchInput s n c lvl j k) := by
  unfold Machine.launchInput
  dsimp only
  split
  · exact F.launch (F.ite (F.launchOut h _ _ _) h) _ _ _ _
  · exact F.ite (F.launchOut h _ _ _) h

theorem chargeSkein (h : P s) (n : Nat) (c : Chan) : P (chargeSkein s n c) := by
  unfold Machine.chargeSkein
  split
  · exact F.chargeVa h _ _ _
  · exact h

theorem mirrorJudge (h : P s) (n : Nat) (c : Chan) (e : Ep) : P (mirrorJudge s n c e) := by
  unfold Machine.mirrorJudge
  dsimp only
  split
  · exact h
  · split
    · exact F.foldl (fun s w h => F.event h _ _) _ (F.ep h _ _)
    · split
      · exact F.ite (F.ep h _ _) h
      · exact h

theorem dropStale (h : P s) (e : Ep) : P (dropStale s e) := F.slot h _ _

theorem deliverSlot (h : P s) (n : Nat) (c : Chan) (k : Pkt) (r : Nat) : P (deliverSlot s n c k r) := by
  have hc := F.chargeSkein h n c
  have hp : ∀ e st, P (placeSlot s c e st k.data) := fun e st => F.place h c e st k.data
  unfold Machine.deliverSlot
  split
  · exact h
  · refine F.ite (F.dropStale h _) (F.ite h (F.ite (F.net (F.ep h _ _) _ _) (F.ite ?_ ?_)))
    · exact F.ite (F.mirrorJudge (F.chan hc _ _ _) _ _ _) (F.chan hc _ _ _)
    · exact F.ite (F.mirrorJudge (hp _ _) _ _ _) (hp _ _)

theorem arrive (h : P s) (n : Nat) (c : Chan) (k : Pkt) (r : Nat) : P (arrive s n c k r) := F.net (F.deliverSlot h _ _ _ _) _ _

theorem arriveRoot (h : P s) (n : Nat) (c : Chan) (k : Pkt) (r : Nat) : P (arriveRoot s n c k r) := by
  have hd := F.deliverSlot h n c k r
  exact F.ite (F.net (F.chan hd _ _ _) _ _) hd

theorem arriveEnd (h : P s) (n : Nat) (c : Chan) (k : Pkt) (r : Nat) : P (arriveEnd s n c k r) := by
  unfold Machine.arriveEnd
  split
  · exact h
  · exact F.ite (F.dropStale h _) (F.ite h (F.ite (F.mirrorJudge (F.chan h _ _ _) _ _ _) (F.ep h _ _)))

theorem arriveCredit (h : P s) (n : Nat) (c : Chan) (k : Pkt) : P (arriveCredit s n c k) := by
  unfold Machine.arriveCredit
  split
  · exact h
  · exact F.ite (F.ep (F.net h _ _) _ _) (F.net h _ _)

theorem arriveSever (h : P s) (n : Nat) (c : Chan) (k : Pkt) : P (arriveSever s n c k) := by
  unfold Machine.arriveSever
  split
  · exact h
  · exact F.ite (F.ep h _ _) (F.ite (F.dropStale h _) h)

theorem nodeForward (h : P s) (n : Nat) (c : Chan) (g : BitVec 8) (lvl j k : Nat) (d : List Byte) : P (nodeForward s n c g lvl j k d) := by
  unfold Machine.nodeForward
  dsimp only
  split
  · split
    · exact F.ite (F.launchHere h _ _ _) (F.launchOut (F.launchHere h _ _ _) _ _ _)
    · exact F.launchHere h _ _ _
  · exact F.launchInput h _ _ _ _ _

theorem discardInput (h : P s) (n : Nat) (c : Chan) (g : BitVec 8) (lvl j : Nat) (new : Bool) : P (discardInput s n c g lvl j new) :=
  F.foldl (fun _ _ h => F.foldl (fun _ _ h => F.launch h _ _ _ _) _ h) _ (F.net (F.chan h _ _ _) _ _)

theorem nodeInput (h : P s) (n : Nat) (c : Chan) (g : BitVec 8) (lvl j k : Nat) (d : List Byte) : P (nodeInput s n c g lvl j k d) := by
  unfold Machine.nodeInput
  refine F.ite (F.discardInput h _ _ _ _ _ _) (F.ite (F.nodeForward h _ _ _ _ _ _ _) ?_)
  split
  · exact F.net (F.chan h _ _ _) _ _
  · exact F.nodeForward (F.net (F.chan h _ _ _) _ _) _ _ _ _ _ _ _

theorem countLost (h : P s) (n : Nat) (c : Chan) : P (countLost s n c) := F.net h _ _

/-! ## What can still arrive -/

theorem deliverPkt (h : P s) (k : Nat) (n : Net) (c : Chan) (p : Pkt) : P (deliverPkt s k n c p) := by
  unfold Machine.deliverPkt
  refine F.ite (F.countLost h _ _) ?_
  split
  · split
    · exact F.nodeInput h _ _ _ _ _ _ _
    · exact F.ite (F.arriveRoot h _ _ _ _) (F.arrive h _ _ _ _)
  · exact F.arriveCredit h _ _ _
  · exact F.arriveEnd h _ _ _ _
  · exact F.arriveSever h _ _ _
  · split
    · exact F.dropStale h _
    · exact h

theorem takePacket (h : P s) {n c : Nat} {f : Pkt → Bool} (e : takePacket s n c f = some t) : P t := by
  unfold Machine.takePacket at e
  split at e
  · split at e
    · cases e
    · cases e; exact F.deliverPkt (F.chan h _ _ _) _ _ _ _
  · cases e

theorem drainChan (h : P s) (n c fuel : Nat) : P (drainChan n c fuel s) := by
  induction fuel generalizing s with
  | zero => exact h
  | succ fuel ih =>
    unfold Machine.drainChan
    split
    · exact h
    · next e => exact ih (F.takePacket h e)

theorem drainAll (h : P s) (n c : Nat) : P (drainAll s n c) := by
  unfold Machine.drainAll
  split
  · exact F.drainChan h _ _ _
  · exact h

/-! ## Boundaries -/

theorem atomStep (h : P s) (n g e : Nat) (know : Sparse Nat) (ps : List Proc) (a : Nat) : P (atomStep s n g e know ps a) := by
  unfold Machine.atomStep
  split
  · exact h
  · exact F.net (F.noteConflicts h _ _) _ _

theorem atomSteps (h : P s) (n g e : Nat) (know : Sparse Nat) (ps : List Proc) (l : List Nat) (w : List (Nat × Nat)) :
    P (atomSteps s n g e know ps l w).1 := by
  induction l generalizing s w with
  | nil => exact h
  | cons a l ih => exact ih (F.atomStep h n g e know ps a) _

theorem writeLog (h : P s) (n : Nat) : P (writeLog s n) := by
  unfold Machine.writeLog
  split
  · exact h
  · exact F.store h _ _ _

theorem holdViews (h : P s) (k : Nat) (vas : List Nat) : P (holdViews s k vas) :=
  F.foldl (fun _ _ h => F.slot h _ _ fun _ => by split <;> rfl) _ h

theorem holdBase (h : P s) (n k : Nat) (vas : List Nat) : P (holdBase s n k vas) :=
  F.foldl (fun _ _ h => F.ite h (F.net h _ _ fun _ => by split <;> rfl)) _ h

theorem chargeImage (h : P s) (k : Nat) (vas : List Nat) : P (chargeImage s k vas) := F.foldl (fun _ _ h => F.chargeVa h _ _ _) _ h

theorem publish (h : P s) (k : Nat) : P (publish s k) := F.rest h

/-- R340: the image of a boundary of group 0 is stored for the tenant. -/
theorem tenantImage (h : P s) (n : Nat) (know : Sparse Nat) : P (tenantImage s n know).1 := by
  unfold Machine.tenantImage
  split
  · exact h
  · refine F.net (F.publish (F.writeLog (F.foldl (fun _ _ h => F.store h _ _ _) _ ?_) _) _) _ _
    exact F.holdBase (F.holdViews (F.chargeImage (F.noteConflicts h _ _) _ _) _ _) _ _ _

theorem boundaryMerge (h : P s) (n g e : Nat) (ps : List Proc) : P (boundaryMerge s n g e ps).1 := by
  unfold Machine.boundaryMerge
  dsimp only
  split
  · exact F.tenantImage (F.net (F.atomSteps (F.noteConflicts (F.net h _ _) _ _) _ _ _ _ _ _ _) _ _) _ _
  · exact F.net (F.atomSteps (F.noteConflicts (F.net h _ _) _ _) _ _ _ _ _ _ _) _ _

theorem mergeDue (h : P s) (n : Nat) : P (mergeDue s n) := by
  unfold Machine.mergeDue
  split
  · exact h
  · refine F.foldl (fun s g h => ?_) _ h
    split
    · exact F.boundaryMerge h _ _ _ _
    · exact h

/-- R37, R349: the last boundaries of a network that binds off. -/
theorem lastBoundary (h : P s) (k : Nat) : P (lastBoundary s k) := by
  have hm := F.mergeDue h k
  unfold Machine.lastBoundary
  dsimp only
  split
  · exact hm
  · exact F.ite hm (F.boundaryMerge hm _ _ _ _)

end FabricInv

/-! ## The canonical form of the memories is so kept -/

/-- A change of DRAM's bookkeeping, the fabric, the networks or the slots: whatever leaves DRAM, the tiles and the functions alone. -/
theorem memOk_same {s t : State} (h : s.MemOk) (hd : t.dram = s.dram := by rfl) (ht : t.tiles = s.tiles := by rfl)
    (hf : t.funcs = s.funcs := by rfl) : t.MemOk := h.congr hd ht hf

theorem memInv : FabricInv State.MemOk where
  rest h _ _ ht hf hd := memOk_same h hd ht hf
  slot h i f _ := memOk_modSlot h i f
  net h k f _ := memOk_modNet h k f
  place h := memOk_placeSlot h
  store h := memOk_rawStore h
  event h := memOk_regionEvent h

end

section
/-! PROOFS (O60). What the operations of the model do to the canonical form of the byte memories (`State.MemOk`): the shapes that a
meaning is built from, then the memory server, the fabric and the commit point. -/

variable {s t : State}

/-! ## The shapes that a meaning is built from -/

theorem memOk_ite {p : Prop} [Decidable p] (h : s.MemOk) (k : t.MemOk) : (if p then s else t).MemOk := by
  split
  · exact h
  · exact k

theorem memOk_foldl {α : Type} {f : State → α → State} (hf : ∀ s a, s.MemOk → (f s a).MemOk) (l : List α) (h : s.MemOk) :
    (l.foldl f s).MemOk := by
  induction l generalizing s with
  | nil => exact h
  | cons a l ih => exact ih (hf s a h)

/-- A state that an operation gives beside a value. -/
theorem memOk_snd {α : Type} {r : α × State} {a : α} (h : r.2.MemOk) (e : r = (a, t)) : t.MemOk := by
  rw [e] at h; exact h

/-- An update of a function that leaves its three memories alone. -/
theorem memOk_modFunc_same (h : s.MemOk) (k : Nat) (f : Func → Func) (hs : (f (s.func k)).staging = (s.func k).staging := by rfl)
    (hm : (f (s.func k)).mailbox = (s.func k).mailbox := by rfl) (hb : (f (s.func k)).bar4 = (s.func k).bar4 := by rfl) :
    (s.modFunc k f).MemOk :=
  memOk_modFunc h k f (by rw [hs]; exact h.staging k) (by rw [hm]; exact h.mailbox k) (by rw [hb]; exact h.bar4 k)

/-- An update of a tile that leaves its SRAM alone. -/
theorem memOk_modTile_same (h : s.MemOk) (k : Nat) (f : Tile → Tile) (hf : (f (s.tile k)).sram = (s.tile k).sram := by rfl) :
    (s.modTile k f).MemOk :=
  memOk_modTile h k f (by rw [hf]; exact h.sram k)

theorem memOk_modEp (h : s.MemOk) (e : Ep) (f : Port → Port) : (s.modEp e f).MemOk := memOk_modSlot h _ _

theorem memOk_modChan (h : s.MemOk) (n c : Nat) (f : Chan → Chan) : (s.modChan n c f).MemOk := memOk_modNet h _ _

/-! ## The memory server -/

theorem memOk_translate (h : s.MemOk) (tile tenant : Nat) (world : Bool) (vpn : Nat) (wr atom : Bool) :
    (translate s tile tenant world vpn wr atom).2.MemOk := by
  unfold translate
  dsimp only
  split
  · exact h
  · split
    · exact memOk_ite h (memOk_same h)
    · split
      · exact h
      · exact h
      · exact memOk_ite h (memOk_same h)

theorem memOk_pageRequest (h : s.MemOk) (r : Requester) (vpn : Nat) : (pageRequest s r vpn).MemOk := by
  unfold pageRequest
  exact memOk_ite (memOk_same h) (memOk_same h)

theorem memOk_admitPages (h : s.MemOk) : (admitPages s).MemOk := memOk_same h

theorem memOk_pageByte (h : s.MemOk) (far : Option Far) (l : Word) (off : Nat) : (pageByte s far l off).2.MemOk := by
  unfold pageByte
  split
  · exact h
  · split
    · exact h
    · exact memOk_same h

theorem memOk_readVa (h : s.MemOk) (i : Nat) (l : Word) (va : Nat) (far : Far) : (readVa s i l va far).2.MemOk := by
  unfold readVa
  dsimp only
  split
  · exact h
  · exact memOk_pageByte h _ _ _

theorem memOk_writeVa (h : s.MemOk) (i : Nat) (l : Word) (va : Nat) (b : Byte) : (writeVa s i l va b).MemOk := by
  unfold writeVa
  split
  · exact memOk_ite (memOk_pageStore h _ _ _) (memOk_modNet h _ _)
  · exact memOk_pageStore h _ _ _

theorem memOk_chargeRange (h : s.MemOk) (k : Nat) (leaves : List (Nat × Word)) (a n : Nat) : (chargeRange s k leaves a n).MemOk := by
  unfold chargeRange
  refine memOk_foldl (fun s p h => ?_) _ h
  dsimp only
  split
  · exact memInv.chargeLeaf h _ _ _ _
  · exact h

/-! ## Channels -/

theorem memOk_launchReaders (h : s.MemOk) (n : Nat) (c : Chan) (k : Nat → Pkt) : (launchReaders s n c k).MemOk := by
  unfold launchReaders
  dsimp only
  split
  · exact memInv.launchOut (memInv.launchHere h _ _ _) _ _ _
  · exact memInv.launchHere h _ _ _

theorem memOk_commitRead (h : s.MemOk) (i p n : Nat) : (commitRead s i p n).MemOk := by
  unfold commitRead
  dsimp only
  split
  · exact h
  · exact memOk_same h

theorem memOk_transmit (h : s.MemOk) (i p : Nat) (d : List Byte) : (transmit s i p d).MemOk := by
  unfold transmit
  dsimp only
  split
  · have h1 := memOk_modSlot h i fun x => x.modPort p fun p => { p with seq := p.seq + 1 }
    refine memOk_ite h1 (memOk_ite (memOk_modSlot h1 _ _) (memOk_ite ?_ ?_))
    · exact memOk_modNet (memInv.launchInput h1 _ _ _ _ _) _ _
    · exact memOk_modNet (memOk_launchReaders h1 _ _ _) _ _
  · exact h

theorem memOk_dropAtReaders (h : s.MemOk) (c : Chan) : (dropAtReaders s c).MemOk :=
  memOk_foldl (fun _ _ h => memOk_ite h (memInv.dropStale h _)) _ h

theorem memOk_sendCredits (h : s.MemOk) (n : Nat) (c : Chan) (r : Nat) : (sendCredits s n c r).MemOk := by
  unfold sendCredits
  split
  · exact h
  · exact memOk_foldl (fun s p h => memInv.launch (memOk_modEp h _ _) _ _ _ _) _ h

theorem memOk_cutNodes (h : s.MemOk) (n : Nat) (c : Chan) : (cutNodes s n c).MemOk :=
  memOk_foldl (fun _ _ h => memInv.discardInput h _ _ _ _ _ _) _ (memOk_modChan h _ _ _)

theorem memOk_launchCredits (h : s.MemOk) (n : Nat) (c : Chan) (r w m : Nat) : (launchCredits s n c r w m).MemOk :=
  memOk_foldl (fun _ _ h => memInv.launch h _ _ _ _) _ h

theorem memOk_dropLegs (h : s.MemOk) (n : Nat) (c : Chan) (r : Nat) (e : Ep) (saved : Bool) (st a b : Nat) :
    (dropLegs s n c r e saved st a b).MemOk :=
  memOk_ite (memOk_launchCredits (memOk_same h) _ _ _ _ _) (memOk_same h)

theorem memOk_cutReader (h : s.MemOk) (n : Nat) (c : Chan) (k r : Nat) : (cutReader s n c k r).MemOk := by
  unfold cutReader
  split
  · exact h
  · exact memOk_ite h (memOk_foldl (fun _ _ h => memOk_modNet (memOk_dropLegs h _ _ _ _ _ _ _ _) _ _) _ h)

theorem memOk_cutEnds (h : s.MemOk) (n : Nat) (c : Chan) : (cutEnds s n c).MemOk := by
  unfold cutEnds
  split
  · split
    · exact memOk_foldl (fun _ _ h => memOk_cutReader h _ _ _ _) _ h
    · exact h
  · exact memOk_cutNodes h _ _

theorem memOk_endContributor (h : s.MemOk) (n : Nat) (c : Chan) (w k : Nat) : (endContributor s n c w k).MemOk :=
  have hc := memOk_cutEnds (memOk_modChan h n c.chid _) n _
  memOk_ite (memInv.launchHere hc _ _ _) hc

theorem memOk_closePort (h : s.MemOk) (i p : Nat) : (closePort s i p).MemOk := by
  have h1 := memOk_modSlot h i fun x => x.modPort p fun p => { p with closed := true }
  unfold closePort
  refine memOk_ite h ?_
  dsimp only
  split
  · exact h1
  · have hc := memOk_endContributor h1
    exact memOk_ite (memOk_ite (memInv.launchOut (hc _ _ _ _) _ _ _) (hc _ _ _ _)) (memOk_launchReaders h1 _ _ _)

theorem memOk_severHere (h : s.MemOk) (n c : Nat) : (severHere s n c).MemOk := by
  unfold severHere
  split
  · exact h
  · exact memOk_ite h (memInv.countLost (memOk_modChan h _ _ _) _ _)

theorem memOk_severChan (h : s.MemOk) (n c : Nat) : (severChan s n c).MemOk := by
  unfold severChan
  split
  · exact h
  · exact memOk_ite h (memOk_ite (memInv.launchOut (memOk_severHere h _ _) _ _ _) (memOk_severHere h _ _))

theorem memOk_severRegion (h : s.MemOk) (r : Nat) : (severRegion s r).MemOk := by
  unfold severRegion
  refine memOk_foldl (fun s k h => ?_) _ h
  split
  · exact h
  · exact memOk_ite (memOk_foldl (fun _ _ h => memOk_ite (memOk_regionEvent (memOk_severChan h _ _) _ _) h) _ h) h

/-! ## UALink -/

theorem memOk_ualDeliver (h : s.MemOk) (m : UalMsg) (pos : Nat) (d : List Byte) : (ualDeliver s m pos d).MemOk := by
  unfold ualDeliver
  split
  · exact h
  · refine memOk_ite (memOk_ite h (memOk_dropAtReaders h _)) ?_
    split
    · exact memOk_ite (memInv.countLost h _ _) (memOk_ite (memInv.launch h _ _ _ _) (memInv.launchHere h _ _ _))
    · exact memOk_ite (memOk_endContributor h _ _ _ _) (memInv.launchHere h _ _ _)
    · exact memInv.launch h _ _ _ _
    · exact memOk_severHere h _ _
    · exact memOk_dropAtReaders h _

theorem memOk_ualDrain (h : s.MemOk) (port key n : Nat) : (ualDrain s port key n).MemOk := by
  induction n generalizing s with
  | zero => exact h
  | succ n ih =>
    have h1 : ∀ want, (ualDrain.take1 port key s want).MemOk := fun want => memOk_modUal h _ _
    unfold ualDrain
    dsimp only
    split
    · exact h
    · split
      · exact ih (memOk_ualDeliver (h1 _) _ _ _)
      · exact ih (memOk_ualDeliver (h1 _) _ _ _)
      · exact h

theorem memOk_ualReceive (h : s.MemOk) (port : Nat) (m : UalMsg) : (ualReceive s port m).MemOk := by
  unfold ualReceive
  dsimp only
  split
  · exact memOk_same h
  · refine memOk_ite (memOk_modUal (memOk_ualDeliver h _ _ _) _ _) (memOk_ite (memOk_ualDrain ?_ _ _ _) ?_)
    · exact memOk_modUal (memOk_ite h (memOk_modUal h _ _)) _ _
    · exact memOk_ite (memOk_same h) (memOk_ite h (memOk_same h))

end

section
/-! PROOFS (O60). The commit point, faults, unwinding and the end of a network keep the canonical form. -/

variable {s t : State}

/-! ## Flags and code segments -/

theorem memOk_orFlags (h : s.MemOk) (i : Nat) (f : Flags) : (s.orFlags i f).MemOk := memOk_modSlot h _ _

theorem memOk_putAccov (h : s.MemOk) (i : Nat) (v : BitVec 2) : (s.putAccov i v).MemOk := by
  unfold State.putAccov
  exact memOk_modSlot (memOk_modTile_same h _ _) _ _

theorem memOk_takeImage (h : s.MemOk) (i : Nat) (l : Word) (view : List (Nat × Byte)) (va n : Nat) :
    (takeImage s i l view va n).2.MemOk := by
  have fold : ∀ (f : List Byte × State → Nat → List Byte × State), (∀ a k, a.2.MemOk → (f a k).2.MemOk) →
      ∀ (ks : List Nat) (a : List Byte × State), a.2.MemOk → (ks.foldl f a).2.MemOk := by
    intro f hf ks
    induction ks with
    | nil => exact fun _ ha => ha
    | cons k ks ih => exact fun a ha => ih _ (hf a k ha)
  unfold takeImage
  refine fold _ (fun a k ha => ?_) _ _ (memOk_same h)
  dsimp only
  split
  · exact ha
  · exact memOk_pageByte ha _ _ _

theorem memOk_noteFound (h : s.MemOk) (i : Nat) (cs : List Conflict) : (noteFound s i cs).MemOk :=
  memOk_ite h (memInv.noteConflicts h _ _)

theorem memOk_sendFetch (h : s.MemOk) (i k : Nat) : (sendFetch s i k).MemOk := by
  unfold sendFetch
  dsimp only
  split
  · exact h
  · refine memOk_ite h ?_
    have ht := memOk_translate h (tileOf i)
    split
    · next e => exact memOk_modSlot (memOk_ite (memOk_snd (ht _ _ _ _ _) e) (memOk_pageRequest (memOk_snd (ht _ _ _ _ _) e) _ _)) _ _
    · next e => exact memOk_modSlot (memOk_snd (ht _ _ _ _ _) e) _ _
    · next e => exact memOk_modSlot (memOk_takeImage (memInv.chargeLeaf (memOk_snd (ht _ _ _ _ _) e) _ _ _ _) _ _ _ _ _) _ _

/-! ## The commit point -/

theorem memOk_commitHeld (h : s.MemOk) (i : Nat) (e : HistE) : (commitHeld s i e).MemOk := by
  unfold commitHeld
  split
  · exact memOk_commitRead h _ _ _
  · exact memOk_transmit h _ _ _
  · exact memOk_closePort h _ _
  · exact memOk_sendFetch (memOk_noteFound (memOk_modSlot h _ _) _ _) _ _
  all_goals exact h

theorem memOk_undoHeld (h : s.MemOk) (i : Nat) (e : HistE) : (undoHeld s i e).MemOk := by
  unfold undoHeld
  split
  case h_6 => exact h
  case h_7 => exact memOk_sendFetch (memOk_modSlot h _ _) _ _
  all_goals exact memOk_modSlot h _ _

theorem memOk_setStatus (h : s.MemOk) (n c : Nat) (e : Option Ending) : (setStatus s n c e).MemOk := memOk_modNet h _ _

theorem memOk_checkEnd (h : s.MemOk) (n : Nat) : (checkEnd s n).MemOk := by
  unfold checkEnd
  split
  · exact h
  · exact memOk_ite (memOk_modNet (memOk_setStatus h _ _ _) _ _) h

theorem memOk_commitExit (h : s.MemOk) (i : Nat) : (commitExit s i).MemOk := by
  refine memOk_checkEnd (memOk_modNet (memOk_modSlot (memOk_foldl (fun s p h => ?_) _ h) _ _) _ _) _
  exact memOk_ite (memOk_closePort h _ _) h

theorem memOk_unwindTo (h : s.MemOk) (i pos sub : Nat) (eseq : BitVec 32) (mask : BitVec 8) : (unwindTo s i pos sub eseq mask).MemOk := by
  unfold unwindTo
  exact memOk_modSlot (memOk_foldl (fun _ _ h => memOk_undoHeld h _ _) _ h) _ _

theorem memOk_stopSlot (h : s.MemOk) (i : Nat) : (stopSlot s i).MemOk := by
  unfold stopSlot
  dsimp only
  split
  · exact memOk_modNet (memOk_modSlot (memOk_unwindTo h _ _ _ _ _) _ _) _ _
  · exact memOk_same h

theorem memOk_askStop (h : s.MemOk) (i : Nat) : (askStop s i).MemOk := memOk_ite (memOk_stopSlot h _) (memOk_modSlot h _ _)

theorem memOk_askPreempt (h : s.MemOk) (i : Nat) : (askPreempt s i).MemOk := memOk_modSlot h _ _

theorem memOk_endNet (h : s.MemOk) (n c : Nat) (e : Option Ending) : (endNet s n c e).MemOk :=
  memOk_checkEnd (memOk_modNet (memOk_foldl (fun _ _ h => memOk_askStop h _) _ (memOk_setStatus h _ _ _)) _ _) _

/-! ## Faults -/

theorem memOk_enterTrap (h : s.MemOk) (i : Nat) (f : FaultRec) : (enterTrap s i f).MemOk := by
  unfold enterTrap
  exact memOk_modSlot h _ _

theorem memOk_withdraw (h : s.MemOk) (r : Nat) : (withdraw s r).MemOk := memOk_same h

theorem memOk_stopSaved (h : s.MemOk) (n r : Nat) : (stopSaved s n r).MemOk := memOk_modNet h _ _

/-- A halt raises double faults in other regions, which halt them in turn (R359). -/
theorem memOk_haltGo (fuel : Nat) (h : s.MemOk) (r cause kind : Nat) : (haltGo fuel s r cause kind).MemOk := by
  induction fuel generalizing s r cause kind with
  | zero => exact h
  | succ fuel ih =>
    unfold haltGo
    refine memOk_foldl (fun s w h => ?_) _ (memOk_foldl (fun s k h => ?_) _ (memOk_severRegion (memOk_withdraw
      (memOk_regionEvent (memOk_modRegion h _ _) _ _) _) _))
    · exact memOk_ite h (memOk_ite (memOk_endNet (ih (memOk_stopSlot (memOk_setStatus h _ _ _) _) _ _ _) _ _ _) (memOk_enterTrap h _ _))
    · split
      · exact h
      · exact memOk_ite (memOk_checkEnd (memOk_stopSaved (memOk_foldl (fun _ _ h => memOk_stopSlot h _) _ (memOk_setStatus h _ _ _)) _ _) _) h

theorem memOk_haltRegion (h : s.MemOk) (r cause kind : Nat) : (haltRegion s r cause kind).MemOk := memOk_haltGo 17 h r cause kind

theorem memOk_landStores (h : s.MemOk) (i : Nat) (l : List Store) : (landStores s i l).MemOk := by
  induction l generalizing s with
  | nil => exact h
  | cons x l ih => exact ih (memOk_ite (memOk_haltRegion h _ _ _) (memOk_putBytesAt h _ _ _))

theorem memOk_commitSlot (h : s.MemOk) (i : Nat) : (commitSlot s i).MemOk :=
  have hl := memOk_landStores (memOk_foldl (fun _ _ h => memOk_commitHeld h _ _) _ (memOk_modSlot h i _)) i _
  memOk_ite (memOk_commitExit hl _) hl

theorem memOk_doubleFault (h : s.MemOk) (i : Nat) (c : Cause) (e : Bool) : (doubleFault s i c e).MemOk :=
  memOk_endNet (memOk_haltRegion (memOk_stopSlot (memOk_setStatus h _ _ _) _) _ _ _) _ _ _

theorem memOk_takeG (h : s.MemOk) (i : Nat) (f : FaultRec) : (takeG s i f).MemOk :=
  memOk_ite (memOk_haltRegion h _ _ _) (memOk_ite (memOk_doubleFault h _ _ _) (memOk_enterTrap h _ _))

theorem memOk_raiseG (h : s.MemOk) (i : Nat) (c : Cause) (pc fw : Word) (va : Option Word) (seg : Option Nat) :
    (raiseG s i c pc fw va seg).MemOk := memOk_ite (memOk_takeG h _ _) (memOk_modSlot h _ _)

theorem memOk_markPattern (h : s.MemOk) (i : Nat) (w : QEntry) : (markPattern s i w).MemOk := by
  unfold markPattern
  split
  · exact memOk_ite h (memOk_modSlot h _ _)
  · exact h

theorem memOk_raiseEW (h : s.MemOk) (i : Nat) (w : QEntry) (c : Cause) (fw : Word) (va : Option Word) : (raiseEW s i w c fw va).MemOk :=
  have hu := memOk_unwindTo (memOk_markPattern h i w) i w.pos w.sub w.eseq w.mask0
  memOk_ite (memOk_haltRegion h _ _ _) (memOk_ite (memOk_doubleFault h _ _ _)
    (memOk_ite (memOk_enterTrap (memOk_commitSlot hu _) _ _) (memOk_modSlot hu _ _)))

theorem memOk_raiseE (h : s.MemOk) (i : Nat) (w : QEntry) (c : Cause) (va : Option Word) : (raiseE s i w c va).MemOk :=
  memOk_raiseEW h i w c _ va

theorem memOk_raiseConflict (h : s.MemOk) (i va : Nat) : (raiseConflict s i va).MemOk := memOk_raiseG h _ _ _ _ _ _

theorem memOk_leaveTrap (h : s.MemOk) (i : Nat) : (leaveTrap s i).MemOk := memOk_modSlot h _ _

theorem memOk_takePending (h : s.MemOk) (i : Nat) : (takePending s i).MemOk := by
  unfold takePending
  split
  · split
    · exact memOk_raiseConflict (memOk_modNet h _ _) _ _
    · exact h
  · exact h

theorem memOk_returnTrap (h : s.MemOk) (i : Nat) : (returnTrap s i).MemOk := memOk_takePending (memOk_leaveTrap h _) _

end

section
/-! PROOFS (O60). The generator's instructions keep the canonical form. -/

variable {s t : State}

/-! ## What a meaning answers -/

/-- A step that goes on leaves every memory in canonical form. -/
def Out.MemOk : Out → Prop
  | .next t => t.MemOk
  | _ => True

/-- The body of a generator instruction that completes leaves every memory in canonical form. -/
def Body.MemOk : Body → Prop
  | .ok _ _ t => t.MemOk
  | _ => True

/-- An engine word that starts, or faults with effects, leaves every memory in canonical form. -/
def EngRes.MemOk : EngRes → Prop
  | .ok t _ => t.MemOk
  | .faultIn t _ _ => t.MemOk
  | _ => True

/-- A control instruction that is done leaves every memory in canonical form. -/
def CtlRes.MemOk : CtlRes → Prop
  | .done _ t => t.MemOk
  | .wait => True

theorem out_memOk_next {o : Out} (h : Out.MemOk o) (e : o = .next t) : t.MemOk := by
  rw [e] at h; exact h

theorem out_memOk_ite {p : Prop} [Decidable p] {a b : Out} (h : Out.MemOk a) (k : Out.MemOk b) : Out.MemOk (if p then a else b) := by
  split
  · exact h
  · exact k

theorem body_memOk_ite {p : Prop} [Decidable p] {a b : Body} (h : a.MemOk) (k : b.MemOk) : (if p then a else b).MemOk := by
  split
  · exact h
  · exact k

theorem engRes_memOk_ite {p : Prop} [Decidable p] {a b : EngRes} (h : a.MemOk) (k : b.MemOk) : (if p then a else b).MemOk := by
  split
  · exact h
  · exact k

theorem ctlRes_memOk_ite {p : Prop} [Decidable p] {a b : CtlRes} (h : a.MemOk) (k : b.MemOk) : (if p then a else b).MemOk := by
  split
  · exact h
  · exact k

theorem memOk_trapG (h : s.MemOk) (c : Cause) (fw : Word) (va : Option Word) : Out.MemOk (trapG s c fw va) := memOk_raiseG h _ _ _ _ _ _

theorem memOk_failSeg (h : s.MemOk) (k : Nat) : Out.MemOk (failSeg s k) := memOk_raiseG h _ _ _ _ _ _

theorem memOk_waitG (h : s.MemOk) (w : Wait) : Out.MemOk (waitG s w) := memOk_modMe h _

/-! ## Operands -/

theorem memOk_issued (h : s.MemOk) : (issued s).MemOk := memOk_modTile_same h _ _

theorem memOk_finishG (h : s.MemOk) (pc : Word) : (finishG s pc).MemOk := memOk_commitSlot (memOk_issued (memOk_modMe h _)) _

theorem memOk_takePort (h : s.MemOk) (i p : Nat) : (takePort s i p).2.MemOk := by
  unfold takePort
  dsimp only
  split
  · exact h
  · split
    · exact memOk_same h
    · exact memOk_same h

theorem memOk_takeSrc (h : s.MemOk) (o : Opnd) : (takeSrc s o).2.MemOk := by
  unfold takeSrc
  split
  · exact memOk_takePort h _ _
  · exact h

theorem memOk_takeSrcs (h : s.MemOk) (srcs : List Opnd) : (takeSrcs s srcs).2.MemOk := by
  induction srcs generalizing s with
  | nil => exact h
  | cons o os ih => exact ih (memOk_takeSrc h o)

theorem memOk_putG (h : s.MemOk) (r : Nat) (v : Word) : (putG s r v).MemOk := memOk_ite h (memOk_modMe h _)

theorem memOk_putDst (h : s.MemOk) (o : Opnd) (v : Word) : (putDst s o v).MemOk := memOk_ite (memOk_modMe h _) (memOk_putG h _ _)

/-- R44: an instruction over operands keeps the canonical form where its body does. -/
theorem memOk_genOp {srcs : List Opnd} {dst : Option Opnd} {k : List Word → State → Body} (h : s.MemOk)
    (hk : ∀ vs t, t.MemOk → (k vs t).MemOk) : Out.MemOk (genOp s srcs dst k) := by
  unfold genOp
  refine out_memOk_ite (memOk_trapG h _ _ _) ?_
  split
  · exact memOk_trapG h _ _ _
  · split
    · exact memOk_trapG h _ _ _
    · exact memOk_waitG h _
    · refine out_memOk_ite (memOk_waitG h _) ?_
      have hb := hk (takeSrcs s srcs).1 _ (memOk_takeSrcs h srcs)
      dsimp only
      split
      · exact memOk_trapG h _ _ _
      · exact memOk_failSeg h _
      · exact memOk_waitG h _
      · next e =>
        rw [e] at hb
        split
        · exact memOk_finishG (memOk_putDst hb _ _) _
        · exact memOk_finishG hb _

theorem memOk_genUn (h : s.MemOk) (d a : Opnd) (f : Word → Word) : Out.MemOk (genUn s d a f) := memOk_genOp h fun _ _ ht => ht

theorem memOk_genBin (h : s.MemOk) (d a b : Opnd) (f : Word → Word → Word) : Out.MemOk (genBin s d a b f) :=
  memOk_genOp h fun _ _ ht => ht

/-! ## Loads, stores, branches, templates -/

theorem memOk_accessBody {a : Word} {k : Unit → Body} (r : Access) (hk : (k ()).MemOk) : (r.body a k).MemOk := by
  cases r with
  | trap _ => trivial
  | wait _ => trivial
  | ecc => trivial
  | go => exact hk

theorem memOk_loadOp (h : s.MemOk) (d a : Opnd) (i : BitVec 14) (n : Nat) (f : Nat → Word) : Out.MemOk (loadOp s d a i n f) :=
  memOk_genOp h fun _ _ ht => memOk_accessBody _ ht

theorem memOk_ldpc (h : s.MemOk) (d : Opnd) (i : BitVec 20) : Out.MemOk (execLdpc d i s) :=
  memOk_genOp h fun _ _ ht => memOk_accessBody _ ht

theorem memOk_holdStore (h : s.MemOk) (i a : Nat) (d : List Byte) : (s.holdStore i a d).MemOk := memOk_modSlot h _ _

/-- A store of the generator is held (R116): its bytes reach the memory at the commit point. -/
theorem memOk_storeOp (h : s.MemOk) (v a : Opnd) (i : BitVec 14) (n : Nat) : Out.MemOk (storeOp s v a i n) :=
  memOk_genOp h fun _ _ ht => memOk_accessBody _ (memOk_holdStore ht _ _ _)

theorem memOk_putT (h : s.MemOk) (r : Nat) (v : Word) : (putT s r v).MemOk := memOk_modMe h _

theorem memOk_tset (h : s.MemOk) (t : BitVec 4) (a b : Opnd) : Out.MemOk (execTset t a b s) :=
  memOk_genOp h fun _ _ ht => body_memOk_ite trivial (memOk_putT ht _ _)

theorem memOk_tld (h : s.MemOk) (t : BitVec 4) (a : Opnd) (i : BitVec 14) : Out.MemOk (execTld t a i s) :=
  memOk_genOp h fun _ _ ht => memOk_accessBody _ (body_memOk_ite trivial (memOk_putT ht _ _))

theorem memOk_branchOp (h : s.MemOk) (a b : Opnd) (o : BitVec 14) (c : Word → Word → Bool) : Out.MemOk (branchOp s a b o c) :=
  memOk_genOp h fun _ _ ht => ht

theorem memOk_jalr (h : s.MemOk) (d a : Opnd) (i : BitVec 14) : Out.MemOk (execJalr d a i s) :=
  memOk_genOp h fun _ _ ht => body_memOk_ite trivial ht

theorem memOk_segBody {go : Body} (k : Nat) (hg : go.MemOk) : (segBody s k go).MemOk := by
  unfold segBody
  split
  · trivial
  · trivial
  · trivial
  · exact hg

theorem memOk_jmpf (h : s.MemOk) (d a : Opnd) (i : BitVec 14) : Out.MemOk (execJmpf d a i s) :=
  memOk_genOp h fun _ _ ht => body_memOk_ite trivial
    (body_memOk_ite (body_memOk_ite trivial ht) (body_memOk_ite trivial (memOk_segBody _ ht)))

theorem memOk_cfetch (h : s.MemOk) (a b : Opnd) : Out.MemOk (execCfetch a b s) :=
  memOk_genOp h fun _ _ ht => body_memOk_ite trivial (body_memOk_ite trivial (body_memOk_ite trivial
    (body_memOk_ite trivial (memOk_modMe ht _))))

theorem memOk_cwait (h : s.MemOk) (a : Opnd) : Out.MemOk (execCwait a s) := by
  refine memOk_genOp h fun _ _ ht => body_memOk_ite trivial ?_
  split
  · trivial
  · exact body_memOk_ite ht trivial
  · exact ht
  · exact ht

/-! ## Emits -/

theorem memOk_enqueue (h : s.MemOk) (i : Nat) (q : Queue) (w : Word) (hu dh : List Hull) (fo : Option Word) (foh : List Hull) :
    (enqueue s i q w hu dh fo foh).MemOk := memOk_modSlot h _ _

theorem memOk_emitBody {u : State} (h : t.MemOk) (q : Queue) (w : Word) : (emitBody u t q w).MemOk := by
  unfold emitBody
  dsimp only
  split
  · trivial
  · trivial
  · split
    · trivial
    · exact body_memOk_ite trivial (body_memOk_ite trivial (body_memOk_ite trivial (memOk_enqueue h _ _ _ _ _ _ _)))

theorem memOk_emit (h : s.MemOk) (q : BitVec 2) (a b : Opnd) : Out.MemOk (execEmit q a b s) :=
  memOk_genOp h fun _ _ ht => memOk_emitBody ht _ _

theorem memOk_emitt (h : s.MemOk) (q : BitVec 2) (n : BitVec 4) (a b : Opnd) (x y : BitVec 4) : Out.MemOk (execEmitt q n a b x y s) :=
  memOk_genOp h fun _ _ ht => memOk_emitBody ht _ _

theorem memOk_emitl (h : s.MemOk) (q : BitVec 2) (o : BitVec 24) : Out.MemOk (execEmitl q o s) :=
  memOk_genOp h fun _ _ ht => memOk_accessBody _ (memOk_emitBody ht _ _)

theorem memOk_gwait (h : s.MemOk) (m : BitVec 3) : Out.MemOk (execGwait m s) := memOk_genOp h fun _ _ ht => body_memOk_ite trivial ht

theorem memOk_mwaitb (h : s.MemOk) (b : BitVec 3) : Out.MemOk (execMwaitb b s) :=
  memOk_genOp h fun _ _ ht => body_memOk_ite trivial (body_memOk_ite trivial (body_memOk_ite trivial (body_memOk_ite trivial ht)))

/-! ## Bursts and `chctl` -/

theorem memOk_burstStep (h : s.MemOk) (a b : Opnd) (n : Nat) : (burstStep s a b n).MemOk := memOk_modMe h _

theorem memOk_recvOne (h : s.MemOk) (p : Nat) (c : Chan) (a b : Opnd) : (recvOne s p c a b).MemOk :=
  memOk_burstStep (memOk_putBytesAt (memOk_commitRead (memOk_modMe h _) _ _ _) _ _ _) _ _ _

theorem memOk_sendOne (h : s.MemOk) (p : Nat) (c : Chan) (a b : Opnd) : (sendOne s p c a b).MemOk :=
  memOk_burstStep (memOk_transmit (memOk_modMe h _) _ _ _) _ _ _

theorem memOk_recvLoop (p : Nat) (a b : Opnd) (n : Nat) (h : s.MemOk) : Out.MemOk (recvLoop p a b n s) := by
  induction n generalizing s with
  | zero => exact memOk_finishG h _
  | succ n ih =>
    unfold recvLoop
    split
    · exact memOk_trapG h _ _ _
    · split
      · exact ih (memOk_recvOne h _ _ _ _)
      · exact out_memOk_ite (memOk_finishG (memOk_modMe h _) _) (memOk_trapG h _ _ _)
      · exact memOk_trapG h _ _ _
      · exact memOk_trapG h _ _ _
      · exact memOk_waitG h _

theorem memOk_sendLoop (p : Nat) (a b : Opnd) (n : Nat) (h : s.MemOk) : Out.MemOk (sendLoop p a b n s) := by
  induction n generalizing s with
  | zero => exact memOk_finishG h _
  | succ n ih =>
    unfold sendLoop
    split
    · exact memOk_trapG h _ _ _
    · split
      · exact ih (memOk_sendOne h _ _ _ _)
      · exact memOk_trapG h _ _ _
      · exact memOk_waitG h _

theorem memOk_burst (h : s.MemOk) (p a b : Opnd) (wr : Bool) : Out.MemOk (burst s p a b wr) := by
  have ht := memOk_trapG h
  have hw := memOk_waitG h
  unfold burst
  refine out_memOk_ite (ht _ _ _) (out_memOk_ite (hw _) ?_)
  dsimp only
  split
  · exact ht _ _ _
  · exact out_memOk_ite (ht _ _ _) (out_memOk_ite (ht _ _ _) (out_memOk_ite (ht _ _ _) (out_memOk_ite (ht _ _ _) (out_memOk_ite (hw _)
      (out_memOk_ite (ht _ _ _) (out_memOk_ite (memOk_sendLoop _ _ _ _ h) (memOk_recvLoop _ _ _ _ h)))))))

theorem memOk_chctlClose (h : s.MemOk) (p : Opnd) : Out.MemOk (execChctlClose p s) := by
  refine out_memOk_ite (memOk_trapG h _ _ _) (memOk_genOp h fun _ _ ht => ?_)
  split
  · trivial
  · exact body_memOk_ite ht (body_memOk_ite trivial (body_memOk_ite trivial (memOk_modMe ht _)))

theorem memOk_chctlEosrd (h : s.MemOk) (d p : Opnd) : Out.MemOk (execChctlEosrd d p s) := by
  refine out_memOk_ite (memOk_trapG h _ _ _) ?_
  split
  · exact memOk_trapG h _ _ _
  · exact memOk_genOp h fun _ _ ht => body_memOk_ite trivial ht

theorem memOk_chctlEosclr (h : s.MemOk) (p : Opnd) : Out.MemOk (execChctlEosclr p s) := by
  refine out_memOk_ite (memOk_trapG h _ _ _) (memOk_genOp h fun _ _ ht => ?_)
  split
  · trivial
  · exact body_memOk_ite trivial (body_memOk_ite trivial (memOk_modMe ht _))

end

section
/-! PROOFS (O60). Barriers and boundaries, slot records and system registers keep the canonical form. -/

variable {s t : State}

/-! ## Barriers and phases -/

/-- R326, R337: an arrival, registered by `k` once the instruction has completed. -/
theorem memOk_arriveAt {k : State → State × Wait} (h : s.MemOk) (g : BitVec 8) (hk : ∀ s, s.MemOk → (k s).1.MemOk) :
    Out.MemOk (arriveAt s g k) :=
  out_memOk_ite (memOk_trapG h _ _ _) (out_memOk_ite (memOk_waitG h _) (memOk_modMe (hk _ (memOk_finishG h _)) _))

theorem memOk_gbar (h : s.MemOk) (g : BitVec 8) : Out.MemOk (execGbar g s) := memOk_arriveAt h g fun _ h => memOk_modNet h _ _

theorem memOk_phase (h : s.MemOk) (g : BitVec 8) : Out.MemOk (execPhase g s) := memOk_arriveAt h g fun _ h => memOk_modNet h _ _

theorem memOk_releaseWaits (h : s.MemOk) (ps : List Proc) (w : Wait) : (releaseWaits s ps w).MemOk :=
  memOk_foldl (fun _ _ h => memOk_ite (memOk_modSlot h _ _) h) _ h

theorem memOk_barrierRelease (h : s.MemOk) (n g : Nat) : Out.MemOk (execBarrierRelease n g s) := by
  unfold execBarrierRelease
  split
  · exact h
  · split
    · exact h
    · exact out_memOk_ite (memOk_releaseWaits (memOk_modNet h _ _) _ _) h

theorem memOk_chargeConflict (h : s.MemOk) (n : Nat) (p : Proc) (va : Nat) : (chargeConflict s n p va).MemOk :=
  memOk_ite h (memOk_ite (memOk_modNet h _ _) (memOk_raiseConflict h _ _))

theorem memOk_boundary (h : s.MemOk) (n g : Nat) : Out.MemOk (execBoundary n g s) := by
  unfold execBoundary
  split
  · exact h
  · split
    · exact h
    · split
      · exact h
      · next e live _ =>
        have hm := fun ps w => memOk_releaseWaits (memInv.boundaryMerge h n g e live) ps w
        refine out_memOk_ite (memOk_foldl (fun s p h => ?_) _ (hm _ _)) (hm _ _)
        split
        · exact h
        · exact memOk_chargeConflict h _ _ _

/-! ## Slot records -/

theorem memOk_flushPort (h : s.MemOk) (n : Nat) (c : Chan) (r : Nat) (p : Port) : (flushPort s n c r p).MemOk :=
  memOk_foldl (fun _ _ h => memOk_sendCredits h _ _ _) _ h

theorem memOk_flushCredits (h : s.MemOk) (i : Nat) : (flushCredits s i).MemOk := by
  refine memOk_foldl (fun s p h => ?_) _ h
  dsimp only
  split
  · exact memOk_flushPort h _ _ _ _
  · exact h

theorem memOk_keepPorts (h : s.MemOk) (i : Nat) : (keepPorts s i).MemOk :=
  memOk_foldl (fun _ _ h => memOk_ite h (memOk_modChan h _ _ _)) _ h

theorem memOk_savePages (h : s.MemOk) (i : Nat) (d : Ident) (wr : Bool) (l : List Nat) (ls : List (Nat × Word)) :
    (savePages s i d wr l ls).2.MemOk := by
  induction l generalizing s ls with
  | nil => exact h
  | cons vpn l ih =>
    have ht := memOk_translate h (tileOf i) d.tenant d.world vpn wr false
    unfold savePages
    split
    · exact h
    · split
      · next e => exact ih (memOk_snd ht e) _
      · next e => exact memOk_snd ht e
      · next e => exact memOk_snd ht e

theorem memOk_storeLeaf (h : s.MemOk) (ls : List (Nat × Word)) (va : Nat) (bs : List Byte) : (storeLeaf s ls va bs).MemOk := by
  induction bs generalizing s va with
  | nil => exact h
  | cons b bs ih =>
    refine ih ?_ (va + 1)
    split
    · exact memOk_pageStore h _ _ _
    · exact h

theorem memOk_chargeRecord (h : s.MemOk) (i : Nat) (ls : List (Nat × Word)) : (chargeRecord s i ls).MemOk := memOk_chargeRange h _ _ _ _

theorem memOk_writeRecord (h : s.MemOk) (i : Nat) (ls : List (Nat × Word)) : (writeRecord s i ls).MemOk := by
  have hk := memOk_keepPorts (memOk_flushCredits (memOk_chargeRecord h i ls) i) i
  have hs := fun va l => memOk_foldl (f := fun t (p : Nat × List Byte) => storeLeaf t ls (va + p.1) p.2)
    (fun _ p h => memOk_storeLeaf h ls (va + p.1) p.2) l hk
  exact memOk_ite (memOk_storeLeaf (hs _ _) _ _ _) (hs _ _)

/-- R365: a record restored; with the partition, its bytes go to the tile's SRAM. -/
theorem memOk_readRecord (h : s.MemOk) (i : Nat) (ls : List (Nat × Word)) : (readRecord s i ls).MemOk := by
  unfold readRecord
  extract_lets u x va rd ov t t'
  have ht : t.MemOk := memOk_modSlot (memOk_chargeRecord h i ls) _ _
  have ht' : t'.MemOk := memOk_ite (memOk_putAccov ht _ _) ht
  exact memOk_ite (memOk_modTile ht' _ _ (memory_wf_putBytes _ _ _ (ht'.sram _))) ht'

theorem memOk_saveRun (h : s.MemOk) (i : Nat) : (saveRun s i).MemOk := by
  have hp := memOk_savePages h i
  unfold saveRun
  refine memOk_ite h (memOk_ite h (memOk_ite h ?_))
  dsimp only
  split
  · next e => exact memOk_modSlot (memOk_snd (hp _ _ _ _) e) _ _
  · next e => exact memOk_modSlot (memOk_pageRequest (memOk_snd (hp _ _ _ _) e) _ _) _ _
  · next e =>
    have h1 := memOk_snd (hp _ _ _ _) e
    exact memOk_modSlot (memOk_ite (memOk_writeRecord h1 _ _) (memOk_readRecord h1 _ _)) _ _

theorem memOk_startSave (h : s.MemOk) (i op : Nat) (part : Bool) : (startSave s i op part).MemOk := memOk_saveRun (memOk_modSlot h _ _) _

theorem memOk_saveSlotRecord (h : s.MemOk) (part : Bool) : Out.MemOk (execSaveSlotRecord part s) :=
  out_memOk_ite h (memOk_startSave h _ _ _)

theorem memOk_restoreSlotRecord (h : s.MemOk) (part : Bool) : Out.MemOk (execRestoreSlotRecord part s) :=
  out_memOk_ite h (memOk_startSave h _ _ _)

theorem memOk_savectlDone (h : s.MemOk) : Out.MemOk (execSavectlDone s) :=
  out_memOk_ite (memOk_modMe (memOk_saveRun h _) _) (memOk_saveRun h _)

/-! ## System registers -/

theorem memOk_scrubPagesTo (h : s.MemOk) (n : Nat) : (scrubPagesTo s n).MemOk := by
  refine memOk_same (memOk_foldl (fun t j ht => ?_) _ h)
  dsimp only
  split
  · exact memOk_zeroGranule ht _ _ _
  · exact ht

theorem memOk_scrubAdvance (h : s.MemOk) : (scrubAdvance s).MemOk :=
  memOk_ite (memOk_scrubPagesTo (memOk_same h) _) h

theorem memOk_timeValue (h : s.MemOk) : (timeValue s).2.MemOk := by
  unfold timeValue
  split
  · exact memOk_same h
  · exact h

theorem memOk_sysValue (h : s.MemOk) (r : Nat) : (sysValue s r).2.MemOk := by
  unfold sysValue
  dsimp only
  split
  case h_20 | h_21 | h_22 | h_23 | h_24 => exact memOk_timeValue h
  case h_63 | h_64 => exact memOk_scrubAdvance h
  all_goals exact h

theorem memOk_writeAccown (h : s.MemOk) (i : Nat) (v : Word) : (writeAccown s i v).MemOk := by
  unfold writeAccown
  dsimp only
  split
  · exact memOk_putAccov (memOk_modTile_same h _ _) _ _
  · exact memOk_modTile_same h _ _

theorem memOk_writeAccov (h : s.MemOk) (i : Nat) (v : Word) : (writeAccov s i v).MemOk := memOk_ite (memOk_putAccov h _ _) h

theorem memOk_writeTbcfg (h : s.MemOk) (v : Word) : (writeTbcfg s v).MemOk := by
  unfold writeTbcfg
  split
  · exact h
  · exact memOk_same h

theorem memOk_severNoted (h : s.MemOk) (n : Nat) (m : Net) (c : Chan) : (severNoted s n m c).MemOk :=
  memOk_regionEvent (memOk_severChan h _ _) _ _

theorem memOk_severAdmitted (h : s.MemOk) (e : Word) : (severAdmitted s e).MemOk := by
  refine memOk_foldl (fun t k h => ?_) _ h
  split
  · exact h
  · exact memOk_ite (memOk_foldl (fun _ _ h => memOk_ite (memOk_severNoted h _ _ _) h) _ h) h

theorem memOk_writeWintab (h : s.MemOk) (v : Word) : (writeWintab s v).MemOk :=
  memOk_ite h (memOk_ite h (memOk_ite h (memOk_same (memOk_severAdmitted h _))))

theorem memOk_tenantWrite (h : s.MemOk) (f : Tenant → Tenant) : (tenantWrite s f).MemOk := by
  unfold tenantWrite
  split
  · exact memOk_modTenant h _ _
  · exact h

/-- R353: what a write of a system register leaves; only SAVECTL starts what can reach a memory. -/
theorem memOk_writeSys (h : s.MemOk) (r : Nat) (v : Word) : (writeSys s r v).MemOk := by
  unfold writeSys
  dsimp only
  split
  all_goals first
    | exact memOk_modMe h _
    | exact memOk_writeAccown h _ _
    | exact memOk_writeAccov h _ _
    | exact memOk_modTile_same h _ _
    | exact memOk_ite (memOk_startSave h _ _ _) h
    | exact memOk_tenantWrite h _
    | exact memOk_writeTbcfg h _
    | exact memOk_writeWintab h _
    | exact memOk_same h

theorem memOk_sysr (h : s.MemOk) (d : Opnd) (r : BitVec 12) : Out.MemOk (execSysr d r s) := by
  refine out_memOk_ite (memOk_trapG h _ _ _) (memOk_genOp h fun _ t ht => ?_)
  dsimp only
  split
  · trivial
  · exact memOk_sysValue ht _

theorem memOk_syswOp (h : s.MemOk) (a : Opnd) (r : Nat) (f : Word → Word → Word) : Out.MemOk (syswOp s a r f) := by
  refine out_memOk_ite (memOk_trapG h _ _ _) (memOk_genOp h fun _ t ht => body_memOk_ite ht ?_)
  split
  · trivial
  · exact body_memOk_ite trivial (memOk_writeSys ht _ _)

theorem memOk_sret (h : s.MemOk) : Out.MemOk (execSret s) :=
  out_memOk_ite (memOk_trapG h _ _ _) (out_memOk_ite (memOk_waitG h _) (memOk_returnTrap (memOk_issued (memOk_commitSlot h _)) _))

theorem memOk_exit (h : s.MemOk) : Out.MemOk (execExit s) := by
  have ht := memOk_finishG (memOk_modMe h fun x => { x with gen := { x.gen with heldExit := true } }) s.pcNext
  exact out_memOk_ite (out_memOk_ite (memOk_endNet h _ _ _) (memOk_waitG h _))
    (out_memOk_ite (out_memOk_ite ht (memOk_waitG ht _)) (memOk_trapG h _ _ _))

/-- A write that an instruction or firmware makes, as a step of its own. -/
theorem memOk_sysEvent (h : s.MemOk) (r : Nat) (v : Word) : Out.MemOk (sysEvent s r v) := by
  unfold sysEvent
  split
  · exact h
  · exact out_memOk_ite h (memOk_commitSlot (memOk_writeSys h _ _) _)

theorem memOk_winWrite (h : s.MemOk) (n : Nat) (v : Word) : Out.MemOk (execWinWrite n v s) := out_memOk_ite (memOk_sysEvent h _ _) h

end

section
/-! PROOFS (O60). The engines' words and the replay sequencer keep the canonical form. -/

variable {s t : State}

/-! ## Words that start and retire -/

/-- R171: a word that may start keeps the canonical form where its body does. -/
theorem memOk_startWord {k : QEntry → State → EngRes} (h : s.MemOk) (hk : ∀ w, (k w s).MemOk) : Out.MemOk (startWord s k) := by
  unfold startWord
  split
  · exact h
  · next w _ =>
    have hw := hk w
    split
    · next e => rw [e] at hw; exact memOk_modMe hw _
    · exact memOk_raiseE h _ _ _ _
    · next e => rw [e] at hw; exact memOk_raiseE hw _ _ _ _
    · exact h

theorem memOk_retireWord (h : s.MemOk) (i : Nat) (w : QEntry) : (retireWord s i w).MemOk := memOk_commitSlot (memOk_modSlot h _ _) _

theorem memOk_startAndRetire {k : QEntry → State → State} (h : s.MemOk) (hk : ∀ w, (k w s).MemOk) : Out.MemOk (startAndRetire s k) := by
  unfold startAndRetire
  split
  · exact h
  · exact memOk_retireWord (hk _) _ _

/-! ## Vector words -/

theorem memOk_skeinConsumed (h : s.MemOk) (i p : Nat) : (skeinConsumed s i p).MemOk := by
  unfold skeinConsumed
  dsimp only
  split
  · exact h
  · exact memOk_ite h (memOk_same h)

theorem memOk_streamConsume (h : s.MemOk) (i : Nat) (l : List (Option StreamSrc)) (s0 : State) : (streamConsume s i l s0).MemOk := by
  unfold streamConsume
  refine memOk_foldl (fun t o h => ?_) _ h
  dsimp only
  split
  · exact h
  · split
    · have hs := fun f p k => memOk_skeinConsumed (memOk_commitRead (memOk_modSlot h i f) i p k) i p
      exact memOk_ite (memOk_modSlot (hs _ _ _) _ _) (hs _ _ _)
    · exact h

theorem memOk_holdSend (h : s.MemOk) (i : Nat) (w : QEntry) (p : Nat) (bs : List Byte) : (holdSend s i w p bs).MemOk := by
  unfold holdSend
  dsimp only
  split
  · exact h
  · exact memOk_modSlot h _ _

/-- R170, R200: the frame of a vector word: of the memories, it writes the bytes that its body names. -/
theorem memOk_vecFrame (h : s.MemOk) (i : Instr) (k : QEntry → State → List VSrc → VecRes) : Out.MemOk (vecFrame s i k) := by
  refine memOk_startWord h fun w => engRes_memOk_ite trivial ?_
  split
  · trivial
  · split
    · trivial
    · split
      · trivial
      · refine engRes_memOk_ite trivial ?_
        dsimp only
        split
        · trivial
        · have ht := fun l u (hu : State.MemOk u) => memOk_foldl (f := fun t (p : Nat × List Byte) => t.putBytesAt t.cur p.1 p.2)
            (fun _ _ h => memOk_putBytesAt h _ _ _) l hu
          have hc := memOk_streamConsume h s.cur
          split
          · exact memOk_holdSend (memOk_modMe (ht _ _ (hc _ _)) _) _ _ _ _
          · exact memOk_modMe (ht _ _ (hc _ _)) _

/-! ## Matrix words -/

theorem sram_modAcc (t : Tile) (n : Nat) (f : Acc → Acc) : (t.modAcc n f).sram = t.sram := by
  unfold Tile.modAcc Tile.setAcc
  split <;> rfl

theorem memOk_modAcc (h : s.MemOk) (n : BitVec 1) (f : Acc → Acc) : (s.modAcc n f).MemOk :=
  memOk_modTile_same h _ _ (sram_modAcc _ _ _)

theorem memOk_mzero (h : s.MemOk) (f : MatF) : Out.MemOk (execMzero f s) :=
  memOk_startWord h fun _ => engRes_memOk_ite trivial (memOk_modAcc h _ _)

theorem memOk_mstep (h : s.MemOk) (f : MatF) : Out.MemOk (execMstep f s) :=
  memOk_startWord h fun _ => engRes_memOk_ite trivial (engRes_memOk_ite trivial (engRes_memOk_ite trivial (engRes_memOk_ite trivial
    (engRes_memOk_ite trivial (memOk_orFlags (memOk_modAcc h _ _) _ _)))))

theorem memOk_mcommit (h : s.MemOk) (f : MatF) : Out.MemOk (execMcommit f s) :=
  memOk_startWord h fun _ => memOk_modAcc (memOk_modAcc h _ _) _ _

theorem memOk_mrd (h : s.MemOk) (f : MatF) : Out.MemOk (execMrd f s) :=
  memOk_startWord h fun _ => engRes_memOk_ite trivial (engRes_memOk_ite trivial (engRes_memOk_ite trivial
    (memOk_orFlags (memOk_modMe h _) _ _)))

theorem memOk_mst (h : s.MemOk) (f : MatF) : Out.MemOk (execMst f s) :=
  memOk_startWord h fun _ => engRes_memOk_ite trivial (engRes_memOk_ite trivial (engRes_memOk_ite trivial (engRes_memOk_ite trivial
    (engRes_memOk_ite trivial (memOk_orFlags (memOk_foldl (fun _ _ h => memOk_putBytesAt h _ _ _) _ h) _ _)))))

theorem memOk_mcfg (h : s.MemOk) (f : MatF) : Out.MemOk (execMcfg f s) :=
  memOk_startWord h fun _ => engRes_memOk_ite trivial (memOk_modAcc h _ _)

theorem memOk_msave (h : s.MemOk) (f : MatF) : Out.MemOk (execMsave f s) :=
  memOk_startWord h fun _ => engRes_memOk_ite trivial (engRes_memOk_ite trivial (engRes_memOk_ite trivial (memOk_putBytesAt h _ _ _)))

theorem memOk_mload (h : s.MemOk) (f : MatF) : Out.MemOk (execMload f s) := by
  refine memOk_startWord h fun _ => engRes_memOk_ite trivial (engRes_memOk_ite trivial (engRes_memOk_ite trivial ?_))
  split
  · trivial
  · exact memOk_modAcc h _ _

/-! ## Copy words -/

theorem memOk_onePage (h : s.MemOk) (i : Nat) (q : PageAsk) (ls : List (Nat × Word)) (use : List Nat) (va : Nat) :
    (onePage s i q ls use va).2.MemOk := by
  have ht := memOk_translate h
  unfold onePage
  dsimp only
  split
  · exact h
  · split
    · exact h
    · split
      · exact h
      · split
        · next e => exact memOk_snd (ht _ _ _ _ _ _) e
        · next e => exact memOk_snd (ht _ _ _ _ _ _) e
        · next e => exact memOk_pageRequest (memOk_snd (ht _ _ _ _ _ _) e) _ _

theorem memOk_touchPieces (h : s.MemOk) (i : Nat) (q : PageAsk) (l : List (Nat × Nat)) (ls : List (Nat × Word)) (use : List Nat) :
    (touchPieces s i q l ls use).2.MemOk := by
  induction l generalizing s ls use with
  | nil => exact h
  | cons p l ih =>
    have h1 := memOk_onePage h i q ls use p.1
    unfold touchPieces
    split
    · next e =>
      have h2 := memOk_snd h1 e
      split
      · exact ih h2 _ _
      · exact h2
    · exact h1

theorem memOk_touchPages (h : s.MemOk) (i : Nat) (q : PageAsk) (l : List (Nat × Nat)) (ls : List (Nat × Word)) (use : List Nat) :
    (touchPages s i q l ls use).2.MemOk := memOk_touchPieces h _ _ _ _ _

theorem memOk_askHost (h : s.MemOk) (i : Nat) (w : QEntry) (ls : List (Nat × Word)) (n : Nat) (l : List (Nat × Nat)) :
    (askHost s i w ls n l).MemOk := memOk_ite h (memOk_same h)

theorem memOk_rangeBytes (h : s.MemOk) (i : Nat) (ls : List (Nat × Word)) (host : List Byte) (far : Far) (a n : Nat) :
    (rangeBytes s i ls host far a n).2.MemOk := by
  have fold : ∀ (f : List Byte × List Byte × State → Nat → List Byte × List Byte × State), (∀ r k, r.2.2.MemOk → (f r k).2.2.MemOk) →
      ∀ (ks : List Nat) r, r.2.2.MemOk → (ks.foldl f r).2.2.MemOk := by
    intro f hf ks
    induction ks with
    | nil => exact fun _ hr => hr
    | cons k ks ih => exact fun r hr => ih _ (hf r k hr)
  refine fold _ (fun r k hr => ?_) _ _ h
  dsimp only
  split
  · exact hr
  · split
    · exact hr
    · exact memOk_readVa hr _ _ _ _

theorem memOk_fetchRange (h : s.MemOk) (i : Nat) (w : QEntry) (a n : Nat) : (fetchRange s i w a n).2.MemOk := by
  unfold fetchRange
  split
  · exact h
  · exact memOk_rangeBytes (memOk_chargeRange h _ _ _ _) _ _ _ _ _ _

theorem memOk_awaitPage (h : s.MemOk) (w : QEntry) (vpn : Nat) : (awaitPage s w vpn).MemOk := memOk_modMe h _

/-- R290, R292: a copy word that passes its fault point has translated its pages and noted its conflicts. -/
theorem memOk_passJob (h : s.MemOk) (o : CopyOp) (w : QEntry) (desc peer : Nat) (j : Job) (idx : List Word) (ls : List (Nat × Word))
    (sp : List (Nat × Nat)) : (passJob s o w desc peer j idx ls sp).MemOk := by
  unfold passJob
  extract_lets i wr atom rd spans use q
  have ht := memOk_touchPages h i q spans ls use
  split
  · next e => exact memOk_awaitPage (memOk_snd ht e) _ _
  · next e => exact memOk_snd ht e
  · next lv us t e =>
    split
    next cs first _ =>
    extract_lets net t1 strict
    have h1 : t1.MemOk := memOk_ite (memOk_snd ht e) (memInv.noteConflicts (memOk_snd ht e) _ _)
    split
    · exact h1
    · next t2 _ t3 _ _ _ =>
      have h2 : t2.MemOk := by
        unfold t2
        split
        · exact memOk_ite (memOk_modNet h1 _ _) h1
        · exact h1
      have h3 : t3.MemOk := memOk_ite (memOk_askHost h2 _ _ _ _ _) h2
      exact memOk_modMe (memOk_same h3) _

theorem memOk_fetchIndices (h : s.MemOk) (i : Nat) (w : QEntry) (l : List (Nat × Nat)) : (fetchIndices s i w l).2.MemOk := by
  induction l generalizing s w with
  | nil => exact h
  | cons p l ih =>
    have h1 := memOk_fetchRange h i w p.1 p.2
    unfold fetchIndices
    split
    · next e => exact memOk_snd h1 e
    · next e =>
      have h2 := fun w => ih (memOk_snd h1 e) w
      split
      · next e => exact memOk_snd (h2 _) e
      · next e => exact memOk_snd (h2 _) e

theorem memOk_copyStart (h : s.MemOk) (o : CopyOp) (f : CopyF) (w : QEntry) : (copyStart o f w s).MemOk := by
  unfold copyStart
  refine engRes_memOk_ite trivial ?_
  split
  · trivial
  · split
    · trivial
    · refine engRes_memOk_ite trivial (engRes_memOk_ite (memOk_passJob h _ _ _ _ _ _ _ _) ?_)
      split
      · trivial
      · extract_lets ispans q
        have ht := memOk_touchPages h s.cur q ispans [] []
        split
        · next e => exact memOk_awaitPage (memOk_snd ht e) _ _
        · next e => exact memOk_snd ht e
        · next lv us t e =>
          have h1 := memOk_snd ht e
          refine engRes_memOk_ite (memOk_askHost h1 _ _ _ _ _) ?_
          split
          · next e => exact memOk_snd (memOk_fetchIndices h1 _ _ _) e
          · next e =>
            refine engRes_memOk_ite trivial ?_
            dsimp only
            split
            · trivial
            · exact memOk_passJob (memOk_snd (memOk_fetchIndices h1 _ _ _) e) _ _ _ _ _ _ _ _

theorem memOk_contribute (h : s.MemOk) (i : Nat) (ls : List (Nat × Word)) (cs : List Contrib) : (contribute s i ls cs).MemOk := by
  unfold contribute
  split
  · exact memOk_modNet h _ _
  · refine memOk_foldl (fun s c h => ?_) _ h
    split
    · exact h
    · exact memOk_foldl (fun _ _ h => memOk_pageStore h _ _ _) _ h

theorem memOk_elemBytes (h : s.MemOk) (o : CopyOp) (w : QEntry) (j : Job) (k : Nat) : (elemBytes s o w j k).2.MemOk := by
  unfold elemBytes
  split
  · exact memOk_fetchRange h _ _ _ _
  · exact h

theorem memOk_advance (h : s.MemOk) (w : QEntry) (n used : Nat) (part : List Byte) (fin : Bool) : (advance s w n used part fin).MemOk :=
  memOk_modMe h _

/-- R290: one element moved, to the partition, to DRAM or as contributions. -/
theorem memOk_moveElem (h : s.MemOk) (o : CopyOp) (w : QEntry) (j : Job) : (moveElem s o w j).MemOk := by
  have he := memOk_elemBytes h o w j w.prog.n
  unfold moveElem
  refine memOk_ite (memOk_raiseE h _ _ _ _) ?_
  split
  · next e => exact memOk_snd he e
  · next bs t e =>
    have ht := memOk_snd he e
    refine memOk_advance ?_ _ _ _ _ _
    split
    · exact memOk_putBytesAt ht _ _ _
    · refine memOk_foldl (fun s n h => ?_) _ (memOk_chargeRange ht _ _ _ _)
      split
      · exact memOk_writeVa h _ _ _ _
      · exact h
    · exact memOk_contribute (memOk_chargeRange ht _ _ _ _) _ _ _
    · exact ht

theorem memOk_moveStream (h : s.MemOk) (o : CopyOp) (w : QEntry) (j : Job) (port : Nat) (close : Bool) :
    (moveStream s o w j port close).MemOk := by
  have he := memOk_elemBytes h o w j w.prog.n
  have ht := fun d => memOk_transmit (memOk_modMe h fun x => x.modPort port fun p => p.takeFree) s.cur port d
  unfold moveStream
  dsimp only
  split
  · refine memOk_ite (memOk_advance h _ _ _ _ _) (memOk_ite h (memOk_ite (memOk_ite h ?_) (memOk_ite (memOk_raiseE h _ _ _ _) ?_)))
    · exact memOk_advance (memOk_ite (memOk_closePort (ht _) _ _) (ht _)) _ _ _ _ _
    · split
      · next e => exact memOk_snd he e
      · next e => exact memOk_advance (memOk_snd he e) _ _ _ _ _
  · exact h

theorem memOk_copyMove (h : s.MemOk) (o : CopyOp) : (copyMove o s).MemOk := by
  unfold copyMove
  split
  · exact h
  · split
    · exact h
    · split
      · exact memOk_moveStream h _ _ _ _ _
      · exact memOk_moveElem h _ _ _

theorem memOk_copyWord (h : s.MemOk) (o : CopyOp) (f : CopyF) : Out.MemOk (copyWord s o f) :=
  out_memOk_ite (memOk_startWord h fun w => memOk_copyStart h o f w) (memOk_copyMove h o)

/-! ## Queue words and the replay sequencer -/

theorem memOk_setResume (h : s.MemOk) (a nd : Nat) (g : Bool) (idx : List Nat) (res : Bool) : (setResume s a nd g idx res).MemOk :=
  memOk_ite (memOk_putByteAt (memOk_putBytesAt h _ _ _) _ _ _)
    (memOk_putByteAt (memOk_foldl (fun _ _ h => memOk_putBytesAt h _ _ _) _ h) _ _ _)

theorem memOk_closeDesc (h : s.MemOk) (w : QEntry) : (closeDesc s w).MemOk := by
  unfold closeDesc
  split
  · exact memOk_setResume h _ _ _ _ _
  · exact h

theorem memOk_parkDesc (h : s.MemOk) (w : QEntry) : (parkDesc s w).MemOk := by
  unfold parkDesc
  split
  · exact h
  · exact memOk_setResume h _ _ _ _ _
  · split
    · exact memOk_setResume h _ _ _ _ _
    · exact h

theorem memOk_qjoin (h : s.MemOk) (m : BitVec 3) : Out.MemOk (execQjoin m s) := by
  unfold execQjoin
  split
  · exact h
  · exact out_memOk_ite h (memOk_retireWord h _ _)

theorem memOk_replay (h : s.MemOk) (e : BitVec 4) (res : BitVec 1) : Out.MemOk (execReplay e res s) := by
  refine memOk_startWord h fun w => ?_
  have hu := memOk_modMe h Slot.unpark
  dsimp only
  split
  · exact hu
  · refine engRes_memOk_ite trivial (engRes_memOk_ite hu ?_)
    split
    · exact memOk_modMe hu _
    · exact engRes_memOk_ite hu (memOk_modMe hu _)

theorem memOk_issueWord (h : s.MemOk) (rep : QEntry) (r : Replay) : (issueWord s rep r).MemOk := by
  unfold issueWord
  refine memOk_ite (memOk_raiseE h _ _ _ _) ?_
  split
  · exact memOk_raiseE h _ _ _ _
  · exact h
  · exact memOk_ite (memOk_raiseE h _ _ _ _) (memOk_modMe h _)

theorem memOk_replayIssue (h : s.MemOk) : Out.MemOk (execReplayIssue s) := by
  unfold execReplayIssue
  dsimp only
  split
  · exact out_memOk_ite h (out_memOk_ite (memOk_modMe h _) (out_memOk_ite h (out_memOk_ite h (out_memOk_ite (memOk_modMe h _)
      (memOk_issueWord h _ _)))))
  · exact h

theorem memOk_wordRetire (h : s.MemOk) : Out.MemOk (execWordRetire s) := by
  unfold execWordRetire
  split
  · exact h
  · next w _ =>
    have hc := memOk_closeDesc h w
    exact memOk_retireWord (memOk_ite (memOk_modMe hc _) hc) _ _

theorem memOk_streamSendRelease (h : s.MemOk) : Out.MemOk (execStreamSendRelease s) := by
  unfold execStreamSendRelease
  dsimp only
  split
  · exact h
  · refine out_memOk_ite h ?_
    split
    · exact out_memOk_ite (memOk_modMe h _) (out_memOk_ite h (memOk_modMe (memOk_transmit (memOk_modMe h _) _ _ _) _))
    · exact memOk_modMe h _

end

section
/-! PROOFS (O60). The events of slots, of the fabric and of the regions keep the canonical form. -/

variable {s t : State}

/-! ## Events of a slot -/

theorem memOk_wake (h : s.MemOk) : (wake s).MemOk := memOk_modMe h _

theorem memOk_breakWait (h : s.MemOk) (g : BitVec 8) : (breakWait s g).MemOk := memOk_raiseG h _ _ _ _ _ _

theorem memOk_slotWake (h : s.MemOk) : Out.MemOk (execSlotWake s) := by
  have hw : Out.MemOk (.next (wake s)) := memOk_wake h
  unfold execSlotWake
  dsimp only
  split
  · exact h
  · exact h
  · split
    · exact h
    · exact hw
  · split
    · exact h
    · exact hw
  · exact out_memOk_ite hw (out_memOk_ite (memOk_breakWait h _) h)
  · exact out_memOk_ite hw (out_memOk_ite (memOk_breakWait h _) h)
  all_goals exact out_memOk_ite h hw

theorem memOk_levelGFault (h : s.MemOk) : Out.MemOk (execLevelGFault s) := by
  unfold execLevelGFault
  split
  · exact h
  · exact out_memOk_ite (memOk_takeG (memOk_commitSlot h _) _ _) h

theorem memOk_trapEntry (h : s.MemOk) : Out.MemOk (execTrapEntry s) := by
  unfold execTrapEntry
  split
  · exact h
  · exact out_memOk_ite (memOk_enterTrap (memOk_commitSlot h _) _ _) h

theorem memOk_stopNow (h : s.MemOk) : (stopNow s).MemOk := by
  unfold stopNow
  split
  · exact memOk_ite (memOk_takeG h _ _) (memOk_stopSlot (memOk_takeG h _ _) _)
  · exact memOk_stopSlot h _

/-- R192, R428: a pre-emption parks the oldest word, whose descriptor or header is written back (R197). -/
theorem memOk_preemptNow (h : s.MemOk) : (preemptNow s).MemOk := by
  unfold preemptNow
  extract_lets i x record clear
  have hc : ∀ u d, State.MemOk u → (clear u d).MemOk := fun u d hu => memOk_modMe hu _
  split
  · exact memOk_enterTrap (hc _ _ h) _ _
  · next u _ _ =>
    have hp : State.MemOk (if u.stat == .passed then parkDesc s u
        else if u.stat == .waiting && isReplay u.word then s.modMe parkReplay else s) :=
      memOk_ite (memOk_parkDesc h _) (memOk_ite (memOk_modMe h _) h)
    exact memOk_enterTrap (hc _ _ (memOk_commitSlot (memOk_unwindTo hp _ _ _ _ _) _)) _ _

theorem memOk_preempt (h : s.MemOk) : Out.MemOk (execPreempt s) := by
  have hp := memOk_ite (p := s.me.gen.stopping = true) h (memOk_askPreempt h s.cur)
  exact out_memOk_ite h (out_memOk_ite hp (out_memOk_ite (memOk_checkEnd (memOk_stopNow hp) _) (memOk_preemptNow hp)))

/-- R111, R129: an image lands in its segment. -/
theorem memOk_cfetchLanding (h : s.MemOk) (seg : Nat) : Out.MemOk (execCfetchLanding seg s) := by
  unfold execCfetchLanding
  dsimp only
  split
  · exact h
  · split
    · exact h
    · exact out_memOk_ite h (memOk_modMe (memOk_modTile h _ _ (memory_wf_putBytes _ _ _ (h.sram _))) _)

theorem memOk_cfetchFailure (h : s.MemOk) (seg : Nat) : Out.MemOk (execCfetchFailure seg s) := by
  unfold execCfetchFailure
  split
  · exact h
  · split
    · exact h
    · exact out_memOk_ite h (memOk_modMe h _)

/-! ## Events of the fabric -/

theorem memOk_withPacket (h : s.MemOk) (n c : Nat) (f : Pkt → Bool) : Out.MemOk (withPacket s n c f) := by
  show State.MemOk ((takePacket s n c f).getD s)
  cases e : takePacket s n c f with
  | none => exact h
  | some t => exact memInv.takePacket h e

theorem memOk_creditMergeExpiry (h : s.MemOk) (n c r : Nat) : Out.MemOk (execCreditMergeExpiry n c r s) := by
  unfold execCreditMergeExpiry
  split
  · exact out_memOk_ite (memOk_sendCredits h _ _ _) h
  · exact h

theorem memOk_skeinTransfer (h : s.MemOk) (n c r : Nat) : Out.MemOk (execSkeinTransfer n c r s) := by
  unfold execSkeinTransfer
  split
  · split
    · exact h
    · refine out_memOk_ite h ?_
      dsimp only
      split
      · exact h
      · exact memOk_placeSlot (memInv.chargeSkein (memOk_modChan h _ _ _) _ _) _ _ _ _
  · exact h

theorem memOk_tokenRefill (h : s.MemOk) : Out.MemOk (execTokenRefill s) := memOk_same h

/-! ## The detector -/

theorem memOk_raiseBlocked (h : s.MemOk) (i : Nat) (b : Block) (c : Cause) : (raiseBlocked s i b c).MemOk := by
  unfold raiseBlocked
  dsimp only
  split
  · exact memOk_raiseG h _ _ _ _ _ _
  · exact memOk_ite (memOk_askPreempt (memOk_modSlot h _ _) _) (memOk_raiseEW h _ _ _ _ _)

theorem memOk_recordVerdict (h : s.MemOk) (k last : Nat) (g : Bool) (c : Option Word) : (recordVerdict s k last g c).MemOk :=
  memOk_modTenant h _ _

theorem memOk_grow (h : s.MemOk) (k j : Nat) (n : Net) (c : Chan) : (grow s k j n c).MemOk :=
  memOk_recordVerdict (memOk_foldl (fun _ _ h => memOk_ite h (memOk_modEp h _ _)) _ (memOk_modNet (memOk_modChan h _ _ _) _ _)) _ _ _ _

theorem memOk_spill (h : s.MemOk) (k j : Nat) (c : Chan) (l : List (Nat × Proc × Block)) : (spill s k j c l).MemOk :=
  memOk_foldl (fun _ _ h => memOk_ite (memOk_raiseBlocked h _ _ _) h) _ (memOk_recordVerdict h _ _ _ _)

theorem memOk_artificial (h : s.MemOk) (k : Nat) (l : List (Nat × Proc × Block)) (p : PeerWave) : (artificial s k l p).MemOk := by
  unfold artificial
  split
  · exact h
  · split
    · exact h
    · exact memOk_ite (memOk_spill h _ _ _ _) (memOk_grow h _ _ _ _)

/-- R167: a true deadlock writes the record of the wave into the tenant's memory. -/
theorem memOk_trueDeadlock (h : s.MemOk) (k : Nat) (l : List (Nat × Proc × Block)) (recs : List Word) : (trueDeadlock s k l recs).MemOk := by
  refine memOk_foldl (fun _ _ h => memOk_raiseBlocked h _ _ _) _ (memOk_recordVerdict ?_ _ _ _ _)
  split
  · exact memOk_rawStore h _ _ _
  · exact h

theorem memOk_verdict (h : s.MemOk) (k : Nat) (l : List (Nat × Proc × Block)) (p : PeerWave) (recs : List Word) :
    (verdict s k l p recs).MemOk := memOk_ite h (memOk_ite (memOk_artificial h _ _ _) (memOk_trueDeadlock h _ _ _))

theorem memOk_detectorWave (h : s.MemOk) (k : Nat) : Out.MemOk (execDetectorWave k s) :=
  out_memOk_ite h (out_memOk_ite (memOk_verdict (memOk_modTenant h _ _) _ _ _ _) (memOk_modTenant h _ _))

/-! ## Regions -/

/-- R367: a control instruction keeps the canonical form where the start of its operation and the operation do. -/
theorem memOk_ctlOp {d a : Opnd} {start : Word → State → State} {k : Word → State → CtlRes} (h : s.MemOk)
    (hs : ∀ w s, s.MemOk → (start w s).MemOk) (hk : ∀ w s, s.MemOk → (k w s).MemOk) : Out.MemOk (ctlOp s d a start k) := by
  refine out_memOk_ite (memOk_trapG h _ _ _) (out_memOk_ite (memOk_waitG h _) (memOk_genOp (memOk_ite (hs _ _ h) h) fun vs t ht => ?_))
  have ht := hk (vs.getD 0 0) t ht
  split
  · next e => rw [e] at ht; exact ht
  · trivial

theorem memOk_dropRect (h : s.MemOk) (k : Nat) : (dropRect s k).MemOk := memOk_ite h (memOk_modTenant h _ _)

theorem memOk_endContext (h : s.MemOk) (c : Context) : (endContext s c).MemOk := by
  unfold endContext
  split
  · exact memOk_ite (memOk_endNet h _ _ _) h
  · exact h

theorem memOk_rgnOp {d a : Opnd} {n : Nat} {start : RgnCmd → State → State} {k : RgnCmd → State → CtlRes} (h : s.MemOk)
    (hs : ∀ c s, s.MemOk → (start c s).MemOk) (hk : ∀ c s, s.MemOk → (k c s).MemOk) : Out.MemOk (rgnOp s d a n start k) :=
  memOk_ctlOp h (fun _ _ h => memOk_ite h (hs _ _ h)) fun _ _ h => ctlRes_memOk_ite h (hk _ _ h)

theorem memOk_rgnNow {d a : Opnd} {n : Nat} {k : RgnCmd → State → Nat × State} (h : s.MemOk)
    (hk : ∀ c s, s.MemOk → (k c s).2.MemOk) : Out.MemOk (rgnNow s d a n k) := memOk_rgnOp h (fun _ _ h => h) hk

theorem memOk_assign (h : s.MemOk) (c : RgnCmd) : (assign c s).2.MemOk := by
  unfold assign
  extract_lets r g more w hh q held mine
  split
  · exact h
  · split
    · exact h
    · have ht := memOk_modTenant h c.tenant fun t => { t with rect := some q }
      split
      · exact memOk_foldl (fun _ _ h => memOk_modTile_same h _ _) _ (memOk_modRegion ht _ _)
      · exact memOk_same ht

theorem memOk_release (h : s.MemOk) (c : RgnCmd) : (release c s).2.MemOk := by
  unfold release
  dsimp only
  split
  · exact h
  · split
    · exact h
    · exact memOk_dropRect (memOk_endContext (memOk_modRegion h _ _) _) _

theorem memOk_halt (h : s.MemOk) (c : RgnCmd) : (halt c s).2.MemOk := by
  unfold halt
  dsimp only
  split
  · exact memOk_haltRegion h _ _ _
  · exact h

theorem memOk_dropRequests (h : s.MemOk) (r : Nat) : (dropRequests s r).MemOk := memOk_same h

theorem memOk_raiseBroken (h : s.MemOk) (w : List (Nat × Nat)) : (raiseBroken s w).MemOk :=
  memOk_foldl (fun _ _ h => memOk_ite h (memOk_raiseG h _ _ _ _ _ _)) _ h

theorem memOk_resetNets (h : s.MemOk) (g : Region) (r : Nat) : (resetNets s g r).MemOk := by
  refine memOk_foldl (fun s k h => ?_) _ h
  split
  · exact h
  · exact memOk_ite h (memOk_ite (memOk_modNet h _ _)
      (memOk_ite (memOk_checkEnd (memOk_modNet (memOk_setStatus h _ _ _) _ _) _) h))

theorem memOk_resetRegion (h : s.MemOk) (r : Nat) : (resetRegion s r).MemOk := by
  unfold resetRegion
  extract_lets g note s1 waits s2 s3 s4 s5 s6 s7 s8
  have h1 : s1.MemOk := memOk_ite h (memOk_regionEvent h _ _)
  have h2 : s2.MemOk := memOk_severRegion (memOk_withdraw h1 _) _
  have h3 : s3.MemOk := memOk_foldl (fun _ _ h => memOk_modSlot h _ _) _ h2
  have h5 : s5.MemOk := memOk_foldl (fun _ _ h => memOk_modTile_same h _ _) _ (memOk_modRegion h3 _ _)
  have h7 : s7.MemOk := memOk_dropRequests (memOk_resetNets h5 _ _) _
  exact memOk_ite (memOk_resetNets h1 _ _) (memOk_raiseBroken (memOk_same h7) _)

theorem memOk_resettingDone (h : s.MemOk) : (resettingDone s).MemOk :=
  memOk_foldl (fun _ _ h => memOk_ite h (memOk_modFunc_same h _ _)) _ h

theorem memOk_regionResetEnd (h : s.MemOk) (r : Nat) : Out.MemOk (execRegionResetEnd r s) :=
  out_memOk_ite h (memOk_resettingDone (memOk_same h))

theorem memOk_scrub (h : s.MemOk) (c : RgnCmd) : (scrub c s).2.MemOk := by
  unfold scrub
  dsimp only
  split
  · exact h
  · exact memOk_foldl (fun _ _ h => memOk_dropRect h _) _
      (memOk_same (memOk_foldl (fun _ _ h => memOk_endContext h _) _ (memOk_modRegion h _ _)))

/-- R386: a scrubbed tile is zero, as one that nothing has written. -/
theorem memOk_dropTile (h : s.MemOk) (k : Nat) : State.MemOk { s with tiles := Sparse.drop s.tiles k } where
  dram := h.dram
  sram j := by
    by_cases hj : j = k
    · subst hj; exact congrArg (fun t : Tile => Memory.wf t.sram) (sparse_get_drop_self ({} : Tile) s.tiles j)
    · exact (congrArg (fun t : Tile => Memory.wf t.sram) (sparse_get_drop_ne ({} : Tile) s.tiles hj)).trans (h.sram j)
  staging := h.staging
  mailbox := h.mailbox
  bar4 := h.bar4

theorem memOk_zeroRegion (h : s.MemOk) (r : Nat) : (zeroRegion s r).MemOk :=
  memOk_foldl (fun _ _ h => memOk_foldl (fun _ _ h => memOk_putSlot h _ _) _ (memOk_dropTile h _)) _ h

theorem memOk_setDie (h : s.MemOk) (d : Die) : State.MemOk { s with die := d } := memOk_same h

theorem memOk_scrubDone (h : s.MemOk) : Out.MemOk (execScrubDone s) := by
  unfold execScrubDone
  extract_lets r g s1 die s2
  have h1 : s1.MemOk := memOk_zeroRegion h r
  have h2 : s2.MemOk := memOk_scrubPagesTo (memOk_setDie h1 _) _
  exact out_memOk_ite h (memOk_dropRect (memOk_setDie (memOk_modRegion h2 _ _) _) _)

/-! ## Switches -/

theorem memOk_switchStart (h : s.MemOk) (r : Nat) (c : Context) : (switchStart s r c).MemOk :=
  memOk_foldl (fun _ _ h => memOk_askPreempt h _) _ (memOk_modRegion h _ _)

theorem memOk_switchPages (h : s.MemOk) (l : List (Nat × Slot × Bool)) : (switchPages s l).2.MemOk := by
  induction l generalizing s with
  | nil => exact h
  | cons p l ih =>
    obtain ⟨i, x, wr⟩ := p
    have hp := memOk_savePages h i x.id wr x.saveVpns []
    unfold switchPages
    split
    · next e => exact memOk_snd hp e
    · next e => exact memOk_same (memOk_pageRequest (memOk_snd hp e) _ _)
    · next e =>
      have h1 := ih (memOk_snd hp e)
      split
      · next e => exact memOk_snd h1 e
      · exact h1

theorem memOk_switchOut (h : s.MemOk) (r : Nat) (c : Context) (outs : List (Nat × Slot × List (Nat × Word))) :
    (switchOut s r c outs).MemOk := by
  unfold switchOut
  extract_lets s1 s2 s3 s4
  have h1 : s1.MemOk := memOk_foldl (fun _ _ h => memOk_writeRecord (memOk_putSlot h _ _) _ _) _ h
  have h3 : s3.MemOk := memOk_foldl (fun _ _ h => memOk_putSlot h _ _) _ (memOk_foldl (fun _ _ h => memOk_modNet h _ _) _ h1)
  exact memOk_modRegion (memOk_foldl (fun _ _ h => memOk_modTile_same h _ _) _ h3) _ _

theorem memOk_setOwners (h : s.MemOk) (r : Nat) (n : Net) : (setOwners s r n).MemOk :=
  memOk_foldl (fun _ _ h => memOk_ite (memOk_modTile_same h _ _) h) _ h

theorem memOk_switchIn (h : s.MemOk) (r : Nat) (c : Context) (ins : List (Nat × Slot × List (Nat × Word))) :
    (switchIn s r c ins).MemOk := by
  refine memOk_foldl (fun _ _ h => memOk_modNet (memOk_returnTrap (memOk_readRecord (memOk_putSlot h _ _) _ _) _) _ _) _ ?_
  split
  · exact memOk_setOwners h _ _
  · exact h

theorem memOk_flushReaders (h : s.MemOk) (n : Net) (k : Nat) (c : Chan) : (flushReaders s n k c).MemOk := by
  refine memOk_foldl (fun s r h => ?_) _ h
  split
  · exact memOk_ite h (memOk_flushPort h _ _ _ _)
  · exact h

theorem memOk_drainRegion (h : s.MemOk) (r : Nat) : (drainRegion s r).MemOk := by
  refine memOk_foldl (fun s k h => ?_) _ h
  split
  · exact h
  · exact memOk_ite h (memOk_foldl (fun _ _ h => memOk_ite (memInv.drainAll (memOk_flushReaders h _ _ _) _ _) h) _ h)

theorem memOk_switchStep (h : s.MemOk) (r : Nat) (c : Context) : (switchStep s r c).2.MemOk := by
  have hd := memOk_drainRegion h r
  unfold switchStep
  extract_lets is s1 outs ins
  have hp := memOk_switchPages hd (outs ++ ins)
  split
  · exact h
  · split
    · exact hd
    · split
      · next e => exact memOk_snd hp e
      · next e => exact memOk_same (memOk_foldl (fun _ _ h => memOk_returnTrap h _) _ (memOk_snd hp e))
      · next e => exact memOk_switchIn (memOk_switchOut (memOk_snd hp e) _ _ _) _ _ _

theorem memOk_rgncmdSwitch (h : s.MemOk) (d a : Opnd) : Out.MemOk (execRgncmdSwitch d a s) := by
  refine memOk_rgnOp h (fun c s h => ?_) fun c s h => ?_
  · split
    · exact memOk_switchStart h _ _
    · refine memOk_ite ?_ h
      split
      · exact h
      · next e => exact memOk_snd (memOk_switchStep h _ _) e
    · exact h
  · split
    · exact h
    · refine ctlRes_memOk_ite h ?_
      split
      · next e => exact memOk_snd (memOk_switchStep h _ _) e
      · trivial

theorem memOk_timeSliceExpiry (h : s.MemOk) (r : Nat) : Out.MemOk (execTimeSliceExpiry r s) := by
  unfold execTimeSliceExpiry
  refine out_memOk_ite h ?_
  split
  · exact memOk_switchStep h _ _
  · refine out_memOk_ite h ?_
    split
    · exact memOk_switchStart h _ _
    · exact h

end

section
/-! PROOFS (O60). Launches, the host's accesses, the control instructions; and so every step keeps the canonical form. -/

variable {s t : State}

/-! ## The memories of a function -/

/-- The three memories of a function are in canonical form. -/
structure Func.MemOk (f : Func) : Prop where
  staging : Memory.wf f.staging = true
  mailbox : Memory.wf f.mailbox = true
  bar4 : Memory.wf f.bar4 = true

theorem State.MemOk.func (h : s.MemOk) (n : Nat) : (s.func n).MemOk := ⟨h.staging n, h.mailbox n, h.bar4 n⟩

/-- An update of a function that keeps the canonical form of its memories. -/
theorem memOk_modFunc_of (h : s.MemOk) (n : Nat) {f : Func → Func} (hf : ∀ g, g.MemOk → (f g).MemOk) : (s.modFunc n f).MemOk :=
  have hn := hf _ (h.func n)
  memOk_modFunc h n f hn.staging hn.mailbox hn.bar4

variable {f : Func}

theorem func_memOk_same {g : Func} (h : f.MemOk) (hs : g.staging = f.staging := by rfl) (hm : g.mailbox = f.mailbox := by rfl)
    (hb : g.bar4 = f.bar4 := by rfl) : g.MemOk :=
  ⟨hs ▸ h.staging, hm ▸ h.mailbox, hb ▸ h.bar4⟩

theorem func_memOk_ite {p : Prop} [Decidable p] {a b : Func} (h : a.MemOk) (k : b.MemOk) : (if p then a else b).MemOk := by
  split
  · exact h
  · exact k

theorem func_memOk_raise (h : f.MemOk) (v : Nat) : (f.raise v).MemOk := by
  obtain ⟨hs, hm, hb⟩ := func_raise_mems f v
  exact ⟨hs ▸ h.staging, hm ▸ h.mailbox, hb ▸ h.bar4⟩

theorem func_memOk_putStaging (h : f.MemOk) (a : Nat) (bs : List Byte) : Func.MemOk { f with staging := f.staging.putBytes a bs } :=
  ⟨memory_wf_putBytes _ _ _ h.staging, h.mailbox, h.bar4⟩

theorem func_memOk_flush (h : f.MemOk) (k : Nat) : (f.flush k).MemOk := func_memOk_ite ⟨h.1, h.2, h.3⟩ h

theorem func_memOk_configWrite (h : f.MemOk) (off : Nat) (v : Word) : (f.configWrite off v).MemOk := by
  have hg : Func.MemOk { f with msixEn := v.getLsbD 31, funcMask := v.getLsbD 30 } := func_memOk_same h
  exact func_memOk_ite (func_memOk_flush (func_memOk_flush (func_memOk_flush hg _) _) _) h

theorem func_memOk_maskEntry (h : f.MemOk) (k : Nat) (m : Bool) : (f.maskEntry k m).MemOk := by
  have hg : Func.MemOk { f with unmasked := f.unmasked ||| (1#3 <<< k) } := func_memOk_same h
  exact func_memOk_ite (func_memOk_same h) (func_memOk_flush hg _)

theorem func_memOk_bar4Dword (h : f.MemOk) (off : Nat) (v : BitVec 32) : (f.bar4Dword off v).MemOk :=
  func_memOk_ite h (func_memOk_ite (func_memOk_maskEntry h _ _) ⟨h.staging, h.mailbox, memory_wf_putBytes _ _ _ h.bar4⟩)

theorem func_memOk_bar4Write (h : f.MemOk) (off : Nat) (v : Word) : (f.bar4Write off v).MemOk :=
  func_memOk_ite (func_memOk_bar4Dword (func_memOk_bar4Dword h _ _) _ _) (func_memOk_bar4Dword h _ _)

theorem func_memOk_halfWrite (h : f.MemOk) (off : Nat) (v : Word) : (f.halfWrite off v).MemOk :=
  func_memOk_ite (func_memOk_bar4Dword h _ _) (func_memOk_ite (func_memOk_putStaging h _ _) h)

/-! ## Launches and the ends of networks -/

theorem memOk_validating (h : s.MemOk) (fn : Nat) : Out.MemOk (execValidating fn s) := by
  unfold execValidating
  split
  · exact h
  · refine out_memOk_ite (memOk_modNet h _ _) ?_
    split
    · exact memOk_modNet h _ _
    · exact memOk_modNet h _ _

theorem memOk_saveAcc (h : s.MemOk) (k n : Nat) (a : Acc) (c : Context) : (saveAcc s k n a c).MemOk := by
  unfold saveAcc
  split
  · exact memOk_rawStore h _ _ _
  · exact h

theorem memOk_castOne (h : s.MemOk) (ctxs : List Context) (k n : Nat) : (castOne ctxs k n s).MemOk := by
  have put : ∀ u : State, u.MemOk → State.MemOk (u.modTile k fun tl =>
      if n = 0 then { tl with acc0 := castAcc tl.ctag } else { tl with acc1 := castAcc tl.ctag }) := fun u hu =>
    memOk_modTile_same hu _ _ (by split <;> rfl)
  unfold castOne
  dsimp only
  split
  · exact put _ (memOk_modTile_same (memOk_saveAcc h _ _ _ _) _ _)
  · exact put _ h

theorem memOk_castAccs (h : s.MemOk) (ctxs : List Context) (k : Nat) : (castAccs ctxs k s).MemOk :=
  memOk_castOne (memOk_castOne h _ _ _) _ _ _

/-- R33, R392: a cast-on copies the extents of a process's image into its partition. -/
theorem memOk_loadExtents (h : s.MemOk) (r : RecAt) (p : Proc) : (loadExtents s r p).MemOk :=
  memOk_foldl (fun _ _ h => memOk_modTile h _ _ (memory_wf_putBytes _ _ _ (h.sram _))) _ h

theorem memOk_loadProc (h : s.MemOk) (k : Nat) (n : Net) (r : RecAt) (p : Proc) : (loadProc s k n r p).MemOk := by
  have hp := memOk_putSlot (memOk_loadExtents h r p) p.slotNo (loadedSlot k n r p)
  exact memOk_ite (memOk_modTile_same (memOk_castAccs hp _ _) _ _) hp

theorem memOk_castOn (h : s.MemOk) (k : Nat) (n : Net) : (castOn s k n).MemOk :=
  memOk_modNet (memOk_foldl (fun _ _ h => memOk_ite (memOk_modRegion h _ _) h) _
    (memOk_modTenant (memOk_foldl (fun _ _ h => memOk_loadProc h _ _ _ _) _ h) _ _)) _ _

theorem memOk_ctlCaston (h : s.MemOk) (d a : Opnd) : Out.MemOk (execCtlCaston d a s) := by
  refine memOk_ctlOp h (fun _ _ h => h) fun w s h => ?_
  dsimp only
  split
  · exact h
  · exact ctlRes_memOk_ite (memOk_castOn h _ _) h

theorem memOk_unloadSlots (h : s.MemOk) (k : Nat) (n : Net) : (unloadSlots s k n).MemOk := by
  refine memOk_foldl (fun s p h => ?_) _ h
  have ht : ∀ q : Bool, State.MemOk (if q then s.modTile p.tile fun t => { t with owner := none } else s) := fun _ =>
    memOk_ite (memOk_modTile_same h _ _) h
  exact memOk_ite (ht _) (memOk_putSlot (ht _) _ _)

theorem memOk_severedEnd (h : s.MemOk) (k : Nat) (n : Net) : (severedEnd s k n).MemOk :=
  memOk_ite (memOk_checkEnd (memOk_foldl (fun _ _ h => memOk_ite h (memOk_stopSlot h _)) _ h) _) h

theorem memOk_freeRegions (h : s.MemOk) (k : Nat) : (freeRegions s k).MemOk :=
  memOk_foldl (fun _ _ h => memOk_ite (memOk_modRegion h _ _) h) _ h

theorem memOk_dropHeld (h : s.MemOk) (k : Nat) : (dropHeld s k).MemOk := memOk_foldl (fun _ _ h => memOk_modUal h _ _) _ h

theorem memOk_bindOff (h : s.MemOk) (k : Nat) : Out.MemOk (execBindOff k s) := by
  unfold execBindOff
  split
  · exact h
  · next n _ =>
    have hd : ∀ l : List Chan, (l.foldl (fun s c => drainAll s k c.chid) (lastBoundary s k)).MemOk := fun l =>
      memOk_foldl (fun _ _ h => memInv.drainAll h _ _) l (memInv.lastBoundary h k)
    exact out_memOk_ite (memOk_severedEnd h _ _) (out_memOk_ite h
      (memOk_modNet (memOk_freeRegions (memOk_unloadSlots (memOk_dropHeld (hd _) _) _ _) _) _ _))

theorem func_memOk_addRecord (h : f.MemOk) (bs : List Byte) :
    Func.MemOk { f with staging := f.staging.putBytes (f.cqbase.toNat + 64 * f.cqtail) bs, cqtail := (f.cqtail + 1) % 64 } :=
  func_memOk_same (func_memOk_putStaging h _ bs)

theorem memOk_fresh (h : s.MemOk) : (s.fresh).2.MemOk := memOk_same h

theorem memOk_writeCompletion (h : s.MemOk) (k : Nat) : (writeCompletion s k).MemOk := by
  unfold writeCompletion
  split
  · exact h
  · exact memOk_ite h (memOk_modNet (memOk_modFunc_of (memOk_fresh h) _ fun _ hg => func_memOk_raise (func_memOk_addRecord hg _) 0) _ _)

theorem memOk_cancelNet (h : s.MemOk) (k : Nat) : (cancelNet s k).MemOk := by
  unfold cancelNet
  split
  · exact h
  · split
    · exact memOk_endNet h _ _ _
    · exact memOk_same h
    · exact memOk_same h
    · exact memOk_same h
    all_goals exact h

theorem memOk_ctlCancel (h : s.MemOk) (d a : Opnd) : Out.MemOk (execCtlCancel d a s) := by
  refine memOk_ctlOp h (fun _ _ h => h) fun w s h => ?_
  split
  · exact h
  · exact memOk_foldl (fun _ _ h => memOk_cancelNet h _) _ h

theorem memOk_cancel (h : s.MemOk) (fn : Nat) (n : BitVec 32) : Out.MemOk (execCancel fn n s) :=
  memOk_foldl (fun _ _ h => memOk_cancelNet h _) _ h

/-! ## The host's accesses -/

theorem memOk_setNets (h : s.MemOk) (l : List Net) : State.MemOk { s with nets := l } := memOk_same h

theorem func_memOk_setLqhead (h : f.MemOk) (k : Nat) : Func.MemOk { f with lqhead := k } := func_memOk_same h

theorem memOk_takeEntries (h : s.MemOk) (fn : Nat) : (takeEntries s fn).MemOk :=
  memOk_ite h (memOk_modFunc_of (memOk_setNets h _) fn fun _ hg => func_memOk_raise (func_memOk_setLqhead hg _) 2)

theorem memOk_deliverWake (h : s.MemOk) (fn : Nat) : (deliverWake s fn).MemOk := memOk_takeEntries (memOk_modFunc_same h _ _) _

theorem memOk_ringDoorbell (h : s.MemOk) (fn : Nat) : (ringDoorbell s fn).MemOk :=
  memOk_ite (memOk_modFunc_same h _ _) (memOk_deliverWake h _)

theorem memOk_doorbell (h : s.MemOk) (fn : Nat) : Out.MemOk (execDoorbell fn s) := memOk_ite (memOk_ringDoorbell h fn) h

theorem memOk_deferredWake (h : s.MemOk) (fn : Nat) : Out.MemOk (execDeferredWake fn s) :=
  memOk_ite h (memOk_ite (memOk_deliverWake h fn) (memOk_modFunc_same h fn _))

theorem memOk_writeCqhead (h : s.MemOk) (fn : Nat) (v : Word) : (writeCqhead s fn v).MemOk :=
  memOk_foldl (fun _ _ h => memOk_ite (memOk_writeCompletion h _) h) _ (memOk_modFunc_same h fn fun f => { f with cqhead := v.toNat % 64 })

theorem memOk_cqheadWrite (h : s.MemOk) (fn : Nat) (v : Word) : Out.MemOk (execCqheadWrite fn v s) := memOk_ite (memOk_writeCqhead h fn v) h

theorem memOk_writeEvhead (h : s.MemOk) (fn : Nat) (v : Word) : (writeEvhead s fn v).MemOk :=
  memOk_modFunc_same h fn fun f => { f with evhead := v.toNat % 64 }

theorem memOk_evheadWrite (h : s.MemOk) (fn : Nat) (v : Word) : Out.MemOk (execEvheadWrite fn v s) := memOk_ite (memOk_writeEvhead h fn v) h

/-- R387: of the host's writes, those of the staging area and of the MSI-X table reach a memory. -/
theorem memOk_hostWrite (h : s.MemOk) (fn off : Nat) (v : Word) : (hostWrite s fn off v).MemOk := by
  unfold hostWrite
  refine memOk_ite (memOk_modFunc_of h fn fun _ hg => func_memOk_configWrite hg _ _) (memOk_ite (memOk_modFunc_of h fn fun _ hg =>
    func_memOk_halfWrite hg _ _) (memOk_ite (memOk_modFunc_of h fn fun _ hg => func_memOk_bar4Write hg _ _)
    (memOk_ite (memOk_modFunc_of h fn fun _ hg => func_memOk_putStaging hg _ _) ?_)))
  have put : ∀ f : Func → Func, (∀ g, (f g).staging = g.staging ∧ (f g).mailbox = g.mailbox ∧ (f g).bar4 = g.bar4) →
      (s.modFunc fn f).MemOk := fun f hf => memOk_modFunc_same h fn f (hf _).1 (hf _).2.1 (hf _).2.2
  split
  · exact put _ fun _ => ⟨rfl, rfl, rfl⟩
  · exact put _ fun _ => ⟨rfl, rfl, rfl⟩
  · exact put _ fun _ => ⟨rfl, rfl, rfl⟩
  · exact memOk_ringDoorbell h fn
  · exact put _ fun _ => ⟨rfl, rfl, rfl⟩
  · exact put _ fun _ => ⟨rfl, rfl, rfl⟩
  · exact memOk_foldl (fun _ _ h => memOk_cancelNet h _) _ h
  · exact memOk_writeCqhead h fn v
  · exact memOk_writeEvhead h fn v
  · exact h

theorem memOk_hostRegisterWrite (h : s.MemOk) (fn off : Nat) (v : Word) : Out.MemOk (execHostRegisterWrite fn off v s) :=
  memOk_ite (memOk_ite (memOk_modFunc_of h 0 fun _ hg => ⟨hg.staging, memory_wf_putBytes _ _ _ hg.mailbox, hg.bar4⟩) h)
    (memOk_ite (memOk_hostWrite h _ _ _) h)

theorem memOk_cancelQueued (h : s.MemOk) (vf : Nat) : (cancelQueued s vf).MemOk :=
  memOk_foldl (fun _ _ h => memOk_ite (memOk_writeCompletion (memOk_cancelNet h _) _) h) _ (memOk_takeEntries h vf)

theorem memOk_endSwitch (h : s.MemOk) (r : Nat) : (endSwitch s r).MemOk :=
  memOk_foldl (fun _ _ h => memOk_ite (memOk_returnTrap h _) (memOk_ite (memOk_modSlot h _ _) h)) _ (memOk_modRegion h _ _)

theorem memOk_dropAway (h : s.MemOk) (vf r : Nat) : (dropAway s vf r).MemOk :=
  memOk_foldl (fun _ _ h => memOk_endContext h _) _ (memOk_modRegion (memOk_ite (memOk_endSwitch h _) h) _ _)

theorem memOk_setPages (h : s.MemOk) (l : List PageReq) : State.MemOk { s with pages := l } := memOk_same h

theorem memOk_setBuckets (h : s.MemOk) (l : List (Nat × Bucket)) : State.MemOk { s with buckets := l } := memOk_same h

theorem memOk_vfReset (h : s.MemOk) (vf : Nat) : Out.MemOk (execVfReset vf s) := by
  unfold execVfReset
  extract_lets s1 s2 s3 s4 s5 s6 s7
  have h1 : s1.MemOk := memOk_foldl (fun _ _ h => memOk_ite (memOk_resetRegion h _) h) _ h
  have h2 : s2.MemOk := memOk_foldl (fun _ _ h => memOk_dropAway h _ _) _ h1
  have h4 : s4.MemOk := memOk_setBuckets (memOk_modTenant h2 vf _) _
  have h6 : s6.MemOk := memOk_cancelQueued (memOk_admitPages (memOk_setPages h4 _)) _
  have h7 : s7.MemOk := memOk_modFunc_of h6 vf fun _ hg => ⟨hg.staging, hg.mailbox, rfl⟩
  exact out_memOk_ite h (memOk_resettingDone (memOk_dropRect h7 _))

theorem memOk_packageHandleHostRead (h : s.MemOk) (data : List Byte) : Out.MemOk (execPackageHandleHostRead data s) := by
  unfold execPackageHandleHostRead
  split
  · exact h
  · exact memOk_same h

/-! ## Power -/

theorem memOk_modRegions (f : State → Nat → Region → Region) (l : List Nat) (h : s.MemOk) :
    (l.foldl (fun s r => s.modRegion r (f s r)) s).MemOk :=
  memOk_foldl (fun _ _ h => memOk_modRegion h _ _) l h

/-- R397: a power-on begins with the memories of the reset. -/
theorem memOk_powerOn (v : Bool) : Out.MemOk (execPowerOn v s) := by
  have h0 : State.MemOk { State.reset with agenda := s.agenda, free := s.free } := memOk_same memOk_reset
  unfold execPowerOn
  split
  · exact memOk_foldl (fun _ _ h => memOk_modFunc_same h _ _) _ (memOk_modRegions _ _ h0)
  · exact memOk_setDie h0 _

/-! ## Control instructions -/

theorem memOk_ctlKload (h : s.MemOk) (d a : Opnd) : Out.MemOk (execCtlKload d a s) :=
  memOk_ctlOp h (fun _ _ h => h) fun _ _ h => ctlRes_memOk_ite h (ctlRes_memOk_ite h (ctlRes_memOk_ite h (ctlRes_memOk_ite h (memOk_same h))))

theorem memOk_ctlKzero (h : s.MemOk) (d a : Opnd) : Out.MemOk (execCtlKzero d a s) :=
  memOk_ctlOp h (fun _ _ h => h) fun _ _ h => ctlRes_memOk_ite h (ctlRes_memOk_ite h (ctlRes_memOk_ite trivial (memOk_same h)))

theorem memOk_tlbDrop (h : s.MemOk) (k vpn : Nat) : (tlbDrop s k vpn).MemOk := memOk_same h

theorem memOk_ctlTlbinv (h : s.MemOk) (d a : Opnd) : Out.MemOk (execCtlTlbinv d a s) :=
  memOk_ctlOp h (fun _ _ h => memOk_ite (memOk_tlbDrop h _ _) h) fun _ _ h =>
    ctlRes_memOk_ite h (ctlRes_memOk_ite trivial (memOk_tlbDrop h _ _))

theorem memOk_ctlPrget (h : s.MemOk) (d a : Opnd) : Out.MemOk (execCtlPrget d a s) := by
  refine memOk_ctlOp h (fun _ _ h => h) fun w s h => ctlRes_memOk_ite h ?_
  split
  · exact h
  · exact memOk_putBytesAt h _ _ _

theorem memOk_resendFetches (h : s.MemOk) (i : Nat) : (resendFetches s i).MemOk :=
  memOk_foldl (fun _ _ h => memOk_ite (memOk_sendFetch h _ _) h) _ h

/-- R284: an answer lets fetches and saves that waited for the page go on. -/
theorem memOk_answerPage (h : s.MemOk) (k vpn : Nat) (rej : Bool) : (answerPage s k vpn rej).MemOk :=
  memOk_foldl (fun _ _ h => memOk_saveRun (memOk_resendFetches h _) _) _
    (memOk_foldl (fun _ _ h => memOk_modSlot h _ _) _ (memOk_admitPages (memOk_setPages h _)))

theorem memOk_ctlPrans (h : s.MemOk) (d a : Opnd) : Out.MemOk (execCtlPrans d a s) :=
  memOk_ctlOp h (fun _ _ h => h) fun _ _ h => ctlRes_memOk_ite h (ctlRes_memOk_ite (memOk_answerPage h _ _ _) h)

theorem memOk_ctlAttest (h : s.MemOk) (d a : Opnd) : Out.MemOk (execCtlAttest d a s) := by
  refine memOk_ctlOp h (fun _ _ h => h) fun w s h => ?_
  split
  · exact h
  · exact ctlRes_memOk_ite h (ctlRes_memOk_ite h (memOk_putBytesAt h _ _ _))

theorem memOk_passGen (h : s.MemOk) (k : Nat) (c : Chan) : (passGen s k c).MemOk :=
  memOk_foldl (fun _ _ h => memOk_ite h (memOk_modEp h _ _)) _ h

theorem memOk_rebindNet (h : s.MemOk) (k : Nat) (n : Net) (p q : Proc) : (rebindNet s k n p q).MemOk :=
  memOk_foldl (fun _ _ h => memOk_passGen h _ _) _ (memOk_modNet (memOk_modRegion h _ _) _ _)

theorem memOk_setHost (h : s.MemOk) (e : HostIO) : State.MemOk { s with host := e } := memOk_same h

theorem memOk_rebindPeer (h : s.MemOk) (k key : Nat) (n : Net) (p q : PeerProc) : (rebindPeer s k key n p q).MemOk :=
  memOk_foldl (fun _ _ h => memOk_passGen h _ _) _ (memOk_setHost (memOk_modNet h k _) _)

theorem memOk_rebindPeerStep (h : s.MemOk) (w : Word) : (rebindPeerStep s w).2.MemOk := by
  unfold rebindPeerStep
  split
  · exact h
  · split
    · exact h
    · exact memOk_rebindPeer h _ _ _ _ _

theorem memOk_rebindRestore (h : s.MemOk) (k : Nat) (n : Net) (q : Proc) : (rebindRestore s k n q).2.MemOk := by
  unfold rebindRestore
  split
  · exact memOk_switchPages h _
  · exact h

theorem memOk_rebindStep (h : s.MemOk) (w : Word) : (rebindStep s w).2.MemOk := by
  unfold rebindStep
  split
  · exact memOk_rebindPeerStep h w
  · next k n p q _ =>
    have ht := memOk_rebindNet h k n p q
    split
    · exact h
    · split
      · exact h
      · dsimp only
        split
        · exact h
        · next m _ =>
          have hr := memOk_rebindRestore ht k m q
          split
          · exact h
          · split
            · next e => exact memOk_switchIn (memOk_snd hr e) _ _ _
            · next e => exact memOk_snd hr e
            · exact memOk_rebindRestore h k m q

theorem memOk_ctlRebind (h : s.MemOk) (d a : Opnd) : Out.MemOk (execCtlRebind d a s) := by
  refine memOk_ctlOp h (fun w s h => ?_) fun w s h => ?_
  · split
    · next e => exact memOk_snd (memOk_rebindStep h w) e
    · exact h
  · split
    · next e => exact memOk_snd (memOk_rebindStep h w) e
    · trivial

/-! ## Vector words -/

theorem memOk_vecWord (h : s.MemOk) (i : Instr) (k : QEntry → Slot → List VSrc → VecOut) : Out.MemOk (vecWord s i k) := memOk_vecFrame h i _

theorem memOk_vecMask (h : s.MemOk) (i : Instr) (f : VecF) (op : MReg → MReg → MReg) : Out.MemOk (vecMask s i f op) := memOk_vecWord h i _

theorem memOk_vecBin (h : s.MemOk) (i : Instr) (f : VecF) (fl : Bool) (op : Rm → Nat → Nat → FRes) : Out.MemOk (vecBin s i f fl op) :=
  memOk_vecWord h i _

theorem memOk_vecUn (h : s.MemOk) (i : Instr) (f : VecF) (op : Rm → Nat → FRes) : Out.MemOk (vecUn s i f op) := memOk_vecWord h i _

theorem memOk_vecFused (h : s.MemOk) (i : Instr) (f : VecF) (op : Rm → Nat → Nat → Nat → FRes) : Out.MemOk (vecFused s i f op) :=
  memOk_vecWord h i _

theorem memOk_vecCmp (h : s.MemOk) (i : Instr) (f : VecF) (fl : Bool) (op : Nat → Nat → Bool × Flags) : Out.MemOk (vecCmp s i f fl op) :=
  memOk_vecWord h i _

theorem memOk_vecInt (h : s.MemOk) (i : Instr) (f : VecF) (op : BitVec 32 → BitVec 32 → BitVec 32) : Out.MemOk (vecInt s i f op) :=
  memOk_vecBin h i f false _

theorem memOk_vecReduce (h : s.MemOk) (i : Instr) (f : VecF) (e : Nat) (op : Rm → Nat → Nat → FRes) : Out.MemOk (vecReduce s i f e op) :=
  memOk_vecWord h i _

/-! ## The step -/

/-- Every instruction and every event keeps the canonical form of every memory. -/
theorem memOk_exec (h : s.MemOk) (i : Instr) : Out.MemOk (exec i s) := by
  unfold exec
  cases i with
  | add | sub | and | or | xor | andn | sll | srl | sra | slt | sltu | min | max | minu | maxu | mul | mulh | mulhu | div | divu | rem
  | remu => exact memOk_genBin h _ _ _ _
  | clz | ctz | popc | sextb | sexth | sextw | zextb | zexth | zextw | addi | andi | ori | xori | slli | srli | srai | slti
  | sltiu => exact memOk_genUn h _ _ _
  | lsi | addpc | jal => exact memOk_genOp h fun _ _ ht => ht
  | ldpc => exact memOk_ldpc h _ _
  | ldb | ldbu | ldh | ldhu | ldw | ldwu | ldd => exact memOk_loadOp h _ _ _ _ _
  | stb | sth | stw | std => exact memOk_storeOp h _ _ _ _
  | beq | bne | blt | bge | bltu | bgeu => exact memOk_branchOp h _ _ _ _
  | jalr => exact memOk_jalr h _ _ _
  | jmpf => exact memOk_jmpf h _ _ _
  | recvb | sendb => exact memOk_burst h _ _ _ _
  | chctlClose => exact memOk_chctlClose h _
  | chctlEosrd => exact memOk_chctlEosrd h _ _
  | chctlEosclr => exact memOk_chctlEosclr h _
  | emit => exact memOk_emit h _ _ _
  | emitt => exact memOk_emitt h _ _ _ _ _ _
  | emitl => exact memOk_emitl h _ _
  | tset => exact memOk_tset h _ _ _
  | tld => exact memOk_tld h _ _ _
  | gwait => exact memOk_gwait h _
  | mwaitb => exact memOk_mwaitb h _
  | cfetch => exact memOk_cfetch h _ _
  | cwait => exact memOk_cwait h _
  | gbar => exact memOk_gbar h _
  | phase => exact memOk_phase h _
  | sysr => exact memOk_sysr h _ _
  | sysw | syswSet | syswClr => exact memOk_syswOp h _ _ _
  | trap => exact memOk_raiseG h _ _ _ _ _ _
  | sret => exact memOk_sret h
  | exit => exact memOk_exit h
  | ctlKload => exact memOk_ctlKload h _ _
  | ctlKzero => exact memOk_ctlKzero h _ _
  | rgncmdAssign => exact memOk_rgnNow h fun c _ h => memOk_assign h c
  | rgncmdHalt => exact memOk_rgnNow h fun c _ h => memOk_halt h c
  | rgncmdReset => exact memOk_rgnNow h fun c _ h => memOk_resetRegion h c.region
  | rgncmdScrub => exact memOk_rgnNow h fun c _ h => memOk_scrub h c
  | rgncmdRelease => exact memOk_rgnNow h fun c _ h => memOk_release h c
  | rgncmdSwitch => exact memOk_rgncmdSwitch h _ _
  | ctlTlbinv => exact memOk_ctlTlbinv h _ _
  | ctlPrget => exact memOk_ctlPrget h _ _
  | ctlPrans => exact memOk_ctlPrans h _ _
  | ctlCaston => exact memOk_ctlCaston h _ _
  | ctlCancel => exact memOk_ctlCancel h _ _
  | ctlAttest => exact memOk_ctlAttest h _ _
  | ctlRebind => exact memOk_ctlRebind h _ _
  | vadd | vsub | vmul | vdiv | vmin | vmax => exact memOk_vecBin h _ _ _ _
  | vfma | vfms | vfnma => exact memOk_vecFused h _ _ _
  | vsqrt | vrcp | vrsqrt | vexp2 | vlog2 | vabs | vneg | vcvt | vmv => exact memOk_vecUn h _ _ _
  | vcmp | vicmp => exact memOk_vecCmp h _ _ _ _
  | viadd | visub | vimul | vimulh | vimin | vimax | viminu | vimaxu | vand | vor | vxor | vshl | vshr | vsra => exact memOk_vecInt h _ _ _
  | vredsum | vredmax | vredmin | viredsum => exact memOk_vecReduce h _ _ _ _
  | vsel | viota | vbcast | vmrg | vnorm | vsetvl | vperm | vrot | vslide | vcompress => exact memOk_vecWord h _ _
  | mand | mor | mxor | mnot => exact memOk_vecMask h _ _ _
  | vld | vst | vlds | vsts | vldx | vstx | vscadd => exact memOk_vecFrame h _ _
  | mzero => exact memOk_mzero h _
  | mstep => exact memOk_mstep h _
  | mcommit => exact memOk_mcommit h _
  | mrd => exact memOk_mrd h _
  | mst => exact memOk_mst h _
  | mcfg => exact memOk_mcfg h _
  | msave => exact memOk_msave h _
  | mload => exact memOk_mload h _
  | xcopy | xget | xput | xstream | xgather | xatom => exact memOk_copyWord h _ _
  | esetL | esetH => exact memOk_startAndRetire h fun _ => memOk_modMe h _
  | enop => exact memOk_startAndRetire h fun _ => h
  | qjoin => exact memOk_qjoin h _
  | replay => exact memOk_replay h _ _
  | replayIssue => exact memOk_replayIssue h
  | wordRetire => exact memOk_wordRetire h
  | streamSendRelease => exact memOk_streamSendRelease h
  | slotWake => exact memOk_slotWake h
  | levelGFault => exact memOk_levelGFault h
  | trapEntry => exact memOk_trapEntry h
  | preempt => exact memOk_preempt h
  | cfetchLanding => exact memOk_cfetchLanding h _
  | cfetchFailure => exact memOk_cfetchFailure h _
  | slotPacket | creditPacket | endMarkPacket | severNotice | reduceNodeInput => exact memOk_withPacket h _ _ _
  | creditMergeExpiry => exact memOk_creditMergeExpiry h _ _ _
  | ualinkWriteRequest => exact memOk_ualReceive h _ _
  | ualinkWriteCompletion | ualinkRetransmit => exact memOk_modUal h _ _
  | detectorWave => exact memOk_detectorWave h _
  | skeinTransfer => exact memOk_skeinTransfer h _ _ _
  | barrierRelease => exact memOk_barrierRelease h _ _
  | boundary => exact memOk_boundary h _ _
  | tokenRefill => exact memOk_tokenRefill h
  | saveSlotRecord => exact memOk_saveSlotRecord h _
  | restoreSlotRecord => exact memOk_restoreSlotRecord h _
  | csegvalidWrite | streammapWrite | fflagsWrite | accovWrite | tbcfgWrite | wintabWrite => exact memOk_sysEvent h _ _
  | winWrite => exact memOk_winWrite h _ _
  | regionResetEnd => exact memOk_regionResetEnd h _
  | scrubDone => exact memOk_scrubDone h
  | vfReset => exact memOk_vfReset h _
  | timeSliceExpiry => exact memOk_timeSliceExpiry h _
  | arbiterInterval | thermalThrottle | thermalRecover => exact memOk_modRegions _ _ h
  | thermalShutdown => exact memOk_setDie h _
  | powerOn => exact memOk_powerOn _
  | doorbell => exact memOk_doorbell h _
  | deferredWake => exact memOk_deferredWake h _
  | validating => exact memOk_validating h _
  | cancel => exact memOk_cancel h _ _
  | cqheadWrite => exact memOk_cqheadWrite h _ _
  | evheadWrite => exact memOk_evheadWrite h _ _
  | hostRegisterWrite => exact memOk_hostRegisterWrite h _ _ _
  | bindOff => exact memOk_bindOff h _
  | completionRecord => exact memOk_writeCompletion h _
  | packageHandleHostRead => exact memOk_packageHandleHostRead h _
  | savectlDone => exact memOk_savectlDone h

theorem memOk_issueNext (h : s.MemOk) : Out.MemOk (issueNext s) := by
  unfold issueNext
  refine out_memOk_ite h ?_
  split
  · exact memOk_exec h _
  · exact memOk_trapG h _ _ _
  · exact memOk_failSeg h _

theorem memOk_startNext (h : s.MemOk) : Out.MemOk (startNext s) := by
  unfold startNext
  split
  · split
    · exact memOk_exec h _
    · exact memOk_raiseE h _ _ _ _
  · split
    · exact h
    · refine out_memOk_ite h ?_
      split
      · exact memOk_exec h _
      · exact h

theorem memOk_run (h : s.MemOk) (a : Act) : Out.MemOk (run s a) := by
  cases a with
  | issue => exact memOk_issueNext (memOk_same h)
  | start => exact memOk_startNext (memOk_same h)
  | event => exact out_memOk_ite (memOk_exec (memOk_same h) _) h
  | sramError => exact memOk_modTile_same h _ _
  | dramError | giveFrame | hostTurn | peerWave | peerProc => exact memOk_same h

theorem memOk_nextAct (h : s.MemOk) {a : Act} (e : nextAct s = some (a, t)) : t.MemOk := by
  unfold nextAct at e
  split at e
  · cases e; exact memOk_same h
  · obtain ⟨b, _, hb⟩ := Option.map_eq_some_iff.mp e
    cases hb; exact h

theorem memOk_step (h : s.MemOk) : Out.MemOk (step s) := by
  unfold step
  split
  · exact out_memOk_ite trivial h
  · next e => exact out_memOk_ite trivial (memOk_run (memOk_nextAct h e) _)

/-- Settles O60: `State.MemOk` holds of what every act of the agenda leaves, instruction by instruction and event by event. -/
theorem stepKeepsMemOk : Obligations.StepKeepsMemOk :=
  fun _ _ h e => out_memOk_next (memOk_step h) e

end

section
/-! PROOFS (O55). The host's accesses to a function: the doorbell, the registers, the staging area, the MSI-X table and capability
(R3, R8, R387-R390). -/

variable {s t : State} {fn : Nat}

/-! ## One function changed -/

/-- `t` is `s` but for function `fn`, which is `g`. -/
def FuncOnly (s : State) (fn : Nat) (t : State) (g : Func) : Prop :=
  t.func fn = g ∧ (∀ k, k ≠ fn → t.func k = s.func k) ∧ t = { s with funcs := t.funcs }

@[simp] theorem func_modFunc_self (s : State) (fn : Nat) (f : Func → Func) : (s.modFunc fn f).func fn = f (s.func fn) := by
  rw [func_modFunc, if_pos rfl]

@[simp] theorem func_modFunc_ne (s : State) {fn k : Nat} (f : Func → Func) (h : k ≠ fn) : (s.modFunc fn f).func k = s.func k := by
  rw [func_modFunc, if_neg h]

theorem funcOnly_refl : FuncOnly s fn s (s.func fn) := ⟨rfl, fun _ _ => rfl, rfl⟩

theorem funcOnly_modFunc (f : Func → Func) : FuncOnly s fn (s.modFunc fn f) (f (s.func fn)) :=
  ⟨func_modFunc_self s fn f, fun _ hk => func_modFunc_ne s f hk, rfl⟩

theorem hostSees_of_ready (hfn : fn ≤ 16) (hr : (s.func fn).ready = true) : s.hostSees fn = true := by
  simp [State.hostSees, hfn, hr]

/-! ## The doorbell and the heads of the rings -/

/-- R389: the entries of a function's launch ring. -/
def ringCount (f : Func) : Nat := (f.lqtail + 64 - f.lqhead) % 64

/-- R389: the networks that wait in a function's launch ring, oldest first. -/
def ringNets (f : Func) (fn : Nat) : List Net := (List.range (ringCount f)).map fun k => ringEntry f fn ((f.lqhead + k) % 64)

/-- R389, R390: with entries in the ring, they are taken and vector 2 is raised. -/
theorem takeEntries_eq (h : ringCount (s.func fn) ≠ 0) : takeEntries s fn =
    { s with nets := s.nets ++ ringNets (s.func fn) fn }.modFunc fn fun f => { f with lqhead := f.lqtail }.raise 2 := by
  unfold takeEntries
  exact if_neg h

theorem takeEntries_none (h : ringCount (s.func fn) = 0) : takeEntries s fn = s := by
  unfold takeEntries
  exact if_pos h

theorem doorbell_window (hs : s.hostSees fn = true) (hw : (s.func fn).window = true) :
    exec (.doorbell fn) s = .next (s.modFunc fn fun f => { f with again := true, due := true }) := by
  simp [execDoorbell, ringDoorbell, hs, hw]

/-- R388: with no network of the function whose record waits, only CQHEAD changes. -/
theorem writeCqhead_eq (v : Word) (h : ∀ n ∈ s.nets, n.tenant = fn → n.closing = false) :
    writeCqhead s fn v = s.modFunc fn fun f => { f with cqhead := v.toNat % 64 } := by
  have idle : ∀ (l : List Nat) (t : State), t.nets = s.nets → l.foldl (fun s k =>
      if (s.nets[k]?).any fun n => n.tenant == fn && n.closing then writeCompletion s k else s) t = t := by
    intro l
    induction l with
    | nil => exact fun _ _ => rfl
    | cons k l ih =>
      intro t ht
      rw [List.foldl_cons, if_neg, ih t ht]
      rw [ht]
      cases hk : s.nets[k]? with
      | none => simp
      | some n => simpa using h n (List.mem_of_getElem? hk)
  exact idle _ _ rfl

/-! ## The registers that the host writes -/

/-- The host writes at an offset of its view of a function that is ready, outside the mailbox. -/
theorem hostRegisterWrite_eq {off : Nat} {v : Word} (hs : s.hostSees fn = true) (ho : off < 0x800 ∨ 0x1000 ≤ off) :
    exec (.hostRegisterWrite fn off v) s = .next (hostWrite s fn off v) := by
  have hb : ¬ (fn = 0 ∧ 0x800 ≤ off ∧ off + 8 ≤ 0x1000) := by omega
  simp only [exec_hostRegisterWrite, execHostRegisterWrite, if_neg hb, hs, if_true]

/-- What the host's write of `v` at offset `off` makes of function `fn`, and of it alone. -/
def HostPuts (s : State) (fn : Nat) (v : Word) (off : Nat) (g : Func) : Prop :=
  ∃ t, exec (.hostRegisterWrite fn off v) s = .next t ∧ FuncOnly s fn t g

variable {off : Nat} {v : Word}

theorem HostPuts.congr {g g' : Func} (h : HostPuts s fn v off g) (e : g = g') : HostPuts s fn v off g' := e ▸ h

theorem hostPuts_modFunc (hs : s.hostSees fn = true) {f : Func → Func} (ho : off < 0x800 ∨ 0x1000 ≤ off)
    (hw : hostWrite s fn off v = s.modFunc fn f) : HostPuts s fn v off (f (s.func fn)) :=
  ⟨_, (hostRegisterWrite_eq hs ho).trans (by rw [hw]), funcOnly_modFunc f⟩

theorem hostPuts_self (hs : s.hostSees fn = true) (ho : off < 0x800 ∨ 0x1000 ≤ off) (hw : hostWrite s fn off v = s) :
    HostPuts s fn v off (s.func fn) :=
  ⟨_, (hostRegisterWrite_eq hs ho).trans (by rw [hw]), funcOnly_refl⟩

/-- Log 52: half a register of BAR0 takes nothing. -/
theorem hostWrite_half (h : off < 0x800) (h4 : off % 8 = 4) : hostWrite s fn off v = s := by
  unfold hostWrite hostConfig hostHalf hostBar4 hostBar2
  rw [if_neg (by omega), if_neg (by omega), if_neg (by omega), if_neg (by omega)]
  split
  case h_10 => rfl
  all_goals omega

theorem hostWrite_staging (h : off + 8 ≤ 2 ^ 28) : hostWrite s fn (2 ^ 28 + off) v =
    s.modFunc fn fun f => { f with staging := f.staging.putBytes off (natLe v.toNat 8) } := by
  unfold hostWrite hostConfig hostHalf hostBar4 hostBar2
  rw [if_neg (by omega), if_neg (by omega), if_neg (by omega), if_pos (by omega), Nat.add_sub_cancel_left]

theorem hostWrite_halfView (h : off < 2 ^ 30) : hostWrite s fn (2 ^ 30 + off) v = s.modFunc fn fun f => f.halfWrite off v := by
  unfold hostWrite hostConfig hostHalf
  rw [if_neg (by omega), if_pos (by omega), Nat.add_sub_cancel_left]

theorem halfWrite_staging (f : Func) (h : off + 4 ≤ 2 ^ 28) :
    f.halfWrite (2 ^ 28 + off) v = { f with staging := f.staging.putBytes off (natLe (v.toNat % 2 ^ 32) 4) } := by
  unfold Func.halfWrite hostBar4 hostBar2
  rw [if_neg (by omega), if_pos (by omega), Nat.add_sub_cancel_left]

theorem hostWrite_config : hostWrite s fn (2 ^ 31 + off) v = s.modFunc fn fun f => f.configWrite off v := by
  unfold hostWrite hostConfig
  rw [if_pos (by omega), Nat.add_sub_cancel_left]

theorem hostWrite_bar4 (h : off < 2 ^ 29) : hostWrite s fn (2 ^ 29 + off) v = s.modFunc fn fun f => f.bar4Write off v := by
  unfold hostWrite hostConfig hostHalf hostBar4
  rw [if_neg (by omega), if_neg (by omega), if_pos (by omega), Nat.add_sub_cancel_left]

/-! ## The MSI-X table -/

theorem mem_putBytes_append (m : Mem) (a : Nat) (xs ys : List Byte) :
    m.putBytes a (xs ++ ys) = (m.putBytes a xs).putBytes (a + xs.length) ys := by
  induction xs generalizing m a with
  | nil => rfl
  | cons x xs ih =>
    rw [List.cons_append, Mem.putBytes, ih, Mem.putBytes, List.length_cons, Nat.add_right_comm, Nat.add_assoc a]

theorem natLe_mod (x n : Nat) : natLe (x % 256 ^ n) n = natLe x n := by
  induction n generalizing x with
  | zero => rfl
  | succ n ih =>
    have hd : x % 256 ^ (n + 1) / 256 = x / 256 % 256 ^ n := by rw [Nat.pow_succ', Nat.mod_mul_right_div_self]
    have hb : BitVec.ofNat 8 (x % 256 ^ (n + 1)) = BitVec.ofNat 8 x := by
      apply BitVec.eq_of_toNat_eq
      simp only [BitVec.toNat_ofNat]
      exact Nat.mod_mod_of_dvd _ ⟨256 ^ n, Nat.pow_succ' ..⟩
    rw [natLe, natLe, hd, ih, hb]

theorem natLe_add (x m n : Nat) : natLe x (m + n) = natLe x m ++ natLe (x / 256 ^ m) n := by
  induction m generalizing x with
  | zero => simp [natLe]
  | succ m ih => rw [Nat.add_right_comm, natLe, natLe, ih, List.cons_append, Nat.div_div_eq_div_mul, ← Nat.pow_succ']

/-- R387: 8 bytes are the lower half, then the upper one. -/
theorem mem_putBytes_halves (m : Mem) (a : Nat) (v : Word) : (m.putBytes a (natLe (v.extractLsb' 0 32).toNat 4)).putBytes (a + 4)
    (natLe (v.extractLsb' 32 32).toNat 4) = m.putBytes a (natLe v.toNat 8) := by
  have hlo : (v.extractLsb' 0 32).toNat = v.toNat % 256 ^ 4 := by simp
  have hhi : (v.extractLsb' 32 32).toNat = v.toNat / 256 ^ 4 % 256 ^ 4 := by simp [Nat.shiftRight_eq_div_pow]
  rw [hlo, hhi, natLe_mod, natLe_mod, natLe_add v.toNat 4 4, mem_putBytes_append, natLe_length]

/-- R387: 4 bytes of an entry's address or data. -/
theorem bar4Dword_word (f : Func) {k j : Nat} (v : BitVec 32) (hk : k < 3) (hj : j < 3) :
    f.bar4Dword (16 * k + 4 * j) v = { f with bar4 := f.bar4.putBytes (16 * k + 4 * j) (natLe v.toNat 4) } := by
  unfold Func.bar4Dword
  rw [if_neg (by omega), if_neg (by omega)]

/-- R387: an entry's Vector Control. -/
theorem bar4Dword_control (f : Func) {k : Nat} (v : BitVec 32) (hk : k < 3) :
    f.bar4Dword (16 * k + 12) v = f.maskEntry k (v.getLsbD 0) := by
  unfold Func.bar4Dword
  rw [if_neg (by omega), if_pos (by omega), show (16 * k + 12) / 16 = k by omega]

theorem bar4Dword_control_lo (f : Func) {k : Nat} (v : Word) (hk : k < 3) : f.bar4Dword (16 * k + 12) (v.extractLsb' 0 32) = f.maskEntry k (v.getLsbD 0) := by
  rw [bar4Dword_control _ _ hk]
  simp

theorem bar4Write_address (f : Func) {k : Nat} (hk : k < 3) :
    f.bar4Write (16 * k) v = { f with bar4 := f.bar4.putBytes (16 * k) (natLe v.toNat 8) } := by
  unfold Func.bar4Write
  rw [if_pos (by omega)]
  have lo := bar4Dword_word f (j := 0) (v.extractLsb' 0 32) hk (by omega)
  have hi := fun g : Func => bar4Dword_word g (j := 1) (v.extractLsb' 32 32) hk (by omega)
  simp only [Nat.mul_zero, Nat.add_zero, Nat.mul_one] at lo hi
  simp only [lo, hi, mem_putBytes_halves]

theorem bar4Write_data (f : Func) {k : Nat} (hk : k < 3) : f.bar4Write (16 * k + 8) v =
    { f with bar4 := f.bar4.putBytes (16 * k + 8) (natLe (v.toNat % 2 ^ 32) 4) }.maskEntry k (v.getLsbD 32) := by
  unfold Func.bar4Write
  rw [if_pos (by omega), bar4Dword_word f (j := 2) _ hk (by omega), Nat.add_assoc, bar4Dword_control _ _ hk]
  simp

theorem bar4Write_odd (f : Func) (h : off % 8 = 4) : f.bar4Write off v = f.bar4Dword off (v.extractLsb' 0 32) := by
  unfold Func.bar4Write
  exact if_neg (by omega)

theorem halfWrite_bar4 (f : Func) : f.halfWrite (2 ^ 29 + off) v = f.bar4Dword off (v.extractLsb' 0 32) := by
  unfold Func.halfWrite hostBar4
  rw [if_pos (by omega), Nat.add_sub_cancel_left]

/-- R3, R387: a function that is not masked by the entry's own bit sends what the function's control lets it. -/
theorem maskEntry_eq (f : Func) {k : Nat} (m : Bool) (hk : k < 3) : f.maskEntry k m =
    if m then { f with unmasked := f.unmasked &&& ~~~(1#3 <<< k) }
    else if f.msixEn && !f.funcMask && f.pba.getLsbD k then
      { Func.send { f with unmasked := f.unmasked ||| (1#3 <<< k) } k with pba := f.pba &&& ~~~(1#3 <<< k) }
    else { f with unmasked := f.unmasked ||| (1#3 <<< k) } := by
  have hbit : (f.unmasked ||| (1#3 <<< k)).getLsbD k = true := by simp [hk]
  unfold Func.maskEntry Func.flush Func.sends
  simp only [hbit, Bool.and_true]

/-- R390: vector `k` of a function in `g`, which differs from `e` by vectors that have been sent since, sent where it is pending. -/
def Func.flushFrom (e g : Func) (k : Nat) : Func :=
  if e.msixEn && !e.funcMask && e.unmasked.getLsbD k && e.pba.getLsbD k then { g.send k with pba := g.pba &&& ~~~(1#3 <<< k) } else g

theorem flush_eq {e g : Func} {k : Nat} (hen : g.msixEn = e.msixEn) (hfm : g.funcMask = e.funcMask) (hum : g.unmasked = e.unmasked)
    (hp : g.pba.getLsbD k = e.pba.getLsbD k) : g.flush k = e.flushFrom g k := by
  unfold Func.flush Func.flushFrom Func.sends
  rw [hen, hfm, hum, hp]

/-- What the sending of one vector leaves of the control and of the other pending bits. -/
theorem flushFrom_control (e g : Func) (k : Nat) : (e.flushFrom g k).msixEn = g.msixEn ∧ (e.flushFrom g k).funcMask = g.funcMask ∧
    (e.flushFrom g k).unmasked = g.unmasked ∧ ∀ j, j < 3 → j ≠ k → (e.flushFrom g k).pba.getLsbD j = g.pba.getLsbD j := by
  unfold Func.flushFrom
  split
  · refine ⟨rfl, rfl, rfl, fun j hj hjk => ?_⟩
    have hfar : j < k ∨ j - k ≠ 0 := by omega
    simpa [hj] using fun _ => hfar
  · exact ⟨rfl, rfl, rfl, fun _ _ _ => rfl⟩

/-- R3: a function after a write of Message Control. -/
def Func.withControl (f : Func) (v : Word) : Func :=
  let e : Func := { f with msixEn := v.getLsbD 31, funcMask := v.getLsbD 30 }
  e.flushFrom (e.flushFrom (e.flushFrom e 0) 1) 2

theorem configWrite_eq (f : Func) (v : Word) : f.configWrite 0 v = f.withControl v := by
  let e : Func := { f with msixEn := v.getLsbD 31, funcMask := v.getLsbD 30 }
  obtain ⟨en0, fm0, um0, p0⟩ := flushFrom_control e e 0
  obtain ⟨en1, fm1, um1, p1⟩ := flushFrom_control e (e.flushFrom e 0) 1
  have h0 : e.flush 0 = e.flushFrom e 0 := flush_eq rfl rfl rfl rfl
  have h1 : (e.flushFrom e 0).flush 1 = e.flushFrom (e.flushFrom e 0) 1 := flush_eq en0 fm0 um0 (p0 1 (by decide) (by decide))
  have h2 : (e.flushFrom (e.flushFrom e 0) 1).flush 2 = e.flushFrom (e.flushFrom (e.flushFrom e 0) 1) 2 :=
    flush_eq (en1.trans en0) (fm1.trans fm0) (um1.trans um0)
      ((p1 2 (by decide) (by decide)).trans (p0 2 (by decide) (by decide)))
  show ((e.flush 0).flush 1).flush 2 = _
  rw [h0, h1, h2]
  rfl

theorem word_toNat_lo (v : Word) : (v.extractLsb' 0 32).toNat = v.toNat % 2 ^ 32 := by simp

end

section
/-! PROOFS (O55). What the doorbell, the host's writes and its reads come to, function by function (R8, R387-R390). -/

variable {s : State} {fn : Nat}

/-! ## The doorbell -/

/-- R389: a doorbell outside the microsecond of a wake. -/
theorem doorbell_takes (hs : s.hostSees fn = true) (hw : (s.func fn).window = false) (hc : ringCount (s.func fn) ≠ 0) :
    ∃ t, exec (.doorbell fn) s = .next t ∧
      t.func fn = Func.raise { s.func fn with window := true, due := false, lqhead := (s.func fn).lqtail } 2 ∧
      (∀ k, k ≠ fn → t.func k = s.func k) ∧ t = { s with funcs := t.funcs, nets := t.nets } ∧
      t.nets = s.nets ++ ringNets (s.func fn) fn := by
  let u := s.modFunc fn fun f => { f with window := true, due := false }
  have hu : u.func fn = { s.func fn with window := true, due := false } := func_modFunc_self s fn _
  have he : exec (.doorbell fn) s = .next (takeEntries u fn) := by
    simp only [exec_doorbell, execDoorbell, ringDoorbell, hs, hw, if_true, Bool.false_eq_true, if_false]
    rfl
  rw [takeEntries_eq (by rw [hu]; exact hc), hu] at he
  refine ⟨_, he, ?_, fun k hk => ?_, rfl, rfl⟩
  · rw [func_modFunc_self]
    exact congrArg (fun g : Func => Func.raise { g with lqhead := g.lqtail } 2) hu
  · rw [func_modFunc_ne _ _ hk]
    exact (func_modFunc_ne s _ hk : u.func k = s.func k)

/-- R389: the end of the microsecond, with no wake due. -/
theorem deferredWake_ends (hw : (s.func fn).window = true) (hd : (s.func fn).due = false) :
    ∃ t, exec (.deferredWake fn) s = .next t ∧ FuncOnly s fn t { s.func fn with window := false } := by
  refine ⟨_, ?_, funcOnly_modFunc fun f => { f with window := false }⟩
  simp [execDeferredWake, hw, hd]

theorem evheadWrite_moves (hs : s.hostSees fn = true) (v : Word) :
    ∃ t, exec (.evheadWrite fn v) s = .next t ∧ FuncOnly s fn t { s.func fn with evhead := v.toNat % 64 } := by
  refine ⟨_, ?_, funcOnly_modFunc fun f => { f with evhead := v.toNat % 64 }⟩
  simp [execEvheadWrite, writeEvhead, hs]

theorem cqheadWrite_moves (hs : s.hostSees fn = true) (v : Word) (h : ∀ n ∈ s.nets, n.tenant = fn → n.closing = false) :
    ∃ t, exec (.cqheadWrite fn v) s = .next t ∧ FuncOnly s fn t { s.func fn with cqhead := v.toNat % 64 } := by
  refine ⟨_, ?_, funcOnly_modFunc fun f => { f with cqhead := v.toNat % 64 }⟩
  simp [execCqheadWrite, writeCqhead_eq v h, hs]

/-! ## What the host writes -/

variable (hs : s.hostSees fn = true) (v : Word)
include hs

theorem hostPuts_vfstat : HostPuts s fn v 0x000
    { s.func fn with again := (s.func fn).again && !v.getLsbD 1, evlost := (s.func fn).evlost && !v.getLsbD 3 } :=
  hostPuts_modFunc hs (f := fun f => { f with again := f.again && !v.getLsbD 1, evlost := f.evlost && !v.getLsbD 3 }) (by decide) rfl

theorem hostPuts_lqbase : HostPuts s fn v 0x008 { s.func fn with lqbase := v &&& 0xFFFFFFFFFFFFF000 } :=
  hostPuts_modFunc hs (f := fun f => { f with lqbase := v &&& 0xFFFFFFFFFFFFF000 }) (by decide) rfl

theorem hostPuts_lqtail : HostPuts s fn v 0x018 { s.func fn with lqtail := v.toNat % 64 } :=
  hostPuts_modFunc hs (f := fun f => { f with lqtail := v.toNat % 64 }) (by decide) rfl

theorem hostPuts_cqbase : HostPuts s fn v 0x028 { s.func fn with cqbase := v } :=
  hostPuts_modFunc hs (f := fun f => { f with cqbase := v }) (by decide) rfl

theorem hostPuts_evbase : HostPuts s fn v 0x038 { s.func fn with evbase := v.extractLsb' 0 32 } :=
  hostPuts_modFunc hs (f := fun f => { f with evbase := v.extractLsb' 0 32 }) (by decide) rfl

theorem hostPuts_evhead : HostPuts s fn v 0x050 { s.func fn with evhead := v.toNat % 64 } :=
  hostPuts_modFunc hs (f := fun f => { f with evhead := v.toNat % 64 }) (by decide) rfl

/-- R387: LQHEAD, CQTAIL and what follows EVHEAD cannot be written. -/
theorem hostPuts_readOnly : ∀ off ∈ [0x010, 0x030, 0x058], HostPuts s fn v off (s.func fn) := by
  intro off ho
  simp only [List.mem_cons, List.not_mem_nil, or_false] at ho
  obtain rfl | rfl | rfl := ho
  · exact hostPuts_self hs (by decide) rfl
  · exact hostPuts_self hs (by decide) rfl
  · exact hostPuts_self hs (by decide) rfl

theorem hostPuts_half {off : Nat} (h : off < 0x800) (h4 : off % 8 = 4) : HostPuts s fn v off (s.func fn) :=
  hostPuts_self hs (.inl h) (hostWrite_half h h4)

theorem hostPuts_staging {off : Nat} (h : off + 8 ≤ 2 ^ 28) :
    HostPuts s fn v (2 ^ 28 + off) { s.func fn with staging := (s.func fn).staging.putBytes off (natLe v.toNat 8) } :=
  hostPuts_modFunc hs (by omega) (hostWrite_staging h)

/-- A write of 4 bytes, as the function takes it. -/
theorem hostPuts_halfView {off : Nat} {g : Func} (h : off < 2 ^ 30) (hg : (s.func fn).halfWrite off v = g) :
    HostPuts s fn v (2 ^ 30 + off) g :=
  hg ▸ hostPuts_modFunc hs (by omega) (hostWrite_halfView h)

theorem hostPuts_staging4 {off : Nat} (h : off + 4 ≤ 2 ^ 28) : HostPuts s fn v (2 ^ 30 + 2 ^ 28 + off)
    { s.func fn with staging := (s.func fn).staging.putBytes off (natLe (v.toNat % 2 ^ 32) 4) } := by
  rw [Nat.add_assoc]
  exact hostPuts_halfView hs v (by omega) (halfWrite_staging _ h)

/-- A write in configuration space, as the function takes it. -/
theorem hostPuts_config (off : Nat) : HostPuts s fn v (2 ^ 31 + off) ((s.func fn).configWrite off v) :=
  hostPuts_modFunc hs (by omega) hostWrite_config

theorem hostPuts_msixControl : HostPuts s fn v (2 ^ 31) ((s.func fn).withControl v) :=
  (hostPuts_config hs v 0).congr (configWrite_eq _ v)

/-- Log 52: of the MSI-X capability, Message Control alone can be written. -/
theorem hostPuts_config_pos {off : Nat} (h : 0 < off) : HostPuts s fn v (2 ^ 31 + off) (s.func fn) := by
  have hc : (s.func fn).configWrite off v = s.func fn := if_neg (by omega)
  exact hc ▸ hostPuts_config hs v off

/-- A write in BAR4, as the function takes it. -/
theorem hostPuts_bar4 {off : Nat} {g : Func} (h : off < 2 ^ 29) (hg : (s.func fn).bar4Write off v = g) : HostPuts s fn v (2 ^ 29 + off) g :=
  hg ▸ hostPuts_modFunc hs (by omega) (hostWrite_bar4 h)

variable {k : Nat} (hk : k < 3)
include hk

theorem hostPuts_address :
    HostPuts s fn v (2 ^ 29 + 16 * k) { s.func fn with bar4 := (s.func fn).bar4.putBytes (16 * k) (natLe v.toNat 8) } :=
  hostPuts_bar4 hs v (by omega) (bar4Write_address _ hk)

/-- R387: an entry's data and Vector Control in one write. -/
theorem hostPuts_data : HostPuts s fn v (2 ^ 29 + 16 * k + 8)
    (Func.maskEntry { s.func fn with bar4 := (s.func fn).bar4.putBytes (16 * k + 8) (natLe (v.toNat % 2 ^ 32) 4) } k (v.getLsbD 32)) := by
  rw [Nat.add_assoc]
  exact hostPuts_bar4 hs v (by omega) (bar4Write_data _ hk)

theorem hostPuts_addressHigh : HostPuts s fn v (2 ^ 29 + 16 * k + 4)
    { s.func fn with bar4 := (s.func fn).bar4.putBytes (16 * k + 4 * 1) (natLe (v.toNat % 2 ^ 32) 4) } := by
  rw [Nat.add_assoc]
  refine hostPuts_bar4 hs v (by omega) ?_
  rw [bar4Write_odd _ (by omega), ← word_toNat_lo]
  exact bar4Dword_word _ (j := 1) _ hk (by omega)

theorem hostPuts_control : HostPuts s fn v (2 ^ 29 + 16 * k + 12) ((s.func fn).maskEntry k (v.getLsbD 0)) := by
  rw [Nat.add_assoc]
  refine hostPuts_bar4 hs v (by omega) ?_
  rw [bar4Write_odd _ (by omega), bar4Dword_control_lo _ v hk]

theorem hostPuts_control4 : HostPuts s fn v (2 ^ 30 + 2 ^ 29 + 16 * k + 12) ((s.func fn).maskEntry k (v.getLsbD 0)) := by
  rw [Nat.add_assoc, Nat.add_assoc]
  refine hostPuts_halfView hs v (by omega) ?_
  rw [halfWrite_bar4, bar4Dword_control_lo _ v hk]

theorem hostPuts_word4 {j : Nat} (hj : j < 3) : HostPuts s fn v (2 ^ 30 + 2 ^ 29 + 16 * k + 4 * j)
    { s.func fn with bar4 := (s.func fn).bar4.putBytes (16 * k + 4 * j) (natLe (v.toNat % 2 ^ 32) 4) } := by
  rw [Nat.add_assoc, Nat.add_assoc]
  refine hostPuts_halfView hs v (by omega) ?_
  rw [halfWrite_bar4, ← word_toNat_lo]
  exact bar4Dword_word _ _ hk hj

omit hk

/-! ## What the host reads -/

omit v

theorem hostRead_bar0 {off : Nat} (h : off < 0x800) : hostRead s fn off = (s.func fn).bar0Read off := by
  unfold hostRead hostConfig hostHalf hostBar4 hostBar2
  simp only [hs, Bool.not_true, Bool.false_eq_true, if_false]
  rw [if_neg (by omega), if_neg (by omega), if_neg (by omega), if_neg (by omega), if_neg (by omega)]

theorem hostRead_staging {off : Nat} (h : off + 8 ≤ 2 ^ 28) : hostRead s fn (2 ^ 28 + off) = (s.func fn).staging.dword off := by
  unfold hostRead hostConfig hostHalf hostBar4 hostBar2
  simp only [hs, Bool.not_true, Bool.false_eq_true, if_false]
  rw [if_neg (by omega), if_neg (by omega), if_neg (by omega), if_neg (by omega), if_pos (by omega), if_pos (by omega),
    Nat.add_sub_cancel_left]

theorem hostRead_bar4 {off : Nat} (h : off < 2 ^ 29) : hostRead s fn (2 ^ 29 + off) = (s.func fn).bar4Read off := by
  unfold hostRead hostConfig hostHalf hostBar4
  simp only [hs, Bool.not_true, Bool.false_eq_true, if_false]
  rw [if_neg (by omega), if_neg (by omega), if_neg (by omega), if_pos (by omega), Nat.add_sub_cancel_left]

theorem hostRead_config : hostRead s fn (2 ^ 31) = (s.func fn).configRead 0 := by
  unfold hostRead hostConfig
  simp only [hs, Bool.not_true, Bool.false_eq_true, if_false]
  rw [if_neg (by omega), if_pos (by omega), Nat.sub_self]

omit hs

/-- Log 52: half a register of BAR0 reads as zero. -/
theorem bar0Read_half (f : Func) {off : Nat} (h : off % 8 = 4) : f.bar0Read off = 0 := by
  unfold Func.bar0Read
  split
  case h_10 => rfl
  all_goals omega

theorem bar0Read_vfstat (f : Func) :
    f.bar0Read 0x000 = BitVec.ofNat 64 (f.ready.toNat + 2 * f.again.toNat + 4 * f.resetting.toNat + 8 * f.evlost.toNat) := by
  show (0#60 ++ BitVec.ofBool f.evlost ++ BitVec.ofBool f.resetting ++ BitVec.ofBool f.again ++ BitVec.ofBool f.ready : Word) = _
  generalize f.ready = a, f.again = b, f.resetting = c, f.evlost = d
  revert a b c d
  decide

theorem bar0Read_evbase (f : Func) : (f.bar0Read 0x038).extractLsb' 0 32 = f.evbase ∧
    (f.bar0Read 0x038).extractLsb' 32 32 = BitVec.ofNat 32 f.evtail :=
  ⟨BitVec.extractLsb'_append_eq_right, BitVec.extractLsb'_append_eq_left⟩

/-- R3, log 52: Message Control over the capability's number. -/
theorem configRead_bits (f : Func) {k : Nat} (h : k < 32) :
    (f.configRead 0).getLsbD k = (k == 0 || k == 4 || k == 17 || (k == 30 && f.funcMask) || (k == 31 && f.msixEn)) := by
  show (0#32 ++ BitVec.ofBool f.msixEn ++ BitVec.ofBool f.funcMask ++ 2#14 ++ 0x11#16 : Word).getLsbD k = _
  generalize f.msixEn = a, f.funcMask = b
  revert a b
  interval_cases k <;> decide

/-- R387: of an entry of the table, what its words read as. -/
theorem bar4ReadDword_word (f : Func) {k j : Nat} (hk : k < 3) (hj : j < 3) :
    f.bar4ReadDword (16 * k + 4 * j) = (f.bar4.dword (16 * k + 4 * j)).extractLsb' 0 32 := by
  unfold Func.bar4ReadDword pbaOff
  rw [if_neg (by omega), if_neg (by omega), if_neg (by omega), if_neg (by omega)]

theorem bar4ReadDword_control (f : Func) {k : Nat} (hk : k < 3) :
    f.bar4ReadDword (16 * k + 12) = (BitVec.ofBool (!f.unmasked.getLsbD k)).zeroExtend 32 := by
  unfold Func.bar4ReadDword pbaOff
  rw [if_neg (by omega), if_neg (by omega), if_neg (by omega), if_pos (by omega), show (16 * k + 12) / 16 = k by omega]

theorem bar4Read_pba (f : Func) : f.bar4Read 0x800 = f.pba.zeroExtend 64 := by
  show (0#32 ++ f.pba.zeroExtend 32 : Word) = f.pba.zeroExtend 64
  generalize f.pba = p
  revert p
  decide

theorem leNat_append (xs ys : List Byte) : leNat (xs ++ ys) = leNat xs + 256 ^ xs.length * leNat ys := by
  induction xs with
  | nil => simp [leNat]
  | cons x xs ih => rw [List.cons_append, leNat, leNat, ih, List.length_cons, Nat.pow_succ']; ring

theorem mem_bytes_length (m : Mem) (a n : Nat) : (m.bytes a n).length = n := by
  induction n generalizing a with
  | zero => rfl
  | succ n ih => rw [Mem.bytes, List.length_cons, ih]

theorem mem_bytes_add (m : Mem) (a j n : Nat) : m.bytes a (j + n) = m.bytes a j ++ m.bytes (a + j) n := by
  induction j generalizing a with
  | zero => simp [Mem.bytes]
  | succ j ih => rw [Nat.add_right_comm, Mem.bytes, Mem.bytes, ih, List.cons_append, Nat.add_right_comm, Nat.add_assoc a]

/-- R5: the lower half of a dword is the 4 bytes at its address. -/
theorem dword_lo (m : Mem) (a : Nat) : ((m.dword a).extractLsb' 0 32).toNat = leNat (m.bytes a 4) := by
  have hb := leNat_lt (m.bytes a 4)
  have hd := leNat_lt (m.bytes (a + 4) 4)
  rw [mem_bytes_length] at hb hd
  rw [Mem.dword, mem_bytes_add m a 4 4]
  simp only [BitVec.extractLsb'_toNat, BitVec.toNat_ofNat, Nat.shiftRight_zero, leNat_append, mem_bytes_length]
  omega

theorem mem_dword_halves (m : Mem) (a : Nat) : (m.dword (a + 4)).extractLsb' 0 32 ++ (m.dword a).extractLsb' 0 32 = m.dword a := by
  have hd := leNat_lt (m.bytes (a + 4) 4)
  have hb := leNat_lt (m.bytes a 4)
  rw [mem_bytes_length] at hb hd
  apply BitVec.eq_of_toNat_eq
  rw [toNat_append_add, dword_lo, dword_lo, Mem.dword, mem_bytes_add m a 4 4]
  simp only [BitVec.toNat_ofNat, leNat_append, mem_bytes_length]
  omega

theorem bar4Read_address (f : Func) {k : Nat} (hk : k < 3) : f.bar4Read (16 * k) = f.bar4.dword (16 * k) := by
  have lo := bar4ReadDword_word f (j := 0) hk (by omega)
  have hi := bar4ReadDword_word f (j := 1) hk (by omega)
  simp only [Nat.mul_zero, Nat.add_zero, Nat.mul_one] at lo hi
  unfold Func.bar4Read
  rw [if_pos (by omega), lo, hi, mem_dword_halves]

theorem bar4Read_data (f : Func) {k : Nat} (hk : k < 3) :
    f.bar4Read (16 * k + 8) = f.bar4ReadDword (16 * k + 12) ++ (f.bar4.dword (16 * k + 8)).extractLsb' 0 32 := by
  unfold Func.bar4Read
  rw [if_pos (by omega), bar4ReadDword_word f (j := 2) hk (by omega)]

theorem bar4Read_data_lo (f : Func) {k : Nat} (hk : k < 3) :
    (f.bar4Read (16 * k + 8)).extractLsb' 0 32 = (f.bar4.dword (16 * k + 8)).extractLsb' 0 32 := by
  rw [bar4Read_data f hk]
  exact BitVec.extractLsb'_append_eq_right

theorem bar4Read_data_mask (f : Func) {k : Nat} (hk : k < 3) : (f.bar4Read (16 * k + 8)).getLsbD 32 = !f.unmasked.getLsbD k := by
  rw [bar4Read_data f hk, bar4ReadDword_control f hk, BitVec.getLsbD_append]
  simp

theorem bar4Read_control (f : Func) {k : Nat} (hk : k < 3) : (f.bar4Read (16 * k + 12)).getLsbD 0 = !f.unmasked.getLsbD k := by
  unfold Func.bar4Read
  rw [if_neg (by omega), bar4ReadDword_control f hk, BitVec.getLsbD_append]
  simp

end

section
/-! PROOFS (O55). Networks that wait, fail and end, and their completion records (R33, R38, R388, R393), and the host's reads (R346). -/

variable {s : State} {fn k : Nat} {n : Net}

/-! ## One network changed -/

/-- `t` is `s` but for network `k`, which is `m`. -/
def NetOnly (s : State) (k : Nat) (t : State) (m : Net) : Prop :=
  t.nets[k]? = some m ∧ (∀ j, j ≠ k → t.nets[j]? = s.nets[j]?) ∧ t = { s with nets := t.nets }

theorem nets_modNet_self (h : s.nets[k]? = some n) (f : Net → Net) : (s.modNet k f).nets[k]? = some (f n) := by
  simp [State.modNet, h]

theorem nets_modNet_ne (s : State) (f : Net → Net) {j : Nat} (h : j ≠ k) : (s.modNet k f).nets[j]? = s.nets[j]? := by
  simp [State.modNet, Ne.symm h]

theorem netOnly_modNet (h : s.nets[k]? = some n) (f : Net → Net) : NetOnly s k (s.modNet k f) (f n) :=
  ⟨nets_modNet_self h f, fun _ hj => nets_modNet_ne s f hj, rfl⟩

/-! ## Validation -/

theorem nextToValidate_net (h : nextToValidate s fn = some (k, n)) : s.nets[k]? = some n := by
  obtain ⟨j, _, hj⟩ := List.exists_of_findSome?_eq_some h
  cases hn : s.nets[j]? with
  | none => simp [hn] at hj
  | some m =>
    simp only [hn, Option.ite_none_right_eq_some, Option.some.injEq, Prod.mk.injEq] at hj
    obtain ⟨-, rfl, rfl⟩ := hj
    exact hn

/-- R33: a queued network is being validated. -/
theorem validating_queued (h : nextToValidate s fn = some (k, n)) (hst : n.st = .queued) :
    ∃ t, exec (.validating fn) s = .next t ∧ NetOnly s k t { n with st := .validating, regions := (n.rec_ s).regions } := by
  refine ⟨_, ?_, netOnly_modNet (nextToValidate_net h) fun n' => { n' with st := .validating, regions := (n.rec_ s).regions }⟩
  simp [execValidating, h, hst]

/-- R34, R394: a network whose record fails a check. -/
theorem validating_rejected (h : nextToValidate s fn = some (k, n)) (hst : n.st = .validating) {c : Nat}
    (hv : validate s fn (n.rec_ s) = some c) :
    ∃ t, exec (.validating fn) s = .next t ∧ NetOnly s k t { n with st := .rejected, reason := c, closing := true } := by
  refine ⟨_, ?_, netOnly_modNet (nextToValidate_net h) fun n => reject n c⟩
  simp [execValidating, h, hst, hv]

/-- R34: a network whose record passes. -/
theorem validating_passes (h : nextToValidate s fn = some (k, n)) (hst : n.st = .validating)
    (hv : validate s fn (n.rec_ s) = none) :
    ∃ t, exec (.validating fn) s = .next t ∧ NetOnly s k t { n.filled (n.rec_ s) with st := .loading } := by
  refine ⟨_, ?_, netOnly_modNet (nextToValidate_net h) fun n' => { n'.filled (n.rec_ s) with st := .loading }⟩
  simp [execValidating, h, hst, hv]

/-! ## Cancel -/

/-- R38: CANCEL with an id of one network. -/
theorem exec_cancel_one {nid : BitVec 32} (h : netsOf s (some fn) nid = [k]) : exec (.cancel fn nid) s = .next (cancelNet s k) := by
  simp [execCancel, h]

/-- R38: the first status stands. -/
theorem nets_setStatus (h : s.nets[k]? = some n) (c : Nat) (e : Option Ending) :
    ∃ m, (setStatus s k c e).nets[k]? = some m ∧ m.status = some (n.status.getD c) ∧ m.st = n.st ∧ m.procs = n.procs := by
  refine ⟨_, nets_modNet_self h _, ?_⟩
  cases hc : n.status with
  | none => exact ⟨rfl, rfl, rfl⟩
  | some d => exact ⟨hc, rfl, rfl⟩

/-- R38, log 37: a network that does not run yet awaits its record. -/
theorem cancelNet_waiting (h : s.nets[k]? = some n) (hst : n.st = .queued ∨ n.st = .validating ∨ n.st = .loading) :
    cancelNet s k = (setStatus s k 4 none).modNet k fun n => { n with st := .bindoff, closing := true } := by
  unfold cancelNet
  rw [h]
  obtain hst | hst | hst := hst
  · simp only [hst]
  · simp only [hst]
  · simp only [hst]

theorem cancel_waiting {nid : BitVec 32} (hk : netsOf s (some fn) nid = [k]) (h : s.nets[k]? = some n)
    (hst : n.st = .queued ∨ n.st = .validating ∨ n.st = .loading) :
    ∃ t, exec (.cancel fn nid) s = .next t ∧ t = { s with nets := t.nets } ∧ (∀ j, j ≠ k → t.nets[j]? = s.nets[j]?) ∧
      ∃ m, t.nets[k]? = some m ∧ m.st = .bindoff ∧ m.closing = true ∧ m.status = some (n.status.getD 4) := by
  obtain ⟨m, hm, hs, -, -⟩ := nets_setStatus h 4 none
  refine ⟨_, (exec_cancel_one hk).trans (congrArg _ (cancelNet_waiting h hst)), rfl, fun j hj => ?_, _, nets_modNet_self hm _, rfl, rfl, hs⟩
  rw [nets_modNet_ne _ _ hj]
  exact nets_modNet_ne s _ hj

/-! ## The completion record -/

theorem dwordBytes_length (l : List Word) : (dwordBytes l).length = 8 * l.length := by
  induction l with
  | nil => rfl
  | cons w l ih =>
    have hc : dwordBytes (w :: l) = natLe w.toNat 8 ++ dwordBytes l := rfl
    rw [hc, List.length_append, natLe_length, ih, List.length_cons]
    omega

/-- R393: the bytes of the completion record of a network. -/
def recordOf (n : Net) (phcount : Nat) (wall : Word) : List Byte :=
  let e := n.ending.getD ⟨0, 0, 0, 0⟩
  let code := if n.st = .rejected then 5 else n.status.getD 0
  dwordBytes [BitVec.ofNat 64 (code + 2 ^ 8 * n.reason + 2 ^ 32 * n.nid.toNat), BitVec.ofNat 64 n.discarded,
    BitVec.ofNat 64 (n.growths % 2 ^ 32 + 2 ^ 32 * (phcount % 2 ^ 32)), BitVec.ofNat 64 (e.pid.toNat + 2 ^ 16 * e.cause.toNat),
    e.pc, e.fword, wall, 0]

theorem completion_eq (n : Net) (phcount : Nat) (wall : Word) : completion n phcount wall = recordOf n phcount wall := by
  unfold completion recordOf
  simp only [beq_iff_eq]

theorem recordOf_length (n : Net) (phcount : Nat) (wall : Word) : (recordOf n phcount wall).length = 64 := dwordBytes_length _

/-- R388, R390: function `f` with a record at the tail of its completion ring, before the vector is raised. -/
def Func.withRecord (f : Func) (bs : List Byte) : Func :=
  { f with staging := f.staging.putBytes (f.cqbase.toNat + 64 * f.cqtail) bs, cqtail := (f.cqtail + 1) % 64 }

/-- R37: a network whose record has been written. -/
def Net.recorded (n : Net) : Net := { n with closing := false, st := if n.st = .bindoff then .retired else n.st }

/-- R388: the state with the record of network `n` in its function's ring. -/
def recordWritten (s : State) (n : Net) : State := ({ s with free := s.free + 1 } : State).modFunc n.tenant fun f =>
  (f.withRecord (recordOf n (s.tenant n.tenant).phcount (Config.freeWord s.free))).raise 0

/-- R388: with a free entry in the ring, a network that awaits its record has it written. -/
theorem writeCompletion_eq (h : s.nets[k]? = some n) (hc : n.closing = true)
    (hr : ringFull (s.func n.tenant).cqhead (s.func n.tenant).cqtail = false) :
    writeCompletion s k = (recordWritten s n).modNet k Net.recorded := by
  unfold writeCompletion
  simp only [h, hc, hr, Bool.not_true, Bool.or_self, Bool.false_eq_true, if_false, beq_iff_eq, completion_eq]
  rfl

theorem func_recordWritten (s : State) (n : Net) : (recordWritten s n).func n.tenant =
    ((s.func n.tenant).withRecord (recordOf n (s.tenant n.tenant).phcount (Config.freeWord s.free))).raise 0 :=
  func_modFunc_self ({ s with free := s.free + 1 } : State) n.tenant _

theorem func_recordWritten_ne (s : State) (n : Net) {j : Nat} (h : j ≠ n.tenant) : (recordWritten s n).func j = s.func j :=
  func_modFunc_ne ({ s with free := s.free + 1 } : State) _ h

/-- R393, log 6: the record is written at the ring's tail, vector 0 raised. -/
theorem completionRecord_writes (h : s.nets[k]? = some n) (hc : n.closing = true)
    (hr : ringFull (s.func n.tenant).cqhead (s.func n.tenant).cqtail = false) :
    let f := s.func n.tenant
    let lo := f.cqbase.toNat + 64 * f.cqtail
    ∃ t, exec (.completionRecord k) s = .next t ∧ t = { s with funcs := t.funcs, nets := t.nets, free := s.free + 1 } ∧
      t.func n.tenant = Func.raise { f with staging := (t.func n.tenant).staging, cqtail := (f.cqtail + 1) % 64 } 0 ∧
      (∀ a, (t.func n.tenant).staging.byte a = if lo ≤ a ∧ a < lo + 64 then
        (recordOf n (s.tenant n.tenant).phcount (Config.freeWord s.free)).getD (a - lo) 0 else f.staging.byte a) ∧
      (∀ j, j ≠ n.tenant → t.func j = s.func j) ∧ (∀ j, j ≠ k → t.nets[j]? = s.nets[j]?) ∧ t.nets[k]? = some n.recorded := by
  intro f lo
  have hst := (func_raise_mems (f.withRecord (recordOf n (s.tenant n.tenant).phcount (Config.freeWord s.free))) 0).1
  refine ⟨(recordWritten s n).modNet k Net.recorded, congrArg _ (writeCompletion_eq h hc hr), rfl, ?_, fun a => ?_,
    fun j hj => func_recordWritten_ne s n hj, fun j hj => nets_modNet_ne _ _ hj, nets_modNet_self h _⟩
  · show (recordWritten s n).func n.tenant = Func.raise { f with staging := ((recordWritten s n).func n.tenant).staging, cqtail := _ } 0
    rw [func_recordWritten, hst]
    rfl
  · show ((recordWritten s n).func n.tenant).staging.byte a = _
    rw [func_recordWritten, hst]
    refine (mem_byte_putBytes _ _ _ _).trans ?_
    rw [recordOf_length]

/-! ## Host reads -/

theorem eng_queue_mapWord (e : Eng) (w : QEntry) (f : QEntry → QEntry) (q : Queue) :
    (e.mapWord w f).queue q = (e.queue q).map fun a => if a.same w then f a else a := by
  cases q with
  | vq | mq | xq => rfl

theorem mem_words_of_queue {e : Eng} {q : Queue} {a : QEntry} (h : a ∈ e.queue q) : a ∈ e.words := by
  unfold Eng.words
  cases q with
  | vq => exact List.mem_append_left _ (List.mem_append_left _ (List.mem_append_left _ h))
  | mq => exact List.mem_append_left _ (List.mem_append_left _ (List.mem_append_right _ h))
  | xq => exact List.mem_append_left _ (List.mem_append_right _ h)

/-- The word that host read `r` answers, with the bytes. -/
def answered (r : HostRead) (data : List Byte) (a : QEntry) : QEntry := { a with prog := { a.prog with host := a.prog.host ++ [(r.num, data)] } }

/-- R346: the slot of a host read after its answer. -/
def answeredSlot (r : HostRead) (data : List Byte) (x : Slot) : Slot :=
  match x.eng.words.find? fun a => a.pos == r.pos && a.sub == r.sub with
  | some w => x.mapWord w (answered r data)
  | none => x

theorem answeredSlot_eng (r : HostRead) (data : List Byte) (x : Slot) :
    answeredSlot r data x = { x with eng := (answeredSlot r data x).eng } := by
  unfold answeredSlot
  split
  · rfl
  · rfl

/-- R346: the words of the read's place are answered, and no other. -/
theorem answeredSlot_queue (r : HostRead) (data : List Byte) (x : Slot) (q : Queue) :
    (answeredSlot r data x).eng.queue q = (x.eng.queue q).map fun a => if a.pos = r.pos ∧ a.sub = r.sub then answered r data a else a := by
  unfold answeredSlot
  split
  · next w hw =>
    have hat : w.pos = r.pos ∧ w.sub = r.sub := by simpa using List.find?_some hw
    refine (eng_queue_mapWord x.eng w _ q).trans (List.map_congr_left fun a _ => ?_)
    simp [QEntry.same, hat]
  · next hw =>
    refine (List.map_id _).symm.trans (List.map_congr_left fun a ha => ?_)
    have := List.find?_eq_none.mp hw a (mem_words_of_queue ha)
    rw [if_neg (by simpa using this)]
    rfl

theorem hostRead_answered {r : HostRead} {rest : List HostRead} {data : List Byte} (h : s.host.reads = r :: rest)
    (hl : data.length = r.len) :
    ∃ t e, exec (.packageHandleHostRead data) s = .next t ∧ t.slot r.slot = { s.slot r.slot with eng := e } ∧
      (∀ j, j ≠ r.slot → t.slot j = s.slot j) ∧ t = { s with slots := t.slots, host := { s.host with reads := rest } } ∧
      ∀ q, e.queue q = ((s.slot r.slot).eng.queue q).map fun a => if a.pos = r.pos ∧ a.sub = r.sub then answered r data a else a := by
  have hd : ((List.range r.len).map fun k => data.getD k 0) = data := by
    refine List.ext_getElem (by simp [hl]) fun i hi _ => ?_
    have hi' : i < data.length := by simpa [hl] using hi
    simp [hi']
  let t : State := ({ s with host := { s.host with reads := rest } } : State).modSlot r.slot (answeredSlot r data)
  have he : exec (.packageHandleHostRead data) s = .next t := by
    simp only [exec_packageHandleHostRead, execPackageHandleHostRead, h, hd]
    rfl
  refine ⟨t, (answeredSlot r data (s.slot r.slot)).eng, he, ?_, fun j hj => slot_modSlot_ne _ _ hj, rfl, answeredSlot_queue r data _⟩
  exact (slot_modSlot_self _ _ _).trans (answeredSlot_eng r data _)

end

section
/-! PROOFS (O55). The end of a running network: its slots stop at their commit points (R38). -/

variable {s u : State} {i k : Nat} {n : Net}

/-! ## A slot asked to stop -/

/-- R38: a slot that has stopped. -/
def Slot.halted (x : Slot) : Slot :=
  { x with id := { x.id with stopped := true }
           eng := { x.eng with vq := [], mq := [], xq := [], out := [], replay := none, hist := [], stores := [], hold := [] }
           gen := { x.gen with wait := .none, heldExit := false, gfault := none, entering := none, preempt := false, verdict := none
                               stopping := false } }

/-- R38: a slot that is to stop at its commit point. -/
def Slot.asked (x : Slot) : Slot := { x with gen := { x.gen with stopping := true } }

/-- R38: a process that has been stopped. -/
def Proc.halt (p : Proc) : Proc := { p with stopped := true }

/-- A slot at its commit point stops at once, its process with it. -/
theorem askStop_resting (h : s.Resting i = true) : askStop s i =
    (s.modSlot i Slot.halted).modNet (s.slot i).id.net fun n => n.modProc (s.slot i).id.pid.toNat Proc.halt := by
  have hidle : (s.slot i).eng.commitPos = none := by
    rw [commitPos_none]
    unfold State.Resting at h
    simp only [Bool.and_eq_true] at h
    exact h.1.1
  unfold askStop
  refine (if_pos h).trans ?_
  unfold stopSlot
  simp only [hidle]
  rfl

theorem askStop_busy (h : s.Resting i = false) : askStop s i = s.modSlot i Slot.asked := by
  unfold askStop
  exact if_neg (by rw [Bool.not_eq_true]; exact h)

theorem resting_congr {j : Nat} (h : u.slot j = s.slot j) : u.Resting j = s.Resting j := by
  unfold State.Resting
  rw [h]

/-! ## All slots of a network asked to stop -/

/-- A process of the network as the stops of the slots that `done` names leave it. -/
def ProcStops (s : State) (done : Nat → Prop) (p q : Proc) : Prop :=
  q = { p with stopped := q.stopped } ∧ ∀ i, done i → s.Resting i = true → (s.slot i).id.pid.toNat = p.pid → q.stopped = true

/-- `u` is `s` with the slots that `done` names, all of network `k`, asked to stop. -/
structure Stops (s u : State) (k : Nat) (n : Net) (done : Nat → Prop) : Prop where
  away : ∀ j, ¬ done j → u.slot j = s.slot j
  ident : ∀ j, (u.slot j).id.net = (s.slot j).id.net ∧ (u.slot j).id.pid = (s.slot j).id.pid
  resting : ∀ j, done j → s.Resting j = true → (u.slot j).id.stopped = true
  busy : ∀ j, done j → s.Resting j = false → (u.slot j).gen.stopping = true ∧ u.Resting j = false
  net : ∃ m, u.nets[k]? = some m ∧ m.status = n.status ∧ m.st = n.st ∧ ∀ q ∈ m.procs, ∃ p ∈ n.procs, ProcStops s done p q

theorem stops_start (h : s.nets[k]? = some n) : Stops s s k n fun _ => False where
  away _ _ := rfl
  ident _ := ⟨rfl, rfl⟩
  resting _ hj := hj.elim
  busy _ hj := hj.elim
  net := ⟨n, h, rfl, rfl, fun q hq => ⟨q, hq, rfl, fun _ hj => hj.elim⟩⟩

variable {done : Nat → Prop}

/-- A slot that rested still rests, unless it has stopped. -/
theorem Stops.resting_of (h : Stops s u k n done) (hr : u.Resting i = true) : s.Resting i = true := by
  by_cases hd : done i
  · by_contra hs
    rw [Bool.not_eq_true] at hs
    exact Bool.false_ne_true ((h.busy i hd hs).2.symm.trans hr)
  · rw [← resting_congr (h.away i hd)]
    exact hr

theorem Stops.halt (h : Stops s u k n done) (hn : (s.slot i).id.net = k) (hr : u.Resting i = true) :
    Stops s (askStop u i) k n fun j => done j ∨ j = i := by
  obtain ⟨hnet, hpid⟩ := h.ident i
  have hs := h.resting_of hr
  rw [askStop_resting hr, hnet, hn, hpid]
  have hself : ((u.modSlot i Slot.halted).modNet k fun n => n.modProc (s.slot i).id.pid.toNat Proc.halt).slot i = (u.slot i).halted :=
    slot_modSlot_self _ _ _
  have hother : ∀ j, j ≠ i →
      ((u.modSlot i Slot.halted).modNet k fun n => n.modProc (s.slot i).id.pid.toNat Proc.halt).slot j = u.slot j :=
    fun j hj => slot_modSlot_ne _ _ hj
  refine ⟨fun j hj => ?_, fun j => ?_, fun j hj hsj => ?_, fun j hj hsj => ?_, ?_⟩
  · rw [hother j fun e => hj (.inr e)]
    exact h.away j fun hd => hj (.inl hd)
  · by_cases hj : j = i
    · subst hj
      rw [hself]
      exact h.ident j
    · rw [hother j hj]
      exact h.ident j
  · by_cases hji : j = i
    · subst hji
      rw [hself]
      rfl
    · rw [hother j hji]
      exact h.resting j (hj.resolve_right hji) hsj
  · have hji : j ≠ i := by
      rintro rfl
      exact Bool.false_ne_true (hsj.symm.trans hs)
    rw [hother j hji, resting_congr (hother j hji)]
    exact h.busy j (hj.resolve_right hji) hsj
  · obtain ⟨m, hm, hstat, hst, hp⟩ := h.net
    refine ⟨_, nets_modNet_self (s := u.modSlot i Slot.halted) hm _, hstat, hst, fun q hq => ?_⟩
    obtain ⟨q', hq', rfl⟩ := List.mem_map.mp hq
    obtain ⟨p, hpn, hpq, hstop⟩ := hp q' hq'
    have hpid' : q'.pid = p.pid := by rw [hpq]
    refine ⟨p, hpn, ?_, fun j hj hrj hpj => ?_⟩
    · split
      · exact (congrArg Proc.halt hpq).trans rfl
      · exact hpq
    · split
      · rfl
      · next hne =>
        refine hstop j (hj.resolve_right ?_) hrj hpj
        rintro rfl
        exact hne (by rw [hpid', ← hpj, beq_self_eq_true])

theorem Stops.ask (h : Stops s u k n done) (hr : u.Resting i = false) : Stops s (askStop u i) k n fun j => done j ∨ j = i := by
  rw [askStop_busy hr]
  have hself : (u.modSlot i Slot.asked).slot i = (u.slot i).asked := slot_modSlot_self _ _ _
  have hother : ∀ j, j ≠ i → (u.modSlot i Slot.asked).slot j = u.slot j := fun j hj => slot_modSlot_ne _ _ hj
  have hstill : (u.modSlot i Slot.asked).Resting i = false := by
    rw [← hr]
    unfold State.Resting
    rw [hself]
    rfl
  have hdone : s.Resting i = true → done i := fun hs => by
    by_contra hd
    rw [resting_congr (h.away i hd), hs] at hr
    exact Bool.false_ne_true hr.symm
  refine ⟨fun j hj => ?_, fun j => ?_, fun j hj hsj => ?_, fun j hj hsj => ?_, ?_⟩
  · rw [hother j fun e => hj (.inr e)]
    exact h.away j fun hd => hj (.inl hd)
  · by_cases hj : j = i
    · subst hj
      rw [hself]
      exact h.ident j
    · rw [hother j hj]
      exact h.ident j
  · by_cases hji : j = i
    · subst hji
      rw [hself]
      exact h.resting j (hdone hsj) hsj
    · rw [hother j hji]
      exact h.resting j (hj.resolve_right hji) hsj
  · by_cases hji : j = i
    · subst hji
      rw [hself]
      exact ⟨rfl, hstill⟩
    · rw [hother j hji, resting_congr (hother j hji)]
      exact h.busy j (hj.resolve_right hji) hsj
  · obtain ⟨m, hm, hstat, hst, hp⟩ := h.net
    refine ⟨m, hm, hstat, hst, fun q hq => ?_⟩
    obtain ⟨p, hpn, hpq, hstop⟩ := hp q hq
    refine ⟨p, hpn, hpq, fun j hj hrj hpj => hstop j (hj.elim id fun e => ?_) hrj hpj⟩
    exact e ▸ hdone (e ▸ hrj)

theorem Stops.askStop (h : Stops s u k n done) (hn : (s.slot i).id.net = k) : Stops s (askStop u i) k n fun j => done j ∨ j = i := by
  cases hr : u.Resting i with
  | true => exact h.halt hn hr
  | false => exact h.ask hr

theorem Stops.askAll (l : List Nat) (h : Stops s u k n done) (hl : ∀ i ∈ l, (s.slot i).id.net = k) :
    Stops s (l.foldl Machine.askStop u) k n fun j => done j ∨ j ∈ l := by
  induction l generalizing u done with
  | nil => simpa using h
  | cons i l ih =>
    have := ih (h.askStop (hl i (by simp))) fun j hj => hl j (by simp [hj])
    simpa only [List.foldl_cons, List.mem_cons, or_assoc] using this

/-! ## A network ended -/

/-- R38: a saved process of a network that ends is stopped. -/
def Proc.haltSaved (p : Proc) : Proc := if p.saved && !p.exited then { p with stopped := true } else p

theorem endNet_eq (s : State) (k c : Nat) (e : Option Ending) : endNet s k c e =
    checkEnd (((netSlots (setStatus s k c e) k).foldl askStop (setStatus s k c e)).modNet k
      fun n => { n with procs := n.procs.map Proc.haltSaved }) k := rfl

theorem checkEnd_slot (s : State) (k i : Nat) : (checkEnd s k).slot i = s.slot i := by
  unfold checkEnd
  split
  · rfl
  · split
    · rfl
    · rfl

/-- R38: a status that a network has stays. -/
theorem checkEnd_status (h : s.nets[k]? = some n) {c : Nat} (hc : n.status = some c) :
    ∃ m, (checkEnd s k).nets[k]? = some m ∧ m.status = some c := by
  unfold checkEnd
  rw [h]
  dsimp only
  split
  · obtain ⟨m, hm, hs, -, -⟩ := nets_setStatus h 0 none
    exact ⟨_, nets_modNet_self hm _, hs.trans (by rw [hc]; rfl)⟩
  · exact ⟨n, h, hc⟩

theorem checkEnd_binds (h : s.nets[k]? = some n) (hst : n.st = .running) (hp : ∀ p ∈ n.procs, p.exited = true ∨ p.stopped = true) :
    ∃ m, (checkEnd s k).nets[k]? = some m ∧ m.st = .bindoff ∧ m.procs = n.procs := by
  have hall : (n.procs.all fun p => p.exited || p.stopped) = true := by simpa using hp
  obtain ⟨m, hm, -, -, hps⟩ := nets_setStatus h 0 none
  unfold checkEnd
  rw [h]
  dsimp only
  rw [if_pos (by simp [hst, hall])]
  exact ⟨_, nets_modNet_self hm _, rfl, hps⟩

theorem mem_netSlots (h : s.nets[k]? = some n) : ∀ i, i ∈ netSlots s k ↔ ∃ p ∈ n.procs, p.saved = false ∧ p.exited = false ∧ p.slotNo = i := by
  intro i
  unfold netSlots
  simp only [h, List.mem_map, List.mem_filter, Bool.and_eq_true, Bool.not_eq_true', Proc.slotNo, and_assoc]

/-- R38: a running network whose processes stand in their slots, ended. -/
theorem endNet_netEnded (h : s.nets[k]? = some n) (hst : n.st = .running) (hp : s.Placed k) (c : Nat) (e : Option Ending) :
    NetEnded s (endNet s k c e) k n c := by
  obtain ⟨m, hm, hms, hmst, hmp⟩ := nets_setStatus h c e
  have hslots : ∀ i, i ∈ netSlots (setStatus s k c e) k ↔ ∃ p ∈ n.procs, p.saved = false ∧ p.exited = false ∧ p.slotNo = i := by
    rw [← hmp]
    exact mem_netSlots hm
  have hstops := Stops.askAll (netSlots (setStatus s k c e) k) (stops_start hm) fun i hi => by
    obtain ⟨p, hpn, hsv, hex, rfl⟩ := (hslots i).mp hi
    exact (hp n h p hpn hsv hex).1
  obtain ⟨w, hw, hws, hwst, hwp⟩ := hstops.net
  have hlast := nets_modNet_self hw fun n => { n with procs := n.procs.map Proc.haltSaved }
  rw [endNet_eq]
  refine ⟨checkEnd_status hlast (hws.trans hms), fun p hpn hsv hex => ?_, fun hrest => ?_⟩
  · have hmem : False ∨ p.slotNo ∈ netSlots (setStatus s k c e) k := .inr ((hslots _).mpr ⟨p, hpn, hsv, hex, rfl⟩)
    rw [checkEnd_slot]
    split
    · next hr => exact hstops.resting p.slotNo hmem hr
    · next hr => exact (hstops.busy p.slotNo hmem (Bool.not_eq_true _ ▸ hr)).1
  · have hall : ∀ q ∈ w.procs.map Proc.haltSaved, q.exited = true ∨ q.stopped = true := fun q hq => by
      obtain ⟨q', hq', rfl⟩ := List.mem_map.mp hq
      obtain ⟨p, hpm, hpq, hstop⟩ := hwp q' hq'
      rw [hmp] at hpm
      have hsv : q'.saved = p.saved := by rw [hpq]
      have hex : q'.exited = p.exited := by rw [hpq]
      unfold Proc.haltSaved
      cases hse : p.exited with
      | true => left; split <;> exact hex.trans hse
      | false =>
        right
        cases hss : p.saved with
        | true => rw [if_pos (by simp [hsv, hex, hse, hss])]
        | false =>
          rw [if_neg (by simp [hsv, hss])]
          exact hstop p.slotNo (.inr ((hslots _).mpr ⟨p, hpm, hss, hse, rfl⟩)) (hrest p hpm hss hse) (hp n h p hpm hss hse).2
    obtain ⟨v, hv, hvst, hvp⟩ := checkEnd_binds hlast (hwst.trans (hmst.trans hst)) hall
    exact ⟨v, hv, hvst, hvp ▸ hall⟩

/-- R38: CANCEL of a running network. -/
theorem cancel_running {fn : Nat} {nid : BitVec 32} (hk : netsOf s (some fn) nid = [k]) (h : s.nets[k]? = some n)
    (hst : n.st = .running) (hp : s.Placed k) : ∃ t, exec (.cancel fn nid) s = .next t ∧ NetEnded s t k n 4 := by
  refine ⟨_, exec_cancel_one hk, ?_⟩
  unfold cancelNet
  rw [h]
  simp only [hst]
  exact endNet_netEnded h hst hp 4 none

end

section
/-! PROOFS (O55). A network binds off: its boundaries and what can still arrive leave the slots' identities and the networks' lives alone;
then its slots, matrix units, regions and what the UALink ports hold of it are given up, and what is left in its channels is counted
(R37, R157, R249, R371). -/

variable {s t u : State} {k : Nat} {n w : Net}

/-! ## Tables that are the same have the same entries -/

theorem slot_congr (h : t.slots = s.slots) (j : Nat) : t.slot j = s.slot j := by unfold State.slot; rw [h]

theorem tile_congr (h : t.tiles = s.tiles) (j : Nat) : t.tile j = s.tile j := by unfold State.tile; rw [h]

theorem region_congr (h : t.regions = s.regions) (j : Nat) : t.region j = s.region j := by unfold State.region; rw [h]

theorem ualPort_congr (h : t.ual = s.ual) (j : Nat) : t.ualPort j = s.ualPort j := by unfold State.ualPort; rw [h]

/-! ## What the boundaries and the arrivals leave alone -/

/-- From `r` to `s` no slot has changed its identity, and no network its life. -/
structure Quiet (r s : State) : Prop where
  ids : ∀ j, (s.slot j).id = (r.slot j).id
  lives : ∀ k : Nat, (s.nets[k]?).map Net.life = (r.nets[k]?).map Net.life

theorem Quiet.refl (s : State) : Quiet s s := ⟨fun _ => rfl, fun _ => rfl⟩

theorem Quiet.same {r : State} (h : Quiet r s) (hs : t.slots = s.slots) (hn : t.nets = s.nets) : Quiet r t where
  ids j := by
    rw [slot_congr hs]
    exact h.ids j
  lives k := by rw [hn]; exact h.lives k

theorem Quiet.modSlot {r : State} (h : Quiet r s) (i : Nat) (f : Slot → Slot) (hf : ∀ x, (f x).id = x.id) : Quiet r (s.modSlot i f) where
  ids j := by
    rw [slot_modSlot]
    split
    · next e => rw [hf, e]; exact h.ids i
    · exact h.ids j
  lives := h.lives

theorem Quiet.modEp {r : State} (h : Quiet r s) (e : Ep) (f : Port → Port) : Quiet r (s.modEp e f) := h.modSlot _ _ fun _ => rfl

theorem Quiet.modTile {r : State} (h : Quiet r s) (i : Nat) (f : Tile → Tile) : Quiet r (s.modTile i f) := h.same rfl rfl

theorem Quiet.modNet {r : State} (h : Quiet r s) (i : Nat) (f : Net → Net) (hf : ∀ n, (f n).life = n.life) : Quiet r (s.modNet i f) where
  ids := h.ids
  lives k := by
    rw [← h.lives k]
    by_cases hk : k = i
    · subst hk
      cases hn : s.nets[k]? with
      | none => simp [State.modNet, hn]
      | some n => simp [nets_modNet_self hn, hf]
    · rw [nets_modNet_ne s f hk]

/-- R335: the stores of a page lie in DRAM and in the host's memory. -/
theorem pageStore_rest (s : State) (l : Word) (off : Nat) (b : Byte) :
    (pageStore s l off b).slots = s.slots ∧ (pageStore s l off b).nets = s.nets := by
  have frame : ∀ (u : State) (tag key : Nat), (frameStore u tag key b).slots = u.slots ∧ (frameStore u tag key b).nets = u.nets := by
    intro u tag key
    unfold frameStore
    dsimp only
    split
    · split
      · exact ⟨rfl, rfl⟩
      · exact ⟨rfl, rfl⟩
    · split
      · exact ⟨rfl, rfl⟩
      · exact ⟨rfl, rfl⟩
  have keep : ∀ (u : State) (o g : Nat), (keepGranule u o g).slots = u.slots ∧ (keepGranule u o g).nets = u.nets := by
    intro u o g
    unfold keepGranule
    split
    · exact ⟨rfl, rfl⟩
    · exact ⟨rfl, rfl⟩
  unfold pageStore
  split
  · obtain ⟨hs, hn⟩ := frame (if Sparse.get 0 s.frames (frameKey l) = 0 then s
      else keepGranule s (Sparse.get 0 s.frames (frameKey l) - 1) (leafKey l off / 256)) (leafTag s l) (leafKey l off)
    refine ⟨hs.trans ?_, hn.trans ?_⟩
    · split
      · rfl
      · exact (keep _ _ _).1
    · split
      · rfl
      · exact (keep _ _ _).2
  · split
    · exact ⟨rfl, rfl⟩
    · exact ⟨rfl, rfl⟩

theorem rawStore_rest (s : State) (tenant va : Nat) (bs : List Byte) :
    (rawStore s tenant va bs).slots = s.slots ∧ (rawStore s tenant va bs).nets = s.nets := by
  induction bs generalizing s va with
  | nil => exact ⟨rfl, rfl⟩
  | cons b bs ih =>
    unfold rawStore
    dsimp only
    split
    · next l _ =>
      split
      · exact ih s _
      · obtain ⟨hs, hn⟩ := ih (pageStore s l (va % 2 ^ 21) b) (va + 1)
        obtain ⟨ps, pn⟩ := pageStore_rest s l (va % 2 ^ 21) b
        exact ⟨hs.trans ps, hn.trans pn⟩
    · exact ih s _

theorem quietInv (r : State) : FabricInv (Quiet r) where
  rest h hs hn _ _ _ := h.same hs hn
  slot h := h.modSlot
  net h := h.modNet
  place h c e st d := by
    unfold placeSlot
    exact (h.modTile _ _).modEp _ _
  store h tenant va bs := h.same (rawStore_rest _ tenant va bs).1 (rawStore_rest _ tenant va bs).2
  event h _ _ := h.same rfl rfl

/-- R37: the network before its channels are counted: its boundaries merged, and what can still arrive delivered. -/
def netDrained (s : State) (k : Nat) (n : Net) : State := n.chans.foldl (fun u c => drainAll u k c.chid) (lastBoundary s k)

theorem netDrained_quiet (s : State) (k : Nat) (n : Net) : Quiet s (netDrained s k n) :=
  (quietInv s).foldl (fun _ _ h => (quietInv s).drainAll h _ _) _ ((quietInv s).lastBoundary (Quiet.refl s) k)

theorem Quiet.life (h : Quiet s u) (hn : s.nets[k]? = some n) (hw : u.nets[k]? = some w) : w.st = n.st ∧ w.status = n.status := by
  have hl := h.lives k
  rw [hn, hw] at hl
  exact Prod.mk.inj (Option.some.inj hl)

/-! ## Folds that establish a fact at one element -/

theorem foldl_reaches {α β : Type} {f : β → α → β} {I Q : β → Prop} (hI : ∀ b a, I b → I (f b a)) (hQ : ∀ b a, Q b → Q (f b a))
    {a : α} (ha : ∀ b, I b → Q (f b a)) {l : List α} (hl : a ∈ l) {b : β} (hb : I b) : Q (l.foldl f b) := by
  induction l generalizing b with
  | nil => exact absurd hl List.not_mem_nil
  | cons c l ih =>
    obtain rfl | hl := List.mem_cons.mp hl
    · exact List.foldlRecOn l f (ha b hb) fun b h c _ => hQ b c h
    · exact ih hl (hI b c hb)

/-! ## What the UALink ports hold -/

theorem sparse_get_absent {β : Type} (d : β) (m : Sparse β) (i : Nat) (h : ∀ p ∈ m, p.1 ≠ i) : Sparse.get d m i = d := by
  induction m with
  | nil => rfl
  | cons p m ih =>
    obtain ⟨j, x⟩ := p
    have hj : j ≠ i := h (j, x) (by simp)
    simp only [Sparse.get, if_neg hj]
    exact ih fun q hq => h q (by simp [hq])

theorem ualPort_modUal (s : State) (i j : Nat) (f : Ual → Ual) :
    (s.modUal i f).ualPort j = if j = i then f (s.ualPort i) else s.ualPort j := sparse_get_set ({} : Ual) s.ual i j _

/-- R157: what one port holds of a network is discarded. -/
def portDropped (k : Nat) (s : State) (p : Nat) : State := s.modUal p fun u => { u with reseq := u.reseq.filter fun m => m.net != k }

theorem dropHeld_eq (s : State) (k : Nat) : dropHeld s k = (s.ual.map (·.1)).foldl (portDropped k) s := rfl

/-- A port that holds nothing of the network. -/
def PortClear (k p : Nat) (s : State) : Prop := ∀ m ∈ (s.ualPort p).reseq, m.net ≠ k

theorem portDropped_clear (k p : Nat) (s : State) : PortClear k p (portDropped k s p) := by
  intro m hm e
  unfold portDropped at hm
  rw [ualPort_modUal, if_pos rfl] at hm
  simp [e] at hm

theorem PortClear.portDropped {p : Nat} (h : PortClear k p s) (i : Nat) : PortClear k p (portDropped k s i) := by
  by_cases hi : p = i
  · subst hi
    exact portDropped_clear k p s
  · intro m hm
    unfold Machine.portDropped at hm
    rw [ualPort_modUal, if_neg hi] at hm
    exact h m hm

/-- R157: after a network's bind-off no port holds a message of it. -/
theorem dropHeld_clear (s : State) (k p : Nat) : PortClear k p (dropHeld s k) := by
  rw [dropHeld_eq]
  by_cases hp : p ∈ s.ual.map (·.1)
  · exact foldl_reaches (I := fun _ => True) (fun _ _ _ => trivial) (fun _ i h => h.portDropped i)
      (fun b _ => portDropped_clear k p b) hp trivial
  · have hnone : s.ualPort p = {} := sparse_get_absent _ _ _ fun q hq e => hp (List.mem_map.mpr ⟨q, hq, e⟩)
    refine List.foldlRecOn _ (portDropped k) (motive := PortClear k p) (fun m hm => ?_) fun b h i _ => h.portDropped i
    rw [hnone] at hm
    exact absurd hm List.not_mem_nil

theorem dropHeld_rest (s : State) (k : Nat) : dropHeld s k = { s with ual := (dropHeld s k).ual } := by
  rw [dropHeld_eq]
  exact List.foldlRecOn (motive := fun b : State => b = { s with ual := b.ual }) _ (portDropped k) rfl
    fun b hb i _ => by rw [hb]; rfl

theorem dropHeld_nets (s : State) (k : Nat) : (dropHeld s k).nets = s.nets := by rw [dropHeld_rest]

theorem dropHeld_slot (s : State) (k j : Nat) : (dropHeld s k).slot j = s.slot j := slot_congr (by rw [dropHeld_rest]) j

theorem dropHeld_region (s : State) (k j : Nat) : (dropHeld s k).region j = s.region j := region_congr (by rw [dropHeld_rest]) j

/-! ## Slots and matrix units -/

/-- R249, R354: one process of a network gives up its slot and its matrix unit. -/
def unloadOne (k : Nat) (s : State) (p : Proc) : State :=
  let s := if (s.region (regionOf p.tile)).runs k && (s.tile p.tile).owner == some p.slot then
      s.modTile p.tile fun t => { t with owner := none } else s
  let x := s.slot p.slotNo
  if p.saved || !x.id.loaded || x.id.net != k then s else
  s.putSlot p.slotNo { pb := x.pb, sb := x.sb, vec := { v := x.vec.v, m := x.vec.m } }

theorem unloadSlots_eq (s : State) (k : Nat) (n : Net) : unloadSlots s k n = n.procs.foldl (unloadOne k) s := rfl

/-- The matrix unit of a process's tile given up, or not. -/
def ownerFreed (k : Nat) (s : State) (p : Proc) : State :=
  if (s.region (regionOf p.tile)).runs k && (s.tile p.tile).owner == some p.slot then s.modTile p.tile fun t => { t with owner := none } else s

theorem ownerFreed_rest (k : Nat) (s : State) (p : Proc) : ownerFreed k s p = { s with tiles := (ownerFreed k s p).tiles } := by
  unfold ownerFreed
  split
  · rfl
  · rfl

/-- The slot of a process given up. -/
def slotFreed (k : Nat) (s : State) (p : Proc) : State :=
  if p.saved || !(s.slot p.slotNo).id.loaded || (s.slot p.slotNo).id.net != k then s else
  s.putSlot p.slotNo { pb := (s.slot p.slotNo).pb, sb := (s.slot p.slotNo).sb, vec := { v := (s.slot p.slotNo).vec.v, m := (s.slot p.slotNo).vec.m } }

theorem unloadOne_eq (k : Nat) (s : State) (p : Proc) : unloadOne k s p = slotFreed k (ownerFreed k s p) p := rfl

theorem slotFreed_rest (k : Nat) (s : State) (p : Proc) : slotFreed k s p = { s with slots := (slotFreed k s p).slots } := by
  unfold slotFreed
  split
  · rfl
  · rfl

theorem unloadOne_rest (k : Nat) (s : State) (p : Proc) :
    unloadOne k s p = { s with slots := (unloadOne k s p).slots, tiles := (unloadOne k s p).tiles } := by
  rw [unloadOne_eq, slotFreed_rest, ownerFreed_rest]

theorem unloadSlots_rest (s : State) (k : Nat) (n : Net) :
    unloadSlots s k n = { s with slots := (unloadSlots s k n).slots, tiles := (unloadSlots s k n).tiles } := by
  rw [unloadSlots_eq]
  exact List.foldlRecOn (motive := fun b : State => b = { s with slots := b.slots, tiles := b.tiles }) n.procs _ rfl
    fun b hb p _ => by rw [unloadOne_rest, hb]

theorem unloadSlots_nets (s : State) (k : Nat) (n : Net) : (unloadSlots s k n).nets = s.nets := by rw [unloadSlots_rest]

theorem unloadSlots_region (s : State) (k : Nat) (n : Net) (j : Nat) : (unloadSlots s k n).region j = s.region j :=
  region_congr (by rw [unloadSlots_rest]) j

theorem unloadSlots_ualPort (s : State) (k : Nat) (n : Net) (j : Nat) : (unloadSlots s k n).ualPort j = s.ualPort j :=
  ualPort_congr (by rw [unloadSlots_rest]) j

/-- A slot is kept, or is free. -/
theorem unloadOne_slot (k : Nat) (s : State) (p : Proc) (j : Nat) :
    (unloadOne k s p).slot j = s.slot j ∨ ((unloadOne k s p).slot j).id.loaded = false := by
  have ho : ∀ i, (ownerFreed k s p).slot i = s.slot i := fun i => by rw [ownerFreed_rest]; rfl
  rw [unloadOne_eq]
  unfold slotFreed
  split
  · exact .inl (ho j)
  · by_cases hj : j = p.slotNo
    · subst hj
      rw [slot_putSlot_self]
      exact .inr rfl
    · rw [slot_putSlot_ne _ _ hj]
      exact .inl (ho j)

theorem unloadOne_frees {p : Proc} (hp : p.saved = false)
    (h : (s.slot p.slotNo).id.loaded = false ∨ (s.slot p.slotNo).id.net = k) : ((unloadOne k s p).slot p.slotNo).id.loaded = false := by
  have ho : (ownerFreed k s p).slot p.slotNo = s.slot p.slotNo := by rw [ownerFreed_rest]; rfl
  rw [unloadOne_eq]
  unfold slotFreed
  split
  · next hc =>
    rw [ho] at hc ⊢
    obtain h | h := h
    · exact h
    · simpa [hp, h] using hc
  · rw [slot_putSlot_self]

/-- R37: the slots of a network's processes are free. -/
theorem unloadSlots_slot {p : Proc} (hp : p ∈ n.procs) (hs : p.saved = false) (h : (s.slot p.slotNo).id.net = k) :
    ((unloadSlots s k n).slot p.slotNo).id.loaded = false := by
  rw [unloadSlots_eq]
  refine foldl_reaches (I := fun b : State => (b.slot p.slotNo).id.loaded = false ∨ (b.slot p.slotNo).id.net = k)
    (Q := fun b : State => (b.slot p.slotNo).id.loaded = false) (fun b q hb => ?_) (fun b q hb => ?_) (fun b hb => unloadOne_frees hs hb) hp (.inr h)
  · obtain e | e := unloadOne_slot k b q p.slotNo
    · rw [e]; exact hb
    · exact .inl e
  · obtain e | e := unloadOne_slot k b q p.slotNo
    · rw [e]; exact hb
    · exact e

/-- A matrix unit keeps its owner, or has none. -/
theorem unloadOne_owner (k : Nat) (s : State) (p : Proc) (j : Nat) :
    ((unloadOne k s p).tile j).owner = (s.tile j).owner ∨ ((unloadOne k s p).tile j).owner = none := by
  rw [unloadOne_eq, slotFreed_rest]
  show ((ownerFreed k s p).tile j).owner = _ ∨ ((ownerFreed k s p).tile j).owner = none
  unfold ownerFreed
  split
  · rw [tile_modTile]
    split
    · exact .inr rfl
    · exact .inl rfl
  · exact .inl rfl

theorem unloadOne_disowns {p : Proc} (h : (s.region (regionOf p.tile)).runs k = true) :
    ((unloadOne k s p).tile p.tile).owner ≠ some p.slot := by
  rw [unloadOne_eq, slotFreed_rest]
  show ((ownerFreed k s p).tile p.tile).owner ≠ some p.slot
  unfold ownerFreed
  split
  · rw [tile_modTile_self]
    exact (Option.some_ne_none _).symm
  · next hc => simpa [h] using hc

/-- R249: where the network is resident, the matrix units have no owner of it. -/
theorem unloadSlots_owner {p : Proc} (hp : p ∈ n.procs) (h : (s.region (regionOf p.tile)).runs k = true) :
    ((unloadSlots s k n).tile p.tile).owner ≠ some p.slot := by
  rw [unloadSlots_eq]
  refine foldl_reaches (I := fun b : State => (b.region (regionOf p.tile)).runs k = true) (Q := fun b : State => (b.tile p.tile).owner ≠ some p.slot)
    (fun b q hb => ?_) (fun b q hb => ?_) (fun b hb => unloadOne_disowns hb) hp h
  · rw [unloadOne_rest]; exact hb
  · obtain e | e := unloadOne_owner k b q p.tile
    · rw [e]; exact hb
    · rw [e]; exact (Option.some_ne_none _).symm

/-! ## Regions -/

/-- R371: a region that a network gives up. -/
def regionFreed (k : Nat) (s : State) (j : Nat) : State :=
  if (s.region j).ctxs.any fun c => c.net == some k then
    s.modRegion j fun g => { g with
      st := if g.st == .running && g.runs k then .assigned else g.st
      ctxs := g.ctxs.map fun c => if c.net == some k then { c with net := none } else c }
  else s

theorem freeRegions_eq (s : State) (k : Nat) : freeRegions s k = (List.range 16).foldl (regionFreed k) s := rfl

theorem freeRegions_rest (s : State) (k : Nat) : freeRegions s k = { s with regions := (freeRegions s k).regions } := by
  rw [freeRegions_eq]
  refine List.foldlRecOn (motive := fun b : State => b = { s with regions := b.regions }) _ _ rfl fun b hb j _ => ?_
  unfold regionFreed
  split
  · rw [hb]; rfl
  · exact hb

theorem freeRegions_nets (s : State) (k : Nat) : (freeRegions s k).nets = s.nets := by rw [freeRegions_rest]

theorem freeRegions_slot (s : State) (k j : Nat) : (freeRegions s k).slot j = s.slot j := slot_congr (by rw [freeRegions_rest]) j

theorem freeRegions_tile (s : State) (k j : Nat) : (freeRegions s k).tile j = s.tile j := tile_congr (by rw [freeRegions_rest]) j

theorem freeRegions_ualPort (s : State) (k j : Nat) : (freeRegions s k).ualPort j = s.ualPort j := ualPort_congr (by rw [freeRegions_rest]) j

theorem regionFreed_assigned {b : State} {r : Nat} (j : Nat) (h : (b.region r).st = .assigned) : ((regionFreed k b j).region r).st = .assigned := by
  unfold regionFreed
  split
  · rw [region_modRegion]
    split
    · next e =>
      subst e
      simp [h]
    · exact h
  · exact h

/-- R371: the regions that run the network are ASSIGNED. -/
theorem freeRegions_region {r : Nat} (hr : r < 16) (hst : (s.region r).st = .running) (hk : (s.region r).runs k = true) :
    ((freeRegions s k).region r).st = .assigned := by
  have hany : ((s.region r).ctxs.any fun c => c.net == some k) = true := by
    obtain ⟨c, hc, h⟩ := List.any_eq_true.mp hk
    refine List.any_eq_true.mpr ⟨c, hc, ?_⟩
    simp only [Bool.and_eq_true] at h
    exact h.2
  rw [freeRegions_eq]
  refine foldl_reaches (I := fun b : State => (b.region r).st = .assigned ∨ b.region r = s.region r) (Q := fun b : State => (b.region r).st = .assigned)
    (fun b j hb => ?_) (fun b j hb => regionFreed_assigned j hb) (fun b hb => ?_) (List.mem_range.mpr hr) (.inr rfl)
  · obtain hb | hb := hb
    · exact .inl (regionFreed_assigned j hb)
    · unfold regionFreed
      split
      · rw [region_modRegion]
        split
        · next e =>
          subst e
          left
          simp [hb, hst, hk]
        · exact .inr hb
      · exact .inr hb
  · obtain hb | hb := hb
    · exact regionFreed_assigned r hb
    · unfold regionFreed
      rw [hb, if_pos hany, region_modRegion, if_pos rfl, hb]
      simp [hst, hk]

end

section
/-! PROOFS (O55). What is left in the channels of a network that binds off, and the bind-off as a whole (R37, R157, R320). -/

variable {s u : State} {k : Nat} {n w : Net}

/-! ## The slots left in a channel -/

/-- R320: the contributions that an input of a tree node stands for. -/
def inputsOf (c : Chan) (lvl j : Nat) : Nat := (List.range c.writers.length).countP fun i => i / 2 ^ lvl == j

/-- What has arrived at reader `r` of a channel, at endpoint `e`, and has not been read. -/
def unreadOf (u : State) (k : Nat) (w : Net) (c : Chan) (r : Nat) (e : Ep) : Nat :=
  let p := u.epPort e
  let kept := Sparse.get [] c.kept (2 * r)
  if e.remote then 0
  else if w.procs.any fun q => q.saved && q.tile == e.tile && q.slot == e.slot then kept.getD 4 0 - kept.getD 5 0
  else if p.bound ∧ p.net = k ∧ p.ch = c.chid then p.arr.sum - (if c.mirror then 2 * p.kc else p.kc) else 0

/-- R157: what the UALink ports hold of a channel. -/
def queuedOf (u : State) (k : Nat) (c : Chan) : Nat := (u.ual.map fun (_, q) =>
  ((((q.reseq.filter fun m => m.net == k && m.chid == c.chid).map fun m => (m.src, m.seq, m.count)).eraseDups).map fun (src, _, l) =>
    if c.reduce = true ∧ c.endpt = false ∧ l < treeLevels c.writers.length then inputsOf c l (src / 2 ^ l)
    else (c.readers.filter fun e => !e.remote).length).sum).sum

/-- R37: the slots left in a channel. -/
def leftOf (u : State) (k : Nat) (w : Net) (c : Chan) : Nat :=
  ((c.transit.filter fun p => p.kind == .slot).map fun p => match p.node with | some (l, j) => inputsOf c l j | none => 1).sum +
  c.skein.length + (c.nodes.map fun x => inputsOf c x.lvl x.num).sum + queuedOf u k c +
  ((List.range c.readers.length).map fun r => match c.readers[r]? with | some e => unreadOf u k w c r e | none => 0).sum

theorem below_length (c : Chan) (lvl j : Nat) : (c.below lvl j).length = inputsOf c lvl j := List.countP_eq_length_filter.symm

theorem slotsOf_some (c : Chan) (lvl j : Nat) : c.slotsOf (some (lvl, j)) = inputsOf c lvl j := below_length c lvl j

theorem slotsHeld_eq (u : State) (k : Nat) (c : Chan) : slotsHeld u k c = queuedOf u k c := by
  unfold slotsHeld queuedOf
  simp only [slotsOf_some, Bool.and_eq_true, Bool.not_eq_true', decide_eq_true_eq, and_assoc]

theorem slotsIn_eq (u : State) (k : Nat) (w : Net) (c : Chan) : slotsIn u k w c = leftOf u k w c := by
  have hroute : ∀ p : Pkt, c.slotsOf p.node = match p.node with | some (l, j) => inputsOf c l j | none => 1 := by
    intro p
    cases p.node with
    | none => rfl
    | some x => exact slotsOf_some c x.1 x.2
  unfold slotsIn leftOf
  simp only [hroute, slotsOf_some, slotsHeld_eq]
  rw [Nat.add_right_comm]
  refine congrArg (HAdd.hAdd _) (congrArg List.sum (List.map_congr_left fun r _ => ?_))
  cases c.readers[r]? with
  | none => rfl
  | some e => simp only [unreadOf, Port.unread, Bool.and_eq_true, beq_iff_eq, and_assoc]

/-! ## The bind-off -/

/-- R37: a network that has bound off, with `lost` slots left in its channels. -/
def Net.boundOff (n : Net) (lost : Nat) : Net :=
  { n with discarded := n.discarded + lost, skeinUsed := 0, chans := [], groups := [], versions := [], base := [], closing := true }

/-- R37: what a network that binds off gives up. -/
def givenUp (u : State) (k : Nat) (n : Net) : State := freeRegions (unloadSlots (dropHeld u k) k n) k

theorem bindOff_eq (h : s.nets[k]? = some n) (hst : n.st = .bindoff) (hc : n.closing = false) (hu : netDrained s k n = u)
    (hw : u.nets[k]? = some w) :
    exec (.bindOff k) s = .next ((givenUp u k n).modNet k fun m => m.boundOff (w.chans.map (slotsIn u k w)).sum) := by
  unfold netDrained at hu
  rw [exec_bindOff]
  unfold execBindOff
  simp only [h, hst, hc, hu, hw, reduceCtorEq, beq_iff_eq, bne_self_eq_false, Bool.or_self, Bool.false_eq_true, if_false]
  rfl

theorem givenUp_nets (u : State) (k : Nat) (n : Net) : (givenUp u k n).nets = u.nets := by
  unfold givenUp
  rw [freeRegions_nets, unloadSlots_nets, dropHeld_nets]

theorem givenUp_slot (u : State) {p : Proc} (hp : p ∈ n.procs) (hs : p.saved = false) (h : (u.slot p.slotNo).id.net = k) :
    ((givenUp u k n).slot p.slotNo).id.loaded = false := by
  unfold givenUp
  rw [freeRegions_slot]
  exact unloadSlots_slot hp hs (by rw [dropHeld_slot]; exact h)

theorem givenUp_owner (u : State) {p : Proc} (hp : p ∈ n.procs) (h : (u.region (regionOf p.tile)).runs k = true) :
    ((givenUp u k n).tile p.tile).owner ≠ some p.slot := by
  unfold givenUp
  rw [freeRegions_tile]
  exact unloadSlots_owner hp (by rw [dropHeld_region]; exact h)

theorem givenUp_region (u : State) (n : Net) {r : Nat} (hr : r < 16) (hst : (u.region r).st = .running) (hk : (u.region r).runs k = true) :
    ((givenUp u k n).region r).st = .assigned := by
  have hd : (unloadSlots (dropHeld u k) k n).region r = u.region r := by rw [unloadSlots_region, dropHeld_region]
  exact freeRegions_region hr (by rw [hd]; exact hst) (by rw [hd]; exact hk)

theorem givenUp_clear (u : State) (k : Nat) (n : Net) (p : Nat) : PortClear k p (givenUp u k n) := by
  unfold PortClear givenUp
  rw [freeRegions_ualPort, unloadSlots_ualPort]
  exact dropHeld_clear u k p

/-- R37: the bind-off of a network whose record is not yet to be written. -/
theorem bindOff_result (h : s.nets[k]? = some n) (hst : n.st = .bindoff) (hc : n.closing = false)
    (hu : netDrained s k n = u) (hw : u.nets[k]? = some w) :
    ∃ t m, exec (.bindOff k) s = .next t ∧ t.nets[k]? = some m ∧ m.closing = true ∧ m.chans = [] ∧ m.groups = [] ∧ m.versions = [] ∧
      m.skeinUsed = 0 ∧ m.st = .bindoff ∧ m.status = n.status ∧ m.discarded = w.discarded + (w.chans.map (leftOf u k w)).sum ∧
      (∀ p ∈ n.procs, p.saved = false → (s.slot p.slotNo).id.net = k → (t.slot p.slotNo).id.loaded = false) ∧
      (∀ p ∈ n.procs, (u.region (regionOf p.tile)).runs k = true → (t.tile p.tile).owner ≠ some p.slot) ∧
      (∀ r, r < 16 → (u.region r).st = .running → (u.region r).runs k = true → (t.region r).st = .assigned) ∧
      ∀ p, ∀ m ∈ (t.ualPort p).reseq, m.net ≠ k := by
  have hq : Quiet s u := hu ▸ netDrained_quiet s k n
  obtain ⟨hwst, hwstatus⟩ := hq.life h hw
  have hnet : (givenUp u k n).nets[k]? = some w := by rw [givenUp_nets]; exact hw
  have hlost : (w.chans.map (slotsIn u k w)).sum = (w.chans.map (leftOf u k w)).sum :=
    congrArg List.sum (List.map_congr_left fun c _ => slotsIn_eq u k w c)
  refine ⟨_, _, bindOff_eq h hst hc hu hw, nets_modNet_self hnet _, rfl, rfl, rfl, rfl, rfl, hwst.trans hst, hwstatus,
    congrArg (w.discarded + ·) hlost, fun p hp hsv hid => ?_, fun p hp hrun => ?_, fun r hr hrun hres => ?_, fun p => ?_⟩
  · rw [modNet_slot]
    exact givenUp_slot u hp hsv (by rw [hq.ids]; exact hid)
  · rw [modNet_tile]
    exact givenUp_owner u hp hrun
  · rw [modNet_region]
    exact givenUp_region u n hr hrun hres
  · rw [modNet_ualPort]
    exact givenUp_clear u k n p

end

section
/-! PROOFS (O55). The reset of a function that holds nothing (R371, R373). -/

variable {s b : State} {fn : Nat}

/-! ## Steps of a fold that do nothing -/

theorem foldl_idle {α : Type} {f : State → α → State} (l : List α) (h : ∀ a ∈ l, f s a = s) : l.foldl f s = s := by
  induction l with
  | nil => rfl
  | cons a l ih => rw [List.foldl_cons, h a (by simp), ih fun c hc => h c (by simp [hc])]

/-! ## The contexts of the function -/

theorem heldBy_away {g : Region} (h : g.heldBy fn = false) : (∀ c ∈ g.ctxs, c.tenant ≠ fn) ∧ (g.st != .free && g.tenant == fn) = false := by
  unfold Region.heldBy at h
  simp only [Bool.or_eq_false_iff] at h
  exact ⟨fun c hc => by simpa using List.any_eq_false.mp h.1 c hc, h.2⟩

/-- R373: with no context of the function in the region, none is dropped. -/
theorem dropAway_eq {r : Nat} (h : ∀ c ∈ (b.region r).ctxs, c.tenant ≠ fn) : dropAway b fn r = b.modRegion r id := by
  have hgone : ((b.region r).ctxs.filter fun c => c.tenant == fn && !((b.region r).tenant == c.tenant && (b.region r).ctag == c.ctag)) = [] :=
    List.filter_eq_nil_iff.mpr fun c hc => by simp [h c hc]
  have hno : (b.region r).switching.any ([] : List Context).contains = false := by cases (b.region r).switching <;> rfl
  unfold dropAway
  simp only [hgone, hno, List.contains_nil, Bool.false_eq_true, if_false, List.foldl_nil, Bool.not_false, List.filter_true]
  rfl

/-- `b` is `s` but for the table of the regions, whose entries are the same. -/
def SameRegions (s b : State) : Prop := b = { s with regions := b.regions } ∧ ∀ r, b.region r = s.region r

theorem dropAways_same (h : ∀ r, r < 16 → (s.region r).heldBy fn = false) :
    SameRegions s ((List.range 16).foldl (fun s r => dropAway s fn r) s) := by
  refine List.foldlRecOn (motive := SameRegions s) _ _ ⟨rfl, fun _ => rfl⟩ fun b hb r hr => ?_
  obtain ⟨he, hreg⟩ := hb
  have hctx := (heldBy_away (h r (List.mem_range.mp hr))).1
  rw [dropAway_eq (by rw [hreg]; exact hctx)]
  refine ⟨by rw [he]; rfl, fun j => ?_⟩
  rw [region_modRegion]
  split
  · next e => rw [id, hreg, e]
  · exact hreg j

/-! ## The networks and the page requests of the function -/

theorem cancelQueued_idle (hn : ∀ n ∈ s.nets, n.tenant ≠ fn) (hq : ringCount (s.func fn) = 0) : cancelQueued s fn = s := by
  unfold cancelQueued
  rw [takeEntries_none hq]
  refine foldl_idle _ fun k _ => if_neg ?_
  cases hk : s.nets[k]? with
  | none => simp
  | some n => simp [hn n (List.mem_of_getElem? hk)]

/-- R283: the admission of page requests keeps every request. -/
theorem admitPages_tenant {P : Nat → Prop} (h : ∀ p ∈ s.pages, P p.tenant) : ∀ p ∈ (admitPages s).pages, P p.tenant := by
  have add : ∀ (l : List PageReq) (q q' : PageReq), (∀ p ∈ l, P p.tenant) → P q.tenant → q'.tenant = q.tenant → ∀ p ∈ l ++ [q'], P p.tenant := by
    intro l q q' hl hq he p hp
    obtain hp | hp := List.mem_append.mp hp
    · exact hl p hp
    · rw [List.mem_singleton.mp hp, he]
      exact hq
  refine List.foldlRecOn (motive := fun l : List PageReq => ∀ p ∈ l, P p.tenant) s.pages _ (fun p hp => absurd hp List.not_mem_nil) fun l hl q hq => ?_
  split
  · exact add l q _ hl (h q hq) rfl
  · dsimp only
    split
    · exact add l q _ hl (h q hq) rfl
    · split
      · exact add l q _ hl (h q hq) rfl
      · exact add l q _ hl (h q hq) rfl

/-! ## The end of the reset -/

/-- R373: one function's reset ends, unless a region of it is still being reset. -/
def resetEnds (s : State) (k : Nat) : State :=
  if (List.range 16).any (fun r => (s.region r).st == .reset && (s.region r).tenant == k) then s
  else s.modFunc k fun f => { f with resetting := false }

theorem resettingDone_eq (s : State) : resettingDone s = (List.range 17).foldl resetEnds s := rfl

theorem resettingDone_rest (s : State) : resettingDone s = { s with funcs := (resettingDone s).funcs } := by
  rw [resettingDone_eq]
  refine List.foldlRecOn (motive := fun b : State => b = { s with funcs := b.funcs }) _ _ rfl fun b hb k _ => ?_
  unfold resetEnds
  split
  · exact hb
  · rw [hb]; rfl

/-- R373: a function that holds no region ends its reset. -/
theorem resettingDone_func (hfn : fn ≤ 16) (h : ∀ r, r < 16 → (s.region r).heldBy fn = false) :
    (resettingDone s).func fn = { s.func fn with resetting := false } := by
  have step : ∀ (b : State) (k j : Nat), (∀ r, b.region r = s.region r) → (∀ r, (resetEnds b k).region r = s.region r) ∧
      ((resetEnds b k).func j = b.func j ∨ (resetEnds b k).func j = { b.func j with resetting := false }) := by
    intro b k j hb
    unfold resetEnds
    split
    · exact ⟨hb, .inl rfl⟩
    · refine ⟨hb, ?_⟩
      by_cases hj : j = k
      · subst hj
        exact .inr (func_modFunc_self _ _ _)
      · exact .inl (func_modFunc_ne _ _ hj)
  rw [resettingDone_eq]
  refine (foldl_reaches
    (I := fun b : State => (∀ r, b.region r = s.region r) ∧ (b.func fn = s.func fn ∨ b.func fn = { s.func fn with resetting := false }))
    (Q := fun b : State => (∀ r, b.region r = s.region r) ∧ b.func fn = { s.func fn with resetting := false })
    (fun b k hb => ?_) (fun b k hb => ?_) (fun b hb => ?_) (List.mem_range.mpr (by omega : fn < 17)) ⟨fun _ => rfl, .inl rfl⟩).2
  · obtain ⟨hr, hf⟩ := hb
    obtain ⟨hr', e | e⟩ := step b k fn hr
    · exact ⟨hr', by rw [e]; exact hf⟩
    · refine ⟨hr', .inr ?_⟩
      obtain hf | hf := hf
      · rw [e, hf]
      · rw [e, hf]
  · obtain ⟨hr, hf⟩ := hb
    obtain ⟨hr', e | e⟩ := step b k fn hr
    · exact ⟨hr', by rw [e]; exact hf⟩
    · exact ⟨hr', by rw [e, hf]⟩
  · obtain ⟨hr, hf⟩ := hb
    have hnone : ¬ ((List.range 16).any (fun r => (b.region r).st == .reset && (b.region r).tenant == fn)) = true := by
      rw [Bool.not_eq_true, List.any_eq_false]
      intro r hr16
      have hh := (heldBy_away (h r (List.mem_range.mp hr16))).2
      rw [hr]
      intro hc
      simp only [Bool.and_eq_true, beq_iff_eq] at hc
      simp [hc] at hh
    refine ⟨(step b fn fn hr).1, ?_⟩
    unfold resetEnds
    rw [if_neg hnone, func_modFunc_self]
    obtain hf | hf := hf
    · rw [hf]
    · rw [hf]

/-! ## The reset -/

/-- R373: the registers of a function after its reset has begun. -/
def Func.cleared (f : Func) : Func :=
  { ready := f.ready, staging := f.staging, msix := f.msix, msgs := f.msgs, mailbox := f.mailbox, resetting := true }

/-- R373: the tenant's registers, its buckets and its page requests cleared. -/
def tenantCleared (s : State) (fn : Nat) : State :=
  let s := s.modTenant fn fun t => { troot := t.troot, rect := t.rect }
  let s := { s with buckets := s.buckets.filter fun b => b.1 % 32 != fn }
  admitPages { s with pages := s.pages.filter fun p => p.tenant != fn }

theorem vfReset_eq (h1 : 1 ≤ fn) (h16 : fn ≤ 16) (h : ∀ r, r < 16 → (s.region r).heldBy fn = false) :
    exec (.vfReset fn) s = .next (resettingDone (dropRect ((cancelQueued (tenantCleared
      ((List.range 16).foldl (fun s r => dropAway s fn r) s) fn) fn).modFunc fn Func.cleared) fn)) := by
  have hreset : (List.range 16).foldl (fun s r =>
      if (s.region r).st != .free && (s.region r).tenant == fn then resetRegion s r else s) s = s :=
    foldl_idle _ fun r hr => if_neg (by rw [(heldBy_away (h r (List.mem_range.mp hr))).2]; exact Bool.false_ne_true)
  rw [exec_vfReset]
  unfold execVfReset
  rw [if_neg (by omega), hreset]
  rfl

theorem dropRect_eq (h : ∀ r, r < 16 → (s.region r).heldBy fn = false) : dropRect s fn = s.modTenant fn fun x => { x with rect := none } := by
  unfold dropRect
  refine if_neg ?_
  rw [Bool.not_eq_true, List.any_eq_false]
  exact fun r hr => by rw [h r (List.mem_range.mp hr)]; exact Bool.false_ne_true

theorem resettingDone_slots (s : State) : (resettingDone s).slots = s.slots := by rw [resettingDone_rest]

theorem resettingDone_tiles (s : State) : (resettingDone s).tiles = s.tiles := by rw [resettingDone_rest]

theorem resettingDone_nets (s : State) : (resettingDone s).nets = s.nets := by rw [resettingDone_rest]

theorem resettingDone_buckets (s : State) : (resettingDone s).buckets = s.buckets := by rw [resettingDone_rest]

theorem resettingDone_pages (s : State) : (resettingDone s).pages = s.pages := by rw [resettingDone_rest]

theorem tenantCleared_slots (s : State) (fn : Nat) : (tenantCleared s fn).slots = s.slots := rfl

theorem tenantCleared_tiles (s : State) (fn : Nat) : (tenantCleared s fn).tiles = s.tiles := rfl

theorem tenantCleared_nets (s : State) (fn : Nat) : (tenantCleared s fn).nets = s.nets := rfl

theorem tenant_resettingDone (s : State) (j : Nat) : (resettingDone s).tenant j = s.tenant j := by
  have ht : (resettingDone s).tenants = s.tenants := by rw [resettingDone_rest]
  unfold State.tenant
  rw [ht]

theorem tenantCleared_tenant (s : State) (fn : Nat) :
    (tenantCleared s fn).tenant fn = { troot := (s.tenant fn).troot, rect := (s.tenant fn).rect } := by
  show (s.modTenant fn fun t => { troot := t.troot, rect := t.rect }).tenant fn = _
  rw [tenant_modTenant, if_pos rfl]

theorem tenantCleared_buckets (s : State) (fn : Nat) : ∀ b ∈ (tenantCleared s fn).buckets, b.1 % 32 ≠ fn := by
  intro b hb
  obtain ⟨-, h⟩ := List.mem_filter.mp (hb : b ∈ s.buckets.filter fun b => b.1 % 32 != fn)
  simpa using h

theorem tenantCleared_pages (s : State) (fn : Nat) : ∀ p ∈ (tenantCleared s fn).pages, p.tenant ≠ fn := by
  unfold tenantCleared
  refine admitPages_tenant (P := fun t => t ≠ fn) fun p hp => ?_
  obtain ⟨-, h⟩ := List.mem_filter.mp (hp : p ∈ s.pages.filter fun p => p.tenant != fn)
  simpa using h

/-- R373: the reset of a function that holds nothing. -/
theorem vfReset_result (h1 : 1 ≤ fn) (h16 : fn ≤ 16) (h : ∀ r, r < 16 → (s.region r).heldBy fn = false)
    (hn : ∀ n ∈ s.nets, n.tenant ≠ fn) (hq : ringCount (s.func fn) = 0) :
    ∃ t, exec (.vfReset fn) s = .next t ∧ t.func fn = { (s.func fn).cleared with resetting := false } ∧
      t.tenant fn = { troot := (s.tenant fn).troot } ∧ t.slots = s.slots ∧ t.tiles = s.tiles ∧ t.nets = s.nets ∧
      (∀ b ∈ t.buckets, b.1 % 32 ≠ fn) ∧ ∀ p ∈ t.pages, p.tenant ≠ fn := by
  obtain ⟨v, hv⟩ : ∃ v, (List.range 16).foldl (fun s r => dropAway s fn r) s = v := ⟨_, rfl⟩
  obtain ⟨hrest, hreg⟩ : SameRegions s v := hv ▸ dropAways_same h
  have hslots : v.slots = s.slots := by rw [hrest]
  have htiles : v.tiles = s.tiles := by rw [hrest]
  have hnets : v.nets = s.nets := by rw [hrest]
  have hfunc : v.func fn = s.func fn := by rw [hrest]; rfl
  have htenant : v.tenant fn = s.tenant fn := by rw [hrest]; rfl
  have hc : cancelQueued (tenantCleared v fn) fn = tenantCleared v fn :=
    cancelQueued_idle (fun n hm => hn n (hnets ▸ hm)) (by rw [← hfunc] at hq; exact hq)
  obtain ⟨w, hw⟩ : ∃ w, tenantCleared v fn = w := ⟨_, rfl⟩
  have hwreg : ∀ r, w.region r = s.region r := fun r => by rw [← hw]; exact hreg r
  have hwfunc : w.func fn = s.func fn := by rw [← hw]; exact hfunc
  have hwtenant : w.tenant fn = { troot := (s.tenant fn).troot, rect := (s.tenant fn).rect } := by
    rw [← hw, tenantCleared_tenant, htenant]
  have hheld : ∀ r, r < 16 → ((w.modFunc fn Func.cleared).region r).heldBy fn = false := fun r hr => by
    rw [modFunc_region, hwreg]
    exact h r hr
  have hlast : ∀ r, r < 16 →
      (((w.modFunc fn Func.cleared).modTenant fn fun x => { x with rect := none }).region r).heldBy fn = false := hheld
  have he := vfReset_eq h1 h16 h
  rw [hv, hc, hw, dropRect_eq hheld] at he
  refine ⟨_, he, ?_, ?_, ?_, ?_, ?_, ?_, ?_⟩
  · rw [resettingDone_func h16 hlast, modTenant_func, func_modFunc_self, hwfunc]
  · rw [tenant_resettingDone, tenant_modTenant, if_pos rfl, modFunc_tenant, hwtenant]
  · rw [resettingDone_slots, modTenant_slots, modFunc_slots, ← hw, tenantCleared_slots, hslots]
  · rw [resettingDone_tiles, modTenant_tiles, modFunc_tiles, ← hw, tenantCleared_tiles, htiles]
  · rw [resettingDone_nets, modTenant_nets, modFunc_nets, ← hw, tenantCleared_nets, hnets]
  · rw [resettingDone_buckets, modTenant_buckets, modFunc_buckets, ← hw]
    exact tenantCleared_buckets v fn
  · rw [resettingDone_pages, modTenant_pages, modFunc_pages, ← hw]
    exact tenantCleared_pages v fn

end

section
/-! PROOFS (O55). The host's events, together. -/

/-- Settles O55: function by function, network by network, from the lemmas about each host event. -/
theorem hostEventResults : Obligations.HostEventResults := by
  unfold Obligations.HostEventResults
  intro s fn f funcOnly count sent raised
  refine ⟨fun hfn hr => ?_, fun hw hd => deferredWake_ends hw hd, fun k n hv => ?_, fun nid k n hk hn => ?_,
    fun k n w hn hst hc => ?_, fun k n hn ht hc hring => ?_, fun r rest data hreads hl => hostRead_answered hreads hl,
    fun h1 h16 hheld hnets hq hlt => ?_⟩
  · have hs := hostSees_of_ready hfn hr
    refine ⟨doorbell_takes hs, fun hw => ⟨_, doorbell_window hs hw, funcOnly_modFunc _⟩, evheadWrite_moves hs, cqheadWrite_moves hs,
      fun v => ?_, ?_⟩
    · refine ⟨hostPuts_vfstat hs v, hostPuts_lqbase hs v, hostPuts_lqtail hs v, hostPuts_cqbase hs v, hostPuts_evbase hs v,
        hostPuts_evhead hs v, hostPuts_readOnly hs v, fun off => hostPuts_half hs v, fun off => hostPuts_staging4 hs v,
        fun off => hostPuts_staging hs v, fun off => hostPuts_config_pos hs v, hostPuts_msixControl hs v, fun k hk => ?_⟩
      exact ⟨hostPuts_address hs v hk, (hostPuts_data hs v hk).congr (maskEntry_eq _ _ hk), hostPuts_addressHigh hs v hk,
        (hostPuts_control hs v hk).congr (maskEntry_eq _ _ hk), (hostPuts_control4 hs v hk).congr (maskEntry_eq _ _ hk),
        fun j hj => hostPuts_word4 hs v hk hj⟩
    · have rd : ∀ off, off < 0x800 → hostRead s fn off = f.bar0Read off := fun _ => hostRead_bar0 hs
      have rd4 : ∀ off, off < 2 ^ 29 → hostRead s fn (2 ^ 29 + off) = f.bar4Read off := fun _ => hostRead_bar4 hs
      have evbase := rd 0x038 (by decide)
      refine ⟨(rd 0x000 (by decide)).trans (bar0Read_vfstat f), rd 0x008 (by decide), rd 0x010 (by decide), rd 0x018 (by decide),
        rd 0x020 (by decide), rd 0x028 (by decide), rd 0x030 (by decide), ?_, ?_, rd 0x040 (by decide), rd 0x048 (by decide),
        rd 0x050 (by decide), fun off => hostRead_staging hs, (rd4 0x800 (by decide)).trans (bar4Read_pba f),
        fun off ho h4 => (rd off ho).trans (bar0Read_half f h4), fun k hk => ?_, fun k hk => ⟨?_, ?_, ?_, ?_⟩⟩
      · exact evbase ▸ (bar0Read_evbase f).1
      · exact evbase ▸ (bar0Read_evbase f).2
      · exact (congrArg (BitVec.getLsbD · k) (hostRead_config hs)).trans (configRead_bits f hk)
      · exact (rd4 _ (by omega)).trans (bar4Read_address f hk)
      · exact (congrArg (BitVec.extractLsb' 0 32) ((congrArg _ (Nat.add_assoc ..)).trans (rd4 _ (by omega)))).trans (bar4Read_data_lo f hk)
      · exact (congrArg (BitVec.getLsbD · 32) ((congrArg _ (Nat.add_assoc ..)).trans (rd4 _ (by omega)))).trans (bar4Read_data_mask f hk)
      · exact (congrArg (BitVec.getLsbD · 0) ((congrArg _ (Nat.add_assoc ..)).trans (rd4 _ (by omega)))).trans (bar4Read_control f hk)
  · have hn := nextToValidate_net hv
    exact ⟨validating_queued hv, fun hst => ⟨fun c => validating_rejected hv hst, validating_passes hv hst⟩⟩
  · exact ⟨cancel_waiting hk hn, cancel_running hk hn⟩
  · intro u hw
    have hu : netDrained s k n = u := rfl
    clear_value u
    exact bindOff_result hn hst hc hu hw
  · subst ht
    exact completionRecord_writes hn hc hring
  · have hzero : ringCount f = 0 := by unfold ringCount; omega
    exact vfReset_result h1 h16 hheld hnets hzero

end

end Sys2Proof.Machine
end

section
/-! PROOFS of the machine's statements: `exit` (O28), waking and entering the supervisor (O47), the packets of a channel (O50). -/

namespace Sys2Proof.Machine

-- One proof at a time, for the check's memory limit.
set_option Elab.async false

section
/-! PROOFS (O28). What the commit point leaves alone besides what `Calm` says: the ports' bindings, the life of the networks and their processes,
and the slot's own identity and generator. -/

variable {i : Nat} {s t u : State}

/-- A port that is bound as it was, and that has not been opened again. -/
structure Port.Stands (p q : Port) : Prop where
  bound : q.bound = p.bound
  isW : q.isW = p.isW
  closed : p.closed = true → q.closed = true

/-- A network with the same processes, the same state and the same status. -/
structure Net.Stands (n m : Net) : Prop where
  procs : m.procs = n.procs
  st : m.st = n.st
  status : m.status = n.status

/-- From `s` to `t`, slot `i` keeps its identity, its generator and the bindings of its ports, and the networks their life. -/
structure Steady (i : Nat) (s t : State) : Prop where
  id : (t.slot i).id = (s.slot i).id
  gen : (t.slot i).gen = (s.slot i).gen
  port : ∀ n, ((s.slot i).port n).Stands ((t.slot i).port n)
  net : ∀ (k : Nat) (n : Net), s.nets[k]? = some n → ∃ m, t.nets[k]? = some m ∧ n.Stands m

namespace Steady

/-! ## The shapes that a meaning is built from -/

theorem same (hs : t.slots = s.slots := by rfl) (hn : t.nets = s.nets := by rfl) : Steady i s t := by
  have hi : t.slot i = s.slot i := slot_congr hs i
  refine ⟨by rw [hi], by rw [hi], fun n => by rw [hi]; exact ⟨rfl, rfl, fun h => h⟩, fun k n h => ⟨n, by rw [hn, h], rfl, rfl, rfl⟩⟩

theorem refl (s : State) : Steady i s s := same

theorem trans (h : Steady i s t) (k : Steady i t u) : Steady i s u where
  id := k.id.trans h.id
  gen := k.gen.trans h.gen
  port n := by
    obtain ⟨hb, hw, hc⟩ := h.port n
    obtain ⟨kb, kw, kc⟩ := k.port n
    exact ⟨kb.trans hb, kw.trans hw, fun x => kc (hc x)⟩
  net j n hn := by
    obtain ⟨m, hm, hp, hs, ht⟩ := h.net j n hn
    obtain ⟨w, hw, kp, ks, kt⟩ := k.net j m hm
    exact ⟨w, hw, kp.trans hp, ks.trans hs, kt.trans ht⟩

theorem foldl {α : Type} {f : State → α → State} (hf : ∀ s a, Steady i s (f s a)) (l : List α) (s : State) : Steady i s (l.foldl f s) := by
  induction l generalizing s with
  | nil => exact refl s
  | cons a l ih => exact (hf s a).trans (ih _)

/-- A fold that carries a value beside the state. -/
theorem foldl_snd {α β : Type} {f : β × State → α → β × State} (hf : ∀ a n, Steady i a.2 (f a n).2) (l : List α) (a : β × State) :
    Steady i a.2 (l.foldl f a).2 := by
  induction l generalizing a with
  | nil => exact refl _
  | cons n l ih => exact (hf a n).trans (ih _)

theorem modNet (k : Nat) (f : Net → Net) (hf : ∀ n : Net, n.Stands (f n) := by intro; exact ⟨rfl, rfl, rfl⟩) : Steady i s (s.modNet k f) := by
  refine ⟨rfl, rfl, fun n => ⟨rfl, rfl, fun h => h⟩, fun j n hn => ?_⟩
  by_cases hj : j = k
  · subst hj
    exact ⟨_, nets_modNet_self hn f, hf n⟩
  · exact ⟨n, (nets_modNet_ne s f hj).trans hn, rfl, rfl, rfl⟩

theorem modChan (k c : Nat) (f : Chan → Chan) : Steady i s (s.modChan k c f) := modNet _ _

/-- An update of any slot that leaves alone what `Steady` speaks of. -/
theorem modSlot (j : Nat) (f : Slot → Slot) (hid : (f (s.slot j)).id = (s.slot j).id := by rfl)
    (hgen : (f (s.slot j)).gen = (s.slot j).gen := by rfl)
    (hp : ∀ n, ((s.slot j).port n).Stands ((f (s.slot j)).port n) := by exact fun _ => ⟨rfl, rfl, fun h => h⟩) : Steady i s (s.modSlot j f) := by
  by_cases hj : i = j
  · subst hj
    have hi := slot_modSlot_self s i f
    exact ⟨by rw [hi, hid], by rw [hi, hgen], fun n => by rw [hi]; exact hp n, fun k n h => ⟨n, h, rfl, rfl, rfl⟩⟩
  · have hi := slot_modSlot_ne s f hj
    exact ⟨by rw [hi], by rw [hi], fun n => by rw [hi]; exact ⟨rfl, rfl, fun h => h⟩, fun k n h => ⟨n, h, rfl, rfl, rfl⟩⟩

theorem modPort (j p : Nat) (f : Port → Port) (hf : ((s.slot j).port p).Stands (f ((s.slot j).port p)) := by exact ⟨rfl, rfl, fun h => h⟩) :
    Steady i s (s.modSlot j fun x => x.modPort p f) := by
  refine modSlot j _ rfl rfl fun n => ?_
  by_cases hn : n = p
  · subst hn
    rw [slot_port_modPort_self]; exact hf
  · rw [slot_port_modPort_ne _ _ hn]; exact ⟨rfl, rfl, fun h => h⟩

theorem modSeg (j k : Nat) (f : Seg → Seg) : Steady i s (s.modSlot j fun x => x.modSeg k f) := modSlot _ _

/-! ## The fabric's side of a commit -/

theorem launch (n : Nat) (c : Chan) (k : Pkt) (r : Bool) : Steady i s (launch s n c k r) := by
  unfold Machine.launch
  split
  · exact same
  · exact modChan _ _ _

theorem launchHere (n : Nat) (c : Chan) (k : Nat → Pkt) : Steady i s (launchHere s n c k) := by
  refine foldl (fun s r => ?_) _ s
  split
  · split
    · exact refl _
    · exact launch _ _ _ _
  · exact refl _

theorem launchReaders (n : Nat) (c : Chan) (k : Nat → Pkt) : Steady i s (launchReaders s n c k) := by
  unfold Machine.launchReaders
  dsimp only
  split
  · exact (launchHere _ _ _).trans same
  · exact launchHere _ _ _

theorem launchInput (n : Nat) (c : Chan) (lvl j : Nat) (k : Pkt) : Steady i s (launchInput s n c lvl j k) := by
  unfold Machine.launchInput
  dsimp only
  split
  · refine Steady.trans ?_ (launch _ _ _ _)
    split
    · exact same
    · exact refl _
  · split
    · exact same
    · exact refl _

theorem discardInput (n : Nat) (c : Chan) (g : BitVec 8) (lvl j : Nat) (new : Bool) : Steady i s (discardInput s n c g lvl j new) :=
  (modChan _ _ _).trans ((modNet _ _).trans (foldl (fun _ _ => foldl (fun _ _ => launch _ _ _ _) _ _) _ _))

theorem cutNodes (n : Nat) (c : Chan) : Steady i s (cutNodes s n c) :=
  (modChan _ _ _).trans (foldl (fun _ _ => discardInput _ _ _ _ _ _) _ _)

theorem dropLegs (n : Nat) (c : Chan) (r : Nat) (e : Ep) (saved : Bool) (st a b : Nat) : Steady i s (dropLegs s n c r e saved st a b) := by
  unfold Machine.dropLegs
  dsimp only
  split
  · exact (modChan _ _ _).trans ((modChan _ _ _).trans (foldl (fun _ _ => launch _ _ _ _) _ _))
  · exact (modChan _ _ _).trans (modPort _ _ _)

theorem cutReader (n : Nat) (c : Chan) (k r : Nat) : Steady i s (cutReader s n c k r) := by
  unfold Machine.cutReader
  split
  · exact refl _
  · dsimp only
    split
    · exact refl _
    · exact foldl (fun _ _ => (dropLegs _ _ _ _ _ _ _ _).trans (modNet _ _)) _ _

theorem cutEnds (n : Nat) (c : Chan) : Steady i s (cutEnds s n c) := by
  unfold Machine.cutEnds
  split
  · split
    · exact foldl (fun _ _ => cutReader _ _ _ _) _ _
    · exact refl _
  · exact cutNodes _ _

theorem endContributor (n : Nat) (c : Chan) (w k : Nat) : Steady i s (endContributor s n c w k) := by
  unfold Machine.endContributor
  dsimp only
  split
  · exact ((modChan _ _ _).trans (cutEnds _ _)).trans (launchHere _ _ _)
  · exact (modChan _ _ _).trans (cutEnds _ _)

/-- Credits that a port owes leave its binding alone. -/
theorem owed {α : Type} (f : α → Nat × Nat) (l : List α) {p q : Port} (h : p.Stands q) :
    p.Stands (l.foldl (fun q a => q.owe (f a).1 (f a).2) q) := by
  induction l generalizing q with
  | nil => exact h
  | cons a l ih => exact ih ⟨h.bound, h.isW, h.closed⟩

theorem commitRead (j p n : Nat) : Steady i s (commitRead s j p n) := by
  have hrefl : ((s.slot j).port p).Stands ((s.slot j).port p) := ⟨rfl, rfl, fun h => h⟩
  unfold Machine.commitRead
  dsimp only
  split
  · exact refl _
  · next c hc =>
    refine (modPort j p _ ?_).trans (modNet _ _)
    split
    · obtain ⟨hb, hw, hk⟩ := owed (fun k => ((((s.slot j).port p).kc + k) % c.legs, 1)) (List.range n) hrefl
      exact ⟨hb, hw, hk⟩
    · split
      · obtain ⟨hb, hw, hk⟩ := owed (fun w => (w, n)) (List.range c.writers.length) hrefl
        exact ⟨hb, hw, hk⟩
      · exact ⟨rfl, rfl, fun h => h⟩

theorem transmit (j p : Nat) (d : List Byte) : Steady i s (transmit s j p d) := by
  unfold Machine.transmit
  dsimp only
  split
  · refine (modPort j p fun p => { p with seq := p.seq + 1 }).trans ?_
    split
    · exact refl _
    · split
      · exact modSlot _ _
      · split
        · exact (launchInput _ _ _ _ _).trans (modNet _ _)
        · exact (launchReaders _ _ _).trans (modNet _ _)
  · exact refl _

/-- R26: what follows the closing of a port that was open leaves its bindings alone. -/
theorem closePort_open {j p : Nat} (h : ((s.slot j).port p).closed = false) :
    Steady i (s.modSlot j fun x => x.modPort p fun p => { p with closed := true }) (closePort s j p) := by
  unfold Machine.closePort
  dsimp only
  rw [if_neg (by rw [h]; exact Bool.false_ne_true)]
  split
  · exact refl _
  · split
    · split
      · exact (endContributor _ _ _ _).trans same
      · exact endContributor _ _ _ _
    · exact launchReaders _ _ _

theorem closePort_shut {j p : Nat} (h : ((s.slot j).port p).closed = true) : closePort s j p = s := by
  unfold Machine.closePort
  exact if_pos h

theorem closePort (j p : Nat) : Steady i s (closePort s j p) := by
  cases h : ((s.slot j).port p).closed with
  | true => rw [closePort_shut h]; exact refl s
  | false => exact (modPort j p _ ⟨rfl, rfl, fun _ => rfl⟩).trans (closePort_open h)

theorem closePort_closed (s : State) (i p : Nat) : (((Machine.closePort s i p).slot i).port p).closed = true := by
  cases h : ((s.slot i).port p).closed with
  | true => rw [closePort_shut h, h]
  | false => exact ((closePort_open h).port p).closed (by rw [slot_modSlot_self, slot_port_modPort_self])

/-! ## The memory's side of a commit -/

theorem noteConflicts (n : Nat) (cs : List Conflict) : Steady i s (noteConflicts s n cs) := by
  unfold Machine.noteConflicts
  split
  · exact refl _
  · next w hw => exact (modNet n fun m => { m with log := cs.foldl logConflict w.log }).trans same

theorem chargeLeaf (k a n : Nat) (l : Word) : Steady i s (chargeLeaf s k a n l) := by
  unfold Machine.chargeLeaf Machine.chargeBucket
  dsimp only
  split
  · split
    · exact same
    · exact refl _
  · exact refl _

theorem translate (tile tenant : Nat) (world : Bool) (vpn : Nat) (wr atom : Bool) :
    Steady i s (translate s tile tenant world vpn wr atom).2 := by
  unfold Machine.translate
  dsimp only
  split
  · exact refl _
  · split
    · dsimp only
      split
      · exact refl _
      · exact same
    · split
      · exact refl _
      · exact refl _
      · dsimp only
        split
        · exact refl _
        · exact same

theorem pageRequest (r : Requester) (vpn : Nat) : Steady i s (pageRequest s r vpn) := by
  unfold Machine.pageRequest
  dsimp only
  split
  · exact same
  · exact same

theorem pageByte (far : Option Far) (l : Word) (off : Nat) : Steady i s (pageByte s far l off).2 := by
  unfold Machine.pageByte
  split
  · exact refl _
  · split
    · exact refl _
    · exact same

theorem takeImage (j : Nat) (l : Word) (view : List (Nat × Byte)) (va n : Nat) : Steady i s (takeImage s j l view va n).2 := by
  unfold Machine.takeImage
  dsimp only
  refine Steady.trans (t := { s with free := s.free + 1 }) same (foldl_snd (fun a k => ?_) (List.range n) ([], { s with free := s.free + 1 }))
  dsimp only
  split
  · exact refl _
  · exact pageByte _ _ _

theorem sendFetch (j k : Nat) : Steady i s (sendFetch s j k) := by
  unfold Machine.sendFetch
  dsimp only
  split
  · exact refl _
  · next r hr =>
    split
    · exact refl _
    · have ht := translate (i := i) (s := s) (tileOf j) (s.slot j).id.tenant (s.slot j).id.world (vpnOf r.va.toNat) false false
      split
      · next s1 h1 =>
        rw [h1] at ht
        refine ht.trans (Steady.trans ?_ (modSeg _ _ _))
        split
        · exact refl _
        · exact pageRequest _ _
      · next h1 => rw [h1] at ht; exact ht.trans (modSeg _ _ _)
      · next h1 =>
        rw [h1] at ht
        exact ht.trans ((chargeLeaf _ _ _ _).trans ((takeImage _ _ _ _ _).trans (modSeg _ _ _)))

/-! ## The commit point -/

theorem noteFound (j : Nat) (cs : List Conflict) : Steady i s (noteFound s j cs) := by
  unfold Machine.noteFound
  split
  · exact refl _
  · exact noteConflicts _ _

theorem commitHeld (j : Nat) (h : HistE) : Steady i s (commitHeld s j h) := by
  unfold Machine.commitHeld
  split
  · exact commitRead _ _ _
  · exact transmit _ _ _
  · exact closePort _ _
  · exact (modSeg _ _ _).trans ((noteFound _ _).trans (sendFetch _ _))
  all_goals exact refl _

theorem putBytesAt (j a : Nat) (bs : List Byte) : Steady i s (s.putBytesAt j a bs) := by
  have hseq : ∀ (bs : List Byte) (s : State) (a : Nat), Steady i s (s.putSeq j a bs) := by
    intro bs
    induction bs with
    | nil => exact fun s _ => refl s
    | cons b bs ih =>
      refine fun s a => Steady.trans ?_ (ih _ (a + 1))
      unfold State.putByteAt
      split
      · exact same
      · exact refl _
  unfold State.putBytesAt
  dsimp only
  refine (hseq bs s a).trans ?_
  split
  · exact same
  · exact refl _

end Steady

/-! ## The commit point, apart from a held `exit` -/

/-- R116, R187: the state once the commit point has performed the effects and the stores that it has passed. -/
def performed (s : State) (i : Nat) : State :=
  let lim := (s.slot i).eng.commitPos
  landStores (((s.slot i).eng.hist.filter fun h => passedCommit lim h.pos).foldl (fun s h => commitHeld s i h)
      (s.modSlot i fun x =>
        { x with eng := { x.eng with hist := x.eng.hist.filter fun h => !passedCommit lim h.pos
                                     stores := x.eng.stores.filter fun h => !passedCommit lim h.pos } }))
    i ((s.slot i).eng.stores.filter fun h => passedCommit lim h.pos)

theorem commitSlot_eq (s : State) (i : Nat) : commitSlot s i =
    if (s.slot i).gen.heldExit && (s.slot i).eng.commitPos.isNone then commitExit (performed s i) i else performed s i := rfl

/-- With a held `exit`, at the commit point, the process exits. -/
theorem commitSlot_exits (he : (s.slot i).gen.heldExit = true) (hm : (s.slot i).committed = true) :
    commitSlot s i = commitExit (performed s i) i := by
  rw [commitSlot_eq, he, (commitPos_none _).mpr hm]
  rfl

/-- Before the commit point nothing exits. -/
theorem commitSlot_waits (hm : (s.slot i).committed = false) : commitSlot s i = performed s i := by
  have hp : (s.slot i).eng.commitPos.isNone = false := by
    cases hc : (s.slot i).eng.commitPos with
    | none => exact absurd ((commitPos_none _).mp hc) (by rw [show (s.slot i).eng.idle = false from hm]; exact Bool.false_ne_true)
    | some p => rfl
  rw [commitSlot_eq, hp, Bool.and_false]
  rfl

theorem performed_steady (hc : StoresClean s i) : Steady i s (performed s i) := by
  unfold performed
  dsimp only
  generalize hl : (s.slot i).eng.commitPos = lim
  have h1 : Calm i (fun _ _ => True) s (((s.slot i).eng.hist.filter fun h => passedCommit lim h.pos).foldl (fun s h => commitHeld s i h)
      (s.modSlot i fun x => { x with eng := { x.eng with hist := x.eng.hist.filter fun h => !passedCommit lim h.pos
                                                         stores := x.eng.stores.filter fun h => !passedCommit lim h.pos } })) :=
    (calm_modSlot _ rfl rfl (fun h => h) rfl rfl rfl rfl rfl).trans (Calm.foldl _ (fun _ h => calm_commitHeld h) _ _)
  have h2 := (Steady.modSlot (i := i) (s := s) i fun x =>
      { x with eng := { x.eng with hist := x.eng.hist.filter fun h => !passedCommit lim h.pos
                                   stores := x.eng.stores.filter fun h => !passedCommit lim h.pos } }).trans
    (Steady.foldl (f := fun s h => commitHeld s i h) (fun s h => Steady.commitHeld i h) ((s.slot i).eng.hist.filter fun h => passedCommit lim h.pos) _)
  rw [(calm_landStores (W := fun _ _ => True) _ (fun _ _ _ _ _ _ => trivial)
    fun x hx hn => h1.toKept.eccAt (hc x (List.mem_filter.mp hx).1 hn)).2]
  exact h2.trans (Steady.foldl (fun _ _ => Steady.putBytesAt _ _ _) _ _)

end

section
/-! PROOFS (O28). `exit` at P, at S and at C (R36, R45, R362). -/

variable {i k : Nat} {s : State} {n : Net}

/-! ## The process exits -/

/-- A value that a table has for a key, and that is not the default, stands in it. -/
theorem sparse_mem_of_get {β : Type} (d : β) (m : Sparse β) {n : Nat} (h : Sparse.get d m n ≠ d) : (n, Sparse.get d m n) ∈ m := by
  induction m with
  | nil => exact absurd rfl h
  | cons p m ih =>
    obtain ⟨k, v⟩ := p
    by_cases hk : k = n
    · subst hk
      simp [Sparse.get]
    · have hg : Sparse.get d ((k, v) :: m) n = Sparse.get d m n := by simp [Sparse.get, hk]
      rw [hg] at h ⊢
      exact List.mem_cons_of_mem _ (ih h)

/-- R36: every write port of the slot that is bound, closed. -/
def portsClosed (s : State) (i : Nat) : State :=
  (s.slot i).ports.foldl (fun s (q : Nat × Port) => if q.2.bound && q.2.isW then closePort s i q.1 else s) s

theorem portsClosed_step (i : Nat) (s : State) (q : Nat × Port) :
    Steady i s (if q.2.bound && q.2.isW then closePort s i q.1 else s) := by
  split
  · exact Steady.closePort _ _
  · exact Steady.refl s

theorem portsClosed_steady (s : State) (i : Nat) : Steady i s (portsClosed s i) := Steady.foldl (portsClosed_step i) _ s

theorem portsClosed_closed {p : Nat} (hb : ((s.slot i).port p).bound = true) (hw : ((s.slot i).port p).isW = true) :
    (((portsClosed s i).slot i).port p).closed = true := by
  have hmem : (p, (s.slot i).port p) ∈ (s.slot i).ports := sparse_mem_of_get ({} : Port) _ fun h => by
    rw [show (s.slot i).port p = {} from h] at hb
    exact Bool.false_ne_true hb
  refine foldl_reaches (I := fun _ => True) (Q := fun t => ((t.slot i).port p).closed = true) (fun _ _ _ => trivial)
    (fun t q h => ((portsClosed_step i t q).port p).closed h) (fun t _ => ?_) hmem trivial
  rw [if_pos (by rw [hb, hw]; rfl)]
  exact Steady.closePort_closed t i p

/-- The process of a slot that has exited. -/
def Slot.gone (x : Slot) : Slot := { x with id := { x.id with exited := true }, gen := { x.gen with heldExit := false, wait := .none } }

/-- R36: a process that has exited. -/
def Proc.leave (p : Proc) : Proc := { p with exited := true }

theorem commitExit_eq (s : State) (i : Nat) : commitExit s i =
    checkEnd (((portsClosed s i).modSlot i Slot.gone).modNet (s.slot i).id.net fun n => n.modProc (s.slot i).id.pid.toNat Proc.leave)
      (s.slot i).id.net := rfl

theorem commitExit_slot (s : State) (i : Nat) : (commitExit s i).slot i = ((portsClosed s i).slot i).gone := by
  rw [commitExit_eq, checkEnd_slot]
  exact slot_modSlot_self _ _ _

/-- R33, R38: a network that is looked at for its end: with every process over it binds off, DONE unless a status was reached. -/
theorem checkEnd_net (h : s.nets[k]? = some n) : ∃ m, (checkEnd s k).nets[k]? = some m ∧ m.procs = n.procs ∧
    (n.st = .running → (∀ p ∈ n.procs, p.exited = true ∨ p.stopped = true) → m.st = .bindoff ∧ m.status = some (n.status.getD 0)) := by
  obtain ⟨m, hm, hs, -, hps⟩ := nets_setStatus h 0 none
  unfold checkEnd
  rw [h]
  dsimp only
  split
  · exact ⟨_, nets_modNet_self hm _, hps, fun _ _ => ⟨rfl, hs⟩⟩
  · next hne =>
    exact ⟨n, h, rfl, fun hst hp => absurd (by simpa [hst] using hp) hne⟩

/-- R36: the network of a process that has exited. -/
theorem commitExit_net (h : s.nets[(s.slot i).id.net]? = some n) : ∃ m, (commitExit s i).nets[(s.slot i).id.net]? = some m ∧
    m.procs.map (·.pid) = n.procs.map (·.pid) ∧ (∀ p ∈ m.procs, p.pid = (s.slot i).id.pid.toNat → p.exited = true) ∧
    (n.st = .running → (∀ p ∈ n.procs, p.pid ≠ (s.slot i).id.pid.toNat → p.exited = true) →
      m.st = .bindoff ∧ m.status = some (n.status.getD 0)) := by
  obtain ⟨w, hw, hps, hst, hstat⟩ := (portsClosed_steady s i).net _ _ h
  obtain ⟨m, hm, hmp, hend⟩ := checkEnd_net (nets_modNet_self (s := (portsClosed s i).modSlot i Slot.gone) hw
    fun n => n.modProc (s.slot i).id.pid.toNat Proc.leave)
  have hprocs : m.procs = n.procs.map fun p => if p.pid == (s.slot i).id.pid.toNat then p.leave else p := by
    rw [hmp, ← hps]; rfl
  have hleft : ∀ p ∈ m.procs, p.pid = (s.slot i).id.pid.toNat → p.exited = true := fun p hp hpid => by
    rw [hprocs] at hp
    obtain ⟨q, -, rfl⟩ := List.mem_map.mp hp
    split
    · rfl
    · next hne => exact absurd (by simpa [hne] using hpid) (by simpa using hne)
  refine ⟨m, (commitExit_eq s i) ▸ hm, ?_, hleft, fun hrun hothers => ?_⟩
  · rw [hprocs, List.map_map]
    refine List.map_congr_left fun p _ => ?_
    dsimp only [Function.comp]
    split
    · rfl
    · rfl
  · rw [← hstat]
    refine hend (hst.trans hrun) fun p hp => .inl ?_
    rw [← hmp] at hp
    by_cases hpid : p.pid = (s.slot i).id.pid.toNat
    · exact hleft p hp hpid
    · rw [hprocs] at hp
      obtain ⟨q, hq, rfl⟩ := List.mem_map.mp hp
      split
      · rfl
      · next hne => exact hothers q hq (by simpa using hne)


/-! ## The instruction -/

/-- R36, R45: the slot holds an `exit`. -/
def Slot.holdExit (x : Slot) : Slot := { x with gen := { x.gen with heldExit := true } }

/-- R36, R45: the slot that moves holds an `exit`. -/
def exitHeld (s : State) : State := s.modSlot s.cur Slot.holdExit

theorem exitHeld_slot (s : State) : (exitHeld s).slot s.cur = s.me.holdExit := slot_modSlot_self _ _ _

theorem exitHeld_kept (s : State) (W : Nat → Nat → Prop) : Kept s.cur W s (exitHeld s) := kept_modSlot _ rfl rfl rfl rfl rfl rfl

theorem execExit_atP (h : s.me.atP = true) :
    execExit s = if s.me.committed then .next (finishG (exitHeld s) s.pcNext) else waitG (finishG (exitHeld s) s.pcNext) .engine := by
  have hs : s.me.atS = false := by
    unfold Slot.atP at h
    unfold Slot.atS
    rw [eq_of_beq h]
    rfl
  unfold execExit
  rw [hs, h]
  rfl

/-- R36, R44: what an `exit` at P leaves as it was, and where the slot stands. -/
theorem exitHeld_finish (hc : StoresClean s s.cur) :
    ((finishG (exitHeld s) s.pcNext).slot s.cur).gen.pc = s.pc + 4 ∧ Kept s.cur (heldBytes s s.cur) s (finishG (exitHeld s) s.pcNext) ∧
      GKept s.cur none s (finishG (exitHeld s) s.pcNext) := by
  have hk := exitHeld_kept s (heldBytes s s.cur)
  have hst : ((exitHeld s).slot s.cur).eng.stores = (s.slot s.cur).eng.stores := by rw [exitHeld_slot]; rfl
  obtain ⟨hi, hkept, hg, -, -⟩ := finishG_spec (exitHeld s) s.pcNext (hc.congr hk hst)
  refine ⟨hi.pc, hk.trans (hkept.weaken fun k p => (heldBytes_congr (by rw [exitHeld_slot]; rfl) hst k p).mp), GKept.trans ?_ (hg none)⟩
  constructor <;> intros <;> rw [exitHeld_slot] <;> rfl

/-- The state that the commit point of an `exit` at P finds. -/
theorem exitHeld_atPc (s : State) : (atPc (exitHeld s) s.pcNext).slot s.cur =
    { s.me with gen := { s.me.gen with heldExit := true, pc := s.pcNext, icnt := s.me.gen.icnt + 1, wait := .none } } := by
  refine (atPc_slot (exitHeld s) s.pcNext).trans ?_
  rw [show (exitHeld s).slot (exitHeld s).cur = s.me.holdExit from exitHeld_slot s]
  rfl

theorem exitHeld_clean (hc : StoresClean s s.cur) : StoresClean (atPc (exitHeld s) s.pcNext) s.cur := by
  exact hc.congr ((exitHeld_kept s fun _ _ => False).trans (atPc_kept (exitHeld s) s.pcNext)) (by rw [exitHeld_atPc]; rfl)

/-- R36, R45: `exit` at P at its commit point. -/
theorem exit_commits (hp : s.me.atP = true) (hm : s.me.committed = true) (hc : StoresClean s s.cur) :
    ∃ t, exec .exit s = .next t ∧ (t.slot s.cur).id.exited = true ∧ (t.slot s.cur).gen.pc = s.pc + 4 ∧
      Kept s.cur (heldBytes s s.cur) s t ∧ GKept s.cur none s t ∧
      (∀ n ∈ (s.me.ports).map (·.1), (s.me.port n).bound = true → (s.me.port n).isW = true → ((t.slot s.cur).port n).closed = true) ∧
      ∀ n, s.nets[s.me.id.net]? = some n → ∃ m, t.nets[s.me.id.net]? = some m ∧
        m.procs.map (·.pid) = n.procs.map (·.pid) ∧ (∀ p ∈ m.procs, p.pid = s.me.id.pid.toNat → p.exited = true) ∧
        (n.st = .running → (∀ p ∈ n.procs, p.pid ≠ s.me.id.pid.toNat → p.exited = true) →
          m.st = .bindoff ∧ m.status = some (n.status.getD 0)) := by
  obtain ⟨hpc, hkept, hg⟩ := exitHeld_finish hc
  have hu := exitHeld_atPc s
  have hst := performed_steady (exitHeld_clean hc)
  have he : finishG (exitHeld s) s.pcNext = commitExit (performed (atPc (exitHeld s) s.pcNext) s.cur) s.cur :=
    (finishG_eq _ _).trans (commitSlot_exits (congrArg (·.gen.heldExit) hu) ((congrArg Slot.committed hu).trans hm))
  generalize performed (atPc (exitHeld s) s.pcNext) s.cur = v at hst he
  have hid : (v.slot s.cur).id = s.me.id := by rw [hst.id, hu]
  have hslot := commitExit_slot v s.cur
  refine ⟨_, by rw [exec_exit, execExit_atP hp, if_pos hm], ?_, hpc, hkept, hg, fun n _ hb hw => ?_, fun n hn => ?_⟩
  · rw [he, hslot]; rfl
  · have hport := hst.port n
    rw [hu] at hport
    rw [he, hslot]
    exact portsClosed_closed (hport.bound.trans hb) (hport.isW.trans hw)
  · obtain ⟨w, hw, hwp, hws, hwt⟩ := hst.net _ _ (show (atPc (exitHeld s) s.pcNext).nets[(v.slot s.cur).id.net]? = some n by rw [hid]; exact hn)
    obtain ⟨m, hm, hmp, hml, hmb⟩ := commitExit_net hw
    rw [hid] at hm hml hmb
    rw [hwp] at hmp hmb
    rw [hws, hwt] at hmb
    exact ⟨m, he ▸ hm, hmp, hml, hmb⟩

/-- R36, R45: `exit` at P before its commit point. -/
theorem exit_held (hp : s.me.atP = true) (hm : s.me.committed = false) (hc : StoresClean s s.cur) :
    ∃ t, exec .exit s = .next t ∧ (t.slot s.cur).gen.heldExit = true ∧ (t.slot s.cur).gen.wait = .engine ∧
      (t.slot s.cur).id = s.me.id ∧ Kept s.cur (heldBytes s s.cur) s t ∧ GKept s.cur none s t := by
  obtain ⟨-, hkept, hg⟩ := exitHeld_finish hc
  have hu := exitHeld_atPc s
  have hst := performed_steady (exitHeld_clean hc)
  have he : finishG (exitHeld s) s.pcNext = performed (atPc (exitHeld s) s.pcNext) s.cur :=
    (finishG_eq _ _).trans (commitSlot_waits ((congrArg Slot.committed hu).trans hm))
  rw [← he] at hst
  generalize hw : finishG (exitHeld s) s.pcNext = v at *
  have hcur : v.cur = s.cur := hkept.cur
  have hslot : (v.modMe fun x => { x with gen := { x.gen with wait := .engine } }).slot s.cur =
      { v.slot s.cur with gen := { (v.slot s.cur).gen with wait := .engine } } := by
    rw [← hcur]; exact slot_modSlot_self _ _ _
  refine ⟨_, by rw [exec_exit, execExit_atP hp, if_neg (by rw [hm]; exact Bool.false_ne_true), hw]; rfl, ?_, ?_, ?_, ?_, ?_⟩
  · rw [hslot]
    show (v.slot s.cur).gen.heldExit = true
    rw [hst.gen, hu]
  · rw [hslot]
  · rw [hslot]
    show (v.slot s.cur).id = s.me.id
    rw [hst.id, hu]
  · refine hkept.trans ?_
    unfold State.modMe
    rw [hcur]
    exact kept_modSlot _ rfl rfl rfl rfl rfl rfl
  · refine hg.trans ?_
    constructor <;> intros <;> rw [hslot] <;> rfl

/-! ## The network ends -/

/-- A network that has the status and the ending fault given. -/
def EndedWith (k c : Nat) (e : Option Ending) (s : State) : Prop := ∃ m, s.nets[k]? = some m ∧ m.status = some c ∧ m.ending = e

variable {c : Nat} {e : Option Ending} {u : State}

theorem EndedWith.modNet (h : EndedWith k c e u) (j : Nat) (f : Net → Net) (hs : ∀ n, (f n).status = n.status := by intro; rfl)
    (he : ∀ n, (f n).ending = n.ending := by intro; rfl) : EndedWith k c e (u.modNet j f) := by
  obtain ⟨m, hm, hms, hme⟩ := h
  by_cases hj : k = j
  · subst hj
    exact ⟨_, nets_modNet_self hm f, (hs m).trans hms, (he m).trans hme⟩
  · exact ⟨m, (nets_modNet_ne u f hj).trans hm, hms, hme⟩

theorem EndedWith.askStop (h : EndedWith k c e u) (i : Nat) : EndedWith k c e (askStop u i) := by
  cases hr : u.Resting i with
  | true =>
    rw [askStop_resting hr]
    exact EndedWith.modNet (u := u.modSlot i Slot.halted) h _ _
  | false =>
    rw [askStop_busy hr]
    exact h

theorem EndedWith.checkEnd (h : EndedWith k c e u) : EndedWith k c e (checkEnd u k) := by
  obtain ⟨m, hm, hms, hme⟩ := h
  unfold Machine.checkEnd
  rw [hm]
  dsimp only
  split
  · refine EndedWith.modNet ⟨_, nets_modNet_self hm _, ?_⟩ _ _
    rw [if_pos (by rw [hms]; rfl)]
    exact ⟨hms, hme⟩
  · exact ⟨m, hm, hms, hme⟩

/-- R38, R393: the fault that ends a network without a status is recorded. -/
theorem endNet_endedWith (h : s.nets[k]? = some n) (hn : n.status = none) : EndedWith k c e (endNet s k c e) := by
  have h0 : EndedWith k c e (setStatus s k c e) := by
    refine ⟨_, nets_modNet_self h _, ?_⟩
    rw [if_neg (by rw [hn]; exact Bool.false_ne_true)]
    exact ⟨rfl, rfl⟩
  rw [endNet_eq]
  exact ((List.foldlRecOn _ _ h0 fun u hu i _ => hu.askStop i).modNet _ _).checkEnd

/-- DRAM and the regions are as they were. -/
def SamePlaces (s t : State) : Prop := t.dram = s.dram ∧ t.regions = s.regions

theorem askStop_places (u : State) (i : Nat) : SamePlaces u (askStop u i) := by
  cases hr : u.Resting i with
  | true => rw [askStop_resting hr]; exact ⟨rfl, rfl⟩
  | false => rw [askStop_busy hr]; exact ⟨rfl, rfl⟩

theorem checkEnd_places (u : State) (k : Nat) : SamePlaces u (checkEnd u k) := by
  unfold checkEnd
  split
  · exact ⟨rfl, rfl⟩
  · split
    · exact ⟨rfl, rfl⟩
    · exact ⟨rfl, rfl⟩

theorem endNet_places (s : State) (k c : Nat) (e : Option Ending) : SamePlaces s (endNet s k c e) := by
  rw [endNet_eq]
  obtain ⟨hd, hr⟩ : SamePlaces s ((netSlots (setStatus s k c e) k).foldl askStop (setStatus s k c e)) :=
    List.foldlRecOn _ _ (motive := SamePlaces s) ⟨rfl, rfl⟩ fun u hu i _ =>
      ⟨(askStop_places u i).1.trans hu.1, (askStop_places u i).2.trans hu.2⟩
  obtain ⟨hd', hr'⟩ := checkEnd_places (((netSlots (setStatus s k c e) k).foldl askStop (setStatus s k c e)).modNet k
    fun n => { n with procs := n.procs.map Proc.haltSaved }) k
  exact ⟨hd'.trans hd, hr'.trans hr⟩

/-- R362: `exit` at S at the commit point. -/
theorem exit_atS (hs : s.me.atS = true) (hm : s.me.committed = true) (h : s.nets[s.me.id.net]? = some n) (hst : n.st = .running)
    (hp : s.Placed s.me.id.net) :
    ∃ t m, exec .exit s = .next t ∧ t.nets[s.me.id.net]? = some m ∧
      m.status = some (n.status.getD (if s.me.tr.cause.extractLsb' 0 8 = 20#8 then 2 else 1)) ∧
      (n.status = none → m.ending = some ⟨s.me.id.pid, s.me.tr.cause, s.me.tr.pc.zeroExtend 64, s.me.tr.fword⟩) ∧
      (∀ p ∈ n.procs, p.saved = false → p.exited = false →
        if s.Resting p.slotNo then (t.slot p.slotNo).id.stopped = true else (t.slot p.slotNo).gen.stopping = true) ∧
      ((∀ p ∈ n.procs, p.saved = false → p.exited = false → s.Resting p.slotNo) →
        m.st = .bindoff ∧ ∀ p ∈ m.procs, p.exited = true ∨ p.stopped = true) ∧
      t.dram = s.dram ∧ t.regions = s.regions := by
  obtain ⟨⟨m, hnm, hms⟩, hslots, hbind⟩ := endNet_netEnded h hst hp (if s.me.tr.cause.extractLsb' 0 8 = 20#8 then 2 else 1)
    (some ⟨s.me.id.pid, s.me.tr.cause, s.me.tr.pc.zeroExtend 64, s.me.tr.fword⟩)
  refine ⟨exitAtS s, m, ?_, hnm, hms, fun hn => ?_, hslots, fun hr => ?_, endNet_places _ _ _ _⟩
  · rw [exec_exit]
    unfold execExit
    rw [if_pos hs, if_pos hm]
  · obtain ⟨w, hw, -, hwe⟩ := endNet_endedWith (c := if s.me.tr.cause.extractLsb' 0 8 = 20#8 then 2 else 1)
      (e := some ⟨s.me.id.pid, s.me.tr.cause, s.me.tr.pc.zeroExtend 64, s.me.tr.fword⟩) h hn
    rw [hnm] at hw
    cases hw
    exact hwe
  · obtain ⟨w, hw, hwst, hwp⟩ := hbind hr
    rw [hnm] at hw
    cases hw
    exact ⟨hwst, hwp⟩

/-- R362: `exit` at C. -/
theorem exit_atC (hs : s.me.atS = false) (hp : s.me.atP = false) : Traps (exec .exit s) s .illegal s.instrWord := by
  rw [exec_exit]
  unfold execExit
  rw [hs, hp]
  exact trapG_traps .illegal s.instrWord hs Cause.noConfusion Cause.noConfusion

/-- Settles O28: level by level, from the lemmas about the commit point of an `exit` and about the end of a network. -/
theorem exitResults : Obligations.ExitResults := by
  unfold Obligations.ExitResults
  intro s
  exact ⟨exit_commits, exit_held, fun hs hm n h hst hp => exit_atS hs hm h hst hp, exit_atC⟩

end


section
/-! PROOFS (O47). A waiting slot wakes (R24, R326, R327, R337). -/

variable {s : State} {i : Nat}

/-! ## The members of a group -/

theorem mem_insertBy {α : Type} (lt : α → α → Bool) (x y : α) (l : List α) : y ∈ insertBy lt x l ↔ y = x ∨ y ∈ l := by
  induction l with
  | nil => simp [insertBy]
  | cons z l ih =>
    unfold insertBy
    split
    · simp
    · simp [ih, or_left_comm]

theorem mem_byPid (p : Proc) (ps : List Proc) : p ∈ byPid ps ↔ p ∈ ps := by
  induction ps with
  | nil => rfl
  | cons q ps ih =>
    show p ∈ insertBy _ q (byPid ps) ↔ _
    rw [mem_insertBy, ih, List.mem_cons]

theorem mem_members (n : Net) (g : Group) (p : Proc) : p ∈ n.members g ↔ p ∈ n.procs ∧ g.members.contains p.pid = true := by
  unfold Net.members
  rw [mem_byPid, List.mem_filter]

/-- R327: an episode that a member cannot reach. -/
theorem groupBroken_of_lost {net gid e : Nat} {n : Net} {g : Group} {tab : Group → Sparse Nat} (hn : s.nets[net]? = some n)
    (hg : n.group? gid = some g) (h : ∃ p ∈ n.procs, g.members.contains p.pid = true ∧ p.exited = false ∧
      Sparse.get 0 (tab g) p.pid < e ∧ (p.stopped = true ∨ (s.region (regionOf p.tile)).st = .halted)) :
    groupBroken s net gid e tab = true := by
  obtain ⟨p, hp, hm, hx, he, hl⟩ := h
  unfold groupBroken
  rw [hn]
  dsimp only
  rw [hg]
  dsimp only
  refine List.any_eq_true.mpr ⟨p, (mem_members n g p).mpr ⟨hp, hm⟩, ?_⟩
  simpa [hx, he] using hl

/-! ## Waking -/

/-- The slot that moves is ready, and nothing else is changed. -/
theorem wake_becomes (s : State) : SlotBecomes s (wake s) s.cur { s.me with gen := { s.me.gen with wait := .none } } :=
  ⟨slot_modMe_cur s _, fun _ hj => slot_modMe_ne s _ hj, rfl⟩

theorem wakes_readPort {p n : Nat} (hw : s.me.gen.wait = .readPort p n) (hr : ∀ v, readReady s s.cur p n ≠ .wait v) :
    execSlotWake s = .next (wake s) := by
  unfold execSlotWake
  simp only [hw]

theorem wakes_writePort {p : Nat} (hw : s.me.gen.wait = .writePort p) (hr : ∀ v, writeReady s s.cur p ≠ .wait v) :
    execSlotWake s = .next (wake s) := by
  unfold execSlotWake
  simp only [hw]

/-- R24: a wait that is evaluated again, where no `exit` is held. -/
theorem wakes_again (hx : s.me.gen.heldExit = false) (hw : s.me.gen.wait = .engine ∨ s.me.gen.wait = .segment ∨ s.me.gen.wait = .reply) :
    execSlotWake s = .next (wake s) := by
  unfold execSlotWake
  obtain hw | hw | hw := hw
  · simp only [hw, hx]; rfl
  · simp only [hw, hx]; rfl
  · simp only [hw, hx]; rfl

theorem barrierDone_eq {net gid e : Nat} {n : Net} {g : Group} (hn : s.nets[net]? = some n) (hg : n.group? gid = some g) :
    barrierDone s net gid e = decide (e ≤ g.epoch) := by
  unfold barrierDone
  rw [hn, Option.bind_some, hg]

theorem slotWake_barrier {g : BitVec 8} {e : Nat} {n : Net} {r : Group} (hw : s.me.gen.wait = .barrier g e)
    (hn : s.nets[s.me.id.net]? = some n) (hg : n.group? g.toNat = some r) :
    execSlotWake s = .next (if e ≤ r.epoch then wake s
      else if groupBroken s s.me.id.net g.toNat e (·.bar) then breakWait s g else s) := by
  unfold execSlotWake
  simp only [hw, barrierDone_eq hn hg, decide_eq_true_eq]
  split
  · rfl
  · split
    · rfl
    · rfl

theorem slotWake_phase {g : BitVec 8} {e : Nat} (hw : s.me.gen.wait = .phase g e) :
    execSlotWake s = .next (if e ≤ s.episodes s.me.id.net s.me.id.pid.toNat g.toNat then wake s
      else if groupBroken s s.me.id.net g.toNat e (·.ph) then breakWait s g else s) := by
  unfold execSlotWake
  simp only [hw]
  split
  · rfl
  · split
    · rfl
    · rfl

/-- R327: a wait at a group that cannot end raises SEVERED. -/
theorem breakWait_traps (g : BitVec 8) (h : s.me.atS = false) :
    TrapsWith (.next (breakWait s g)) s (gFault s .severed s.pc (g.zeroExtend 64) none) :=
  raiseG_traps .severed s.pc (g.zeroExtend 64) none none h Cause.noConfusion Cause.noConfusion

end

section
/-! PROOFS (O47). Faults that wait, and pre-emptions, enter the supervisor (R119, R189, R192, R358, R428, R429). -/

variable {s : State} {i : Nat}

/-! ## Faults that wait -/

theorem levelGFault_enters {f : FaultRec} (hc : StoresClean s s.cur) (hm : s.me.committed = true) (hf : s.me.gen.gfault = some f)
    (hs : s.me.atS = false) (hp : f.cause ≠ .preempt) (he : f.cause ≠ .eccfatal) :
    ∃ t, exec .levelGFault s = .next t ∧ Entered s.cur (commitSlot s s.cur) t f := by
  have hs' : ((commitSlot s s.cur).slot s.cur).atS = false := (commitSlot_kept s s.cur hc).atS.trans hs
  refine ⟨_, ?_, enterTrap_entered _ _ f hp⟩
  rw [exec_levelGFault]
  unfold execLevelGFault takeG
  rw [hf]
  simp only [hm, hs', beq_eq_false_iff_ne.mpr he]
  rfl

theorem trapEntry_enters {f : FaultRec} (hm : s.me.committed = true) (hf : s.me.gen.entering = some f) (hp : f.cause ≠ .preempt) :
    ∃ t, exec .trapEntry s = .next t ∧ Entered s.cur (commitSlot s s.cur) t f := by
  refine ⟨_, ?_, enterTrap_entered _ _ f hp⟩
  rw [exec_trapEntry]
  unfold execTrapEntry
  rw [hf]
  simp only [hm]
  rfl

/-! ## Pre-emption -/

/-- R192, R428: a slot that a pre-emption asks; at level P a level-G fault that waits is abandoned. -/
def Slot.asksPreempt (x : Slot) : Slot :=
  if x.atP && x.gen.gfault.isSome then { x with gen := { x.gen with preempt := true, gfault := none, wait := .none } }
  else { x with gen := { x.gen with preempt := true } }

/-- The wait that a pre-emption finds: none where a level-G fault waited. -/
def Slot.waitLeft (x : Slot) : Wait := if x.gen.gfault.isSome then .none else x.gen.wait

theorem asksPreempt_atP {x : Slot} (h : x.id.level = 0) :
    x.asksPreempt = { x with gen := { x.gen with preempt := true, gfault := none, wait := x.waitLeft } } := by
  have hp : x.atP = true := beq_iff_eq.mpr h
  unfold Slot.asksPreempt Slot.waitLeft
  rw [hp]
  cases hg : x.gen.gfault with
  | none =>
    show { x with gen := { x.gen with preempt := true } } = { x with gen := { x.gen with preempt := true, gfault := none, wait := x.gen.wait } }
    rw [← hg]
  | some f => simp

theorem asksPreempt_above {x : Slot} (h : x.id.level ≠ 0) : x.asksPreempt = { x with gen := { x.gen with preempt := true } } := by
  have hp : x.atP = false := beq_eq_false_iff_ne.mpr h
  unfold Slot.asksPreempt
  rw [hp]
  rfl

/-- The state once the request is noted. -/
def askedPreempt (s : State) : State := s.modSlot s.cur Slot.asksPreempt

theorem askedPreempt_slot (s : State) : (askedPreempt s).me = s.me.asksPreempt := slot_modSlot_self _ _ _

theorem askedPreempt_becomes (s : State) : SlotBecomes s (askedPreempt s) s.cur s.me.asksPreempt :=
  ⟨slot_modSlot_self _ _ _, fun _ hj => slot_modSlot_ne _ _ hj, rfl⟩

/-- R192: what is left to complete does not depend on the request. -/
theorem drained_asksPreempt (x : Slot) : drained x.asksPreempt = drained x := by
  unfold Slot.asksPreempt
  split
  · rfl
  · rfl

/-- R358: the entry of a pre-emption that is no verdict: no fault register is written. -/
theorem enterTrap_preempt (s : State) (i : Nat) (f : FaultRec) (hc : f.cause = .preempt) (hg : f.seg = none) :
    SlotBecomes s (enterTrap s i f) i { s.slot i with
      tr := { (s.slot i).tr with cause := BitVec.ofBool f.lvlE ++ BitVec.ofNat 8 f.cause.code, pc := f.pc.extractLsb' 2 19 ++ 0#2 }
      id := { (s.slot i).id with plevel := (s.slot i).id.level, level := if i = Config.controlSlot then 2 else 1 }
      sb := { (s.slot i).sb with eseq := 0 }
      gen := { (s.slot i).gen with pc := (s.tile (tileOf i)).svec, wait := .none, gfault := none, entering := none } } := by
  refine ⟨?_, fun j hj => slot_modSlot_ne _ _ hj, rfl⟩
  refine (slot_modSlot_self _ _ _).trans ?_
  simp only [hc, hg]
  rfl

/-- R192, R429: the slot as a pre-emption is taken: the request and a verdict are gone, the wait descriptor is written. -/
def Slot.taking (d : Word) (x : Slot) : Slot :=
  { x with tr := { x.tr with waitd := d }, gen := { x.gen with preempt := false, verdict := none, gfault := none } }

/-- R192, R357: the record of a pre-emption that is no verdict, of a slot with no word unretired. -/
def Slot.plainRec (x : Slot) : FaultRec :=
  { cause := .preempt, lvlE := false, pc := x.gen.pc, epc := x.gen.pc, eseq := x.bank.eseq, fword := 0, iter := 0, va := none }

/-- R357, R429: the record of a verdict on channel or group `v` that is taken as a pre-emption. -/
def Slot.verdictRec (x : Slot) (c : Cause) (v : Nat) : FaultRec :=
  { cause := c, lvlE := true, pc := x.gen.pc, epc := x.gen.pc, eseq := x.bank.eseq, fword := BitVec.ofNat 64 v, iter := 0, va := none }

/-- R357, R429: the record with which a pre-emption enters. -/
def Slot.preemptRec (x : Slot) : FaultRec :=
  match x.gen.verdict with
  | some (c, v) => x.verdictRec c v
  | none => x.plainRec

theorem ordered_idle {e : Eng} (h : e.idle = true) : e.ordered = [] := by
  unfold Eng.idle at h
  simp only [Bool.and_eq_true, List.isEmpty_iff] at h
  obtain ⟨⟨⟨hv, hm⟩, hx⟩, ho⟩ := h
  unfold Eng.ordered Eng.words
  rw [hv, hm, hx, ho]
  rfl

theorem preemptNow_idle {u : State} (h : u.me.eng.idle = true) :
    preemptNow u = enterTrap (u.modSlot u.cur (Slot.taking u.me.gen.wait.desc)) u.cur u.me.preemptRec := by
  unfold preemptNow
  simp only [ordered_idle h]
  rfl

theorem taking_slot (s : State) (d : Word) (hp : s.me.id.level = 0) : ((askedPreempt s).modSlot s.cur (Slot.taking d)).slot s.cur =
    { s.me with tr := { s.me.tr with waitd := d }
                gen := { s.me.gen with wait := s.me.waitLeft, preempt := false, verdict := none, gfault := none } } := by
  rw [slot_modSlot_self]
  show ((askedPreempt s).me).taking d = _
  rw [askedPreempt_slot, asksPreempt_atP hp]
  rfl

theorem taking_slot_ne (s : State) (d : Word) {j : Nat} (hj : j ≠ s.cur) :
    ((askedPreempt s).modSlot s.cur (Slot.taking d)).slot j = s.slot j := by
  rw [slot_modSlot_ne _ _ hj]
  exact slot_modSlot_ne _ _ hj

/-! ## A pre-emption of a slot that runs -/

section
variable (hl : s.me.id.loaded = true) (hx : s.me.id.exited = false) (hst : s.me.id.stopped = false) (hn : s.me.gen.stopping = false)
include hl hx hst hn

theorem execPreempt_eq :
    execPreempt s = .next (if s.me.asksPreempt.parking && drained s.me.asksPreempt then preemptNow (askedPreempt s) else askedPreempt s) := by
  unfold execPreempt
  simp only [hl, hx, hst, hn]
  show (if !((askedPreempt s).me.parking && drained (askedPreempt s).me) then _ else _) = _
  rw [askedPreempt_slot]
  cases s.me.asksPreempt.parking && drained s.me.asksPreempt with
  | true => rfl
  | false => rfl

/-- R192, R358: a pre-emption of a slot at level P with no word unretired is taken at once. -/
theorem preempt_taken (hp : s.me.id.level = 0) (he : s.me.gen.entering = none) (hm : s.me.committed = true) :
    exec .preempt s = .next (enterTrap ((askedPreempt s).modSlot s.cur (Slot.taking s.me.waitLeft.desc)) s.cur s.me.preemptRec) := by
  have ha := asksPreempt_atP hp
  have hme := askedPreempt_slot s
  have hidle : (askedPreempt s).me.eng.idle = true := by rw [hme, ha]; exact hm
  have hd : drained s.me = true := by
    unfold drained
    rw [ordered_idle hm]
    rfl
  have hpark : s.me.asksPreempt.parking = true := by
    rw [ha]
    unfold Slot.parking Slot.atP
    simp [he, hp]
  rw [exec_preempt, execPreempt_eq hl hx hst hn, drained_asksPreempt, hpark, hd, Bool.and_true, if_pos rfl, preemptNow_idle hidle, hme, ha]
  rfl

/-- R192, R358: PREEMPT entered: no fault register is written, the wait that is left stands in the wait descriptor. -/
theorem preempt_enters (hp : s.me.id.level = 0) (he : s.me.gen.entering = none) (hm : s.me.committed = true)
    (hv : s.me.gen.verdict = none) :
    ∃ t, exec .preempt s = .next t ∧ SlotBecomes s t s.cur { s.me with
      id := { s.me.id with plevel := 0, level := if s.cur = Config.controlSlot then 2 else 1 }
      tr := { s.me.tr with cause := 26, pc := s.me.gen.pc.extractLsb' 2 19 ++ 0#2, waitd := s.me.waitLeft.desc }
      gen := { s.me.gen with pc := (s.tile (tileOf s.cur)).svec, wait := .none, gfault := none, preempt := false, verdict := none }
      sb := { s.me.sb with eseq := 0 } } := by
  have hrec : s.me.preemptRec = s.me.plainRec := by
    unfold Slot.preemptRec
    rw [hv]
  refine ⟨_, preempt_taken hl hx hst hn hp he hm, ?_⟩
  rw [hrec]
  obtain ⟨hslot, hothers, hrest⟩ := enterTrap_preempt ((askedPreempt s).modSlot s.cur (Slot.taking s.me.waitLeft.desc)) s.cur s.me.plainRec rfl rfl
  refine ⟨hslot.trans ?_, fun j hj => (hothers j hj).trans (taking_slot_ne s _ hj), hrest⟩
  rw [taking_slot s _ hp]
  simp only [Slot.plainRec, he, hp]
  rfl

/-- R429: a verdict that is taken as a pre-emption, entered at level E. -/
theorem preempt_verdict (hp : s.me.id.level = 0) (he : s.me.gen.entering = none) (hm : s.me.committed = true)
    {c : Cause} {v : Nat} (hv : s.me.gen.verdict = some (c, v)) (hc : c ≠ .preempt) :
    ∃ t, exec .preempt s = .next t ∧
      Entered s.cur (s.modMe fun y => { y with gen := { y.gen with preempt := false, verdict := none } }) t (s.me.verdictRec c v) := by
  have hrec : s.me.preemptRec = s.me.verdictRec c v := by
    unfold Slot.preemptRec
    rw [hv]
  refine ⟨_, preempt_taken hl hx hst hn hp he hm, ?_⟩
  rw [hrec]
  have hslot := taking_slot s s.me.waitLeft.desc hp
  have hme := slot_modMe_cur s fun y => { y with gen := { y.gen with preempt := false, verdict := none } }
  obtain ⟨htr, hsegs, hid, hgen, hpb, hsb, heng, hvec, hports, hslots, hrest⟩ :=
    enterTrap_entered ((askedPreempt s).modSlot s.cur (Slot.taking s.me.waitLeft.desc)) s.cur (s.me.verdictRec c v) hc
  rw [hslot] at htr hsegs hid hgen hpb hsb heng hvec hports
  refine ⟨?_, fun k => ?_, ?_, ?_, ?_, ?_, ?_, ?_, ?_, fun j hj => ?_, hrest⟩
  · rw [htr, hme]
  · rw [hsegs k, hme]; rfl
  · rw [hid, hme]
  · rw [hgen, hme]; rfl
  · rw [hpb, hme]
  · rw [hsb, hme]
  · rw [heng, hme]
  · rw [hvec, hme]
  · rw [hports, hme]
  · rw [hslots j hj, taking_slot_ne s _ hj, slot_modMe_ne s _ hj]

/-- R192: at level P, with something that has started left to complete, the request stays, and a level-G fault that waits is abandoned. -/
theorem preempt_stays (hp : s.me.id.level = 0) (hd : drained s.me = false) :
    ∃ t, exec .preempt s = .next t ∧
      SlotBecomes s t s.cur { s.me with gen := { s.me.gen with preempt := true, gfault := none, wait := s.me.waitLeft } } := by
  refine ⟨askedPreempt s, ?_, asksPreempt_atP hp ▸ askedPreempt_becomes s⟩
  rw [exec_preempt, execPreempt_eq hl hx hst hn, drained_asksPreempt, hd, Bool.and_false]
  rfl

/-- R428: above level P the request stays. -/
theorem preempt_above (hp : s.me.id.level ≠ 0) :
    ∃ t, exec .preempt s = .next t ∧ SlotBecomes s t s.cur { s.me with gen := { s.me.gen with preempt := true } } := by
  have ha := asksPreempt_above hp
  have hpark : s.me.asksPreempt.parking = false := by
    rw [ha]
    show (s.me.gen.entering.isNone && ((true && s.me.atP) || s.me.gen.stopping)) = false
    rw [show s.me.atP = false from beq_eq_false_iff_ne.mpr hp, hn, Bool.and_false, Bool.or_false, Bool.and_false]
  refine ⟨askedPreempt s, ?_, ha ▸ askedPreempt_becomes s⟩
  rw [exec_preempt, execPreempt_eq hl hx hst hn, hpark]
  rfl

end

/-- Settles O47: wait by wait, then the faults that wait and the pre-emptions, from the lemmas about each. -/
theorem wakeAndEntryResults : Obligations.WakeAndEntryResults := by
  unfold Obligations.WakeAndEntryResults
  refine ⟨fun s => ?_, fun s => ?_⟩
  · have wakes {o : Out} (h : o = .next (wake s)) :
        ∃ t, o = .next t ∧ SlotBecomes s t s.cur { s.me with gen := { s.me.gen with wait := .none } } := ⟨_, h, wake_becomes s⟩
    refine ⟨fun p n hw hr => wakes (wakes_readPort hw hr), fun p hw hr => wakes (wakes_writePort hw hr),
      fun g e n r hw hn hg => ⟨fun he => ?_, fun he hl hs => ?_⟩, fun g e hw => ⟨fun he => ?_, fun he n r hn hg hl hs => ?_⟩,
      fun hx hw => wakes (wakes_again hx hw)⟩
    · exact wakes ((slotWake_barrier hw hn hg).trans (by rw [if_pos he]))
    · rw [exec_slotWake, slotWake_barrier hw hn hg, if_neg (by omega), if_pos (groupBroken_of_lost hn hg hl)]
      exact breakWait_traps g hs
    · exact wakes ((slotWake_phase hw).trans (by rw [if_pos he]))
    · rw [exec_slotWake, slotWake_phase hw, if_neg (by omega), if_pos (groupBroken_of_lost hn hg hl)]
      exact breakWait_traps g hs
  · refine ⟨fun hc hm => ⟨fun f hf hs hp he => levelGFault_enters hc hm hf hs hp he, fun f hf hp => trapEntry_enters hm hf hp⟩,
      fun hl hx hst hn => ⟨fun hp he hm => ⟨preempt_enters hl hx hst hn hp he hm, fun c v hv hc => preempt_verdict hl hx hst hn hp he hm hv hc⟩,
        fun hp _ hd => preempt_stays hl hx hst hn hp hd, preempt_above hl hx hst hn⟩⟩

end


section
/-! PROOFS (O50). A channel stands at a place of its network's list, and the fabric finds it there by its CHID. R147 makes the two the same,
and R394 refuses a record in which they differ; the statement has no such premise, and where they differ a packet stands on another route. -/

variable {s : State} {net ch : Nat} {c : Chan}

/-- A channel is left as it was by a change of another place of the list. -/
theorem chan_modChan_ne (s : State) (net : Nat) {ch d : Nat} (f : Chan → Chan) (h : ch ≠ d) :
    (s.modChan net d f).chan? net ch = s.chan? net ch := by
  unfold State.chan?
  cases hn : s.nets[net]? with
  | none =>
    rw [show (s.modChan net d f).nets[net]? = none by simp [State.modChan, State.modNet, hn]]
  | some n =>
    rw [show (s.modChan net d f).nets[net]? = _ from nets_modNet_self hn _]
    exact List.getElem?_modify_ne f n.chans (Ne.symm h)

/-- R154: a packet goes onto the route of the channel of its CHID, and onto no other. -/
theorem launch_chan_ne (h : ch ≠ c.chid) (k : Pkt) (r : Bool) : (launch s net c k r).chan? net ch = s.chan? net ch := by
  unfold launch
  split
  · rfl
  · exact chan_modChan_ne s net _ h

/-- R154: so do the credits that a reader owes. -/
theorem sendCredits_chan_ne (h : ch ≠ c.chid) (r : Nat) : (sendCredits s net c r).chan? net ch = s.chan? net ch := by
  unfold sendCredits
  split
  · rfl
  · exact List.foldlRecOn _ _ (motive := fun t : State => t.chan? net ch = s.chan? net ch) rfl fun t ht a _ => (launch_chan_ne h _ _).trans ht

/-- The reader of the counterexample. -/
def strayReader : Ep := { tile := 0, slot := 0, port := 0, ridx := 0, remote := false }
/-- The writer of the counterexample. -/
def strayWriter : Ep := { tile := 1, slot := 0, port := 0, ridx := 0, remote := false }

/-- A channel of CHID 1. -/
def strayChan : Chan :=
  { chid := 1, gen := 0, size := 8, route := 0, reduce := false, mirror := false, crypt := false, eostol := false, rop := 0, endpt := false
    cap := 4, cap0 := 4, buf := 0, skoff := 0, grown := 0, uport := 0, rpkg := 0, writers := [strayWriter], readers := [strayReader]
    transit := [], skein := [], nodes := [], ends := [], dropped := 0, roots := 0, kept := [], sev := false }

/-- A network that has that channel at place 0, and no other channel. -/
def strayNet : Net :=
  { nid := 0, tenant := 0, st := .running, recOff := 0, regions := 0, strict := false, secure := false, attest := false, skeinVa := 0
    skeinSize := 0, saveVa := 0, dlrecVa := 0, logVa := 0, logMax := 0, shsect := 0, linkSlot := 0, linkEn := false, procs := []
    chans := [strayChan], groups := [], versions := [], log := [], status := none, reason := 0, ending := none, discarded := 0, growths := 0
    skeinUsed := 0, sent := 0, arrived := 0, cret := 0, carr := 0, measRec := 0, measImg := 0, closing := false }

/-- A machine that runs it; the reader's port owes the writer one credit. -/
def strayState : State :=
  { nets := [strayNet]
    slots := [(0, { id := { loaded := true }, ports := [(0, { bound := true, ch := 1, kc := 1, k := 1, arr := [1], owed := [(0, 1)] })] })] }

/-- Refutes O50: the statement takes a channel by its place `ch` and has no premise that `ch` is its CHID (R147, R394). The channel of
`strayState` has CHID 1 at place 0: the credit that its reader owes goes to the route of CHID 1, and the channel at place 0 is left without
the packet that the clause on credits owed (R154) claims on its route. -/
theorem not_packetResults : ¬ Obligations.PacketResults := by
  unfold Obligations.PacketResults
  rintro ⟨h, -⟩
  obtain ⟨-, hcredits, -⟩ := h strayState 0 0 strayNet strayChan rfl rfl rfl
  obtain ⟨t, ht, -, hc, -⟩ := hcredits 0 strayReader 0 strayWriter 1 rfl rfl rfl (by decide) rfl rfl
  have hsent : exec (.creditMergeExpiry 0 0 0) strayState = .next (sendCredits strayState 0 strayChan 0) := rfl
  have hne : (0 : Nat) ≠ strayChan.chid := by decide
  cases hsent.symm.trans ht
  rw [sendCredits_chan_ne hne] at hc
  exact List.cons_ne_nil _ _ (congrArg Chan.transit (Option.some.inj hc)).symm

end


end Sys2Proof.Machine
end

section
/-! PROOFS of the encoding's statements: the round trip of the encoders and decoders (O57) and words written out (O56), what source operands
supply (O5), the fields that `emitt` replaces (O16), the words that emit queues (O14) and refuses (O15), and that a step runs what is
decoded (O58). -/

namespace Sys2Proof.Machine

-- One proof at a time, for the check's memory limit.
set_option Elab.async false

section
/-! PROOFS (O57). The generator's formats (R40): what each field of an encoded word holds, and so what a word of each format decodes to. -/

/-! ## The fields of an encoded word -/

/-- A field of a word, bit by bit. -/
theorem field_eq {n k lo : Nat} {w : BitVec n} {x : BitVec k} (h : ∀ i < k, w.getLsbD (lo + i) = x.getLsbD i) : w.extractLsb' lo k = x :=
  BitVec.eq_of_getLsbD_eq fun i hi => by rw [BitVec.getLsbD_extractLsb', h i hi, decide_eq_true hi, Bool.true_and]

theorem encA_fields (m : BitVec 6) (d a b : Opnd) (fn : BitVec 8) :
    fMop (encA m d a b fn) = m ∧ fGd (encA m d a b fn) = d ∧ fGa (encA m d a b fn) = a ∧ fGb (encA m d a b fn) = b ∧
      fFn (encA m d a b fn) = fn := by
  refine ⟨?_, ?_, ?_, ?_, ?_⟩
  all_goals exact field_eq fun i hi => by simp only [encA, BitVec.getLsbD_append]; grind

theorem encI_fields (m : BitVec 6) (d a : Opnd) (i : BitVec 14) :
    fMop (encI m d a i) = m ∧ fGd (encI m d a i) = d ∧ fGa (encI m d a i) = a ∧ fImm14 (encI m d a i) = i := by
  refine ⟨?_, ?_, ?_, ?_⟩
  all_goals exact field_eq fun i hi => by simp only [encI, BitVec.getLsbD_append]; grind

/-- The low bits of a word of format I are those of its immediate. -/
theorem encI_low (m : BitVec 6) (d a : Opnd) (i : BitVec 14) {k : Nat} (h : k ≤ 14) :
    (encI m d a i).extractLsb' 0 k = i.extractLsb' 0 k := BitVec.extractLsb'_append_eq_of_add_le (by omega)

theorem encJ_fields (m : BitVec 6) (d : Opnd) (i : BitVec 20) : fMop (encJ m d i) = m ∧ fGd (encJ m d i) = d ∧ fImm20 (encJ m d i) = i := by
  refine ⟨?_, ?_, ?_⟩
  all_goals exact field_eq fun i hi => by simp only [encJ, BitVec.getLsbD_append]; grind

theorem encE_fields (m : BitVec 6) (q : BitVec 2) (t : BitVec 4) (a b : Opnd) (fn : BitVec 8) :
    fMop (encE m q t a b fn) = m ∧ fQ (encE m q t a b fn) = q ∧ fTn (encE m q t a b fn) = t ∧ fGa (encE m q t a b fn) = a ∧
      fGb (encE m q t a b fn) = b ∧ fFn (encE m q t a b fn) = fn := by
  refine ⟨?_, ?_, ?_, ?_, ?_, ?_⟩
  all_goals exact field_eq fun i hi => by simp only [encE, BitVec.getLsbD_append]; grind

theorem encS_fields (m : BitVec 6) (d a : Opnd) (r : BitVec 12) (fn2 : BitVec 2) :
    fMop (encS m d a r fn2) = m ∧ fGd (encS m d a r fn2) = d ∧ fGa (encS m d a r fn2) = a ∧ fSys (encS m d a r fn2) = r ∧
      fFn2 (encS m d a r fn2) = fn2 := by
  refine ⟨?_, ?_, ?_, ?_, ?_⟩
  all_goals exact field_eq fun i hi => by simp only [encS, BitVec.getLsbD_append]; grind
/-- R56: the two selectors of `emitt` stand where FN stands. -/
theorem encE_selectors (m : BitVec 6) (q : BitVec 2) (t : BitVec 4) (a b : Opnd) (x y : BitVec 4) :
    (encE m q t a b (x ++ y)).extractLsb' 4 4 = x ∧ (encE m q t a b (x ++ y)).extractLsb' 0 4 = y := by
  refine ⟨?_, ?_⟩
  all_goals exact field_eq fun i hi => by simp only [encE, BitVec.getLsbD_append]; grind

/-- R40: format EL. -/
theorem encEL_fields (q : BitVec 2) (o : BitVec 24) : fQ (0x27#6 ++ q ++ o) = q ∧ (0x27#6 ++ q ++ o).extractLsb' 0 24 = o := by
  refine ⟨field_eq fun i hi => ?_, BitVec.extractLsb'_append_eq_right⟩
  simp only [BitVec.getLsbD_append]
  grind

/-- In `tld` the place of gd is that of Q and tn (R40, format E). -/
theorem encI_template (m : BitVec 6) (t : BitVec 4) (a : Opnd) (i : BitVec 14) :
    fQ (encI m (0#2 ++ t) a i) = 0 ∧ fTn (encI m (0#2 ++ t) a i) = t := by
  refine ⟨?_, ?_⟩
  all_goals exact field_eq fun i hi => by simp only [encI, BitVec.getLsbD_append]; grind

/-- A short immediate in a longer field. -/
theorem toNat_append_lt {n k : Nat} (x : BitVec k) : (0#n ++ x).toNat < 2 ^ k := by
  rw [toNat_append_add]
  simpa using x.isLt

/-! ## What a word of each format decodes to (R46, R47)

Each lemma takes the row of the decoder that the word falls in; the constructor is `c`. -/

theorem need_of {p : Bool} (h : p = true) (r : Reject) (i : Instr) : need p r i = .ok i := if_pos h

variable {m : BitVec 6} {fn : BitVec 8}

theorem decodeGen_encA {c : Opnd → Opnd → Opnd → Instr} (d a b : Opnd)
    (h : ∀ w, fMop w = m → fFn w = fn → decodeGen w = .ok (c (fGd w) (fGa w) (fGb w))) : decodeGen (encA m d a b fn) = .ok (c d a b) := by
  obtain ⟨hm, hd, ha, hb, hf⟩ := encA_fields m d a b fn
  rw [h _ hm hf, hd, ha, hb]

theorem decodeGen_encA_unary {c : Opnd → Opnd → Instr} (d a : Opnd)
    (h : ∀ w, fMop w = m → fFn w = fn → decodeGen w = need (fGb w == 0) .unusedField (c (fGd w) (fGa w))) :
    decodeGen (encA m d a 0 fn) = .ok (c d a) := by
  obtain ⟨hm, hd, ha, hb, hf⟩ := encA_fields m d a 0 fn
  rw [h _ hm hf, hd, ha, hb]
  rfl

theorem decodeGen_encI {c : Opnd → Opnd → BitVec 14 → Instr} (d a : Opnd) (i : BitVec 14)
    (h : ∀ w, fMop w = m → decodeGen w = .ok (c (fGd w) (fGa w) (fImm14 w))) : decodeGen (encI m d a i) = .ok (c d a i) := by
  obtain ⟨hm, hd, ha, hi⟩ := encI_fields m d a i
  rw [h _ hm, hd, ha, hi]

theorem decodeGen_encI_shift {c : Opnd → Opnd → BitVec 6 → Instr} (d a : Opnd) (sh : BitVec 6)
    (h : ∀ w, fMop w = m → decodeGen w = need ((fImm14 w).toNat < 64) .unusedField (c (fGd w) (fGa w) (w.extractLsb' 0 6))) :
    decodeGen (encI m d a (0#8 ++ sh)) = .ok (c d a sh) := by
  obtain ⟨hm, hd, ha, hi⟩ := encI_fields m d a (0#8 ++ sh)
  rw [h _ hm, hd, ha, hi, encI_low _ _ _ _ (by decide), BitVec.extractLsb'_append_eq_right]
  exact need_of (decide_eq_true (toNat_append_lt sh)) _ _

/-- A word whose only operand is a number of `k` bits, which `z` holds. -/
theorem decodeGen_encI_number {k : Nat} {c : BitVec k → Instr} (x : BitVec k) (hk : k ≤ 14) (z : BitVec 14)
    (hz : z.toNat < 2 ^ k) (hx : z.extractLsb' 0 k = x)
    (h : ∀ w, fMop w = m → decodeGen w = need (fGd w == 0 && fGa w == 0 && (fImm14 w).toNat < 2 ^ k) .unusedField (c (w.extractLsb' 0 k))) :
    decodeGen (encI m 0 0 z) = .ok (c x) := by
  obtain ⟨hm, hd, ha, hi⟩ := encI_fields m 0 0 z
  rw [h _ hm, hd, ha, hi, encI_low _ _ _ _ hk, hx]
  exact need_of (by simpa using hz) _ _

theorem decodeGen_encJ {c : Opnd → BitVec 20 → Instr} (d : Opnd) (i : BitVec 20)
    (h : ∀ w, fMop w = m → decodeGen w = .ok (c (fGd w) (fImm20 w))) : decodeGen (encJ m d i) = .ok (c d i) := by
  obtain ⟨hm, hd, hi⟩ := encJ_fields m d i
  rw [h _ hm, hd, hi]

/-- R142: a burst names a port and two different registers. -/
theorem decodeGen_burst {c : Opnd → Opnd → Opnd → Instr} (p a b : Opnd) (hp : namesPort p = true) (hr : burstRegs a b = true)
    (h : ∀ w, fMop w = m → decodeGen w = if fFn w != 0 then .error .unassignedFn else if !namesPort (fGd w) then .error .notAPort
      else need (burstRegs (fGa w) (fGb w)) .burstRegister (c (fGd w) (fGa w) (fGb w))) :
    decodeGen (encA m p a b 0) = .ok (c p a b) := by
  obtain ⟨hm, hd, ha, hb, hf⟩ := encA_fields m p a b 0
  rw [h _ hm, hd, ha, hb, hf, hp]
  exact need_of hr _ _

/-- R366: an operation of `ctl` is told by its number alone. -/
theorem decodeGen_ctl {c : Opnd → Opnd → Instr} (d a : Opnd) (r : BitVec 12)
    (h : ∀ w, fMop w = 0x35 → fSys w = r → fFn2 w = 0 → decodeGen w = .ok (c (fGd w) (fGa w))) :
    decodeGen (encS 0x35 d a r 0) = .ok (c d a) := by
  obtain ⟨hm, hd, ha, hr, hf⟩ := encS_fields 0x35 d a r 0
  rw [h _ hm hr hf, hd, ha]

/-- R353: `sysw` and its two other forms are told by FN2. -/
theorem decodeGen_sysw {c : Opnd → BitVec 12 → Instr} (a : Opnd) (r : BitVec 12) (hr : sysregKnown r = true) (k : BitVec 2)
    (h : ∀ w, fMop w = 0x31 → fGd w = 0 → fFn2 w = k → decodeGen w = need (sysregKnown (fSys w)) .unknownSysreg (c (fGa w) (fSys w))) :
    decodeGen (encS 0x31 0 a r k) = .ok (c a r) := by
  obtain ⟨hm, hd, ha, hs, hf⟩ := encS_fields 0x31 0 a r k
  rw [h _ hm hd hf, ha, hs]
  exact need_of hr _ _

/-- R145: of the forms of `chctl` only `eosrd` has a destination. -/
theorem decodeGen_chctl {c : Opnd → Opnd → Instr} (d p : Opnd) (k : BitVec 8) (hp : namesPort p = true)
    (h : ∀ w, fFn w = k → fGd w = d → fGb w = 0 → decodeChctl w = need (namesPort (fGa w)) .notAPort (c d (fGa w))) :
    decodeGen (encA 0x24 d p 0 k) = .ok (c d p) := by
  obtain ⟨hm, hd, ha, hb, hf⟩ := encA_fields 0x24 d p 0 k
  unfold decodeGen
  rw [hm]
  show decodeChctl _ = _
  rw [h _ hf hd hb, ha]
  exact need_of hp _ _

theorem decodeGen_emit (q : BitVec 2) (a b : Opnd) (hq : queueOk q = true) : decodeGen (encE 0x25 q 0 a b 0) = .ok (.emit q a b) := by
  obtain ⟨hm, hq', ht, ha, hb, hf⟩ := encE_fields 0x25 q 0 a b 0
  unfold decodeGen
  rw [hm]
  show (if fTn _ != 0 || fFn _ != 0 then _ else need (queueOk (fQ _)) _ (.emit (fQ _) (fGa _) (fGb _))) = _
  rw [ht, hf, hq', ha, hb]
  exact need_of hq _ _

theorem decodeGen_emitt (q : BitVec 2) (t : BitVec 4) (a b : Opnd) (x y : BitVec 4) (hwf : (Instr.emitt q t a b x y).wf = true) :
    decodeGen (encE 0x26 q t a b (x ++ y)) = .ok (.emitt q t a b x y) := by
  obtain ⟨hm, hq', ht, ha, hb, -⟩ := encE_fields 0x26 q t a b (x ++ y)
  obtain ⟨hx, hy⟩ := encE_selectors 0x26 q t a b x y
  have hq : queueOk q = true := (Bool.and_eq_true_iff.mp (Bool.and_eq_true_iff.mp hwf).1).1
  unfold decodeGen
  rw [hm]
  show (if !queueOk (fQ _) then _ else need (Instr.emitt (fQ _) (fTn _) (fGa _) (fGb _) _ _).wf _
    (.emitt (fQ _) (fTn _) (fGa _) (fGb _) _ _)) = _
  rw [hq', ht, ha, hb, hx, hy, hq]
  exact need_of hwf _ _

theorem decodeGen_emitl (q : BitVec 2) (o : BitVec 24) (hq : queueOk q = true) : decodeGen (0x27#6 ++ q ++ o) = .ok (.emitl q o) := by
  obtain ⟨hq', ho⟩ := encEL_fields q o
  unfold decodeGen
  rw [Laws.fMop_emitl]
  show need (queueOk (fQ _)) _ (.emitl (fQ _) _) = _
  rw [hq', ho]
  exact need_of hq _ _

theorem decodeGen_tset (t : BitVec 4) (a b : Opnd) : decodeGen (encE 0x28 0 t a b 0) = .ok (.tset t a b) := by
  obtain ⟨hm, hq, ht, ha, hb, hf⟩ := encE_fields 0x28 0 t a b 0
  unfold decodeGen
  rw [hm]
  show need (fQ _ == 0 && fFn _ == 0) _ (.tset (fTn _) (fGa _) (fGb _)) = _
  rw [hq, hf, ht, ha, hb]
  rfl

theorem decodeGen_tld (t : BitVec 4) (a : Opnd) (i : BitVec 14) : decodeGen (encI 0x29 (0#2 ++ t) a i) = .ok (.tld t a i) := by
  obtain ⟨hm, -, ha, hi⟩ := encI_fields 0x29 (0#2 ++ t) a i
  obtain ⟨hq, ht⟩ := encI_template 0x29 t a i
  unfold decodeGen
  rw [hm]
  show need (fQ _ == 0) _ (.tld (fTn _) (fGa _) (fImm14 _)) = _
  rw [hq, ht, ha, hi]
  rfl

theorem decodeGen_cfetch (a b : Opnd) : decodeGen (encA 0x2C 0 a b 0) = .ok (.cfetch a b) := by
  obtain ⟨hm, hd, ha, hb, hf⟩ := encA_fields 0x2C 0 a b 0
  unfold decodeGen
  rw [hm]
  show need (fGd _ == 0 && fFn _ == 0) _ (.cfetch (fGa _) (fGb _)) = _
  rw [hd, hf, ha, hb]
  rfl

theorem decodeGen_cwait (a : Opnd) : decodeGen (encI 0x2D 0 a 0) = .ok (.cwait a) := by
  obtain ⟨hm, hd, ha, hi⟩ := encI_fields 0x2D 0 a 0
  unfold decodeGen
  rw [hm]
  show need (fGd _ == 0 && fImm14 _ == 0) _ (.cwait (fGa _)) = _
  rw [hd, hi, ha]
  rfl

theorem decodeGen_sysr (d : Opnd) (r : BitVec 12) (hr : sysregKnown r = true) : decodeGen (encS 0x30 d 0 r 0) = .ok (.sysr d r) := by
  obtain ⟨hm, hd, ha, hs, hf⟩ := encS_fields 0x30 d 0 r 0
  unfold decodeGen
  rw [hm]
  show (if fGa _ != 0 then _ else if fFn2 _ != 0 then _ else need (sysregKnown (fSys _)) _ (.sysr (fGd _) (fSys _))) = _
  rw [ha, hf, hs, hd]
  exact need_of hr _ _

theorem decodeGen_trap (i : BitVec 14) : decodeGen (encI 0x32 0 0 i) = .ok (.trap i) := by
  obtain ⟨hm, hd, ha, hi⟩ := encI_fields 0x32 0 0 i
  unfold decodeGen
  rw [hm]
  show need (fGd _ == 0 && fGa _ == 0) _ (.trap (fImm14 _)) = _
  rw [hd, ha, hi]
  rfl

/-! ## The generator's instructions -/

/-- R370: the six region commands share one word, which decodes to the first of them. -/
def sharedWord : Instr → Instr
  | .rgncmdHalt d a | .rgncmdReset d a | .rgncmdScrub d a | .rgncmdSwitch d a | .rgncmdRelease d a => .rgncmdAssign d a
  | i => i

theorem decodeGen_encodeGen (i : Instr) (w : Word32) (hwf : i.wf = true) (he : encodeGen i = some w) : decodeGen w = .ok (sharedWord i) := by
  cases i with
  | add d a b | sub d a b | and d a b | or d a b | xor d a b | andn d a b | sll d a b | srl d a b | sra d a b | slt d a b
  | sltu d a b | min d a b | max d a b | minu d a b | maxu d a b | mul d a b | mulh d a b | mulhu d a b | div d a b | divu d a b
  | rem d a b | remu d a b =>
    obtain rfl := Option.some.inj he
    exact decodeGen_encA d a b fun w hm hf => by rw [decodeGen, hm]; unfold decodeAlu; rw [hf]; rfl
  | clz d a | ctz d a | popc d a | sextb d a | sexth d a | sextw d a | zextb d a | zexth d a | zextw d a =>
    obtain rfl := Option.some.inj he
    exact decodeGen_encA_unary d a fun w hm hf => by unfold decodeGen; rw [hm]; unfold decodeAlu; rw [hf]; rfl
  | addi d a i | andi d a i | ori d a i | xori d a i | slti d a i | sltiu d a i
  | ldb d a i | ldbu d a i | ldh d a i | ldhu d a i | ldw d a i | ldwu d a i | ldd d a i
  | stb d a i | sth d a i | stw d a i | std d a i
  | beq d a i | bne d a i | blt d a i | bge d a i | bltu d a i | bgeu d a i | jalr d a i | jmpf d a i =>
    obtain rfl := Option.some.inj he
    exact decodeGen_encI d a i fun w hm => by unfold decodeGen; rw [hm]; rfl
  | slli d a sh | srli d a sh | srai d a sh =>
    obtain rfl := Option.some.inj he
    exact decodeGen_encI_shift d a sh fun w hm => by unfold decodeGen; rw [hm]; rfl
  | lsi d i | addpc d i | ldpc d i | jal d i =>
    obtain rfl := Option.some.inj he
    exact decodeGen_encJ d i fun w hm => by unfold decodeGen; rw [hm]; rfl
  | recvb p a b | sendb p a b =>
    obtain rfl := Option.some.inj he
    obtain ⟨hp, hr⟩ := Bool.and_eq_true_iff.mp hwf
    exact decodeGen_burst p a b hp hr fun w hm => by unfold decodeGen; rw [hm]; rfl
  | chctlClose p =>
    obtain rfl := Option.some.inj he
    exact decodeGen_chctl (c := fun _ => .chctlClose) 0 p 0 hwf fun w hf hd hb => by unfold decodeChctl; rw [hf, hd, hb]; rfl
  | chctlEosrd d p =>
    obtain rfl := Option.some.inj he
    exact decodeGen_chctl d p 1 hwf fun w hf hd hb => by unfold decodeChctl; rw [hf, hd, hb]; rfl
  | chctlEosclr p =>
    obtain rfl := Option.some.inj he
    exact decodeGen_chctl (c := fun _ => .chctlEosclr) 0 p 2 hwf fun w hf hd hb => by unfold decodeChctl; rw [hf, hd, hb]; rfl
  | emit q a b => obtain rfl := Option.some.inj he; exact decodeGen_emit q a b hwf
  | emitt q t a b x y => obtain rfl := Option.some.inj he; exact decodeGen_emitt q t a b x y hwf
  | emitl q o => obtain rfl := Option.some.inj he; exact decodeGen_emitl q o hwf
  | tset t a b => obtain rfl := Option.some.inj he; exact decodeGen_tset t a b
  | tld t a i => obtain rfl := Option.some.inj he; exact decodeGen_tld t a i
  | cfetch a b => obtain rfl := Option.some.inj he; exact decodeGen_cfetch a b
  | cwait a => obtain rfl := Option.some.inj he; exact decodeGen_cwait a
  | sysr d r => obtain rfl := Option.some.inj he; exact decodeGen_sysr d r hwf
  | trap i => obtain rfl := Option.some.inj he; exact decodeGen_trap i
  | sret => obtain rfl := Option.some.inj he; rfl
  | exit => obtain rfl := Option.some.inj he; rfl
  | gwait b | mwaitb b =>
    obtain rfl := Option.some.inj he
    exact decodeGen_encI_number b (by decide) _ (toNat_append_lt b) BitVec.extractLsb'_append_eq_right fun w hm => by
      unfold decodeGen; rw [hm]; rfl
  | gbar g | phase g =>
    obtain rfl := Option.some.inj he
    exact decodeGen_encI_number g (by decide) _ (toNat_append_lt g) BitVec.extractLsb'_append_eq_right fun w hm => by
      unfold decodeGen; rw [hm]; rfl
  | sysw a r | syswSet a r | syswClr a r =>
    obtain rfl := Option.some.inj he
    exact decodeGen_sysw a r hwf _ fun w hm hd hf => by unfold decodeGen; rw [hm]; unfold decodeSysw; rw [hd, hf]; rfl
  | ctlKload d a | ctlKzero d a | rgncmdAssign d a | rgncmdHalt d a | rgncmdReset d a | rgncmdScrub d a | rgncmdSwitch d a
  | rgncmdRelease d a | ctlTlbinv d a | ctlPrget d a | ctlPrans d a | ctlCaston d a | ctlCancel d a | ctlAttest d a | ctlRebind d a =>
    obtain rfl := Option.some.inj he
    exact decodeGen_ctl d a _ fun w hm hr hf => by unfold decodeGen; rw [hm]; unfold decodeCtl; rw [hf, hr]; rfl
  | _ => exact absurd he.symm (Option.some_ne_none w)
end

section
/-! PROOFS (O57). The engines' words (R48-R53), and so the whole round trip. -/

/-! ## The fields of an encoded word -/

theorem fEop_encVec (op : BitVec 8) (f : VecF) : fEop (encVec op f) = op :=
  field_eq fun i hi => by simp only [encVec, BitVec.getLsbD_append]; grind

theorem vecFields_encVec (op : BitVec 8) (f : VecF) : vecFields (encVec op f) = f := by
  obtain ⟨vd, va, vb, vc, msk, mz, rm, sat, sub, imm⟩ := f
  simp only [vecFields, VecF.mk.injEq]
  refine ⟨?_, ?_, ?_, ?_, ?_, ?_, ?_, ?_, ?_, ?_⟩
  all_goals exact field_eq fun i hi => by simp only [encVec, BitVec.getLsbD_append]; grind

theorem fEop_encMem (op : BitVec 8) (f : MemF) : fEop (encMem op f) = op :=
  field_eq fun i hi => by simp only [encMem, BitVec.getLsbD_append]; grind

/-- R50: with the reserved bits zero. -/
theorem memFields_encMem (op : BitVec 8) (f : MemF) : memFields (encMem op f) = f ∧ (encMem op f).extractLsb' 22 3 = 0 := by
  obtain ⟨vd, vi, msk, win, eb, es, ff, off⟩ := f
  simp only [memFields, MemF.mk.injEq]
  refine ⟨⟨?_, ?_, ?_, ?_, ?_, ?_, ?_, ?_⟩, ?_⟩
  all_goals exact field_eq fun i hi => by simp only [encMem, BitVec.getLsbD_append]; grind

theorem fEop_encMat (op : BitVec 8) (f : MatF) : fEop (encMat op f) = op :=
  field_eq fun i hi => by simp only [encMat, BitVec.getLsbD_append]; grind

/-- R51: with the reserved bits zero. -/
theorem matFields_encMat (op : BitVec 8) (f : MatF) : matFields (encMat op f) = f ∧ (encMat op f).extractLsb' 0 20 = 0 := by
  obtain ⟨fmt, acc, depth, asrc, bsrc, a, b, batch, flags⟩ := f
  simp only [matFields, MatF.mk.injEq]
  refine ⟨⟨?_, ?_, ?_, ?_, ?_, ?_, ?_, ?_, ?_⟩, ?_⟩
  all_goals exact field_eq fun i hi => by simp only [encMat, BitVec.getLsbD_append]; grind

theorem fEop_encCopy (op : BitVec 8) (f : CopyF) : fEop (encCopy op f) = op :=
  field_eq fun i hi => by simp only [encCopy, BitVec.getLsbD_append]; grind

theorem copyFields_encCopy (op : BitVec 8) (f : CopyF) : copyFields (encCopy op f) = f := by
  obtain ⟨ed, ef, fo, mode, op', imm⟩ := f
  simp only [copyFields, CopyF.mk.injEq]
  refine ⟨?_, ?_, ?_, ?_, ?_, ?_⟩
  all_goals exact field_eq fun i hi => by simp only [encCopy, BitVec.getLsbD_append]; grind

/-! ## What a word of each class decodes to -/

theorem judge_wf {i : Instr} (h : i.wf = true) : judge (some i) true = .ok i := need_of h _ _

theorem decodeEng_encVec (op : BitVec 8) (f : VecF) : decodeEng (encVec op f) = judge (vecOp op.toNat f) true := by
  unfold decodeEng
  rw [Laws.fEcls_encVec, fEop_encVec, vecFields_encVec]
  rfl

theorem decodeEng_encMem (op : BitVec 8) (f : MemF) : decodeEng (encMem op f) = judge (memOp op.toNat f) true := by
  obtain ⟨hf, hr⟩ := memFields_encMem op f
  unfold decodeEng
  rw [Laws.fEcls_encMem, fEop_encMem, hf, hr]
  rfl

theorem decodeEng_encMat (op : BitVec 8) (f : MatF) : decodeEng (encMat op f) = judge (matOp op.toNat f) true := by
  obtain ⟨hf, hr⟩ := matFields_encMat op f
  unfold decodeEng
  rw [Laws.fEcls_encMat, fEop_encMat, hf, hr]
  rfl

theorem decodeEng_encCopy (op : BitVec 8) (f : CopyF) : decodeEng (encCopy op f) = judge (copyOp op.toNat f) true := by
  unfold decodeEng
  rw [Laws.fEcls_encCopy, fEop_encCopy, copyFields_encCopy]
  rfl

/-- R53: a control word is told by its EOP. -/
theorem decodeEng_control {w : Word} {n : BitVec 8} {row : Word → Except Reject Instr} (hc : fEcls w = 4) (hn : fEop w = n)
    (h : ∀ w, fEop w = n → decodeCtrlWord w = row w) : decodeEng w = row w := by
  unfold decodeEng
  rw [hc]
  exact h w hn

theorem decodeEng_esetL (e : BitVec 4) (imm : BitVec 48) : decodeEng (4#4 ++ 0#8 ++ e ++ imm) = .ok (.esetL e imm) := by
  have hf : fEop (4#4 ++ 0#8 ++ e ++ imm) = 0 ∧ (4#4 ++ 0#8 ++ e ++ imm).extractLsb' 48 4 = e ∧
      (4#4 ++ 0#8 ++ e ++ imm).extractLsb' 0 48 = imm := by
    refine ⟨?_, ?_, ?_⟩
    all_goals exact field_eq fun i hi => by simp only [BitVec.getLsbD_append]; grind
  obtain ⟨hn, he, hi⟩ := hf
  refine (decodeEng_control (Laws.fEcls_esetL e imm) hn (row := fun w => .ok (.esetL (w.extractLsb' 48 4) (w.extractLsb' 0 48)))
    fun w h => by unfold decodeCtrlWord; rw [h]; rfl).trans ?_
  rw [he, hi]

theorem decodeEng_esetH (e : BitVec 4) (imm : BitVec 16) : decodeEng (4#4 ++ 1#8 ++ e ++ 0#32 ++ imm) = .ok (.esetH e imm) := by
  have hf : fEop (4#4 ++ 1#8 ++ e ++ 0#32 ++ imm) = 1 ∧ (4#4 ++ 1#8 ++ e ++ 0#32 ++ imm).extractLsb' 16 32 = 0 ∧
      (4#4 ++ 1#8 ++ e ++ 0#32 ++ imm).extractLsb' 48 4 = e ∧ (4#4 ++ 1#8 ++ e ++ 0#32 ++ imm).extractLsb' 0 16 = imm := by
    refine ⟨?_, ?_, ?_, ?_⟩
    all_goals exact field_eq fun i hi => by simp only [BitVec.getLsbD_append]; grind
  obtain ⟨hn, hz, he, hi⟩ := hf
  refine (decodeEng_control (Laws.fEcls_esetH e imm) hn (row := fun w =>
    need (w.extractLsb' 16 32 == 0) .badField (.esetH (w.extractLsb' 48 4) (w.extractLsb' 0 16)))
    fun w h => by unfold decodeCtrlWord; rw [h]; rfl).trans ?_
  rw [hz, he, hi]
  rfl

theorem decodeEng_qjoin (m : BitVec 3) : decodeEng (4#4 ++ 2#8 ++ 0#1 ++ m ++ 0#48) = .ok (.qjoin m) := by
  have hf : fEop (4#4 ++ 2#8 ++ 0#1 ++ m ++ 0#48) = 2 ∧ (4#4 ++ 2#8 ++ 0#1 ++ m ++ 0#48).extractLsb' 51 1 = 0 ∧
      (4#4 ++ 2#8 ++ 0#1 ++ m ++ 0#48).extractLsb' 0 48 = 0 ∧ (4#4 ++ 2#8 ++ 0#1 ++ m ++ 0#48).extractLsb' 48 3 = m := by
    refine ⟨?_, ?_, ?_, ?_⟩
    all_goals exact field_eq fun i hi => by simp only [BitVec.getLsbD_append]; grind
  obtain ⟨hn, hz, hy, hm⟩ := hf
  refine (decodeEng_control (Laws.fEcls_qjoin m) hn (row := fun w =>
    need (w.extractLsb' 51 1 == 0 && w.extractLsb' 0 48 == 0) .badField (.qjoin (w.extractLsb' 48 3)))
    fun w h => by unfold decodeCtrlWord; rw [h]; rfl).trans ?_
  rw [hz, hy, hm]
  rfl

theorem decodeEng_replay (e : BitVec 4) (r : BitVec 1) : decodeEng (4#4 ++ 3#8 ++ e ++ r ++ 0#47) = .ok (.replay e r) := by
  have hf : fEop (4#4 ++ 3#8 ++ e ++ r ++ 0#47) = 3 ∧ (4#4 ++ 3#8 ++ e ++ r ++ 0#47).extractLsb' 0 47 = 0 ∧
      (4#4 ++ 3#8 ++ e ++ r ++ 0#47).extractLsb' 48 4 = e ∧ (4#4 ++ 3#8 ++ e ++ r ++ 0#47).extractLsb' 47 1 = r := by
    refine ⟨?_, ?_, ?_, ?_⟩
    all_goals exact field_eq fun i hi => by simp only [BitVec.getLsbD_append]; grind
  obtain ⟨hn, hz, he, hr⟩ := hf
  refine (decodeEng_control (Laws.fEcls_replay e r) hn (row := fun w =>
    need (w.extractLsb' 0 47 == 0) .badField (.replay (w.extractLsb' 48 4) (w.extractLsb' 47 1)))
    fun w h => by unfold decodeCtrlWord; rw [h]; rfl).trans ?_
  rw [hz, he, hr]
  rfl

theorem decodeEng_encodeEng (i : Instr) (w : Word) (hwf : i.wf = true) (he : encodeEng i = some w) : decodeEng w = .ok i := by
  cases i with
  | vadd f | vsub f | vmul f | vfma f | vfms f | vfnma f | vdiv f | vsqrt f | vrcp f | vrsqrt f | vexp2 f | vlog2 f | vmin f | vmax f
  | vabs f | vneg f | vcmp f | vsel f | vcvt f | viadd f | visub f | vimul f | vimulh f | vimin f | vimax f | viminu f | vimaxu f
  | vand f | vor f | vxor f | vshl f | vshr f | vsra f | vicmp f | vredsum f | vredmax f | vredmin f | viredsum f | viota f | vbcast f
  | vmv f | vmrg f | vnorm f | vsetvl f | mand f | mor f | mxor f | mnot f =>
    obtain rfl := Option.some.inj he
    exact (decodeEng_encVec _ f).trans (judge_wf hwf)
  | vld f | vst f | vlds f | vsts f | vldx f | vstx f | vscadd f | vperm f | vrot f | vslide f | vcompress f =>
    obtain rfl := Option.some.inj he
    exact (decodeEng_encMem _ f).trans (judge_wf hwf)
  | mzero f | mstep f | mcommit f | mrd f | mst f | mcfg f | msave f | mload f =>
    obtain rfl := Option.some.inj he
    exact (decodeEng_encMat _ f).trans (judge_wf hwf)
  | xcopy f | xget f | xput f | xstream f | xgather f | xatom f =>
    obtain rfl := Option.some.inj he
    exact (decodeEng_encCopy _ f).trans (judge_wf hwf)
  | esetL e imm => obtain rfl := Option.some.inj he; exact decodeEng_esetL e imm
  | esetH e imm => obtain rfl := Option.some.inj he; exact decodeEng_esetH e imm
  | qjoin m => obtain rfl := Option.some.inj he; exact decodeEng_qjoin m
  | replay e r => obtain rfl := Option.some.inj he; exact decodeEng_replay e r
  | enop => obtain rfl := Option.some.inj he; rfl
  | _ => exact absurd he.symm (Option.some_ne_none w)

/-- Settles O57: format by format for the generator, class by class for the engines. -/
theorem encodeDecode : Obligations.EncodeDecode := by
  unfold Obligations.EncodeDecode
  exact ⟨decodeGen_encodeGen, decodeEng_encodeEng⟩

end

section
/-! PROOFS (O56, O16, O5). Words written out; the fields that selectors replace (R56); the values that sources supply (R41, R44, R136). -/

/-- Settles O56: word by word, by evaluation of the decoders. -/
theorem decodeKnownWords : Obligations.DecodeKnownWords := by
  unfold Obligations.DecodeKnownWords
  exact ⟨rfl, rfl, rfl, rfl, rfl, rfl, rfl, rfl, rfl, rfl, rfl, rfl, rfl, rfl, rfl, rfl, rfl⟩

/-! ## The fields of `emitt` -/

/-- The bits of the mask of a field. -/
theorem fieldMask_getLsbD (lo width : Nat) {n : Nat} (h : n < 64) :
    (BitVec.ofNat 64 ((2 ^ width - 1) * 2 ^ lo)).getLsbD n = decide (lo ≤ n ∧ n < lo + width) := by
  rw [BitVec.getLsbD_ofNat, Nat.testBit_mul_two_pow, Nat.testBit_two_pow_sub_one, Bool.eq_iff_iff]
  simp only [h, Bool.and_eq_true, decide_eq_true_eq, true_and]
  omega

/-- R55, R56: a selector replaces the bits of its field, and no other. -/
theorem patch_getLsbD (w v : Word) (sel : Nat) {n : Nat} (h : n < 64) :
    (patch w sel v).getLsbD n =
      if (selField sel).1 ≤ n ∧ n < (selField sel).1 + (selField sel).2 then v.getLsbD (n - (selField sel).1) else w.getLsbD n := by
  unfold patch
  simp only [BitVec.getLsbD_or, BitVec.getLsbD_and, BitVec.getLsbD_not, BitVec.getLsbD_shiftLeft, fieldMask_getLsbD _ _ h, h]
  split
  · next hf => simp [hf, Nat.not_lt.mpr hf.1]
  · next hf => simp [hf]

/-- Settles O16: selector by selector, from the bits of `patch`. -/
theorem patchFields : Obligations.PatchFields := by
  unfold Obligations.PatchFields
  intro w v n h puts
  exact ⟨patch_getLsbD w v 0 h, patch_getLsbD w v 1 h, patch_getLsbD w v 2 h, patch_getLsbD w v 3 h, patch_getLsbD w v 4 h,
    patch_getLsbD w v 5 h, patch_getLsbD w v 6 h, patch_getLsbD w v 7 h, patch_getLsbD w v 8 h, patch_getLsbD w v 9 h,
    patch_getLsbD w v 10 h, patch_getLsbD w v 11 h, patch_getLsbD w v 12 h, patch_getLsbD w v 13 h, patch_getLsbD w v 14 h,
    patch_getLsbD w v 15 h⟩

/-! ## What source operands supply -/

variable {s : State} {o : Opnd} {c : Chan}

theorem takeSrc_g (s : State) (h : opIsPort o = false) : takeSrc s o = (s.me.bank.readG o.toNat, s) := by
  unfold takeSrc
  rw [h]
  rfl

/-- R41, R103: g0 reads zero. -/
theorem takeSrc_zero (s : State) (h : o.toNat = 0) : takeSrc s o = (0, s) := by
  rw [takeSrc_g s (by unfold opIsPort; rw [h]; rfl), h, bank_readG_zero]

theorem takeSrc_port (s : State) (h : opIsPort o = true) : takeSrc s o = takePort s s.cur (opPort o) := by
  unfold takeSrc
  rw [h]
  rfl

variable {p : Nat}

/-- R136: a port that has a slot. -/
theorem takePort_data (hc : s.chan? (s.me.port p).net (s.me.port p).ch = some c) (hd : (s.me.port p).readAt c (s.me.port p).k = .data) :
    takePort s s.cur p = (BitVec.ofNat 64 (leNat (s.slotBytes s.cur c (s.me.port p).k)),
      s.modMe fun x => (x.log (.read p 1)).modPort p fun q => { q with k := q.k + 1 }) := by
  unfold takePort
  dsimp only
  rw [show s.slot s.cur = s.me from rfl, hc]
  dsimp only
  rw [hd]
  rfl

/-- R136: a port at its end mark. -/
theorem takePort_fin (hc : s.chan? (s.me.port p).net (s.me.port p).ch = some c) (hf : (s.me.port p).readAt c (s.me.port p).k = .fin) :
    takePort s s.cur p = (0, s.modMe fun x =>
      { x.log (.eos p (x.vec.eos.getLsbD p)) with vec := { x.vec with eos := x.vec.eos ||| (1#16 <<< p) } }) := by
  unfold takePort
  dsimp only
  rw [show s.slot s.cur = s.me from rfl, hc]
  dsimp only
  rw [hf]
  rfl

/-- Settles O5: a g register, then a port that has a slot or stands at its end mark. -/
theorem sourceForms : Obligations.SourceForms := by
  unfold Obligations.SourceForms
  intro s o os _
  refine ⟨takeSrc_zero s, takeSrc_g s, fun c ho hc => ⟨fun hd => ?_, fun hf => ?_⟩, rfl⟩
  · rw [takeSrc_port s ho, takePort_data hc hd, me_modMe]
    exact ⟨rfl, congrArg Port.k (slot_port_modPort_self _ _ _), rfl⟩
  · rw [takeSrc_port s ho, takePort_fin hc hf, me_modMe]
    exact ⟨rfl, rfl, rfl⟩

end

section
/-! PROOFS (O15). A word that `emit`, `emitt` or `emitl` is refused (R54, R174). -/

variable {s t : State} {q : Queue} {w : Word}

/-- R44: with its operands in order, a generator instruction whose body traps raises the cause. -/
theorem genOp_trap {srcs : List Opnd} {dst : Option Opnd} {k : List Word → State → Body} {c : Cause} {fw : Word} {va : Option Word}
    (h : OperandsOk s srcs dst) (hk : k (takeSrcs s srcs).1 (takeSrcs s srcs).2 = .trap c fw va) :
    genOp s srcs dst k = trapG s c fw va := by
  unfold genOp
  rw [h.named]
  simp only [Bool.false_eq_true, if_false, h.checked, h.ready, h.room]
  rw [hk]

/-- R54, R48: a word that is no engine word, or that its queue does not carry. -/
def Refused (q : Queue) (w : Word) : Prop := (∃ r, decodeEng w = .error r) ∨ classFits w q = false

theorem judgeWord_refused (h : Refused q w) (s : State) (j : Nat) (sd : Side) (iw : Word) : judgeWord s j sd q w iw = .bad .badword w := by
  unfold judgeWord
  split
  · rfl
  · next i hi =>
    obtain ⟨r, hr⟩ | hc := h
    · rw [hr] at hi; cases hi
    · rw [hc]; rfl

theorem emitBody_refused (h : Refused q w) (s t : State) : emitBody s t q w = .trap .badword w none := by
  unfold emitBody
  simp only [judgeWord_refused h]

/-- R54, R174: with its operands in order, an emit of a word that is refused raises BADWORD. -/
theorem emit_refused {srcs : List Opnd} {k : List Word → State → Body} (hs : s.me.atS = false) (h : OperandsOk s srcs none)
    (hw : Refused q w) (hk : k (takeSrcs s srcs).1 (takeSrcs s srcs).2 = emitBody s (takeSrcs s srcs).2 q w) :
    Traps (genOp s srcs none k) s .badword w := by
  rw [genOp_trap h (hk.trans (emitBody_refused hw s _))]
  exact trapG_traps .badword w hs Cause.noConfusion Cause.noConfusion

/-- R55: the body of an `emitl` whose literal may be read. -/
theorem emitl_body (q : Queue) {ea : Word} (h : literalAccess s s.cur ea.toNat = .go) :
    ((literalAccess s s.cur ea.toNat).body ea fun _ => emitBody s s q (BitVec.ofNat 64 (s.loadNat s.cur ea.toNat 8))) =
      emitBody s s q (BitVec.ofNat 64 (s.loadNat s.cur ea.toNat 8)) := by
  rw [h]
  rfl

/-- Settles O15: form by form, from the judgement of a word that is refused. -/
theorem refusedWordTraps : Obligations.RefusedWordTraps := by
  unfold Obligations.RefusedWordTraps
  intro s q hs refused
  refine ⟨fun a b h hw => ?_, fun n a b x y h hw => ?_, fun o h hl hw => ?_⟩
  · rw [exec_emit, execEmit]
    exact emit_refused hs h hw rfl
  · rw [exec_emitt, execEmitt]
    exact emit_refused hs h hw rfl
  · rw [exec_emitl, execEmitl]
    exact emit_refused hs h hw (emitl_body (queueOf q) hl)

end

section
/-! PROOFS (O14). A word that is emitted: what is queued, and the frame (R174, R181). -/

variable {s t u v : State} {i : Nat} {W : Nat → Nat → Prop} {q : Queue} {w : Word} {hulls dhull foh : List Hull} {fo : Option Word}

/-! ## What is left as it was -/

/-- A change of one slot that leaves alone what `Kept` speaks of. -/
theorem kept_of_slot (ht : t = { s with slots := t.slots }) (hj : ∀ j, j ≠ i → t.slot j = s.slot j) (hid : (t.slot i).id = (s.slot i).id)
    (hgen : (t.slot i).gen = (s.slot i).gen)
    (heng : (t.slot i).eng = { (s.slot i).eng with hist := (t.slot i).eng.hist, stores := (t.slot i).eng.stores })
    (hvec : (t.slot i).vec = (s.slot i).vec) (htr : (t.slot i).tr = (s.slot i).tr) (hother : (t.slot i).otherBank = (s.slot i).otherBank) :
    Kept i W s t := by
  obtain ⟨l, rfl⟩ : ∃ l, t = { s with slots := l } := ⟨_, ht⟩
  exact { Kept.refl i W s with
    slots := fun j h => (hj j h) ▸ PortsCut.refl _, id := by rw [hid], gen := by rw [hgen], eng := heng, vec := by rw [hvec], tr := htr
    other := hother }

/-- What is kept is kept also with the queues put back. -/
theorem Kept.withQueues (h : Kept i W v t) (s : State) : Kept i W (withQueuesOf s v i) (withQueuesOf s t i) := by
  have hv : (withQueuesOf s v i).slot i = _ := slot_modSlot_self _ _ _
  have ht : (withQueuesOf s t i).slot i = _ := slot_modSlot_self _ _ _
  refine { h with slots := fun j hj => ?_, id := ?_, gen := ?_, eng := ?_, vec := ?_, tr := ?_, other := ?_ }
  · unfold withQueuesOf
    rw [slot_modSlot_ne _ _ hj, slot_modSlot_ne _ _ hj]
    exact h.slots j hj
  all_goals rw [hv, ht]
  · exact h.id
  · exact h.gen
  · dsimp only
    rw [h.eng]
  · exact h.vec
  · exact h.tr
  · exact h.other

theorem storesClean_congr (h : StoresClean s i) (hp : ∀ a, (t.slot i).phys a = (s.slot i).phys a) (ht : t.tiles = s.tiles)
    (hst : (t.slot i).eng.stores = (s.slot i).eng.stores) : StoresClean t i := by
  intro x hx hn
  unfold State.eccAt
  rw [hp, tile_congr ht]
  exact h x (hst ▸ hx) hn

/-! ## The queues -/

/-- R169, R174, R181: a slot whose queue has taken a word. -/
def Slot.enqueued (x : Slot) (q : Queue) (w : Word) (hulls dhull : List Hull) (fo : Option Word) (foh : List Hull) : Slot :=
  let e : QEntry :=
    { word := w, epc := x.gen.pc, eseq := x.bank.eseq, pos := x.gen.icnt, rm := x.vec.fcsr, mask0 := x.eng.omask, hulls := hulls
      dhull := dhull, fo := fo, sub := 0, stat := .queued, prog := {}, iter := 0, q := q }
  let eng := x.eng.setQueue q (x.eng.queue q ++ [e])
  let eng := match fo with
    | some fw => { eng with mq := eng.mq ++ [{ e with word := fw, hulls := foh, dhull := [], fo := none, sub := 1, stat := .reserved, q := .mq }] }
    | none => eng
  let m := if x.maskUnknown then x.eng.omask else maskStep (maskStep x.eng.omask w) (fo.getD 0x4040000000000000)
  { x.modBank fun b => { b with eseq := b.eseq + 1 } with eng := { eng with omask := m } }

theorem enqueue_eq (s : State) : enqueue s i q w hulls dhull fo foh = s.modSlot i fun x => x.enqueued q w hulls dhull fo foh := rfl

variable (x : Slot)

theorem enqueued_queue (p : Queue) :
    (x.enqueued q w hulls dhull fo foh).eng.queue p = x.eng.queue p ++ emitted x q w hulls dhull fo p foh := by
  cases fo with
  | none => cases q <;> cases p <;> simp [Slot.enqueued, emitted, Eng.queue, Eng.setQueue]
  | some fw => cases q <;> cases p <;> simp [Slot.enqueued, emitted, Eng.queue, Eng.setQueue]

theorem enqueued_eng : (x.enqueued q w hulls dhull fo foh).eng =
    { x.eng with vq := (x.enqueued q w hulls dhull fo foh).eng.vq, mq := (x.enqueued q w hulls dhull fo foh).eng.mq
                 xq := (x.enqueued q w hulls dhull fo foh).eng.xq, omask := (x.enqueued q w hulls dhull fo foh).eng.omask } := by
  cases fo with
  | none => cases q <;> rfl
  | some fw => cases q <;> rfl

theorem enqueued_bank : (x.enqueued q w hulls dhull fo foh).bank = { x.bank with eseq := x.bank.eseq + 1 } := slot_bank_modBank x _

theorem enqueued_rest : (x.enqueued q w hulls dhull fo foh).id = x.id ∧ (x.enqueued q w hulls dhull fo foh).gen = x.gen ∧
    (x.enqueued q w hulls dhull fo foh).vec = x.vec ∧ (x.enqueued q w hulls dhull fo foh).tr = x.tr ∧
    (x.enqueued q w hulls dhull fo foh).otherBank = x.otherBank := by
  refine ⟨slot_modBank_id x _, slot_modBank_gen x _, slot_modBank_vec x _, slot_modBank_tr x _, ?_⟩
  unfold Slot.otherBank Slot.enqueued Slot.modBank
  cases h : x.atS with
  | true => simp [Slot.atS] at h ⊢; simp [h]
  | false => simp [Slot.atS] at h ⊢; simp [h]

/-! ## The emit -/

omit x

/-- R174: the body of an emit that may proceed. -/
theorem emitBody_ok (h : EmitOk t q w s.instrWord hulls dhull) : emitBody s t q w = .ok 0 s.pcNext
    (enqueue t t.cur q w hulls dhull (followOn (emitSide t t.cur) w)
      (match followOn (emitSide t t.cur) w with | some fw => foHulls t t.cur (emitSide t t.cur) fw | none => [])) := by
  obtain ⟨hj, hc, hr, hf, hs⟩ := h
  unfold emitBody
  simp only [hj, hc]
  cases hfo : followOn (emitSide t t.cur) w with
  | none =>
    rw [hfo] at hs
    dsimp only at hs
    simp [Nat.add_zero _ ▸ hs, Nat.not_le.mpr hr]
  | some fw =>
    rw [hfo] at hf hs
    dsimp only at hs
    have hm := hf.resolve_left (Option.some_ne_none fw)
    simp [hs, Nat.not_le.mpr hr, Nat.not_le.mpr hm]

theorem Took.bank (h : Took s t) : t.me.bank = s.me.bank := by
  unfold State.me
  rw [h.cur]
  unfold Slot.bank
  rw [h.kept.atS, h.banks.pb, h.banks.sb]

/-- What was taken at an emit is as it was before the operands were taken. -/
theorem Took.emitted_eq (h : Took s t) (p : Queue) : emitted t.me q w hulls dhull fo p foh = emitted s.me q w hulls dhull fo p foh := by
  have heng : t.me.eng.omask = s.me.eng.omask := by
    have := h.kept.eng
    unfold State.me
    rw [h.cur, this]
  have hvec : t.me.vec.fcsr = s.me.vec.fcsr := by
    have := h.kept.vec
    unfold State.me
    rw [h.cur, this]
  unfold emitted
  rw [h.gen, h.bank, heng, hvec]

theorem Kept.queue (h : Kept i W s t) (p : Queue) : (t.slot i).eng.queue p = (s.slot i).eng.queue p := by
  rw [h.eng]
  cases p <;> rfl

/-- From the state before the operands of an emit are taken to the one with its word queued, the queues apart. -/
theorem Took.enqueue_kept (h : Took s u) :
    Kept s.cur W s (withQueuesOf s (enqueue u s.cur q w hulls dhull fo foh) s.cur) := by
  rw [enqueue_eq]
  have hs : (withQueuesOf s (u.modSlot s.cur fun x => x.enqueued q w hulls dhull fo foh) s.cur).slot s.cur = _ := slot_modSlot_self _ _ _
  rw [slot_modSlot_self] at hs
  obtain ⟨hid, hgen, hvec, htr, hother⟩ := enqueued_rest (q := q) (w := w) (hulls := hulls) (dhull := dhull) (foh := foh) (fo := fo) (u.slot s.cur)
  refine (h.kept.weaken fun _ _ h => h.elim).trans (kept_of_slot rfl (fun j hj => ?_) ?_ ?_ ?_ ?_ ?_ ?_)
  · exact (slot_modSlot_ne _ _ hj).trans (slot_modSlot_ne _ _ hj)
  all_goals rw [hs]
  · exact hid
  · exact hgen
  · dsimp only
    rw [enqueued_eng, h.kept.eng]
  · exact hvec
  · exact htr
  · exact hother

/-- R174: the end of an emit, once its word is queued. -/
theorem Took.emit_finished (h : Took s u) (hc : StoresClean s s.cur) (ht : finishG (enqueue u s.cur q w hulls dhull fo foh) s.pcNext = t) :
    Issued s t (s.pc + 4) ∧ (∀ p, (t.slot s.cur).eng.queue p = s.me.eng.queue p ++ emitted s.me q w hulls dhull fo p foh) ∧
      (t.slot s.cur).bank = { s.me.bank with eseq := s.me.bank.eseq + 1 } ∧
      Kept s.cur (heldBytes s s.cur) s (withQueuesOf s t s.cur) := by
  have hme : u.me = u.slot s.cur := congrArg u.slot h.cur
  generalize hv : enqueue u s.cur q w hulls dhull fo foh = v at ht
  have hvc : v.cur = s.cur := by rw [← hv]; exact h.cur
  have hvs : v.slot s.cur = u.me.enqueued q w hulls dhull fo foh := by rw [← hv, enqueue_eq, slot_modSlot_self, hme]
  obtain ⟨hid, hgen, -⟩ := enqueued_rest (q := q) (w := w) (hulls := hulls) (dhull := dhull) (foh := foh) (fo := fo) u.me
  have hphys : ∀ a, (v.slot s.cur).phys a = (s.slot s.cur).phys a := fun a => by
    rw [← h.kept.phys a, ← hme, hvs]
    unfold Slot.phys Slot.atS
    rw [hid]
  have hst : (v.slot s.cur).eng.stores = (s.slot s.cur).eng.stores := by
    rw [hvs, enqueued_eng]
    exact h.stores
  have hclean : StoresClean v v.cur := by
    rw [hvc]
    exact storesClean_congr hc hphys (by rw [← hv]; exact h.tiles) hst
  obtain ⟨hi, hk, -, hb, -⟩ := finishG_spec v s.pcNext hclean
  rw [ht] at hi hk hb
  have hvm : v.me = u.me.enqueued q w hulls dhull fo foh := (congrArg v.slot hvc).trans hvs
  rw [hvc] at hk hb
  refine ⟨⟨?_, ?_, ?_⟩, fun p => ?_, ?_, ?_⟩
  · rw [← hvc]; exact hi.pc
  · rw [← hvc, hi.icnt, hvm, hgen, h.gen]
  · rw [← hvc]; exact hi.wait
  · rw [hk.queue, hvs, enqueued_queue, h.emitted_eq, hme, h.kept.queue]
    rfl
  · rw [hb, hvm, enqueued_bank, h.bank]
  · have hkept := h.enqueue_kept (W := heldBytes s s.cur) (q := q) (w := w) (hulls := hulls) (dhull := dhull) (fo := fo) (foh := foh)
    rw [hv] at hkept
    refine hkept.trans ((hk.weaken ?_).withQueues s)
    rintro k p ⟨hkt, x, hx, j, hj, hp⟩
    exact ⟨hkt, x, hst ▸ hx, j, hj, hphys _ ▸ hp⟩

/-- R174, R181: with its operands in order, an instruction whose body emits a word completes. -/
theorem genOp_emits {srcs : List Opnd} {k : List Word → State → Body} (h : OperandsOk s srcs none)
    (hk : k (takeSrcs s srcs).1 (takeSrcs s srcs).2 = emitBody s (takeSrcs s srcs).2 q w) :
    Emits (genOp s srcs none k) s srcs q w s.instrWord := by
  intro hulls dhull hok fo foh
  have ht := took_takeSrcs (s := s) srcs
  have hbody := genOp_ok h (hk.trans (emitBody_ok hok))
  rw [ht.cur] at hbody
  exact ⟨_, hbody, ht.emit_finished h.clean rfl⟩

/-- Settles O14: form by form, from what queueing a word leaves. -/
theorem emitResults : Obligations.EmitResults := by
  unfold Obligations.EmitResults
  intro s q
  refine ⟨fun a b h => ?_, fun n a b x y h => ?_, fun o h hl => ?_⟩
  · rw [exec_emit, execEmit]
    exact genOp_emits h rfl
  · rw [exec_emitt, execEmitt]
    exact genOp_emits h rfl
  · rw [exec_emitl, execEmitl]
    exact genOp_emits h (emitl_body (queueOf q) hl)

end

section
/-! PROOFS (O58). A region halts (R371, R376), and a fault at level S is a double fault (R359): what stays as it was, whatever follows from
them in the networks that lose a part. -/

variable {s t u : State} {i r : Nat}

/-- From `s` to `t` the regions and DRAM are as they were, a slot that had stopped still has, no slot has come to wait, and a network that had
reached a status has it still, with the fault that it ended with. -/
structure Lasting (s t : State) : Prop where
  regions : t.regions = s.regions
  dram : t.dram = s.dram
  stopped : ∀ i, (s.slot i).id.stopped = true → (t.slot i).id.stopped = true
  waits : ∀ i, (t.slot i).gen.wait = (s.slot i).gen.wait ∨ (t.slot i).gen.wait = .none
  net : ∀ (k : Nat) (n : Net), s.nets[k]? = some n → n.status.isSome = true →
    ∃ m, t.nets[k]? = some m ∧ m.status = n.status ∧ m.ending = n.ending

namespace Lasting

/-! ## The shapes that a meaning is built from -/

theorem same (hs : t.slots = s.slots := by rfl) (hn : t.nets = s.nets := by rfl) (hr : t.regions = s.regions := by rfl)
    (hd : t.dram = s.dram := by rfl) : Lasting s t where
  regions := hr
  dram := hd
  stopped i h := by rw [slot_congr hs]; exact h
  waits i := by rw [slot_congr hs]; exact .inl rfl
  net k n hk _ := ⟨n, by rw [hn, hk], rfl, rfl⟩

theorem refl (s : State) : Lasting s s := same

theorem trans (h : Lasting s t) (k : Lasting t u) : Lasting s u where
  regions := k.regions.trans h.regions
  dram := k.dram.trans h.dram
  stopped i hi := k.stopped i (h.stopped i hi)
  waits i := by
    obtain e | e := k.waits i
    · rw [e]; exact h.waits i
    · exact .inr e
  net j n hn hst := by
    obtain ⟨m, hm, hms, hme⟩ := h.net j n hn hst
    obtain ⟨w, hw, hws, hwe⟩ := k.net j m hm (hms ▸ hst)
    exact ⟨w, hw, hws.trans hms, hwe.trans hme⟩

theorem foldl {α : Type} {f : State → α → State} (hf : ∀ s a, Lasting s (f s a)) (l : List α) (s : State) : Lasting s (l.foldl f s) :=
  List.foldlRecOn l f (refl s) fun t h a _ => h.trans (hf t a)

theorem ite {p : Prop} [Decidable p] (h : Lasting s t) (k : Lasting s u) : Lasting s (if p then t else u) := by
  split
  · exact h
  · exact k

theorem modSlot (j : Nat) (f : Slot → Slot) (hs : ∀ x : Slot, x.id.stopped = true → (f x).id.stopped = true := by exact fun _ h => h)
    (hw : ∀ x : Slot, (f x).gen.wait = x.gen.wait ∨ (f x).gen.wait = .none := by exact fun _ => .inl rfl) : Lasting s (s.modSlot j f) where
  regions := rfl
  dram := rfl
  stopped i h := by
    rw [slot_modSlot]
    split
    · next e => subst e; exact hs _ h
    · exact h
  waits i := by
    rw [slot_modSlot]
    split
    · next e => subst e; exact hw _
    · exact .inl rfl
  net k n hk _ := ⟨n, hk, rfl, rfl⟩

theorem modNet (k : Nat) (f : Net → Net)
    (hf : ∀ n : Net, n.status.isSome = true → (f n).status = n.status ∧ (f n).ending = n.ending := by exact fun _ _ => ⟨rfl, rfl⟩) :
    Lasting s (s.modNet k f) where
  regions := rfl
  dram := rfl
  stopped i h := h
  waits i := .inl rfl
  net j n hn hst := by
    by_cases hj : j = k
    · subst hj
      exact ⟨_, nets_modNet_self hn f, hf n hst⟩
    · exact ⟨n, (nets_modNet_ne s f hj).trans hn, rfl, rfl⟩

/-! ## What an unwind does -/

theorem translate (tile tenant : Nat) (world : Bool) (vpn : Nat) (wr atom : Bool) : Lasting s (translate s tile tenant world vpn wr atom).2 := by
  unfold Machine.translate
  dsimp only
  split
  · exact refl _
  · split
    · exact ite (refl _) same
    · split
      · exact refl _
      · exact refl _
      · exact ite (refl _) same

theorem pageRequest (q : Requester) (vpn : Nat) : Lasting s (pageRequest s q vpn) := ite same same

theorem takeImage (j : Nat) (l : Word) (view : List (Nat × Byte)) (va n : Nat) : Lasting s (takeImage s j l view va n).2 := by
  have hbyte : ∀ (s : State) (far : Option Far) (off : Nat), Lasting s (pageByte s far l off).2 := fun s far off => by
    unfold pageByte
    split
    · exact refl _
    · split
      · exact refl _
      · exact same
  unfold Machine.takeImage
  refine List.foldlRecOn _ _ (motive := fun a : List Byte × State => Lasting s a.2) same fun a h k _ => ?_
  dsimp only
  split
  · exact h
  · exact h.trans (hbyte _ _ _)

theorem chargeLeaf (k a n : Nat) (l : Word) : Lasting s (chargeLeaf s k a n l) := by
  unfold Machine.chargeLeaf Machine.chargeBucket
  exact ite (ite same (refl _)) (refl _)

theorem sendFetch (j k : Nat) : Lasting s (sendFetch s j k) := by
  unfold Machine.sendFetch
  dsimp only
  split
  · exact refl _
  · next q hq =>
    have ht := translate (s := s) (tileOf j) (s.slot j).id.tenant (s.slot j).id.world (vpnOf q.va.toNat) false false
    refine ite (refl _) ?_
    split
    · next h1 => rw [h1] at ht; exact ht.trans ((ite (refl _) (pageRequest _ _)).trans (modSlot _ _))
    · next h1 => rw [h1] at ht; exact ht.trans (modSlot _ _)
    · next h1 => rw [h1] at ht; exact ht.trans ((chargeLeaf _ _ _ _).trans ((takeImage _ _ _ _ _).trans (modSlot _ _)))

/-- Segments that change their states leave the slot's identity and its wait alone. -/
theorem foldl_modSeg (l : List (Nat × SegSt)) (x : Slot) :
    (l.foldl (fun x (k, st) => x.modSeg k fun g => { g with st := st }) x).id = x.id ∧
      (l.foldl (fun x (k, st) => x.modSeg k fun g => { g with st := st }) x).gen = x.gen :=
  List.foldlRecOn l _ (motive := fun y : Slot => y.id = x.id ∧ y.gen = x.gen) ⟨rfl, rfl⟩ fun _ h _ _ => h

theorem undoHeld (j : Nat) (h : HistE) : Lasting s (undoHeld s j h) := by
  unfold Machine.undoHeld
  split
  case h_1 | h_2 =>
    refine modSlot _ _ (fun x hx => ?_) fun x => .inl ?_
    · split <;> exact hx
    · split <;> rfl
  case h_6 => exact refl _
  case h_7 => exact (modSlot _ _).trans (sendFetch _ _)
  case h_8 l _ => exact modSlot _ _ (fun x hx => by rw [(foldl_modSeg l x).1]; exact hx) fun x => .inl (by rw [(foldl_modSeg l x).2])
  all_goals exact modSlot _ _

theorem unwindTo (j pos sub : Nat) (eseq : BitVec 32) (mask : BitVec 8) : Lasting s (unwindTo s j pos sub eseq mask) := by
  unfold Machine.unwindTo
  refine (foldl (fun _ _ => undoHeld _ _) _ _).trans (modSlot _ _ (fun x hx => ?_) fun _ => .inr rfl)
  show (x.modBank _).id.stopped = true
  rw [slot_modBank_id]
  exact hx

/-! ## What ends -/

theorem stopSlot (j : Nat) : Lasting s (stopSlot s j) := by
  unfold Machine.stopSlot
  dsimp only
  refine Lasting.trans ?_ ((modSlot j _ (fun _ _ => rfl) fun _ => .inr rfl).trans (modNet _ _))
  split
  · exact unwindTo _ _ _ _ _
  · exact refl _

theorem askStop (j : Nat) : Lasting s (askStop s j) := ite (stopSlot _) (modSlot _ _)

theorem setStatus (k c : Nat) (e : Option Ending) : Lasting s (setStatus s k c e) :=
  modNet _ _ fun n hn => by rw [if_pos hn]; exact ⟨rfl, rfl⟩

theorem checkEnd (k : Nat) : Lasting s (checkEnd s k) := by
  unfold Machine.checkEnd
  split
  · exact refl _
  · exact ite ((setStatus _ _ _).trans (modNet _ _)) (refl _)

theorem endNet (k c : Nat) (e : Option Ending) : Lasting s (endNet s k c e) :=
  (setStatus _ _ _).trans ((foldl (fun _ _ => askStop _) _ _).trans ((modNet _ _).trans (checkEnd _)))

theorem severChan (k c : Nat) : Lasting s (severChan s k c) := by
  have hhere : Lasting s (severHere s k c) := by
    unfold severHere
    split
    · exact refl _
    · exact ite (refl _) ((modNet _ _).trans (modNet _ _))
  unfold Machine.severChan
  split
  · exact refl _
  · exact ite (refl _) (ite (hhere.trans same) hhere)

theorem severRegion (r : Nat) : Lasting s (severRegion s r) := by
  refine foldl (fun s k => ?_) _ _
  split
  · exact refl _
  · exact ite (foldl (fun s c => ite ((severChan _ _).trans same) (refl _)) _ _) (refl _)

theorem withdraw (r : Nat) : Lasting s (withdraw s r) where
  regions := rfl
  dram := rfl
  stopped i h := h
  waits i := .inl rfl
  net k n hk _ := by
    refine ⟨_, by rw [Machine.withdraw, List.getElem?_map, hk]; rfl, ?_⟩
    dsimp only
    split
    · exact ⟨rfl, rfl⟩
    · exact ⟨rfl, rfl⟩

end Lasting

/-! ## A region halts -/

/-- R371: a region that is halted with a cause. -/
def Region.halt (cause : Nat) (g : Region) : Region := { g with st := .halted, hcause := BitVec.ofNat 8 cause, switching := none }

/-- R376: a region halted, with its event. -/
def haltedState (s : State) (r cause kind : Nat) : State :=
  regionEvent (s.modRegion r (Region.halt cause)) (s.region r).tenant (eventRec r kind (s.region r).tenant cause 0 0)

/-- R38, R371: one network, where the lost region runs a part of it. -/
def netLost (r kind : Nat) (g : Region) (s : State) (k : Nat) : State :=
  match s.nets[k]? with
  | none => s
  | some n =>
    if n.st == .running && g.loses k then
      let s := setStatus s k (if kind = 3 then 1 else 3) none
      let mine := (netSlots s k).filter fun i => regionOf (tileOf i) == r
      checkEnd (stopSaved (mine.foldl stopSlot s) k r) k
    else s

/-- R371: a halted region with what its loss does to the channels and the networks, the waits of groups apart. -/
def haltOwn (s : State) (r cause kind : Nat) : State :=
  let t := severRegion (withdraw (haltedState s r cause kind) r) r
  (List.range t.nets.length).foldl (netLost r kind (s.region r)) t

/-- R327: a wait of a group that cannot end raises SEVERED, at level S a double fault. -/
def waitBroken (fuel : Nat) (s : State) (w : Nat × Nat) : State :=
  let x := s.slot w.1
  if x.id.stopped then s
  else if x.atS then
    let e := some (doubleEnding x .severed false)
    endNet (haltGo fuel (stopSlot (setStatus s x.id.net 1 e) w.1) (regionOf (tileOf w.1)) Cause.severed.code 3) x.id.net 1 e
  else enterTrap s w.1 { cause := .severed, lvlE := false, pc := x.gen.pc, epc := x.gen.pc, eseq := x.bank.eseq
                         fword := BitVec.ofNat 64 w.2, iter := 0, va := none }

theorem haltGo_succ (fuel : Nat) (s : State) (r cause kind : Nat) : haltGo (fuel + 1) s r cause kind =
    (brokenWaits (haltedState s r cause kind) r).foldl (waitBroken fuel) (haltOwn s r cause kind) := rfl

theorem netLost_lasting (r kind : Nat) (g : Region) (s : State) (k : Nat) : Lasting s (netLost r kind g s k) := by
  unfold netLost
  split
  · exact .refl _
  · exact .ite ((Lasting.setStatus _ _ _).trans ((Lasting.foldl (fun _ _ => .stopSlot _) _ _).trans ((Lasting.modNet _ _).trans (.checkEnd _))))
      (.refl _)

theorem haltOwn_lasting (s : State) (r cause kind : Nat) : Lasting (s.modRegion r (Region.halt cause)) (haltOwn s r cause kind) := by
  have he : Lasting (s.modRegion r (Region.halt cause)) (haltedState s r cause kind) := .same
  exact he.trans ((Lasting.withdraw r).trans ((Lasting.severRegion r).trans (.foldl (netLost_lasting r kind _) _ _)))

/-- With no slot waiting at a group, no wait is broken. -/
theorem brokenWaits_none (h : NoGroupWaits s) (r : Nat) : brokenWaits s r = [] := by
  unfold brokenWaits
  refine List.flatMap_eq_nil_iff.mpr fun n _ => ?_
  dsimp only
  split
  · rfl
  · refine List.flatMap_eq_nil_iff.mpr fun g _ => ?_
    split
    · rfl
    · refine List.filterMap_eq_nil_iff.mpr fun p _ => ?_
      split
      · rfl
      · split
        · next gid e hw => exact absurd hw (h _ gid e).1
        · next gid e hw => exact absurd hw (h _ gid e).2
        · rfl

/-- R371: where no slot waits at a group, a halt changes its region, and what follows lasts. -/
theorem haltRegion_lasting (h : NoGroupWaits s) (r cause kind : Nat) :
    Lasting (s.modRegion r (Region.halt cause)) (haltRegion s r cause kind) := by
  unfold haltRegion
  rw [haltGo_succ, brokenWaits_none (s := haltedState s r cause kind) h]
  exact haltOwn_lasting s r cause kind

/-! ## A halted region stays so -/

/-- A region that is HALTED in `s` is so in `t`. -/
def HaltsLast (s t : State) : Prop := ∀ r, (s.region r).st = .halted → (t.region r).st = .halted

theorem Lasting.halts (h : Lasting s t) : HaltsLast s t := fun r hr => by rw [region_congr h.regions]; exact hr

theorem HaltsLast.trans (h : HaltsLast s t) (k : HaltsLast t u) : HaltsLast s u := fun r hr => k r (h r hr)

theorem HaltsLast.foldl {α : Type} {f : State → α → State} (hf : ∀ s a, HaltsLast s (f s a)) (l : List α) (s : State) :
    HaltsLast s (l.foldl f s) :=
  List.foldlRecOn l f (fun _ h => h) fun t h a _ => h.trans (hf t a)

theorem region_halt (s : State) (r cause : Nat) : (s.modRegion r (Region.halt cause)).region r = (s.region r).halt cause := by
  rw [region_modRegion, if_pos rfl]

theorem region_halt_ne (s : State) (cause : Nat) {j : Nat} (h : j ≠ r) : (s.modRegion r (Region.halt cause)).region j = s.region j := by
  rw [region_modRegion, if_neg h]

theorem modRegion_halts (s : State) (r cause : Nat) : HaltsLast s (s.modRegion r (Region.halt cause)) := fun j hj => by
  by_cases h : j = r
  · subst h
    rw [region_halt]
    rfl
  · rw [region_halt_ne s cause h]
    exact hj

theorem waitBroken_halts {fuel : Nat} (hf : ∀ s r cause kind, HaltsLast s (haltGo fuel s r cause kind)) (s : State) (w : Nat × Nat) :
    HaltsLast s (waitBroken fuel s w) := by
  unfold waitBroken
  dsimp only
  split
  · exact fun _ h => h
  · split
    · exact ((Lasting.setStatus _ _ _).trans (.stopSlot _)).halts.trans ((hf _ _ _ _).trans (Lasting.endNet _ _ _).halts)
    · exact fun _ h => h

theorem haltGo_halts (fuel : Nat) (s : State) (r cause kind : Nat) : HaltsLast s (haltGo fuel s r cause kind) := by
  induction fuel generalizing s r cause kind with
  | zero => exact fun _ h => h
  | succ fuel ih =>
    rw [haltGo_succ]
    exact (modRegion_halts s r cause).trans ((haltOwn_lasting s r cause kind).halts.trans (.foldl (waitBroken_halts ih) _ _))

/-- R371: a region that halts is HALTED, whatever its loss leads to. -/
theorem haltRegion_halted (s : State) (r cause kind : Nat) : ((haltRegion s r cause kind).region r).st = .halted := by
  have hown : ((haltOwn s r cause kind).region r).st = .halted := (haltOwn_lasting s r cause kind).halts r (by rw [region_halt]; rfl)
  unfold haltRegion
  rw [haltGo_succ]
  exact HaltsLast.foldl (waitBroken_halts (haltGo_halts 16)) _ _ r hown

/-! ## A double fault -/

theorem Lasting.noGroupWaits (h : Lasting s t) (hs : NoGroupWaits s) : NoGroupWaits t := fun i g e => by
  obtain hw | hw := h.waits i
  · rw [hw]; exact hs i g e
  · rw [hw]; exact ⟨Wait.noConfusion, Wait.noConfusion⟩

theorem stopSlot_stopped (s : State) (i : Nat) : ((stopSlot s i).slot i).id.stopped = true := by
  obtain ⟨u, hu⟩ : ∃ u : State, stopSlot s i =
      (u.modSlot i Slot.halted).modNet (s.slot i).id.net fun n => n.modProc (s.slot i).id.pid.toNat Proc.halt := ⟨_, rfl⟩
  rw [hu]
  exact congrArg (·.id.stopped) (slot_modSlot_self u i _)

/-- R359: a fault at level S, where no slot waits at a group. -/
theorem doubleFault_doubleFaulted (h : NoGroupWaits s) (i : Nat) (c : Cause) (lvlE : Bool) :
    DoubleFaulted i s (doubleFault s i c lvlE) c lvlE := by
  have hset := Lasting.setStatus (s := s) (s.slot i).id.net 1 (some (doubleEnding (s.slot i) c lvlE))
  have hstop := Lasting.stopSlot (s := setStatus s (s.slot i).id.net 1 (some (doubleEnding (s.slot i) c lvlE))) i
  have hrest : Lasting _ (doubleFault s i c lvlE) := (haltRegion_lasting ((hset.trans hstop).noGroupWaits h) (regionOf (tileOf i)) c.code 3).trans
    (.endNet (s.slot i).id.net 1 (some (doubleEnding (s.slot i) c lvlE)))
  refine ⟨hrest.stopped i (stopSlot_stopped _ i), ?_, ?_, fun n hn hst => ?_, hrest.dram.trans (hset.trans hstop).dram, fun r hr => ?_⟩
  · rw [region_congr hrest.regions, region_halt]
    rfl
  · rw [region_congr hrest.regions, region_halt]
    rfl
  · have hrec : (setStatus s (s.slot i).id.net 1 (some (doubleEnding (s.slot i) c lvlE))).nets[(s.slot i).id.net]? =
        some { n with status := some 1, ending := some (doubleEnding (s.slot i) c lvlE) } :=
      (nets_modNet_self hn _).trans (by rw [if_neg (by rw [hst]; exact Bool.false_ne_true)])
    obtain ⟨m, hm, hms, hme⟩ := hstop.net _ _ hrec rfl
    obtain ⟨w, hw, hws, hwe⟩ := hrest.net _ m hm (by rw [hms]; rfl)
    exact ⟨w, hw, hws.trans hms, hwe.trans hme⟩
  · rw [region_congr hrest.regions, region_halt_ne _ _ hr]
    exact region_congr (hset.trans hstop).regions r

end

section
/-! PROOFS (O58). A step takes the next act, and a slot that issues runs what it fetches (R45, R100, R113, R351). -/

variable {s t u : State} {i : Instr} {w : QEntry}

/-- Log 1: a step runs the next act. -/
theorem step_run (hp : s.die.poweredOff = false) {a : Act} (h : nextAct s = some (a, t)) : step s = run t a := by
  unfold step
  rw [h]
  dsimp only
  rw [hp]
  rfl

/-! ## The fetch -/

/-- R5: four bytes as one word. -/
theorem ofNat_leNat_four (b0 b1 b2 b3 : Byte) : BitVec.ofNat 32 (leNat [b0, b1, b2, b3]) = b3 ++ b2 ++ b1 ++ b0 := by
  refine BitVec.eq_of_toNat_eq ?_
  have h0 := b0.isLt
  have h1 := b1.isLt
  have h2 := b2.isLt
  have h3 := b3.isLt
  simp only [BitVec.toNat_ofNat, toNat_append_add, leNat]
  omega

/-- R117: the word at an address, byte by byte. -/
theorem loadNat_four (s : State) (j a : Nat) :
    BitVec.ofNat 32 (s.loadNat j a 4) = s.loadByte j (a + 3) ++ s.loadByte j (a + 2) ++ s.loadByte j (a + 1) ++ s.loadByte j (a + 0) :=
  ofNat_leNat_four _ _ _ _

/-- R113, R351: the word at the pc may be fetched. -/
def Fetchable (s : State) : Prop :=
  if s.me.atS = true then s.pc.toNat < 65536
  else s.pc.toNat < s.me.codeSegs * 4096 ∧ (s.me.seg (s.pc.toNat / 4096)).st = .valid

/-- R113: the fetch of a word that the pc may reach. -/
def readInstr (s : State) : Fetched :=
  if s.eccAt s.cur s.pc.toNat 4 then .trap .eccfatal 0 else
  match decodeGen (BitVec.ofNat 32 (s.loadNat s.cur s.pc.toNat 4)) with
  | .error _ => .trap .illegal s.instrWord
  | .ok i => .ok (refineRegion (regionArg s i) i)

theorem readInstr_ok (he : s.eccAt s.cur s.pc.toNat 4 = false)
    (hd : decodeGen (BitVec.ofNat 32 (s.loadNat s.cur s.pc.toNat 4)) = .ok i) : readInstr s = .ok (refineRegion (regionArg s i) i) := by
  unfold readInstr
  rw [if_neg (by rw [he]; exact Bool.false_ne_true), hd]

theorem readInstr_illegal {e : Reject} (he : s.eccAt s.cur s.pc.toNat 4 = false)
    (hd : decodeGen (BitVec.ofNat 32 (s.loadNat s.cur s.pc.toNat 4)) = .error e) : readInstr s = .trap .illegal s.instrWord := by
  unfold readInstr
  rw [if_neg (by rw [he]; exact Bool.false_ne_true), hd]

theorem readInstr_ecc (he : s.eccAt s.cur s.pc.toNat 4 = true) : readInstr s = .trap .eccfatal 0 := if_pos he

/-- R351: beyond the supervisor's memory. -/
theorem fetch_beyond_atS (h : s.me.atS = true) (hp : 65536 ≤ s.pc.toNat) : fetch s = .trap .window s.pc :=
  (if_pos h).trans (if_pos hp)

/-- R113: what a fetch in the code area gives, by the state of the pc's segment. -/
def segFetch (s : State) : SegSt → Fetched
  | .valid => readInstr s
  | .failed => .failed (s.pc.toNat / 4096)
  | .invalid => .trap .codemiss (BitVec.ofNat 64 (s.pc.toNat / 4096))
  | .inflight => .trap .codemiss (BitVec.ofNat 64 (s.pc.toNat / 4096 + 256))

section
variable (h : s.me.atS = false)
include h

/-- R113: beyond the code area. -/
theorem fetch_beyond (hp : s.me.codeSegs * 4096 ≤ s.pc.toNat) : fetch s = .trap .window s.pc :=
  (if_neg (by rw [h]; exact Bool.false_ne_true)).trans (if_pos hp)

/-- R113: a fetch in the code area goes by the state of its segment. -/
theorem fetch_of_seg (hp : s.pc.toNat < s.me.codeSegs * 4096) {st : SegSt} (hst : (s.me.seg (s.pc.toNat / 4096)).st = st) :
    fetch s = segFetch s st := by
  change (s.me.seg (s.me.gen.pc.toNat / 4096)).st = st at hst
  refine (if_neg (by rw [h]; exact Bool.false_ne_true)).trans ((if_neg (Nat.not_le.mpr hp)).trans ?_)
  simp only [hst]
  cases st <;> rfl

end

theorem fetch_readInstr (h : Fetchable s) : fetch s = readInstr s := by
  unfold Fetchable at h
  split at h
  · next hs => exact (if_pos hs).trans (if_neg (Nat.not_le.mpr h))
  · next hs =>
    obtain ⟨hlt, hv⟩ := h
    exact fetch_of_seg (by simpa using hs) hlt hv

/-! ## An issue -/

/-- R24: a slot that may not issue. -/
theorem issueNext_idle (h : s.me.canIssue = false) : issueNext s = .next s := by
  unfold issueNext
  rw [h]
  rfl

section
variable (h : s.me.canIssue = true)
include h

theorem issueNext_exec (hf : fetch s = .ok i) : issueNext s = exec i s := by
  unfold issueNext
  rw [h, hf]
  rfl

theorem issueNext_trapG {c : Cause} {fw : Word} (hf : fetch s = .trap c fw) : issueNext s = trapG s c fw none := by
  unfold issueNext
  rw [h, hf]
  rfl

theorem issueNext_failSeg {k : Nat} (hf : fetch s = .failed k) : issueNext s = failSeg s k := by
  unfold issueNext
  rw [h, hf]
  rfl

end

/-- R109: a double-bit error in a fetched word halts the region, every word retired. -/
theorem trapG_ecc_halts (h : s.me.committed = true) (fw : Word) :
    ∃ v, trapG s .eccfatal fw none = .next v ∧ (v.region (regionOf (tileOf s.cur))).st = .halted := by
  have hr : ∀ f : FaultRec, f.cause = .eccfatal → takeG s s.cur f = haltRegion s (regionOf (tileOf s.cur)) f.cause.code 2 := fun f hf =>
    if_pos (by rw [hf]; rfl)
  refine ⟨_, rfl, ?_⟩
  unfold raiseG
  dsimp only
  rw [if_pos (show (s.slot s.cur).committed = true from h), hr _ rfl]
  exact haltRegion_halted _ _ _ _

/-- R359: a fault at level S is a double fault, every word retired. -/
theorem trapG_atS_doubleFaulted (h : s.me.atS = true) (hc : s.me.committed = true) (hw : NoGroupWaits s) {c : Cause} (he : c ≠ .eccfatal)
    (fw : Word) : ∃ v, trapG s c fw none = .next v ∧ DoubleFaulted s.cur s v c false := by
  have hd : ∀ f : FaultRec, f.cause = c → takeG s s.cur f = doubleFault s s.cur f.cause false := fun f hf =>
    (if_neg (by rw [hf]; simpa using he)).trans (if_pos h)
  refine ⟨_, rfl, ?_⟩
  unfold raiseG
  dsimp only
  rw [if_pos (show (s.slot s.cur).committed = true from hc), hd _ rfl]
  exact doubleFault_doubleFaulted hw _ _ _

/-! ## A start, an event -/

/-- R170: the word that may start runs. -/
theorem startNext_startable (h : s.startable = some w) (hd : decodeEng w.word = .ok i) : startNext s = exec i s := by
  unfold startNext
  rw [h]
  dsimp only
  rw [hd]

/-- R290: none may start, and the copy word at work is of this queue. -/
theorem startNext_mover (h : s.startable = none) (hm : s.mover = some w) (hq : w.q = s.curQ) (hd : decodeEng w.word = .ok i) :
    startNext s = exec i s := by
  unfold startNext
  rw [h, hm]
  dsimp only
  rw [hd, hq]
  simp

theorem isEvent_of_no_encoding (hg : encodeGen i = none) (he : encodeEng i = none) : isEvent i = true := by
  unfold isEvent
  rw [hg, he]
  rfl

/-- R346: the read chosen comes first. -/
theorem hostTurn_of_read {h : HostIO} {n : Nat} {r : HostRead} (hr : h.reads[n]? = some r) :
    h.turn n = { h with reads := r :: h.reads.eraseIdx n } := by
  unfold HostIO.turn
  rw [hr]
  rfl

/-! ## The clauses -/

/-- R113, R351: an issue by what its fetch meets. -/
theorem issueNext_fetches (h : s.me.canIssue = true) :
    (Fetchable s → s.eccAt s.cur s.pc.toNat 4 = false →
      (∀ i, decodeGen (BitVec.ofNat 32 (s.loadNat s.cur s.pc.toNat 4)) = .ok i → issueNext s = exec (refineRegion (regionArg s i) i) s) ∧
      (∀ e, s.me.atS = false → decodeGen (BitVec.ofNat 32 (s.loadNat s.cur s.pc.toNat 4)) = .error e →
        Traps (issueNext s) s .illegal s.instrWord)) ∧
    (Fetchable s → s.eccAt s.cur s.pc.toNat 4 = true → s.me.committed = true →
      ∃ v, issueNext s = .next v ∧ (v.region (regionOf (tileOf s.cur))).st = .halted) := by
  refine ⟨fun hf he => ⟨fun i hd => ?_, fun e hs hd => ?_⟩, fun hf he hc => ?_⟩
  · exact issueNext_exec h ((fetch_readInstr hf).trans (readInstr_ok he hd))
  · rw [issueNext_trapG h ((fetch_readInstr hf).trans (readInstr_illegal he hd))]
    exact trapG_traps _ _ hs Cause.noConfusion Cause.noConfusion
  · rw [issueNext_trapG h ((fetch_readInstr hf).trans (readInstr_ecc he))]
    exact trapG_ecc_halts hc 0

/-- R113, R111: an issue below level S whose fetch stops. -/
theorem issueNext_stops (h : s.me.canIssue = true) (hs : s.me.atS = false) :
    (s.me.codeSegs * 4096 ≤ s.pc.toNat → Traps (issueNext s) s .window s.pc) ∧
    (s.pc.toNat < s.me.codeSegs * 4096 →
      ((s.me.seg (s.pc.toNat / 4096)).st = .invalid → Traps (issueNext s) s .codemiss (BitVec.ofNat 64 (s.pc.toNat / 4096))) ∧
      ((s.me.seg (s.pc.toNat / 4096)).st = .inflight → Traps (issueNext s) s .codemiss (BitVec.ofNat 64 (s.pc.toNat / 4096 + 256))) ∧
      ((s.me.seg (s.pc.toNat / 4096)).st = .failed →
        TrapsWith (issueNext s) s { gFault s .memfault s.pc (((s.me.seg (s.pc.toNat / 4096)).fva.extractLsb' 0 57).zeroExtend 64)
          (some (s.me.seg (s.pc.toNat / 4096)).fva) with seg := some (s.pc.toNat / 4096) })) := by
  refine ⟨fun hp => ?_, fun hp => ⟨fun hst => ?_, fun hst => ?_, fun hst => ?_⟩⟩
  · rw [issueNext_trapG h (fetch_beyond hs hp)]
    exact trapG_traps _ _ hs Cause.noConfusion Cause.noConfusion
  · rw [issueNext_trapG h (fetch_of_seg hs hp hst)]
    exact trapG_traps _ _ hs Cause.noConfusion Cause.noConfusion
  · rw [issueNext_trapG h (fetch_of_seg hs hp hst)]
    exact trapG_traps _ _ hs Cause.noConfusion Cause.noConfusion
  · rw [issueNext_failSeg h (fetch_of_seg hs hp hst)]
    exact raiseG_traps _ _ _ _ _ hs Cause.noConfusion Cause.noConfusion

/-- Settles O58: a fetch is one read of the pc's word or one stop, and each act is one case of `run`. -/
theorem stepRunsDecoded : Obligations.StepRunsDecoded := by
  unfold Obligations.StepRunsDecoded
  intro s t hp
  refine ⟨fun a l h => by unfold nextAct; rw [h], fun j h => ?issue, fun j q h => ?start, fun j q e h hg he => ?event, fun k w h => ?sram,
    fun l h => step_run hp h, fun f k h => ⟨_, step_run hp h, rfl, fun j => sparse_get_set 0 t.frames f j (k + 1)⟩, fun n r h hr => ?turn,
    fun k w h => ⟨_, step_run hp h, rfl, fun j => sparse_get_set {} t.host.waves k j w⟩,
    fun n pid q h => ⟨_, step_run hp h, rfl, fun j => sparse_get_set none t.host.peers (peerProcKey n pid) j (some q)⟩⟩
  case issue =>
    have hs : step s = issueNext { t with cur := j } := step_run hp h
    rw [hs]
    refine ⟨issueNext_idle, fun hc => ?_⟩
    obtain ⟨hread, hecc⟩ := issueNext_fetches hc
    rw [loadNat_four] at hread
    exact ⟨hread, fun ha => (issueNext_stops hc ha).1, fun ha hlt => ((issueNext_stops hc ha).2 hlt).1,
      fun ha hlt => ((issueNext_stops hc ha).2 hlt).2.1, fun ha hlt => ((issueNext_stops hc ha).2 hlt).2.2, hecc, fun ha hlt hcom hw => by
        rw [issueNext_trapG hc (fetch_beyond_atS ha hlt)]
        exact trapG_atS_doubleFaulted ha hcom hw Cause.noConfusion _⟩
  case start =>
    have hs : step s = startNext { t with cur := j, curQ := q } := step_run hp h
    rw [hs]
    exact ⟨fun _ _ => startNext_startable, fun _ _ => startNext_mover⟩
  case event =>
    exact (step_run hp h).trans (if_pos (isEvent_of_no_encoding hg he))
  case sram =>
    exact ⟨_, step_run hp h, tile_modTile_self t k _, fun j hj => tile_modTile_ne t _ hj, rfl⟩
  case turn =>
    refine (step_run hp h).trans ?_
    change Host.Outcome.next { t with host := t.host.turn n } = _
    rw [hostTurn_of_read hr]

end

end Sys2Proof.Machine
end

section
/-! PROOFS of the statements about numbers that the matrix words and the save engine handle: what the words of an accumulator do and how it
is read out (O42, O43), and the record of a slot (O53). -/

namespace Sys2Proof.Machine

-- One proof at a time, as in the sections before.
set_option Elab.async false

section
/-! PROOFS. The words of ECLS 2 (R249-R268): how one stops, and the frame of what its body does, each said once. -/

variable {s t u : State} {W : Nat → Nat → Prop} {w : QEntry} {k : QEntry → State → EngRes}

/-! ## Stops at level E -/

/-- R189, R359, R109: a word whose body faults stops. -/
theorem startWord_stopsE {c : Cause} {va : Option Word} (h : s.startable = some w) (hk : k w s = .fault c va) (hc : c ≠ .preempt) :
    StopsE (startWord s k) s w c va := by
  rw [startWord_fault h hk]
  refine ⟨fun he hs => raiseE_faults w c va hs he hc, fun he hs hw => ⟨_, rfl, ?_⟩, fun he => ⟨_, rfl, ?_⟩⟩
  · have hb : (c == .eccfatal) = false := by simpa using he
    have hs' : (s.slot s.cur).atS = true := hs
    unfold raiseE raiseEW
    simp only [hb, hs', Bool.false_eq_true, if_false, if_true]
    exact doubleFault_doubleFaulted hw _ _ _
  · subst he
    exact haltRegion_halted _ _ _ _

/-! ## What the body of a word may change -/

/-- From `s` to `t`, the slot that moves may have changed its vector registers and FFLAGS, and its tile the accumulators and the bytes that
`W` names, with their check bits; nothing else is changed. -/
structure MatBody (W : Nat → Nat → Prop) (s t : State) : Prop where
  rest : t = { s with slots := t.slots, tiles := t.tiles }
  slots : ∀ j, j ≠ s.cur → t.slot j = s.slot j
  slot : t.slot s.cur = { s.me with vec := { s.me.vec with v := (t.slot s.cur).vec.v, fflags := (t.slot s.cur).vec.fflags } }
  tile : ∀ k, t.tile k = { s.tile k with sram := (t.tile k).sram, ecc := (t.tile k).ecc, acc0 := (t.tile k).acc0, acc1 := (t.tile k).acc1 }
  accs : ∀ k, k ≠ tileOf s.cur → (t.tile k).acc0 = (s.tile k).acc0 ∧ (t.tile k).acc1 = (s.tile k).acc1
  sram : ∀ k p, ¬ W k p → (t.tile k).sram.byte p = (s.tile k).sram.byte p

namespace MatBody

theorem cur (h : MatBody W s t) : t.cur = s.cur := by rw [h.rest]

theorem refl (W : Nat → Nat → Prop) (s : State) : MatBody W s s :=
  ⟨rfl, fun _ _ => rfl, rfl, fun _ => rfl, fun _ _ => ⟨rfl, rfl⟩, fun _ _ _ => rfl⟩

theorem trans (h : MatBody W s t) (k : MatBody W t u) : MatBody W s u where
  rest := by rw [k.rest, h.rest]
  slots j hj := (k.slots j (by rw [h.cur]; exact hj)).trans (h.slots j hj)
  slot := by
    have hk := k.slot
    rw [me_def, h.cur, h.slot] at hk
    exact hk
  tile n := by rw [k.tile n, h.tile n]
  accs n hn := by
    obtain ⟨h0, h1⟩ := h.accs n hn
    obtain ⟨k0, k1⟩ := k.accs n (by rw [h.cur]; exact hn)
    exact ⟨k0.trans h0, k1.trans h1⟩
  sram n p hp := (k.sram n p hp).trans (h.sram n p hp)

/-- An update of the slot's vector registers and flags. -/
theorem modSlot (f : Slot → Slot) (hf : ∀ x, f x = { x with vec := { x.vec with v := (f x).vec.v, fflags := (f x).vec.fflags } }) :
    MatBody W s (s.modSlot s.cur f) where
  rest := rfl
  slots j hj := slot_modSlot_ne s f hj
  slot := by rw [slot_modSlot_self]; exact hf _
  tile _ := rfl
  accs _ _ := ⟨rfl, rfl⟩
  sram _ _ _ := rfl

theorem orFlags (fl : Flags) : MatBody W s (s.orFlags s.cur fl) := modSlot _ fun _ => rfl

/-- An update of the tile that keeps all but its accumulators, and the bytes that `W` names. -/
theorem modTile {i : Nat} (hi : i = s.cur) (f : Tile → Tile) (hf : f (s.tile (tileOf s.cur)) = { s.tile (tileOf s.cur) with
      sram := (f (s.tile (tileOf s.cur))).sram, ecc := (f (s.tile (tileOf s.cur))).ecc
      acc0 := (f (s.tile (tileOf s.cur))).acc0, acc1 := (f (s.tile (tileOf s.cur))).acc1 })
    (hw : ∀ p, ¬ W (tileOf s.cur) p → (f (s.tile (tileOf s.cur))).sram.byte p = (s.tile (tileOf s.cur)).sram.byte p) :
    MatBody W s (s.modTile (tileOf i) f) := by
  subst hi
  constructor
  case rest => rfl
  case slots => exact fun _ _ => rfl
  case slot => rfl
  case tile =>
    intro n
    by_cases h : n = tileOf s.cur
    · subst h; rw [tile_modTile_self]; exact hf
    · rw [tile_modTile_ne s f h]
  case accs => exact fun n hn => by rw [tile_modTile_ne s f hn]; exact ⟨rfl, rfl⟩
  case sram =>
    intro n p hp
    by_cases h : n = tileOf s.cur
    · subst h; rw [tile_modTile_self]; exact hw p hp
    · rw [tile_modTile_ne s f h]

theorem modAcc (n : BitVec 1) (f : Acc → Acc) : MatBody W s (s.modAcc n f) := by
  refine modTile rfl _ ?_ fun p _ => ?_ <;> unfold Tile.modAcc Tile.setAcc <;> split <;> rfl

end MatBody

/-! ## A word that completes -/

/-- R171: the word has done everything. -/
def State.wordDone (t : State) (w : QEntry) : State := t.modMe fun x => x.mapWord w fun a => { a with stat := .done }

@[simp] theorem wordDone_tile (t : State) (w : QEntry) (k : Nat) : (t.wordDone w).tile k = t.tile k := rfl
@[simp] theorem wordDone_slot_ne (t : State) (w : QEntry) {j : Nat} (h : j ≠ t.cur) : (t.wordDone w).slot j = t.slot j := slot_modMe_ne t _ h
@[simp] theorem wordDone_slot (t : State) (w : QEntry) :
    (t.wordDone w).slot t.cur = t.me.mapWord w fun a => { a with stat := .done } := slot_modMe_cur t _

theorem MatBody.wordDone_slot (h : MatBody W s t) (w : QEntry) :
    (t.wordDone w).slot s.cur = (t.slot s.cur).mapWord w fun a => { a with stat := .done } := by
  have := Machine.wordDone_slot t w
  rwa [me_def, h.cur] at this

theorem MatBody.wordDone_vec (h : MatBody W s t) (w : QEntry) : ((t.wordDone w).slot s.cur).vec = (t.slot s.cur).vec := by
  rw [h.wordDone_slot w]; rfl

/-- A change of the slot that moves and of tiles alone keeps what `EKept` names, where the slot and the tiles do. -/
theorem ekept_of_slots_tiles (hu : u = { s with slots := u.slots, tiles := u.tiles }) (hslots : ∀ j, j ≠ s.cur → u.slot j = s.slot j)
    (hslot : u.slot s.cur = { s.me with eng := (u.slot s.cur).eng
                                        vec := { s.me.vec with v := (u.slot s.cur).vec.v, fflags := (u.slot s.cur).vec.fflags } })
    (htile : ∀ k, u.tile k =
      { s.tile k with sram := (u.tile k).sram, ecc := (u.tile k).ecc, acc0 := (u.tile k).acc0, acc1 := (u.tile k).acc1 })
    (haccs : ∀ k, k ≠ tileOf s.cur → (u.tile k).acc0 = (s.tile k).acc0 ∧ (u.tile k).acc1 = (s.tile k).acc1)
    (hsram : ∀ k p, ¬ W k p → (u.tile k).sram.byte p = (s.tile k).sram.byte p) : EKept s.cur W s u := by
  constructor
  case slots => exact hslots
  case tile => exact htile
  case accs => exact haccs
  case sram => exact hsram
  case buckets => intro st n; unfold State.bucket; rw [hu]
  case id | gen | pb | sb | tr | segs | vec => rw [hslot]; rfl
  all_goals rw [hu]

/-- R249: the frame of a word whose body changes no more than `MatBody` says. -/
theorem MatBody.matFrame (h : MatBody W s t) (w : QEntry) : MatFrame s (t.wordDone w) w W := by
  have hs := h.wordDone_slot w
  rw [h.slot] at hs
  have hr : t.wordDone w = { s with slots := (t.wordDone w).slots, tiles := (t.wordDone w).tiles } := by
    have : t.wordDone w = { t with slots := (t.wordDone w).slots } := rfl
    rw [this, h.rest]
  exact {
    kept := ekept_of_slots_tiles hr (fun j hj => by rw [wordDone_slot_ne t w (by rw [h.cur]; exact hj), h.slots j hj]) (by rw [hs]; rfl)
      h.tile h.accs h.sram
    buckets := by rw [hr]
    entry := by unfold Enters; rw [hs]; rfl
    hold := by rw [hs]; rfl
    ports := by rw [hs]; rfl
    nets := by rw [hr]
    masks := by rw [hs]; exact ⟨rfl, rfl, rfl⟩ }

/-- R171, R249: a word whose body changes no more than `MatBody` says completes. -/
theorem startWord_matFrame (h : s.startable = some w) (hk : k w s = .ok t .done) (hb : MatBody W s t) :
    startWord s k = .next (t.wordDone w) ∧ MatFrame s (t.wordDone w) w W :=
  ⟨startWord_ok h hk, hb.matFrame w⟩

/-- A word that changes one accumulator, and FFLAGS. -/
theorem startWord_accWord {n : Nat} {fl : Flags} {good : Acc → Prop} (h : s.startable = some w) (hk : k w s = .ok t .done)
    (hb : MatBody (fun _ _ => False) s t) (hg : good ((t.tile (tileOf s.cur)).acc n))
    (ho : (t.tile (tileOf s.cur)).acc (1 - n) = (s.tile (tileOf s.cur)).acc (1 - n))
    (hv : (t.slot s.cur).vec = { s.me.vec with fflags := s.me.vec.fflags ||| fl }) : AccWord (startWord s k) s w n fl good := by
  obtain ⟨he, hm⟩ := startWord_matFrame h hk hb
  exact ⟨_, he, hm, hg, ho, by rw [hb.wordDone_vec w, hv], by rw [hb.wordDone_vec w, hv]⟩

/-- A word that stores to the bytes of `W`, and changes FFLAGS. -/
theorem startWord_blockWord {fl : Flags} {good : State → Prop} (h : s.startable = some w) (hk : k w s = .ok t .done)
    (hb : MatBody W s t) (hg : good (t.wordDone w))
    (ha : (t.tile (tileOf s.cur)).acc0 = (s.tile (tileOf s.cur)).acc0 ∧ (t.tile (tileOf s.cur)).acc1 = (s.tile (tileOf s.cur)).acc1)
    (hv : (t.slot s.cur).vec = { s.me.vec with fflags := s.me.vec.fflags ||| fl }) : BlockWord (startWord s k) s w W fl good := by
  obtain ⟨he, hm⟩ := startWord_matFrame h hk hb
  exact ⟨_, he, hm, hg, ha.1, ha.2, by rw [hb.wordDone_vec w, hv], by rw [hb.wordDone_vec w, hv]⟩

/-! ## Accumulators -/

theorem tile_acc_setAcc (t : Tile) (n m : Nat) (a : Acc) : (t.setAcc n a).acc m = if m = 0 ↔ n = 0 then a else t.acc m := by
  unfold Tile.setAcc Tile.acc
  by_cases hn : n = 0 <;> by_cases hm : m = 0 <;> simp [hn, hm]

theorem bitVec1_toNat_cases (n : BitVec 1) : n.toNat = 0 ∨ n.toNat = 1 := by have := n.isLt; omega

/-- An accumulator changed reads as it was made. -/
@[simp] theorem tile_acc_modAcc (s : State) (n : BitVec 1) (f : Acc → Acc) :
    ((s.modAcc n f).tile (tileOf s.cur)).acc n.toNat = f (s.acc n) := by
  unfold State.modAcc
  rw [tile_modTile_self]
  unfold Tile.modAcc
  rw [tile_acc_setAcc, if_pos Iff.rfl]
  rfl

/-- The other accumulator is as it was. -/
@[simp] theorem tile_acc_modAcc_other (s : State) (n : BitVec 1) (f : Acc → Acc) :
    ((s.modAcc n f).tile (tileOf s.cur)).acc (1 - n.toNat) = (s.tile (tileOf s.cur)).acc (1 - n.toNat) := by
  unfold State.modAcc
  rw [tile_modTile_self]
  unfold Tile.modAcc
  rw [tile_acc_setAcc, if_neg]
  obtain h | h := bitVec1_toNat_cases n <;> omega

@[simp] theorem tile_orFlags (s : State) (i k : Nat) (fl : Flags) : (s.orFlags i fl).tile k = s.tile k := rfl
@[simp] theorem vec_orFlags (s : State) (i : Nat) (fl : Flags) :
    ((s.orFlags i fl).slot i).vec = { (s.slot i).vec with fflags := (s.slot i).vec.fflags ||| fl } := by
  unfold State.orFlags; rw [slot_modSlot_self]; rfl

/-- R77: no flag set leaves FFLAGS as it was. -/
theorem vec_or_zero (v : Vec) : { v with fflags := v.fflags ||| 0 } = v := by
  rw [show v.fflags ||| 0 = v.fflags from BitVec.or_zero]

/-- A word that changes one accumulator and sets no flag. -/
theorem startWord_modAcc {n : BitVec 1} {f : Acc → Acc} {good : Acc → Prop} (h : s.startable = some w)
    (hk : k w s = .ok (s.modAcc n f) .done) (hg : good (f (s.acc n))) : AccWord (startWord s k) s w n.toNat 0 good :=
  startWord_accWord h hk (.modAcc n f) (by rw [tile_acc_modAcc]; exact hg) (tile_acc_modAcc_other s n f) (vec_or_zero _).symm

/-- A word that changes one accumulator and sets flags. -/
theorem startWord_modAcc_orFlags {n : BitVec 1} {f : Acc → Acc} {fl : Flags} {good : Acc → Prop} (h : s.startable = some w)
    (hk : k w s = .ok ((s.modAcc n f).orFlags s.cur fl) .done) (hg : good (f (s.acc n))) :
    AccWord (startWord s k) s w n.toNat fl good :=
  startWord_accWord h hk ((MatBody.modAcc n f).trans (.orFlags fl)) (by rw [tile_orFlags, tile_acc_modAcc]; exact hg)
    (by rw [tile_orFlags]; exact tile_acc_modAcc_other s n f) (by rw [vec_orFlags]; rfl)

end

section
/-! PROOFS (O42). The accumulators (R92-R95, R261, R262, R266, R268): the operands of a step, and what the updates of a step make of each
element. -/

variable {s : State} {w : QEntry}

/-! ## Operands (R254, R255, R259) -/

/-- The number of elements in a row of an operand: 64 in vector registers, NEL of its pair in SRAM. -/
def State.operandWidth (s : State) (src : BitVec 1) (e : BitVec 6) : Nat :=
  if src = 1 then 64 else ((s.me.bank.readE .mq (e.toNat + 1)).extractLsb' 0 7).toNat

/-- R255: the bytes of an operand in `m` vector registers, as one string. -/
def Slot.vecString (x : Slot) (e m : Nat) : List Byte := (List.range m).flatMap fun r => bytesOf (lanesOf (x.vreg (e + r)) x.id.vlmax)

/-- One row of an operand of `d` rows. -/
def State.operandRow (s : State) (src : BitVec 1) (e : BitVec 6) (d n k : Nat) : List Nat :=
  if src = 1 then
    (List.range 64).map fun i =>
      leNat (((s.me.vecString e.toNat (matRegs d n s.me.id.vlmax)).drop ((64 * k + i) * n)).take n)
  else (List.range (s.me.panel e).nel).map fun i => leNat (s.bytesAt s.cur ((s.me.panel e).addr n k i) n)

theorem operandRows_eq (s : State) (src : BitVec 1) (e : BitVec 6) (d n : Nat) :
    s.operandRows src e d n = (List.range d).map (s.operandRow src e d n) := by
  unfold State.operandRows State.operandRow
  by_cases h : src = 1
  · simp only [h, if_true]; rfl
  · simp only [h, if_false]

theorem operandRow_length (s : State) (src : BitVec 1) (e : BitVec 6) (d n k : Nat) :
    (s.operandRow src e d n k).length = s.operandWidth src e := by
  unfold State.operandRow State.operandWidth
  split <;> simp [Slot.panel, panelOf]

theorem list_getD_map_range {α : Type} (f : Nat → α) (x : α) {n k : Nat} (h : k < n) : ((List.range n).map f).getD k x = f k := by
  simp [List.getD, h]

theorem operandRows_getD (s : State) (src : BitVec 1) (e : BitVec 6) {d n k : Nat} (h : k < d) :
    (s.operandRows src e d n).getD k [] = s.operandRow src e d n k := by
  rw [operandRows_eq, list_getD_map_range _ _ h]

/-- R254: a field of a pair that is to be zero is not. -/
theorem panelOf_bad (lo hi : Word) : (panelOf lo hi).bad = true ↔
    lo.extractLsb' 42 22 ≠ 0 ∨ hi.getLsbD 7 = true ∨ hi.extractLsb' 13 3 ≠ 0 ∨ hi.extractLsb' 37 27 ≠ 0 := by
  simp only [panelOf, Bool.or_eq_true, bne_iff_ne, or_assoc]

theorem panel_wrong_iff (p : Panel) : p.wrong = true ↔ p.nel = 0 ∨ Config.mtl < p.nel ∨ p.bad = true := by
  simp only [Panel.wrong, Bool.or_eq_true, beq_iff_eq, decide_eq_true_eq, or_assoc]

/-- R259: check 2 of a pair, by its fields. -/
theorem panelFault_iff (s : State) (e : BitVec 6) : s.panelFault 0 e = true ↔
    (let lo := s.me.bank.readE .mq e.toNat
     let hi := s.me.bank.readE .mq (e.toNat + 1)
     (hi.extractLsb' 0 7).toNat = 0 ∨ 64 < (hi.extractLsb' 0 7).toNat ∨ lo.extractLsb' 42 22 ≠ 0 ∨ hi.getLsbD 7 = true ∨
       hi.extractLsb' 13 3 ≠ 0 ∨ hi.extractLsb' 37 27 ≠ 0) := by
  have h : s.panelFault 0 e = (s.me.panel e).wrong := rfl
  rw [h, panel_wrong_iff]
  unfold Slot.panel
  rw [panelOf_bad]
  exact Iff.rfl

theorem mem_panel_addrs (p : Panel) (d n a : Nat) : a ∈ p.addrs d n ↔ ∃ k < d, ∃ i < p.nel, p.addr n k i = a := by
  simp [Panel.addrs]

/-- R259: check 3 of a pair, element by element. -/
theorem panelOut_iff (s : State) (e : BitVec 6) (d n : Nat) : s.panelOut 0 e d n = true ↔
    ∃ k < d, ∃ i < (s.me.panel e).nel, s.badRange s.cur ((s.me.panel e).addr n k i) n false = true := by
  unfold State.panelOut
  simp only [beq_self_eq_true, Bool.true_and, List.any_eq_true, mem_panel_addrs]
  constructor
  · rintro ⟨_, ⟨k, hk, i, hi, rfl⟩, h⟩; exact ⟨k, hk, i, hi, h⟩
  · rintro ⟨k, hk, i, hi, h⟩; exact ⟨_, ⟨k, hk, i, hi, rfl⟩, h⟩

/-- R109: the double-bit errors of an operand in SRAM, element by element. -/
theorem panelEcc_iff (s : State) (e : BitVec 6) (d n : Nat) : s.panelEcc 0 e d n = true ↔
    ∃ k < d, ∃ i < (s.me.panel e).nel, 0 < n ∧ s.eccAt s.cur ((s.me.panel e).addr n k i) n = true := by
  unfold State.panelEcc eccRanges
  simp only [beq_self_eq_true, Bool.true_and, List.any_map, List.any_eq_true, mem_panel_addrs, Function.comp_apply, Bool.and_eq_true,
    decide_eq_true_eq]
  constructor
  · rintro ⟨_, ⟨k, hk, i, hi, rfl⟩, h⟩; exact ⟨k, hk, i, hi, h⟩
  · rintro ⟨k, hk, i, hi, h⟩; exact ⟨_, ⟨k, hk, i, hi, rfl⟩, h⟩

/-- R254: an element of an operand in SRAM. -/
theorem operandRow_sram (s : State) (e : BitVec 6) (d n k : Nat) {i : Nat} (h : i < (s.me.panel e).nel) :
    (s.operandRow 0 e d n k).getD i 0 = leNat ((List.range n).map fun m => s.byteAt s.cur ((s.me.panel e).addr n k i + m)) := by
  unfold State.operandRow
  rw [if_neg (by decide), list_getD_map_range _ _ h]
  rfl

/-- Of blocks of one length put one after another, byte `c` of block `b`. -/
theorem flatMap_range_getD {α : Type} (f : Nat → List α) (x : α) {m l : Nat} (hl : ∀ r, (f r).length = l) {b c : Nat} (hb : b < m)
    (hc : c < l) : ((List.range m).flatMap f).getD (b * l + c) x = (f b).getD c x := by
  induction m generalizing f b with
  | zero => omega
  | succ m ih =>
    rw [List.range_succ_eq_map, List.flatMap_cons, List.flatMap_map]
    cases b with
    | zero =>
      rw [Nat.zero_mul, Nat.zero_add, List.getD_append _ _ _ _ (by rw [hl]; exact hc)]
    | succ b =>
      rw [List.getD_append_right _ _ _ _ (by rw [hl, Nat.succ_mul]; omega), hl,
        show (b + 1) * l + c - l = b * l + c by rw [Nat.succ_mul]; omega]
      exact ih (fun r => f (r + 1)) (fun r => hl (r + 1)) (by omega)

theorem flatMap_range_length {α : Type} (f : Nat → List α) {m l : Nat} (hl : ∀ r, (f r).length = l) :
    ((List.range m).flatMap f).length = m * l := by
  simp [List.length_flatMap, hl]

/-- The bytes of words, by place. -/
theorem bytesOf_map_range_getD (f : Nat → Nat) {n b : Nat} (h : b < 4 * n) :
    (bytesOf ((List.range n).map f)).getD b 0 = BitVec.ofNat 8 (f (b / 4) / 256 ^ (b % 4)) := by
  unfold bytesOf
  rw [List.flatMap_map, show b = b / 4 * 4 + b % 4 by omega,
    flatMap_range_getD (fun k => natLe (f k) 4) 0 (fun k => natLe_length _ _) (by omega) (by omega),
    natLe_getD _ _ _ (by omega)]
  congr 3 <;> omega

theorem bytesOf_length (l : List Nat) : (bytesOf l).length = 4 * l.length := by
  unfold bytesOf
  simp [List.length_flatMap, Nat.mul_comm]

/-- R255: a byte of the string of the vector registers: of each register its lanes, of each lane its bytes. -/
theorem vecString_getD (x : Slot) (e m : Nat) {b : Nat} (hv : 0 < x.id.vlmax) (h : b < m * (4 * x.id.vlmax)) :
    (x.vecString e m).getD b 0 =
      BitVec.ofNat 8 (lane (x.vreg (e + b / (4 * x.id.vlmax))) (b % (4 * x.id.vlmax) / 4) / 256 ^ (b % 4)) := by
  have hl : 0 < 4 * x.id.vlmax := by omega
  have hq : b / (4 * x.id.vlmax) < m := Nat.div_lt_of_lt_mul (by rwa [Nat.mul_comm])
  have hr : b % (4 * x.id.vlmax) < 4 * x.id.vlmax := Nat.mod_lt _ hl
  unfold Slot.vecString
  conv_lhs => rw [show b = b / (4 * x.id.vlmax) * (4 * x.id.vlmax) + b % (4 * x.id.vlmax) from (Nat.div_add_mod' _ _).symm]
  rw [flatMap_range_getD _ 0 (fun r => by rw [bytesOf_length]; simp [lanesOf]) hq hr]
  unfold lanesOf
  rw [bytesOf_map_range_getD _ hr]
  congr 3
  rw [Nat.mod_mul_right_mod]

/-- R255: the registers that an operand occupies hold all of its elements. -/
theorem matRegs_covers (d n : Nat) {v : Nat} (hv : 0 < v) : d * 64 * n ≤ matRegs d n v * (4 * v) := by
  have h := Nat.lt_div_mul_add (a := d * 64 * n + 4 * v - 1) (b := 4 * v) (by omega)
  unfold matRegs
  omega

/-- `n` bytes of a string, by place. -/
theorem take_drop_eq_map (bs : List Byte) {a n : Nat} (h : a + n ≤ bs.length) :
    (bs.drop a).take n = (List.range n).map fun m => bs.getD (a + m) 0 := by
  apply List.ext_getElem
  · simp; omega
  · intro m h1 h2
    simp only [List.length_map, List.length_range] at h2
    simp [List.getD, show a + m < bs.length by omega]

/-- R255: an element of an operand in vector registers. -/
theorem operandRow_vector (s : State) (e : BitVec 6) {d n k i : Nat} (hv : 0 < s.me.id.vlmax) (hk : k < d) (hi : i < 64) :
    (s.operandRow 1 e d n k).getD i 0 = leNat ((List.range n).map fun m =>
      let b := (64 * k + i) * n + m
      BitVec.ofNat 8 (lane (s.me.vreg (e.toNat + b / (4 * s.me.id.vlmax))) (b % (4 * s.me.id.vlmax) / 4) / 256 ^ (b % 4))) := by
  have hin : (64 * k + i) * n + n ≤ matRegs d n s.me.id.vlmax * (4 * s.me.id.vlmax) := by
    have hle : (64 * k + i + 1) * n ≤ d * 64 * n := Nat.mul_le_mul_right _ (by omega)
    have := matRegs_covers d n hv
    rw [Nat.succ_mul] at hle
    omega
  have hlen : (s.me.vecString e.toNat (matRegs d n s.me.id.vlmax)).length = matRegs d n s.me.id.vlmax * (4 * s.me.id.vlmax) :=
    flatMap_range_length _ fun r => by rw [bytesOf_length]; simp [lanesOf]
  unfold State.operandRow
  rw [if_pos rfl, list_getD_map_range _ _ hi, take_drop_eq_map _ (by rw [hlen]; exact hin)]
  refine congrArg leNat (List.map_congr_left fun m hm => vecString_getD _ _ _ hv ?_)
  have := List.mem_range.mp hm
  omega

/-! ## Updates of one element (R77, R93-R95) -/

theorem cellRun_append (mode : AccMode) (neg : Bool) {xs ys : List FVal} (h : xs.length = ys.length) (x y : FVal) (b : AccElem) :
    cellRun mode neg (xs ++ [x]) (ys ++ [y]) b = cellStep mode neg (cellRun mode neg xs ys b) x y := by
  unfold cellRun
  rw [List.zip_append h, List.foldl_append]
  rfl

/-- Both operands of a product are finite. -/
theorem isFinite_iff (x y : FVal) :
    (x.isFinite && y.isFinite) = true ↔ (∃ n m e, x = .fin n m e) ∧ ∃ n m e, y = .fin n m e := by
  cases x <;> cases y <;> simp [FVal.isFinite]

/-- R95: an update in FLT. -/
theorem cellStep_flt (neg : Bool) (c : Cell) (x y : FVal) :
    cellStep .flt neg c x y =
      (let v := f32.fmaV .rne (if neg then x.negate else x) y (f32.dec (c.bits.extractLsb' 0 32).toNat)
       { c with bits := BitVec.ofNat 96 v.1, flags := c.flags ||| v.2 ||| (if x.isFinite && y.isFinite then 0 else fNV) }) := rfl

/-- R93, R94: an update in FIX or INT. -/
theorem cellStep_fixed {mode : AccMode} (h : mode ≠ .flt) (neg : Bool) (c : Cell) (x y : FVal) :
    cellStep mode neg c x y = match fixProd mode x y with
      | none => { c with flags := c.flags ||| fNV }
      | some p =>
        { c with bits := BitVec.ofInt 96 (saturate96 (c.bits.toInt + (if neg then -p else p))).1
                 ov := c.ov || (saturate96 (c.bits.toInt + (if neg then -p else p))).2 } := by
  cases mode with
  | flt => exact absurd rfl h
  | fix => rfl
  | int => rfl

/-- R93: an operand that is not finite gives no product. -/
theorem fixProd_none (mode : AccMode) {x y : FVal} (h : ¬ ((∃ n m e, x = .fin n m e) ∧ ∃ n m e, y = .fin n m e)) :
    fixProd mode x y = none := by
  cases x with
  | fin n m e =>
    cases y with
    | fin k j g => exact absurd ⟨⟨n, m, e, rfl⟩, k, j, g, rfl⟩ h
    | inf n => rfl
    | nan b => rfl
  | inf n => rfl
  | nan b => rfl

/-- R93: a product of two numbers in units of the mode, cut toward zero. -/
theorem fixProd_fin (mode : AccMode) (n k : Bool) (m j : Nat) (e g : Int) :
    fixProd mode (.fin n m e) (.fin k j g) =
      (let sh : Int := e + g + (if mode = .fix then 48 else 0)
       let p : Int := if 0 ≤ sh then m * j * 2 ^ sh.toNat else (m * j : Nat) / 2 ^ (-sh).toNat
       some (if n = k then p else -p)) := by
  have hq : ∀ sh : Int, ((cut (m * j) sh 0 false).q : Int) =
      if 0 ≤ sh then (m : Int) * j * 2 ^ sh.toNat else ((m * j : Nat) : Int) / 2 ^ (-sh).toNat := fun sh => by
    unfold cut
    split
    · simp
    · simp
  simp only [fixProd, hq, beq_iff_eq]

/-- R94: a sum as an element holds it. -/
theorem saturate96_eq (v : Int) :
    saturate96 v = (max (-2 ^ 95) (min (2 ^ 95 - 1) v), decide (v < -2 ^ 95 ∨ 2 ^ 95 - 1 < v)) := by
  unfold saturate96
  split
  · next h => exact Prod.ext (by dsimp only; omega) (decide_eq_true (by omega)).symm
  · split
    · next h => exact Prod.ext (by dsimp only; omega) (decide_eq_true (by omega)).symm
    · next h g => exact Prod.ext (by dsimp only; omega) (decide_eq_false (by omega)).symm

/-- R93, R94: an update in FIX or INT by two numbers. -/
theorem cellStep_fin {mode : AccMode} (h : mode ≠ .flt) (neg n k : Bool) (c : Cell) (m j : Nat) (e g : Int) :
    cellStep mode neg c (.fin n m e) (.fin k j g) =
      (let sh : Int := e + g + (if mode = .fix then 48 else 0)
       let p : Int := if 0 ≤ sh then m * j * 2 ^ sh.toNat else (m * j : Nat) / 2 ^ (-sh).toNat
       let sum : Int := c.bits.toInt + (if (n = k) = (neg = false) then p else -p)
       { c with bits := BitVec.ofInt 96 (max (-2 ^ 95) (min (2 ^ 95 - 1) sum))
                ov := c.ov || decide (sum < -2 ^ 95 ∨ 2 ^ 95 - 1 < sum) }) := by
  have hsign : ∀ p : Int, (if neg then -(if n = k then p else -p) else if n = k then p else -p) =
      if (n = k) = (neg = false) then p else -p := fun p => by
    by_cases hn : n = k <;> cases neg <;> simp [hn]
  rw [cellStep_fixed h, fixProd_fin]
  simp only [saturate96_eq, hsign]

/-! ## A step (R261, R268) -/

/-- The elements of a step, row by row. -/
def stepCells (na nb : Nat) : List (Nat × Nat) := List.range na ×ˢ List.range nb

theorem mem_stepCells {na nb : Nat} {p : Nat × Nat} : p ∈ stepCells na nb ↔ p.1 < na ∧ p.2 < nb := by
  obtain ⟨i, j⟩ := p
  simp [stepCells]

/-- No element of a step is updated twice. -/
theorem stepCells_keys_nodup {na nb : Nat} (h : nb ≤ 64) : ((stepCells na nb).map fun p => 64 * p.1 + p.2).Nodup := by
  refine List.Nodup.map_on (fun p hp q hq he => ?_) (List.nodup_range.product List.nodup_range)
  have hp := mem_stepCells.mp hp
  have hq := mem_stepCells.mp hq
  exact Prod.ext (by omega) (by omega)

/-- R261: what a step makes of one element of a table. -/
def stepCell (mode : AccMode) (neg : Bool) (rows cols : List (List FVal)) (el : Sparse AccElem) (p : Nat × Nat) : Cell :=
  cellRun mode neg (rows.map fun l => l.getD p.1 (.fin false 0 0)) (cols.map fun l => l.getD p.2 (.fin false 0 0))
    (Sparse.get 0 el (64 * p.1 + p.2))

/-- R261: an accumulator and flags with one element updated. -/
def stepOne (mode : AccMode) (neg : Bool) (rows cols : List (List FVal)) (r : Acc × Flags) (p : Nat × Nat) : Acc × Flags :=
  let c := stepCell mode neg rows cols r.1.el p
  ({ r.1 with el := Sparse.set 0 r.1.el (64 * p.1 + p.2) c.bits, ov := r.1.ov || c.ov }, r.2 ||| c.flags)

/-- A step updates its elements one by one. -/
theorem acc_step_eq (a : Acc) (neg : Bool) (rows cols : List (List FVal)) : a.step neg rows cols =
    (stepCells (rows.headD []).length (cols.headD []).length).foldl (stepOne a.mode neg rows cols) (a, 0) := by
  unfold stepCells
  show _ = ((List.range _).flatMap fun i => (List.range _).map (Prod.mk i)).foldl _ _
  rw [List.foldl_flatMap]
  simp only [List.foldl_map]
  rfl

/-- R261, R268: each element that is updated once has its cell's bits, the others are as they were; OV and the flags are collected. -/
theorem foldl_stepOne (a : Acc) (mode : AccMode) (neg : Bool) (rows cols : List (List FVal)) (ps : List (Nat × Nat))
    (h : (ps.map fun p => 64 * p.1 + p.2).Nodup) :
    let r := ps.foldl (stepOne mode neg rows cols) (a, 0)
    let cell := stepCell mode neg rows cols a.el
    r.1 = { a with el := r.1.el, ov := a.ov || (ps.map cell).any (·.ov) } ∧ r.2 = (ps.map cell).foldl (fun fl c => fl ||| c.flags) 0 ∧
      (∀ p ∈ ps, Sparse.get 0 r.1.el (64 * p.1 + p.2) = (cell p).bits) ∧
      ∀ n, (∀ p ∈ ps, 64 * p.1 + p.2 ≠ n) → Sparse.get 0 r.1.el n = Sparse.get 0 a.el n := by
  induction ps using List.reverseRecOn with
  | nil => exact ⟨by simp, rfl, by simp, fun _ _ => rfl⟩
  | append_singleton ps p ih =>
    rw [List.map_append, List.nodup_append] at h
    obtain ⟨hps, -, hnew⟩ := h
    have hp : ∀ q ∈ ps, 64 * q.1 + q.2 ≠ 64 * p.1 + p.2 := fun q hq => hnew _ (List.mem_map_of_mem hq) _ (by simp)
    obtain ⟨hacc, hfl, hin, hout⟩ := ih hps
    have hcell : stepCell mode neg rows cols (ps.foldl (stepOne mode neg rows cols) (a, 0)).1.el p =
        stepCell mode neg rows cols a.el p := by
      unfold stepCell
      rw [hout _ hp]
    dsimp only
    rw [List.foldl_append]
    simp only [List.foldl_cons, List.foldl_nil, stepOne, hcell]
    refine ⟨?_, ?_, fun q hq => ?_, fun n hn => ?_⟩
    · rw [hacc]
      simp [Bool.or_assoc]
    · rw [hfl, List.map_append, List.foldl_append]
      rfl
    · obtain hq | hq := List.mem_append.mp hq
      · rw [sparse_get_set_ne 0 _ _ (hp q hq)]
        exact hin q hq
      · obtain rfl := List.mem_singleton.mp hq
        exact sparse_get_set_self 0 _ _ _
    · rw [sparse_get_set_ne 0 _ _ (Ne.symm (hn p (by simp)))]
      exact hout n fun q hq => hn q (by simp [hq])

/-! ## The words -/

variable {f : MatF}

/-- R259: no check of an operand fails, and it holds no double-bit error. -/
def State.operandReady (s : State) (src : BitVec 1) (e : BitVec 6) (d n : Nat) : Prop :=
  s.panelFault src e = false ∧ s.panelOut src e d n = false ∧ s.panelEcc src e d n = false

/-- A row of an operand has at most 64 elements. -/
theorem operandWidth_le {src : BitVec 1} {e : BitVec 6} (h : s.panelFault src e = false) : s.operandWidth src e ≤ 64 := by
  unfold State.operandWidth
  split
  · exact Nat.le_refl _
  · next hs =>
    have hs : src = 0 := BitVec.eq_of_toNat_eq (by
      have : src.toNat ≠ 1 := fun h1 => hs (BitVec.eq_of_toNat_eq h1)
      obtain h0 | h1 := bitVec1_toNat_cases src
      · exact h0
      · exact absurd h1 this)
    subst hs
    exact Nat.le_of_not_lt fun hlt => absurd ((panelFault_iff s e).mpr (.inr (.inl hlt))) (by rw [h]; exact Bool.false_ne_true)

/-- The rows of an operand have the operand's width. -/
theorem operandRows_headD_length (s : State) (src : BitVec 1) (e : BitVec 6) (d n : Nat) (dec : Nat → FVal) :
    ((((s.operandRows src e (d + 1) n).map fun l => l.map dec).headD []).length) = s.operandWidth src e := by
  rw [operandRows_eq, List.range_succ_eq_map]
  simp only [List.map_cons, List.headD_cons, List.length_map, operandRow_length]

/-- Element `i` of each row of an operand, decoded. -/
theorem operandRows_column (s : State) (src : BitVec 1) (e : BitVec 6) (d n : Nat) (dec : Nat → FVal) {i : Nat}
    (h : i < s.operandWidth src e) :
    ((s.operandRows src e d n).map fun l => l.map dec).map (fun l => l.getD i (.fin false 0 0)) =
      (List.range d).map fun k => dec (((s.operandRows src e d n).getD k []).getD i 0) := by
  rw [List.map_map]
  conv_lhs => rw [operandRows_eq, List.map_map]
  refine List.map_congr_left fun k hk => ?_
  rw [operandRows_getD s src e (List.mem_range.mp hk)]
  simp [List.getD, operandRow_length, h]

/-- R261: what an `mstep` makes of element (i, j). -/
def State.mstepCell (s : State) (f : MatF) (i j : Nat) : Cell :=
  cellRun (s.acc f.acc).mode (f.flags.getLsbD 0)
    ((List.range (matDepth f)).map fun k =>
      matDec f.fmt true (((s.operandRows f.asrc f.a (matDepth f) (matSize f.fmt true)).getD k []).getD i 0))
    ((List.range (matDepth f)).map fun k =>
      matDec f.fmt false (((s.operandRows f.bsrc f.b (matDepth f) (matSize f.fmt false)).getD k []).getD j 0))
    (Sparse.get 0 (s.acc f.acc).el (64 * i + j))

/-- The cells of an `mstep`, row by row. -/
def State.mstepCells (s : State) (f : MatF) : List Cell :=
  (List.range (s.operandWidth f.asrc f.a)).flatMap fun i => (List.range (s.operandWidth f.bsrc f.b)).map fun j => s.mstepCell f i j

theorem mstepCells_eq (s : State) (f : MatF) : s.mstepCells f =
    (stepCells (s.operandWidth f.asrc f.a) (s.operandWidth f.bsrc f.b)).map fun p => s.mstepCell f p.1 p.2 := by
  show _ = ((List.range _).flatMap fun i => (List.range _).map (Prod.mk i)).map _
  rw [List.map_flatMap]
  simp only [List.map_map]
  rfl

/-- The rows of operand A of an `mstep`, decoded. -/
def State.mstepRows (s : State) (f : MatF) : List (List FVal) :=
  (s.operandRows f.asrc f.a (matDepth f) (matSize f.fmt true)).map fun l => l.map (matDec f.fmt true)

/-- The rows of operand B of an `mstep`, decoded. -/
def State.mstepCols (s : State) (f : MatF) : List (List FVal) :=
  (s.operandRows f.bsrc f.b (matDepth f) (matSize f.fmt false)).map fun l => l.map (matDec f.fmt false)

/-- The step of an `mstep`: the accumulator and the flags that its operands give. -/
def State.mstepAcc (s : State) (f : MatF) : Acc × Flags := (s.acc f.acc).step (f.flags.getLsbD 0) (s.mstepRows f) (s.mstepCols f)

/-- A step takes the elements of its operands' widths. -/
theorem mstepAcc_eq_foldl (s : State) (f : MatF) : s.mstepAcc f =
    (stepCells (s.operandWidth f.asrc f.a) (s.operandWidth f.bsrc f.b)).foldl
      (stepOne (s.acc f.acc).mode (f.flags.getLsbD 0) (s.mstepRows f) (s.mstepCols f)) (s.acc f.acc, 0) := by
  refine (acc_step_eq _ _ _ _).trans ?_
  unfold State.mstepRows State.mstepCols matDepth
  rw [operandRows_headD_length, operandRows_headD_length]

theorem stepCell_eq_mstepCell {p : Nat × Nat} (h : p ∈ stepCells (s.operandWidth f.asrc f.a) (s.operandWidth f.bsrc f.b)) :
    stepCell (s.acc f.acc).mode (f.flags.getLsbD 0) (s.mstepRows f) (s.mstepCols f) (s.acc f.acc).el p = s.mstepCell f p.1 p.2 := by
  obtain ⟨hi, hj⟩ := mem_stepCells.mp h
  unfold stepCell State.mstepRows State.mstepCols
  rw [operandRows_column s _ _ _ _ _ hi, operandRows_column s _ _ _ _ _ hj]
  rfl

/-- R261, R268: the step of an `mstep`, element by element. -/
theorem mstepAcc_eq (hb : s.operandWidth f.bsrc f.b ≤ 64) :
    let a := s.acc f.acc
    let r := s.mstepAcc f
    r.1 = { a with el := r.1.el, ov := a.ov || (s.mstepCells f).any (·.ov) } ∧ r.2 = (s.mstepCells f).foldl (fun fl c => fl ||| c.flags) 0 ∧
      ∀ i j, j < 64 → Sparse.get 0 r.1.el (64 * i + j) =
        if i < s.operandWidth f.asrc f.a ∧ j < s.operandWidth f.bsrc f.b then (s.mstepCell f i j).bits else Sparse.get 0 a.el (64 * i + j) := by
  obtain ⟨hacc, hfl, hin, hout⟩ := foldl_stepOne (s.acc f.acc) (s.acc f.acc).mode (f.flags.getLsbD 0) (s.mstepRows f) (s.mstepCols f) _
    (stepCells_keys_nodup (na := s.operandWidth f.asrc f.a) hb)
  rw [← mstepAcc_eq_foldl, List.map_congr_left fun p hp => stepCell_eq_mstepCell hp, ← mstepCells_eq] at hacc hfl
  rw [← mstepAcc_eq_foldl] at hin hout
  refine ⟨hacc, hfl, fun i j hj => ?_⟩
  split
  · next h =>
    rw [hin (i, j) (mem_stepCells.mpr h), stepCell_eq_mstepCell (mem_stepCells.mpr h)]
  · next h =>
    refine hout _ fun p hp he => h ?_
    obtain ⟨h1, h2⟩ := mem_stepCells.mp hp
    have hi : p.1 = i := by omega
    have hj : p.2 = j := by omega
    exact hi ▸ hj ▸ ⟨h1, h2⟩

/-- R261: an `mstep` that no check stops. -/
theorem mstep_accWord (h : s.startable = some w) (hf : s.accForeign f.acc = false)
    (ha : s.operandReady f.asrc f.a (matDepth f) (matSize f.fmt true)) (hb : s.operandReady f.bsrc f.b (matDepth f) (matSize f.fmt false))
    (hm : (s.acc f.acc).mode = modeOf f.fmt) :
    let a := s.acc f.acc
    AccWord (execMstep f s) s w f.acc.toNat ((s.mstepCells f).foldl (fun fl c => fl ||| c.flags) 0) (fun b =>
      (∀ i j, j < 64 → Sparse.get 0 b.el (64 * i + j) =
        if i < s.operandWidth f.asrc f.a ∧ j < s.operandWidth f.bsrc f.b then (s.mstepCell f i j).bits else Sparse.get 0 a.el (64 * i + j)) ∧
      b = { a with el := b.el, opn := a.opn ||| (1#8 <<< f.batch.toNat), ov := a.ov || (s.mstepCells f).any (·.ov) }) := by
  obtain ⟨afault, aout, aecc⟩ := ha
  obtain ⟨bfault, bout, becc⟩ := hb
  obtain ⟨hacc, hfl, hel⟩ := mstepAcc_eq (operandWidth_le bfault)
  dsimp only
  rw [← hfl]
  refine startWord_modAcc_orFlags (f := fun _ => { (s.mstepAcc f).1 with opn := (s.mstepAcc f).1.opn ||| (1#8 <<< f.batch.toNat) }) h ?_ ?_
  · simp only [hf, afault, bfault, aout, bout, aecc, becc, hm, bne_self_eq_false, Bool.or_false, Bool.false_eq_true, if_false]
    rfl
  · exact ⟨hel, by rw [hacc]⟩

/-- R259: the checks of an `mstep`, in their order. -/
theorem mstep_stops (h : s.startable = some w) (hf : s.accForeign f.acc = false) :
    let wrong : Prop := s.panelFault f.asrc f.a = true ∨ s.panelFault f.bsrc f.b = true
    let out : Prop := s.panelOut f.asrc f.a (matDepth f) (matSize f.fmt true) = true ∨
      s.panelOut f.bsrc f.b (matDepth f) (matSize f.fmt false) = true
    (wrong → StopsE (execMstep f s) s w .descriptor none) ∧
      (¬ wrong → (out → StopsE (execMstep f s) s w .window none) ∧
        (¬ out → ((s.acc f.acc).mode ≠ modeOf f.fmt → StopsE (execMstep f s) s w .accmode none) ∧
          ((s.acc f.acc).mode = modeOf f.fmt → s.panelEcc f.asrc f.a (matDepth f) (matSize f.fmt true) = true ∨
            s.panelEcc f.bsrc f.b (matDepth f) (matSize f.fmt false) = true → StopsE (execMstep f s) s w .eccfatal none))) := by
  have hf' : ¬ s.accForeign f.acc = true := by simp [hf]
  simp only [← Bool.or_eq_true]
  refine ⟨fun hw => ?_, fun hw => ⟨fun ho => ?_, fun ho => ⟨fun hm => ?_, fun hm he => ?_⟩⟩⟩ 
  · exact startWord_stopsE h ((if_neg hf').trans (if_pos hw)) (by decide)
  · exact startWord_stopsE h ((if_neg hf').trans ((if_neg hw).trans (if_pos ho))) (by decide)
  · exact startWord_stopsE h ((if_neg hf').trans ((if_neg hw).trans ((if_neg ho).trans (if_pos (bne_iff_ne.mpr hm))))) (by decide)
  · exact startWord_stopsE h ((if_neg hf').trans ((if_neg hw).trans ((if_neg ho).trans ((if_neg (by simp [hm])).trans (if_pos he))))) (by decide)

/-- R262: `mcommit` closes its batch on both accumulators. -/
theorem mcommit_closes (h : s.startable = some w) (f : MatF) :
    ∃ t, execMcommit f s = .next t ∧ MatFrame s t w (fun _ _ => False) ∧ (t.slot s.cur).vec = s.me.vec ∧
      ∀ m, let b := (s.tile (tileOf s.cur)).acc m
        (t.tile (tileOf s.cur)).acc m = { b with opn := b.opn &&& ~~~(1#8 <<< f.batch.toNat) } := by
  have hb : MatBody (fun _ _ => False) s ((s.modAcc 0 _).modAcc 1 _) :=
    (MatBody.modAcc 0 fun a => { a with opn := a.opn &&& ~~~(1#8 <<< f.batch.toNat) }).trans
      (.modAcc 1 fun a => { a with opn := a.opn &&& ~~~(1#8 <<< f.batch.toNat) })
  obtain ⟨he, hm⟩ := startWord_matFrame h (k := fun _ s => _) rfl hb
  refine ⟨_, he, hm, by rw [hb.wordDone_vec w]; rfl, fun m => ?_⟩
  rw [wordDone_tile]
  unfold State.modAcc
  rw [modTile_cur, tile_modTile_self, tile_modTile_self]
  unfold Tile.modAcc
  rw [tile_acc_setAcc, tile_acc_setAcc]
  by_cases h0 : m = 0
  · subst h0; rfl
  · simp [h0, Tile.acc]

/-- Settles O42: what each word leaves, its checks, the places of the operands, and the updates of one element, each from its lemma. -/
theorem accumulatorResults : Obligations.AccumulatorResults := by
  unfold Obligations.AccumulatorResults
  refine ⟨fun s f w h => ⟨fun hf => ?foreign, fun hf => ⟨?zero, ?cfg⟩, mcommit_closes h f, fun hf => ?checks, fun hf ha hb hm => ?step⟩,
    fun s f d n => ?operands, fun mode neg b => ⟨rfl, rfl, rfl⟩, fun mode neg xs ys x y b hl => ?updates⟩
  case foreign =>
    rw [exec_mzero, exec_mcfg, exec_mstep]
    exact ⟨startWord_stopsE h (if_pos hf) (by decide), startWord_stopsE h (if_pos hf) (by decide), startWord_stopsE h (if_pos hf) (by decide)⟩
  case zero =>
    rw [exec_mzero]
    exact startWord_modAcc h (if_neg (Bool.eq_false_iff.mp hf)) ⟨fun _ => rfl, rfl⟩
  case cfg =>
    rw [exec_mcfg]
    exact startWord_modAcc h (if_neg (Bool.eq_false_iff.mp hf)) rfl
  case checks => exact mstep_stops h hf
  case step => exact mstep_accWord h hf ha hb hm
  case operands =>
    refine ⟨panelFault_iff s f, panelOut_iff s f d n, panelEcc_iff s f d n, rfl, rfl, rfl, fun k i hk hi => ?_, fun hv k i hk hi => ?_⟩
    · dsimp only
      rw [operandRows_getD s 0 f hk]
      exact operandRow_sram s f d n k hi
    · dsimp only
      rw [operandRows_getD s 1 f hk]
      exact operandRow_vector s f hv hk hi
  case updates =>
    dsimp only
    rw [cellRun_append mode neg hl]
    refine ⟨fun hm => ?_, fun hm hn => ?_, fun n m e k j g hm hx hy => ?_⟩
    · subst hm
      rw [cellStep_flt, ← isFinite_iff]
      exact ⟨rfl, rfl, fun hc => by simp [hc], fun hc => by simp [hc]⟩
    · rw [cellStep_fixed hm, fixProd_none mode hn]
      exact ⟨rfl, rfl, rfl⟩
    · subst hx hy
      rw [cellStep_fin hm]
      exact ⟨rfl, rfl, rfl⟩

end

section
/-! PROOFS (O43). The lanes of a vector register, lists of elements row by row, and the bytes that a word stores. -/

variable {s : State} {W : Nat → Nat → Prop} {w : QEntry}

/-! ## Lanes of a vector register (R202, R204) -/

/-- A field of the bits of a number. -/
theorem extract_ofNat {n a l : Nat} (x : Nat) (h : a + l ≤ n) : ((BitVec.ofNat n x).extractLsb' a l).toNat = x / 2 ^ a % 2 ^ l := by
  obtain ⟨m, rfl⟩ : ∃ m, n = a + m := ⟨n - a, by omega⟩
  rw [BitVec.extractLsb'_toNat, BitVec.toNat_ofNat, Nat.shiftRight_eq_div_pow, Nat.pow_add, Nat.mod_mul_right_div_self,
    Nat.mod_mod_of_dvd _ (Nat.pow_dvd_pow 2 (by omega))]

/-- A lane of a register that a number gives. -/
theorem lane_ofNat (x : Nat) {k : Nat} (h : k < 64) : lane (BitVec.ofNat 2048 x) k = x / 2 ^ (32 * k) % 2 ^ 32 :=
  extract_ofNat x (by omega)

/-- The lanes of a register from a list. -/
theorem lane_ofLanes (l : List Nat) {k : Nat} (h : k < 64) : lane (ofLanes l) k = l.getD k 0 % 2 ^ 32 := by
  unfold ofLanes
  rw [lane_ofNat _ h]
  clear h
  induction l generalizing k with
  | nil => simp
  | cons x l ih =>
    cases k with
    | zero => simp only [List.foldr_cons, List.getD_cons_zero, Nat.mul_zero, Nat.pow_zero, Nat.div_one]; omega
    | succ k =>
      rw [List.getD_cons_succ, ← ih, List.foldr_cons, Nat.mul_succ, Nat.add_comm (32 * k), Nat.pow_add, ← Nat.div_div_eq_div_mul]
      congr 2
      omega

/-- R204: the lanes that a word writes, and the others. -/
theorem lane_setLanes (old : VReg) (l : List (Option Nat)) {k : Nat} (h : k < 64) :
    lane (setLanes old l) k = if k < l.length then (l.getD k none).getD (lane old k) % 2 ^ 32 else lane old k := by
  have hnew := lane_ofLanes ((List.range l.length).map fun k => (l.getD k none).getD (lane old k)) h
  have hmask : ∀ i < 32, (BitVec.ofNat 2048 (2 ^ (32 * l.length) - 1)).getLsbD (32 * k + i) = decide (k < l.length) := fun i hi => by
    rw [BitVec.getLsbD_ofNat, Nat.testBit_two_pow_sub_one]
    by_cases hk : k < l.length
    · simp [hk]; omega
    · simp [hk]; omega
  unfold setLanes
  dsimp only
  generalize ofLanes ((List.range l.length).map fun k => (l.getD k none).getD (lane old k)) = new at hnew
  have hor : lane (old &&& ~~~BitVec.ofNat 2048 (2 ^ (32 * l.length) - 1) ||| new) k =
      if k < l.length then lane new k else lane old k ||| lane new k := by
    unfold lane
    split
    · next hk =>
      refine congrArg BitVec.toNat (BitVec.eq_of_getLsbD_eq fun i hi => ?_)
      simp [hi, hmask i hi, hk]
    · next hk =>
      rw [← BitVec.toNat_or]
      refine congrArg BitVec.toNat (BitVec.eq_of_getLsbD_eq fun i hi => ?_)
      have hin : 32 * k + i < 2048 := by omega
      have hm := hmask i hi
      simp only [BitVec.getLsbD_extractLsb', BitVec.getLsbD_or, BitVec.getLsbD_and, BitVec.getLsbD_not, hm, hk, hin]
      simp [Bool.and_or_distrib_left]
  rw [hor]
  split
  · next hk => rw [hnew, list_getD_map_range _ _ hk]
  · next hk => rw [hnew]; simp [List.getD, hk]

/-! ## Elements row by row -/

/-- Rows of one length, element by element. -/
theorem flatMap_range_map {α : Type} (g : Nat → Nat → α) (d : Nat) {l : Nat} (h : 0 < l) :
    ((List.range d).flatMap fun q => (List.range l).map (g q)) = (List.range (d * l)).map fun e => g (e / l) (e % l) := by
  induction d with
  | zero => simp
  | succ d ih =>
    rw [List.range_succ, List.flatMap_append, ih, Nat.succ_mul, List.range_add, List.map_append, List.map_map]
    simp only [List.flatMap_cons, List.flatMap_nil, List.append_nil]
    refine congrArg _ (List.map_congr_left fun j hj => ?_)
    have hj := List.mem_range.mp hj
    simp [Nat.mul_comm d l, Nat.mul_add_div h, Nat.div_eq_of_lt hj, Nat.mod_eq_of_lt hj]

/-- A stretch of a table. -/
theorem take_drop_map_range {α : Type} (g : Nat → α) {m a n : Nat} (h : a + n ≤ m) :
    ((((List.range m).map g).drop a).take n) = (List.range n).map fun k => g (a + k) := by
  apply List.ext_getElem
  · simp; omega
  · intro k h1 h2
    simp

/-! ## Bytes that a word stores -/

/-- A byte of a value is a field of its bits. -/
theorem ofNat_div_eq_extract {n : Nat} (v : BitVec n) (j : Nat) : BitVec.ofNat 8 (v.toNat / 256 ^ j) = v.extractLsb' (8 * j) 8 := by
  refine BitVec.eq_of_toNat_eq ?_
  rw [BitVec.extractLsb'_toNat, BitVec.toNat_ofNat, Nat.shiftRight_eq_div_pow, Nat.pow_mul]

/-- A byte of a value's bytes is a field of its bits. -/
theorem natLe_getD_bits {n : Nat} (v : BitVec n) {m j : Nat} (h : j < m) : (natLe v.toNat m).getD j 0 = v.extractLsb' (8 * j) 8 := by
  rw [natLe_getD _ _ _ h, ofNat_div_eq_extract]

/-- The `n` addresses from `a` up lie behind one another in SRAM. -/
def Slot.Behind (x : Slot) (a n : Nat) : Prop := ∃ b, ∀ j < n, x.phys (a + j) = some (b + j)

/-- R107, R351: a range that no check refuses lies in one partition. -/
theorem behind_of_badRange {i a n : Nat} {wr : Bool} (h : s.badRange i a n wr = false) : (s.slot i).Behind a n := by
  unfold State.badRange at h
  unfold Slot.Behind Slot.phys
  dsimp only at h
  split at h
  · next hs =>
    simp only [hs, if_true]
    split at h
    · next ha =>
      simp only [Bool.or_eq_false_iff, decide_eq_false_iff_not] at h
      have hsize : Config.supSize = 65536 := rfl
      refine ⟨Config.supBase + a, fun j hj => ?_⟩
      rw [if_pos (by omega), if_pos (by omega), Nat.add_assoc]
    · split at h
      · simp only [Bool.or_eq_false_iff, decide_eq_false_iff_not] at h
        obtain ⟨h1, ⟨h2, -⟩, -⟩ := h
        refine ⟨(s.slot i).id.base * 4096 + (a - 0x200000), fun j hj => ?_⟩
        rw [if_neg (by omega), if_pos (by omega)]
        exact congrArg some (by omega)
      · exact absurd h (by simp)
  · next hs =>
    simp only [Bool.or_eq_false_iff, decide_eq_false_iff_not] at h
    obtain ⟨⟨h2, -⟩, -⟩ := h
    refine ⟨(s.slot i).id.base * 4096 + a, fun j hj => ?_⟩
    rw [if_neg hs, if_pos (by omega), Nat.add_assoc]

theorem MatBody.putByteAt {i : Nat} (hi : i = s.cur) (a : Nat) (b : Byte) (h : ∀ p, (s.slot i).phys a = some p → W (tileOf i) p) :
    MatBody W s (s.putByteAt i a b) := by
  unfold State.putByteAt
  split
  · next q hq =>
    subst hi
    refine .modTile rfl _ rfl fun p hp => mem_byte_put_ne _ _ ?_
    rintro rfl
    exact hp (h _ hq)
  · exact .refl _ _

theorem putByteAt_cur (s : State) (i a : Nat) (b : Byte) : (s.putByteAt i a b).cur = s.cur := by
  unfold State.putByteAt; split <;> rfl

theorem putSeq_cur (s : State) (i a : Nat) (bs : List Byte) : (s.putSeq i a bs).cur = s.cur := by
  induction bs generalizing s a with
  | nil => rfl
  | cons b bs ih => exact (ih (s.putByteAt i a b) (a + 1)).trans (putByteAt_cur s i a b)

@[simp] theorem putBytesAt_cur (s : State) (i a : Nat) (bs : List Byte) : (s.putBytesAt i a bs).cur = s.cur := by
  unfold State.putBytesAt
  dsimp only
  split <;> exact putSeq_cur s i a bs

theorem MatBody.putSeq {i : Nat} (hi : i = s.cur) (a : Nat) (bs : List Byte)
    (h : ∀ j, j < bs.length → ∀ p, (s.slot i).phys (a + j) = some p → W (tileOf i) p) : MatBody W s (s.putSeq i a bs) := by
  induction bs generalizing s a with
  | nil => exact .refl _ _
  | cons b bs ih =>
    refine (MatBody.putByteAt hi a b fun p hp => h 0 (by simp) p hp).trans (ih (hi.trans (putByteAt_cur s i a b).symm) (a + 1) fun j hj p hp => ?_)
    rw [putByteAt_slot] at hp
    exact h (j + 1) (by simpa using hj) p (by rwa [Nat.add_assoc, Nat.add_comm 1] at hp)

/-- A store changes nothing but the bytes it names. -/
theorem MatBody.putBytesAt {i : Nat} (hi : i = s.cur) (a : Nat) (bs : List Byte)
    (h : ∀ j, j < bs.length → ∀ p, (s.slot i).phys (a + j) = some p → W (tileOf i) p) : MatBody W s (s.putBytesAt i a bs) := by
  unfold State.putBytesAt
  dsimp only
  refine (MatBody.putSeq hi a bs h).trans ?_
  split
  · exact .modTile (hi.trans (putSeq_cur s i a bs).symm) _ rfl fun _ _ => rfl
  · exact .refl _ _

/-- Stores one after another, each of one element. -/
def State.putElems (s : State) (i : Nat) (addr : Nat → Nat) (bs : Nat → List Byte) (m : Nat) : State :=
  (List.range m).foldl (fun t e => t.putBytesAt i (addr e) (bs e)) s

theorem putElems_succ (s : State) (i : Nat) (addr : Nat → Nat) (bs : Nat → List Byte) (m : Nat) :
    s.putElems i addr bs (m + 1) = (s.putElems i addr bs m).putBytesAt i (addr m) (bs m) := by
  unfold State.putElems
  rw [List.range_succ, List.foldl_append]
  rfl

@[simp] theorem putElems_slot (s : State) (i j : Nat) (addr : Nat → Nat) (bs : Nat → List Byte) (m : Nat) :
    (s.putElems i addr bs m).slot j = s.slot j := by
  induction m with
  | zero => rfl
  | succ m ih => rw [putElems_succ, putBytesAt_slot, ih]

theorem putElems_cur (s : State) (i : Nat) (addr : Nat → Nat) (bs : Nat → List Byte) (m : Nat) : (s.putElems i addr bs m).cur = s.cur := by
  induction m with
  | zero => rfl
  | succ m ih => rw [putElems_succ, putBytesAt_cur, ih]

theorem MatBody.putElems {i : Nat} (hi : i = s.cur) (addr : Nat → Nat) (bs : Nat → List Byte) {m : Nat}
    (h : ∀ e < m, ∀ j, j < (bs e).length → ∀ p, (s.slot i).phys (addr e + j) = some p → W (tileOf i) p) :
    MatBody W s (s.putElems i addr bs m) := by
  induction m with
  | zero => exact .refl _ _
  | succ m ih =>
    rw [putElems_succ]
    refine (ih fun e he => h e (by omega)).trans (.putBytesAt (hi.trans (putElems_cur s i addr bs m).symm) _ _ fun j hj p hp => ?_)
    rw [putElems_slot] at hp
    exact h m (by omega) j hj p hp

/-- A byte of an element that no later one covers stands as its store left it. -/
theorem putElems_byte (s : State) (i : Nat) (addr : Nat → Nat) (bs : Nat → List Byte) {m e j : Nat} (he : e < m) (hj : j < (bs e).length)
    (hb : (s.slot i).Behind (addr e) (bs e).length)
    (hl : ∀ l < m, e < l → ∀ k < (bs l).length, (s.slot i).phys (addr l + k) ≠ (s.slot i).phys (addr e + j)) :
    (s.putElems i addr bs m).byteAt i (addr e + j) = (bs e).getD j 0 := by
  obtain ⟨b, hb⟩ := hb
  unfold State.byteAt
  rw [putElems_slot, hb j hj]
  dsimp only
  induction m with
  | zero => omega
  | succ m ih =>
    rw [putElems_succ]
    by_cases hm : e = m
    · subst hm
      refine putBytesAt_byte _ i _ _ _ _ hj (by rw [putElems_slot]; exact hb j hj) fun k hk hp => ?_
      rw [putElems_slot, hb k hk] at hp
      have := Option.some.inj hp
      omega
    · have hk : Kept i (fun _ q => q ≠ b + j) (s.putElems i addr bs m) ((s.putElems i addr bs m).putBytesAt i (addr m) (bs m)) :=
        (calm_putBytesAt (addr m) (bs m) fun k hk q hq => by
          rintro rfl
          rw [putElems_slot] at hq
          exact hl m (by omega) (by omega) k hk (hq.trans (hb j hj).symm)).toKept
      rw [hk.sram _ _ (by simp)]
      exact ih (by omega) fun l hlm => hl l (by omega)

/-- Stores leave the accumulators as they are. -/
theorem putBytesAt_accs (s : State) (i k a : Nat) (bs : List Byte) :
    ((s.putBytesAt i a bs).tile k).acc0 = (s.tile k).acc0 ∧ ((s.putBytesAt i a bs).tile k).acc1 = (s.tile k).acc1 := by
  rw [(calm_putBytesAt (i := i) (W := fun _ _ => True) a bs fun _ _ _ _ => trivial).tile k]
  exact ⟨rfl, rfl⟩

theorem putElems_accs (s : State) (i k : Nat) (addr : Nat → Nat) (bs : Nat → List Byte) (m : Nat) :
    ((s.putElems i addr bs m).tile k).acc0 = (s.tile k).acc0 ∧ ((s.putElems i addr bs m).tile k).acc1 = (s.tile k).acc1 := by
  induction m with
  | zero => exact ⟨rfl, rfl⟩
  | succ m ih =>
    rw [putElems_succ, (putBytesAt_accs _ _ _ _ _).1, (putBytesAt_accs _ _ _ _ _).2]
    exact ih

/-- A byte at an address depends on the slot's identity and its tile's SRAM. -/
theorem byteAt_congr {t : State} {i : Nat} (hi : (t.slot i).id = (s.slot i).id) (hs : (t.tile (tileOf i)).sram = (s.tile (tileOf i)).sram)
    (a : Nat) : t.byteAt i a = s.byteAt i a := by
  unfold State.byteAt Slot.phys Slot.atS
  rw [hi, hs]

theorem MatBody.slot_id {t : State} (h : MatBody W s t) : (t.slot s.cur).id = s.me.id := by rw [h.slot]

/-- What a word has stored stands when it has completed. -/
theorem MatBody.wordDone_byteAt {t u : State} (h : MatBody W s t) (hi : (u.slot s.cur).id = s.me.id)
    (hs : (t.tile (tileOf s.cur)).sram = (u.tile (tileOf s.cur)).sram) (a : Nat) :
    (t.wordDone w).byteAt s.cur a = u.byteAt s.cur a :=
  byteAt_congr (((congrArg Slot.id (h.wordDone_slot w)).trans h.slot_id).trans hi.symm) (by exact hs) a

/-- A byte of one store. -/
theorem putBytesAt_byteAt {i a : Nat} {bs : List Byte} (hb : (s.slot i).Behind a bs.length) {j : Nat} (hj : j < bs.length) :
    (s.putBytesAt i a bs).byteAt i (a + j) = bs.getD j 0 :=
  putElems_byte s i (fun _ => a) (fun _ => bs) (m := 1) Nat.one_pos hj hb fun l hl h0 => by omega

end

section
/-! PROOFS (O43). The words that read an accumulator out or take one back (R96, R264, R265, R267). -/

variable {s : State} {w : QEntry} {f : MatF}

/-! ## mrd (R264) -/

/-- R264: element `e` of those that an `mrd` reads, row by row. -/
def State.mrdRead (s : State) (f : MatF) (e : Nat) : FRes :=
  mrdElem ((s.acc f.acc).readout (f.b.toNat + e / 64) (e % 64)) (f.flags.getLsbD 0)

/-- A register of a slot with its first `n` lanes from a table. -/
def Slot.fillVreg (x : Slot) (a n : Nat) (g : Nat → Nat) (r : Nat) : Slot :=
  x.setVreg (a + r) (setLanes (x.vreg (a + r)) ((List.range n).map fun k => some (g (r * n + k))))

theorem vreg_setVreg (x : Slot) (m n : Nat) (v : VReg) : (x.setVreg m v).vreg n = if n = m then v else x.vreg n :=
  sparse_get_set 0 x.vec.v m n v

theorem fillVreg_lane (x : Slot) (a n : Nat) (g : Nat → Nat) (m r : Nat) {k : Nat} (hk : k < 64) :
    lane ((x.fillVreg a n g m).vreg r) k = if r = a + m ∧ k < n then g (m * n + k) % 2 ^ 32 else lane (x.vreg r) k := by
  unfold Slot.fillVreg
  rw [vreg_setVreg]
  by_cases hr : r = a + m
  · subst hr
    rw [if_pos rfl, lane_setLanes _ _ hk, List.length_map, List.length_range]
    by_cases hn : k < n
    · rw [if_pos hn, if_pos ⟨rfl, hn⟩, list_getD_map_range _ _ hn]
      rfl
    · rw [if_neg hn, if_neg fun h => hn h.2]
  · rw [if_neg hr, if_neg fun h => hr h.1]

/-- Registers filled from a table, lane by lane; the others are as they were. -/
theorem fillVreg_lanes (x : Slot) (a n : Nat) (g : Nat → Nat) (m : Nat) :
    let y := (List.range m).foldl (fun y r => y.fillVreg a n g r) x
    y = { x with vec := { x.vec with v := y.vec.v } } ∧ ∀ r k, k < 64 → lane (y.vreg r) k =
      if a ≤ r ∧ r < a + m ∧ k < n then g ((r - a) * n + k) % 2 ^ 32 else lane (x.vreg r) k := by
  induction m with
  | zero => exact ⟨rfl, fun r k hk => by simp; intros; omega⟩
  | succ m ih =>
    obtain ⟨hx, hl⟩ := ih
    dsimp only
    rw [List.range_succ, List.foldl_append]
    refine ⟨?_, fun r k hk => ?_⟩
    · conv_lhs => rw [hx]
      rfl
    · rw [List.foldl_cons, List.foldl_nil, fillVreg_lane _ _ _ _ _ _ hk, hl _ _ hk]
      by_cases hc : r = a + m ∧ k < n
      · obtain ⟨rfl, hn⟩ := hc
        rw [if_pos ⟨rfl, hn⟩, if_pos (by omega), Nat.add_sub_cancel_left]
      · rw [if_neg hc]
        by_cases hb : a ≤ r ∧ r < a + m ∧ k < n
        · rw [if_pos hb, if_pos (by omega)]
        · rw [if_neg hb, if_neg (by omega)]

/-- The registers that an `mrd` fills hold no more elements than it reads. -/
theorem mrd_fits {d v r : Nat} (h : r < d * groupT v) : r * v + v ≤ d * 64 := by
  have hv : groupT v * v ≤ 64 := Nat.div_mul_le_self 64 v
  calc r * v + v = (r + 1) * v := (Nat.succ_mul r v).symm
    _ ≤ d * groupT v * v := Nat.mul_le_mul_right v h
    _ = d * (groupT v * v) := Nat.mul_assoc _ _ _
    _ ≤ d * 64 := Nat.mul_le_mul_left d hv

/-- What an `mrd` does to its slot: the registers filled with what it reads. -/
def State.mrdSlot (s : State) (f : MatF) (x : Slot) : Slot :=
  (List.range (matDepth f * groupT s.me.id.vlmax)).foldl (fun y r => y.fillVreg f.a.toNat s.me.id.vlmax (fun e => (s.mrdRead f e).1) r) x

/-- R264: an `mrd` that no check stops. -/
theorem execMrd_eq (h : s.startable = some w) (hf : s.accForeign f.acc = false)
    (hm : ¬ (f.flags.getLsbD 0 = true ∧ (s.acc f.acc).mode = .flt)) (ho : (s.acc f.acc).opn = 0) :
    execMrd f s = .next (((s.modMe (s.mrdSlot f)).orFlags s.cur
      ((List.range (64 * matDepth f)).foldl (fun fl e => fl ||| (s.mrdRead f e).2) 0)).wordDone w) := by
  have hint : (f.flags.getLsbD 0 && (s.acc f.acc).mode == .flt) = false := by
    rw [Bool.eq_false_iff]
    exact fun hc => hm (by simpa using hc)
  have hres : ((List.range (matDepth f)).flatMap fun q => (List.range 64).map fun j =>
      mrdElem ((s.acc f.acc).readout (f.b.toNat + q) j) (f.flags.getLsbD 0)) = (List.range (matDepth f * 64)).map (s.mrdRead f) :=
    flatMap_range_map (fun q j => mrdElem ((s.acc f.acc).readout (f.b.toNat + q) j) (f.flags.getLsbD 0)) _ (by decide)
  refine startWord_ok h ?_
  simp only [hf, hint, ho, hres, bne_self_eq_false, Bool.false_eq_true, if_false]
  rw [List.foldl_map, Nat.mul_comm 64]
  congr 3
  funext x
  refine List.foldl_ext _ _ _ fun y r hr => ?_
  unfold Slot.fillVreg
  rw [take_drop_map_range _ (mrd_fits (List.mem_range.mp hr)), List.map_map]
  rfl

theorem mrd_reads (h : s.startable = some w) (hf : s.accForeign f.acc = false)
    (hm : ¬ (f.flags.getLsbD 0 = true ∧ (s.acc f.acc).mode = .flt)) (ho : (s.acc f.acc).opn = 0) :
    ∃ t, execMrd f s = .next t ∧ MatFrame s t w (fun _ _ => False) ∧
      (t.tile (tileOf s.cur)).acc0 = (s.tile (tileOf s.cur)).acc0 ∧ (t.tile (tileOf s.cur)).acc1 = (s.tile (tileOf s.cur)).acc1 ∧
      (t.slot s.cur).vec.fflags =
        s.me.vec.fflags ||| (List.range (64 * matDepth f)).foldl (fun fl e => fl ||| (s.mrdRead f e).2) 0 ∧
      ∀ r k, k < 64 → lane ((t.slot s.cur).vreg r) k =
        if f.a.toNat ≤ r ∧ r < f.a.toNat + matDepth f * (64 / s.me.id.vlmax) ∧ k < s.me.id.vlmax then
          (s.mrdRead f ((r - f.a.toNat) * s.me.id.vlmax + k)).1 % 2 ^ 32
        else lane (s.me.vreg r) k := by
  obtain ⟨hx, hl⟩ := fillVreg_lanes s.me f.a.toNat s.me.id.vlmax (fun e => (s.mrdRead f e).1) (matDepth f * groupT s.me.id.vlmax)
  have hslot : ∀ x, s.mrdSlot f x = { x with vec := { x.vec with v := (s.mrdSlot f x).vec.v, fflags := (s.mrdSlot f x).vec.fflags } } := fun x => by
    have hx := (fillVreg_lanes x f.a.toNat s.me.id.vlmax (fun e => (s.mrdRead f e).1) (matDepth f * groupT s.me.id.vlmax)).1
    unfold State.mrdSlot
    rw [hx]
  have hb : MatBody (fun _ _ => False) s ((s.modMe (s.mrdSlot f)).orFlags s.cur _) :=
    (MatBody.modSlot (s.mrdSlot f) hslot).trans (.orFlags ((List.range (64 * matDepth f)).foldl (fun fl e => fl ||| (s.mrdRead f e).2) 0))
  refine ⟨_, execMrd_eq h hf hm ho, hb.matFrame w, rfl, rfl, ?_, fun r k hk => ?_⟩
  · rw [hb.wordDone_vec w, vec_orFlags, slot_modMe_cur]
    unfold State.mrdSlot
    rw [hx]
  · unfold Slot.vreg
    rw [hb.wordDone_vec w, vec_orFlags, slot_modMe_cur]
    exact hl r k hk

/-! ## mst (R265) -/

/-- R265: the place of element `e` of those that an `mst` stores, row by row. -/
def mstPlace (p : Panel) (n e : Nat) : Nat := p.base + e / p.nel * p.pitch + e % p.nel / 8 * p.tile + e % p.nel % 8 * n

/-- R265: element `e` of those that an `mst` stores, encoded by its window. -/
def State.mstEnc (s : State) (f : MatF) (e : Nat) : FRes :=
  let p := s.me.panel f.a
  let win := s.me.window f.flags.toNat
  winEncVal win.fmt (((s.acc f.acc).readout (f.b.toNat + e / p.nel) (e % p.nel)).scale (-win.k))

theorem winFmt_size_pos (x : WinFmt) : 0 < x.size := by cases x <;> decide

/-- A pair without ROT places an element where `mstPlace` says. -/
theorem panel_addr_eq {p : Panel} (h : p.rot = 0) (n e : Nat) : p.addr n (e / p.nel) (e % p.nel) = mstPlace p n e := by
  unfold Panel.addr mstPlace
  rw [h, Nat.mul_zero, Nat.zero_mod, Nat.zero_mul, Nat.add_zero]

/-- The elements that an `mst` stores, as row and number, are those of a stretch. -/
theorem mst_places {p : Panel} (h : 0 < p.nel) (d : Nat) :
    ((List.range d).flatMap fun q => (List.range p.nel).map fun j => (q, j)) =
      (List.range (d * p.nel)).map fun e => (e / p.nel, e % p.nel) := flatMap_range_map (fun q j => (q, j)) d h

/-- Check 3 of an `mst`: some element is bad in its window. -/
def State.MstBad (s : State) (f : MatF) : Prop :=
  ∃ e < matDepth f * (s.me.panel f.a).nel,
    elemBad s (s.me.window f.flags.toNat) true (mstPlace (s.me.panel f.a) (s.me.window f.flags.toNat).fmt.size e) = true

/-- R109: some element of an `mst` lies in a word with a double-bit error. -/
def State.MstDouble (s : State) (f : MatF) : Prop :=
  ∃ e < matDepth f * (s.me.panel f.a).nel,
    s.eccAt s.cur (mstPlace (s.me.panel f.a) (s.me.window f.flags.toNat).fmt.size e) (s.me.window f.flags.toNat).fmt.size = true

/-- The stores of an `mst`. -/
def State.mstStored (s : State) (f : MatF) : State :=
  s.putElems s.cur (mstPlace (s.me.panel f.a) (s.me.window f.flags.toNat).fmt.size)
    (fun e => natLe (s.mstEnc f e).1 (s.me.window f.flags.toNat).fmt.size) (matDepth f * (s.me.panel f.a).nel)

/-- R265, R259: the body of an `mst` over a pair that is well formed, its elements numbered in one row. -/
def mstBody (f : MatF) (s : State) : EngRes :=
  let n := matDepth f * (s.me.panel f.a).nel
  let win := s.me.window f.flags.toNat
  let place := mstPlace (s.me.panel f.a) win.fmt.size
  if (List.range n).any fun e => elemBad s win true (place e) then .fault .window none
  else if (s.acc f.acc).opn != 0 then .fault .accopen none
  else if (List.range n).any fun e => 0 < win.fmt.size && s.eccAt s.cur (place e) win.fmt.size then .fault .eccfatal none
  else .ok ((s.mstStored f).orFlags s.cur ((List.range n).foldl (fun fl e => fl ||| (s.mstEnc f e).2) 0)) .done

/-- Stores at addresses of the slot that moves leave it the slot that moves. -/
theorem foldl_putBytesAt_cur {i : Nat} (hi : s.cur = i) (addr : Nat → Nat) (bs : Nat → List Byte) (l : List Nat) :
    l.foldl (fun (t : State) e => t.putBytesAt t.cur (addr e) (bs e)) s = l.foldl (fun (t : State) e => t.putBytesAt i (addr e) (bs e)) s := by
  induction l generalizing s with
  | nil => rfl
  | cons e l ih =>
    rw [List.foldl_cons, List.foldl_cons, hi]
    exact ih ((putBytesAt_cur s i _ _).trans hi)

theorem execMst_eq (hf : s.accForeign f.acc = false) (hp : (s.me.panel f.a).wrong = false) (hr : (s.me.panel f.a).rot = 0) :
    ∃ k, execMst f s = startWord s k ∧ ∀ w, k w s = mstBody f s := by
  have hnel : 0 < (s.me.panel f.a).nel := Nat.pos_of_ne_zero fun h0 => by
    have := (panel_wrong_iff (s.me.panel f.a)).mpr (.inl h0)
    rw [hp] at this
    exact Bool.false_ne_true this
  refine ⟨_, rfl, fun w => ?_⟩
  simp only [hf, hp, hr, mst_places hnel, List.any_map, List.foldl_map, List.map_map, Function.comp_def, panel_addr_eq hr, bne_self_eq_false,
    Bool.or_false, Bool.false_eq_true, if_false, eccRanges]
  unfold mstBody State.mstStored State.putElems
  rw [← foldl_putBytesAt_cur rfl]
  rfl

/-- An `mst` whose body faults stops. -/
theorem mst_stopsE {c : Cause} (h : s.startable = some w) (hf : s.accForeign f.acc = false) (hp : (s.me.panel f.a).wrong = false)
    (hr : (s.me.panel f.a).rot = 0) (hb : mstBody f s = .fault c none) (hc : c ≠ .preempt) : StopsE (execMst f s) s w c none := by
  obtain ⟨k, he, hk⟩ := execMst_eq hf hp hr
  rw [he]
  exact startWord_stopsE h ((hk w).trans hb) hc

theorem mstBad_iff : s.MstBad f ↔ ((List.range (matDepth f * (s.me.panel f.a).nel)).any fun e =>
    elemBad s (s.me.window f.flags.toNat) true (mstPlace (s.me.panel f.a) (s.me.window f.flags.toNat).fmt.size e)) = true := by
  simp [State.MstBad]

theorem mstDouble_iff : s.MstDouble f ↔ ((List.range (matDepth f * (s.me.panel f.a).nel)).any fun e =>
    0 < (s.me.window f.flags.toNat).fmt.size &&
      s.eccAt s.cur (mstPlace (s.me.panel f.a) (s.me.window f.flags.toNat).fmt.size e) (s.me.window f.flags.toNat).fmt.size) = true := by
  simp [State.MstDouble, winFmt_size_pos]

/-- R259: the checks of an `mst` over a pair that is well formed, in their order. -/
theorem mst_stops (h : s.startable = some w) (hf : s.accForeign f.acc = false) (hp : (s.me.panel f.a).wrong = false)
    (hr : (s.me.panel f.a).rot = 0) :
    (s.MstBad f → StopsE (execMst f s) s w .window none) ∧
      (¬ s.MstBad f → ((s.acc f.acc).opn ≠ 0 → StopsE (execMst f s) s w .accopen none) ∧
        ((s.acc f.acc).opn = 0 → s.MstDouble f → StopsE (execMst f s) s w .eccfatal none)) := by
  rw [mstBad_iff, mstDouble_iff]
  refine ⟨fun hb => mst_stopsE h hf hp hr (if_pos hb) (by decide), fun hb => ⟨fun ho => ?_, fun ho he => ?_⟩⟩
  · exact mst_stopsE h hf hp hr ((if_neg hb).trans (if_pos (bne_iff_ne.mpr ho))) (by decide)
  · exact mst_stopsE h hf hp hr ((if_neg hb).trans ((if_neg (by simp [ho])).trans (if_pos he))) (by decide)

/-- R265: an `mst` that no check stops. -/
theorem mst_blockWord (h : s.startable = some w) (hf : s.accForeign f.acc = false) (hp : (s.me.panel f.a).wrong = false)
    (hr : (s.me.panel f.a).rot = 0) (hb : ¬ s.MstBad f) (hd : ¬ s.MstDouble f) (ho : (s.acc f.acc).opn = 0) :
    let m := matDepth f * (s.me.panel f.a).nel
    let n := (s.me.window f.flags.toNat).fmt.size
    let place := mstPlace (s.me.panel f.a) n
    BlockWord (execMst f s) s w (fun k q => ∃ e < m, bytesBehind s s.cur (place e) n k q)
      ((List.range m).foldl (fun fl e => fl ||| (s.mstEnc f e).2) 0) (fun t =>
        ∀ e < m, (∀ l < m, e < l → ∀ j < n, ∀ i < n, s.me.phys (place l + j) ≠ s.me.phys (place e + i)) →
          ∀ j < n, t.byteAt s.cur (place e + j) = BitVec.ofNat 8 ((s.mstEnc f e).1 / 256 ^ j)) := by
  intro m n place
  obtain ⟨k, he, hk⟩ := execMst_eq hf hp hr
  rw [he]
  have hbody : MatBody (fun k q => ∃ e < m, bytesBehind s s.cur (place e) n k q) s (s.mstStored f) :=
    .putElems rfl place (fun e => natLe (s.mstEnc f e).1 n) fun e hem j hj p hp =>
      ⟨e, hem, rfl, j, by rwa [natLe_length] at hj, hp⟩
  have hcur : (s.mstStored f).cur = s.cur := putElems_cur s s.cur _ _ _
  have hslot : (s.mstStored f).slot s.cur = s.me := putElems_slot s s.cur _ _ _ _
  have hflags := MatBody.orFlags (W := fun k q => ∃ e < m, bytesBehind s s.cur (place e) n k q) (s := s.mstStored f)
    ((List.range m).foldl (fun fl e => fl ||| (s.mstEnc f e).2) 0)
  rw [hcur] at hflags
  refine startWord_blockWord h ((hk w).trans ((if_neg (mt mstBad_iff.mpr hb)).trans ((if_neg (by simp [ho])).trans
    (if_neg (mt mstDouble_iff.mpr hd))))) (hbody.trans hflags) (fun e hem hl j hj => ?_) (putElems_accs s s.cur _ _ _ _) ?_
  · have hbad : s.badRange s.cur (place e) n true = false := by
      have := Bool.eq_false_iff.mpr fun hbad => hb ⟨e, hem, hbad⟩
      exact (Bool.or_eq_false_iff.mp this).2
    rw [← natLe_getD _ _ _ hj, (hbody.trans hflags).wordDone_byteAt hbody.slot_id rfl]
    exact putElems_byte s s.cur place (fun e => natLe (s.mstEnc f e).1 n) hem (by rwa [natLe_length])
      (by rw [natLe_length]; exact behind_of_badRange hbad)
      fun l hlm hel k hk => hl l hlm hel k (by rwa [natLe_length] at hk) j hj
  · rw [vec_orFlags, hslot]

end

section
/-! PROOFS (O43). Save blocks (R267), and the statement about readouts. -/

variable {s : State} {w : QEntry} {f : MatF}

/-! ## msave and mload (R267) -/

/-- The start of the block that `f` names. -/
def State.blockAt (s : State) (f : MatF) : Nat := ((s.me.bank.readE .mq f.a.toNat).extractLsb' 0 21).toNat

/-- A block inside the partition of its level lies in one partition. -/
theorem behind_of_blockOut {a : Nat} {wr : Bool} (h : s.blockOut a wr = false) : s.me.Behind a saveBlock := by
  unfold State.blockOut at h
  split at h
  · next hs =>
    have hsize : Config.supSize = 65536 := rfl
    have hfit : a + saveBlock ≤ Config.supSize := Nat.le_of_not_lt (of_decide_eq_false h)
    refine ⟨Config.supBase + a, fun j hj => ?_⟩
    unfold Slot.phys
    rw [if_pos hs, if_pos (by omega), if_pos (by omega), Nat.add_assoc]
  · exact behind_of_badRange h

/-- The elements of a block, twelve bytes each. -/
theorem accElems_length (a : Acc) : ((List.range 4096).flatMap fun k => natLe (Sparse.get (0 : AccElem) a.el k).toNat 12).length = 4096 * 12 :=
  flatMap_range_length _ fun _ => natLe_length _ _

theorem accBlock_length (a : Acc) (p : Bool) : (a.block p).length = saveBlock := by
  unfold Acc.block
  rw [List.length_append, List.length_append, natLe_length, List.length_replicate, accElems_length]
  rfl

/-- R267: the header of a block, eight bytes. -/
theorem accBlock_header (a : Acc) (p : Bool) {j : Nat} (h : j < 8) : (a.block p).getD j 0 = (a.header p).extractLsb' (8 * j) 8 := by
  unfold Acc.block
  rw [List.append_assoc, List.getD_append _ _ _ _ (by rwa [natLe_length]), natLe_getD_bits _ h]

/-- R267: zeros behind the header. -/
theorem accBlock_zero (a : Acc) (p : Bool) {j : Nat} (h : 8 ≤ j) (h' : j < 64) : (a.block p).getD j 0 = 0 := by
  unfold Acc.block
  rw [List.append_assoc, List.getD_append_right _ _ _ _ (by rwa [natLe_length]), natLe_length,
    List.getD_append _ _ _ _ (by rw [List.length_replicate]; omega), List.getD_replicate (h := by omega)]

/-- R267: an element of a block. -/
theorem accBlock_elem (a : Acc) (p : Bool) {e j : Nat} (he : e < 4096) (hj : j < 12) :
    (a.block p).getD (64 + 12 * e + j) 0 = (Sparse.get (0 : AccElem) a.el e).extractLsb' (8 * j) 8 := by
  have hl : (natLe (a.header p).toNat 8 ++ List.replicate 56 (0 : Byte)).length = 64 := by
    rw [List.length_append, natLe_length, List.length_replicate]
  unfold Acc.block
  rw [List.getD_append_right _ _ _ _ (by omega), hl, show 64 + 12 * e + j - 64 = e * 12 + j by omega,
    flatMap_range_getD _ _ (fun _ => natLe_length _ _) he hj, natLe_getD_bits _ hj]

/-- R259: the checks of an `msave`, in their order. -/
theorem msave_stops (h : s.startable = some w) (hf : s.accForeign f.acc = false) :
    (s.blockOut (s.blockAt f) true = true → StopsE (execMsave f s) s w .window none) ∧
      (s.blockOut (s.blockAt f) true = false → s.me.atP = true → (s.acc f.acc).opn ≠ 0 → StopsE (execMsave f s) s w .accopen none) := by
  have hf : ¬ s.accForeign f.acc = true := by rw [hf]; exact Bool.false_ne_true
  refine ⟨fun hb => startWord_stopsE h ((if_neg hf).trans (if_pos hb)) (by decide), fun hb hp ho => ?_⟩
  exact startWord_stopsE h ((if_neg hf).trans ((if_neg (Bool.eq_false_iff.mp hb)).trans (if_pos (by rw [hp]; simpa using ho)))) (by decide)

/-- R267: an `msave` that no check stops. -/
theorem msave_blockWord (h : s.startable = some w) (hf : s.accForeign f.acc = false) (hb : s.blockOut (s.blockAt f) true = false)
    (ho : s.me.atP = true → (s.acc f.acc).opn = 0) :
    BlockWord (execMsave f s) s w (bytesBehind s s.cur (s.blockAt f) saveBlock) 0 (fun t =>
      ∀ j < saveBlock, t.byteAt s.cur (s.blockAt f + j) = ((s.acc f.acc).block s.me.atP).getD j 0) := by
  have hbehind := behind_of_blockOut hb
  rw [← accBlock_length (s.acc f.acc) s.me.atP] at hbehind
  have hbody : MatBody (bytesBehind s s.cur (s.blockAt f) saveBlock) s
      (s.putBytesAt s.cur (s.blockAt f) ((s.acc f.acc).block s.me.atP)) :=
    .putBytesAt rfl _ _ fun j hj p hp => ⟨rfl, j, Nat.lt_of_lt_of_eq hj (accBlock_length _ _), hp⟩
  refine startWord_blockWord h ((if_neg (by rw [hf]; exact Bool.false_ne_true)).trans ((if_neg (Bool.eq_false_iff.mp hb)).trans
    (if_neg (by simpa using ho)))) hbody (fun j hj => ?_) (putBytesAt_accs s s.cur _ _ _) ?_
  · exact (hbody.wordDone_byteAt hbody.slot_id rfl _).trans (putBytesAt_byteAt hbehind (Nat.lt_of_lt_of_eq hj (accBlock_length _ _).symm))
  · rw [putBytesAt_slot]
    exact (vec_or_zero _).symm

/-- R259, R109, R267: the checks of an `mload`, in their order, and the block that it takes. -/
theorem mload_results (h : s.startable = some w) (hf : s.accForeign f.acc = false) :
    (s.blockOut (s.blockAt f) false = true → StopsE (execMload f s) s w .window none) ∧
      (s.blockOut (s.blockAt f) false = false →
        (eccRanges s s.cur [(s.blockAt f, saveBlock)] = true → StopsE (execMload f s) s w .eccfatal none) ∧
        (eccRanges s s.cur [(s.blockAt f, saveBlock)] = false →
          (Acc.ofBlock (s.acc f.acc) s.me.atP (s.bytesAt s.cur (s.blockAt f) saveBlock) = none →
            StopsE (execMload f s) s w .descriptor none) ∧
          ∀ c, Acc.ofBlock (s.acc f.acc) s.me.atP (s.bytesAt s.cur (s.blockAt f) saveBlock) = some c →
            AccWord (execMload f s) s w f.acc.toNat 0 (fun e => e = c))) := by
  have hf : ¬ s.accForeign f.acc = true := by rw [hf]; exact Bool.false_ne_true
  refine ⟨fun hb => startWord_stopsE h ((if_neg hf).trans (if_pos hb)) (by decide), fun hb => ?_⟩
  have hb := Bool.eq_false_iff.mp hb
  refine ⟨fun he => startWord_stopsE h ((if_neg hf).trans ((if_neg hb).trans (if_pos he))) (by decide), fun he => ?_⟩
  have he := Bool.eq_false_iff.mp he
  refine ⟨fun hn => startWord_stopsE h ((if_neg hf).trans ((if_neg hb).trans ((if_neg he).trans ?_))) (by decide), fun c hc => ?_⟩
  · unfold State.blockAt at hn
    rw [hn]
  · refine startWord_modAcc h (f := fun _ => c) ((if_neg hf).trans ((if_neg hb).trans ((if_neg he).trans ?_))) rfl
    unfold State.blockAt at hc
    rw [hc]

/-! ## The statement -/

/-- R259 check 1: a word that works on an accumulator of another context stops. -/
theorem readout_foreign (h : s.startable = some w) (hf : s.accForeign f.acc = true) :
    StopsE (execMrd f s) s w .accowner none ∧ StopsE (execMst f s) s w .accowner none ∧ StopsE (execMsave f s) s w .accowner none ∧
      StopsE (execMload f s) s w .accowner none :=
  ⟨startWord_stopsE h (if_pos hf) (by decide), startWord_stopsE h (if_pos hf) (by decide), startWord_stopsE h (if_pos hf) (by decide),
    startWord_stopsE h (if_pos hf) (by decide)⟩

/-- R259: the checks of an `mrd`, in their order. -/
theorem mrd_stops (h : s.startable = some w) (hf : s.accForeign f.acc = false) :
    (f.flags.getLsbD 0 = true → (s.acc f.acc).mode = .flt → StopsE (execMrd f s) s w .accmode none) ∧
      (¬ (f.flags.getLsbD 0 = true ∧ (s.acc f.acc).mode = .flt) → (s.acc f.acc).opn ≠ 0 → StopsE (execMrd f s) s w .accopen none) := by
  have hf : ¬ s.accForeign f.acc = true := by rw [hf]; exact Bool.false_ne_true
  refine ⟨fun hi hm => startWord_stopsE h ((if_neg hf).trans (if_pos (by simp [hi, hm]))) (by decide), fun hm ho => ?_⟩
  exact startWord_stopsE h ((if_neg hf).trans ((if_neg (by simpa using hm)).trans (if_pos (by simpa using ho)))) (by decide)

/-- R259 check 2: an `mst` over a pair that is not well formed, or that asks for ROT, stops. -/
theorem mst_descriptor (h : s.startable = some w) (hf : s.accForeign f.acc = false)
    (hp : (s.me.panel f.a).wrong = true ∨ (s.me.panel f.a).rot ≠ 0) : StopsE (execMst f s) s w .descriptor none :=
  startWord_stopsE h ((if_neg (by rw [hf]; exact Bool.false_ne_true)).trans (if_pos (by simpa using hp))) (by decide)

/-- Settles O43: each word's checks in their order, and its effect when no check stops it. -/
theorem readoutResults : Obligations.ReadoutResults := by
  intro s f w h
  refine ⟨readout_foreign h, fun hf => ⟨(mrd_stops h hf).1, (mrd_stops h hf).2, mrd_reads h hf, ⟨mst_descriptor h hf, mst_stops h hf, ?_⟩, ?_⟩⟩
  · exact fun hp hr hb hd ho => mst_blockWord h hf hp hr hb hd ho
  · obtain ⟨hout, hopen⟩ := msave_stops h hf
    obtain ⟨hlout, hload⟩ := mload_results h hf
    refine ⟨hout, hlout, hopen, fun hb he => (hload hb).1 he, fun hb he hn => ((hload hb).2 he).1 hn, fun hb ho => ?_,
      fun c hb he hc => ((hload hb).2 he).2 c hc⟩
    obtain ⟨t, he, hm, hbytes, hrest⟩ := msave_blockWord h hf hb ho
    refine ⟨t, he, hm, ⟨fun j hj => ?_, fun j h8 hj => ?_, fun e hem j hj => ?_⟩, hrest⟩
    · exact (hbytes j (Nat.lt_of_lt_of_le hj (by decide))).trans (accBlock_header _ _ hj)
    · exact (hbytes j (Nat.lt_of_lt_of_le hj (by decide))).trans (accBlock_zero _ _ h8 hj)
    · have hin : 64 + 12 * e + j < saveBlock := by unfold saveBlock; omega
      have := (hbytes _ hin).trans (accBlock_elem _ _ hem hj)
      rwa [← Nat.add_assoc, ← Nat.add_assoc] at this

end

section
/-! PROOFS (O53). Bytes behind the leaves of a save area: what a store through a leaf leaves at every byte (R277, R281). -/

variable {s : State} {ls : List (Nat × Word)}

/-! ## A granule of DRAM and its key (R281) -/

/-- Bytes read from memories that agree there. -/
theorem mem_bytes_congr {m m' : Mem} {a n : Nat} (h : ∀ j, a ≤ j → j < a + n → m'.byte j = m.byte j) : m'.bytes a n = m.bytes a n := by
  induction n generalizing a with
  | zero => rfl
  | succ n ih =>
    rw [Mem.bytes, Mem.bytes, h a (by omega) (by omega), ih fun j h1 h2 => h j (by omega) (by omega)]

/-- What an access reads depends on the bytes of its granule alone. -/
theorem cipherByte_congr {m m' : Mem} {key : Nat} (st tag : Nat) (h : ∀ j, j / 256 = key / 256 → m'.byte j = m.byte j) :
    cipherByte m' st tag key = cipherByte m st tag key := by
  unfold cipherByte
  rw [h key rfl, mem_bytes_congr fun j h1 h2 => h j (by omega)]

/-- A stretch of a memory written from a table. -/
theorem byte_foldl_put (m : Mem) (a n : Nat) (f : Nat → Byte) (c : Nat) :
    ((List.range n).foldl (fun m k => Mem.put m (a + k) (f (a + k))) m).byte c = if a ≤ c ∧ c < a + n then f c else m.byte c := by
  induction n with
  | zero => simp
  | succ n ih =>
    rw [List.range_succ, List.foldl_append, List.foldl_cons, List.foldl_nil, mem_byte_put, ih]
    by_cases hc : c = a + n
    · rw [if_pos hc, if_pos (by omega), hc]
    · rw [if_neg hc]
      by_cases hb : a ≤ c ∧ c < a + n
      · rw [if_pos hb, if_pos (by omega)]
      · rw [if_neg hb, if_neg (by omega)]

/-- The key pair of every granule after a store. -/
theorem frameStore_ktags (s : State) (tag key : Nat) (b : Byte) (g : Nat) :
    Sparse.get 0 (frameStore s tag key b).ktags g = if g = key / 256 then tag else Sparse.get 0 s.ktags g := by
  have main : ∀ u : State, u.ktags = s.ktags →
      Sparse.get 0 (if Sparse.get 0 u.ktags (key / 256) = tag then { u with dram := u.dram.put key b }
        else { u with dram := ((List.range 256).foldl (fun m k => Mem.put m (key / 256 * 256 + k)
          (frameByte u tag (key / 256 * 256 + k))) u.dram).put key b, ktags := Sparse.set 0 u.ktags (key / 256) tag }).ktags g =
        if g = key / 256 then tag else Sparse.get 0 s.ktags g := by
    intro u hu
    split
    · next h =>
      rw [← hu]
      split
      · next hg => rw [hg]; exact h
      · rfl
    · rw [← hu]; exact sparse_get_set 0 _ _ _ _
  unfold frameStore
  dsimp only
  split <;> exact main _ rfl

/-- Every byte after a store: the granule is taken over under the key of the store. -/
theorem frameStore_dram (s : State) (tag key : Nat) (b : Byte) (k : Nat) :
    (frameStore s tag key b).dram.byte k =
      if k = key then b else if k / 256 = key / 256 then frameByte s tag k else s.dram.byte k := by
  have main : ∀ u : State, u.ktags = s.ktags → u.dram = s.dram →
      (if Sparse.get 0 u.ktags (key / 256) = tag then { u with dram := u.dram.put key b }
        else { u with dram := ((List.range 256).foldl (fun m k => Mem.put m (key / 256 * 256 + k)
          (frameByte u tag (key / 256 * 256 + k))) u.dram).put key b, ktags := Sparse.set 0 u.ktags (key / 256) tag }).dram.byte k =
        if k = key then b else if k / 256 = key / 256 then frameByte s tag k else s.dram.byte k := by
    intro u hk hd
    have hf : frameByte u tag = frameByte s tag := by funext c; unfold frameByte; rw [hk, hd]
    rw [hf, hk, hd]
    split
    · next h =>
      refine (mem_byte_put _ _ _ _).trans (if_congr Iff.rfl rfl ?_)
      split
      · next hg => unfold frameByte cipherByte; rw [hg, h, if_pos rfl]
      · rfl
    · refine (mem_byte_put _ _ _ _).trans (if_congr Iff.rfl rfl ?_)
      rw [byte_foldl_put]
      exact if_congr (by omega) rfl rfl
  unfold frameStore
  dsimp only
  split <;> exact main _ rfl rfl

/-- R281: what an access reads after a store, where the two use one key for one granule. -/
theorem frameByte_frameStore (s : State) {tag tag' key key' : Nat} (b : Byte) (h : key' / 256 = key / 256 → tag' = tag) :
    frameByte (frameStore s tag key b) tag' key' = if key' = key then b else frameByte s tag' key' := by
  unfold frameByte
  rw [frameStore_ktags]
  by_cases hg : key' / 256 = key / 256
  · rw [if_pos hg, h hg, cipherByte, if_pos rfl, frameStore_dram, if_pos hg]
    rfl
  · rw [if_neg hg, if_neg (fun hk => hg (by rw [hk])), cipherByte_congr _ _ fun j hj => ?_]
    rw [frameStore_dram, if_neg (fun hk => hg (by rw [← hj, hk])), if_neg (by rw [hj]; exact hg)]

/-! ## Pages (R277) -/

theorem frameStore_keys (s : State) (tag key : Nat) (b : Byte) : (frameStore s tag key b).keys = s.keys := by
  unfold frameStore
  dsimp only
  split <;> split <;> rfl

theorem keepGranule_same (s : State) (o g : Nat) :
    (keepGranule s o g).keys = s.keys ∧ (keepGranule s o g).dram = s.dram ∧ (keepGranule s o g).ktags = s.ktags := by
  unfold keepGranule
  split <;> exact ⟨rfl, rfl, rfl⟩

/-- Two states hold the same DRAM, under the same keys. -/
structure SameDram (s t : State) : Prop where
  dram : t.dram = s.dram
  ktags : t.ktags = s.ktags
  keys : t.keys = s.keys

theorem SameDram.leafTag {t : State} (h : SameDram s t) (l : Word) : leafTag t l = leafTag s l := by
  unfold Machine.leafTag State.key
  rw [h.keys]

theorem SameDram.frameByte {t : State} (h : SameDram s t) (tag key : Nat) : frameByte t tag key = frameByte s tag key := by
  unfold Machine.frameByte
  rw [h.dram, h.ktags]

/-- A store through a leaf on this package's DRAM is a store to its frame. -/
theorem pageStore_dram (s : State) {l : Word} (h : leafTarget l ≤ 11) (off : Nat) (b : Byte) :
    ∃ u, SameDram s u ∧ pageStore s l off b = frameStore u (leafTag u l) (leafKey l off) b := by
  unfold pageStore
  rw [if_pos h]
  dsimp only
  split
  · exact ⟨s, ⟨rfl, rfl, rfl⟩, rfl⟩
  · obtain ⟨hk, hd, ht⟩ := keepGranule_same s (Sparse.get 0 s.frames (frameKey l) - 1) (leafKey l off / 256)
    have hs : SameDram s (keepGranule s (Sparse.get 0 s.frames (frameKey l) - 1) (leafKey l off / 256)) := ⟨hd, ht, hk⟩
    exact ⟨_, hs, by rw [hs.leafTag]⟩

theorem pageStore_keys (s : State) {l : Word} (h : leafTarget l ≤ 11) (off : Nat) (b : Byte) : (pageStore s l off b).keys = s.keys := by
  obtain ⟨u, hu, he⟩ := pageStore_dram s h off b
  rw [he, frameStore_keys, hu.keys]

/-- The leaves lead to frames of this package's DRAM, each to one of its own. -/
structure LeavesApart (ls : List (Nat × Word)) : Prop where
  frame : ∀ l ∈ ls, leafTarget l.2 ≤ 11 ∧ leafFrame l.2 < 2 ^ 15
  apart : ∀ l ∈ ls, ∀ m ∈ ls, leafTarget l.2 = leafTarget m.2 → leafFrame l.2 = leafFrame m.2 → l = m

/-- Bytes behind two leaves in one granule lie behind one leaf. -/
theorem LeavesApart.eq_of_granule (h : LeavesApart ls) {l m : Nat × Word} (hl : l ∈ ls) (hm : m ∈ ls) {a c : Nat}
    (hg : leafKey l.2 (a % 2 ^ 21) / 256 = leafKey m.2 (c % 2 ^ 21) / 256) : l = m := by
  obtain ⟨-, hfl⟩ := h.frame l hl
  obtain ⟨-, hfm⟩ := h.frame m hm
  unfold leafKey dramKey at hg
  refine h.apart l hl m hm ?_ ?_ <;> omega

theorem loadLeaf_none {va : Nat} (h : ls.find? (fun p => p.1 == vpnOf va) = none) : loadLeaf s ls va = 0 := by
  unfold loadLeaf
  rw [h]

theorem loadLeaf_some {va : Nat} {p : Nat × Word} (h : ls.find? (fun p => p.1 == vpnOf va) = some p) (ht : leafTarget p.2 ≤ 11) :
    loadLeaf s ls va = frameByte s (leafTag s p.2) (leafKey p.2 (va % 2 ^ 21)) := by
  unfold loadLeaf
  rw [h]
  dsimp only
  unfold pageByte
  rw [if_pos ht]

/-- Bytes behind leaves depend on DRAM and its keys. -/
theorem SameDram.loadLeaf {t : State} (h : SameDram s t) (ht : ∀ l ∈ ls, leafTarget l.2 ≤ 11) (va : Nat) : loadLeaf t ls va = loadLeaf s ls va := by
  cases hp : ls.find? (fun p => p.1 == vpnOf va) with
  | none => rw [loadLeaf_none hp, loadLeaf_none hp]
  | some p =>
    have hpt := ht p (List.mem_of_find?_eq_some hp)
    rw [loadLeaf_some hp hpt, loadLeaf_some hp hpt, h.leafTag, h.frameByte]

/-- A byte stored through a leaf, read back at every address. -/
theorem loadLeaf_pageStore (h : LeavesApart ls) {a : Nat} {p : Nat × Word} (hp : ls.find? (fun p => p.1 == vpnOf a) = some p) (b : Byte)
    (x : Nat) : loadLeaf (pageStore s p.2 (a % 2 ^ 21) b) ls x = if x = a then b else loadLeaf s ls x := by
  have hpl := List.mem_of_find?_eq_some hp
  have hpa := List.find?_some hp
  cases hx : ls.find? (fun p => p.1 == vpnOf x) with
  | none =>
    rw [loadLeaf_none hx, loadLeaf_none hx, if_neg]
    rintro rfl
    rw [hp] at hx
    exact absurd hx (by simp)
  | some q =>
    have hql := List.mem_of_find?_eq_some hx
    have hqa := List.find?_some hx
    have hqt := (h.frame q hql).1
    obtain ⟨u, hu, he⟩ := pageStore_dram s (h.frame p hpl).1 (a % 2 ^ 21) b
    have hkeys : leafTag (pageStore s p.2 (a % 2 ^ 21) b) q.2 = leafTag u q.2 := by
      unfold leafTag State.key
      rw [pageStore_keys s (h.frame p hpl).1, hu.keys]
    rw [loadLeaf_some hx hqt, loadLeaf_some hx hqt, hkeys, he, frameByte_frameStore u b fun hg => by rw [h.eq_of_granule hql hpl hg],
      hu.frameByte, hu.leafTag]
    refine if_congr ⟨fun hk => ?_, fun hxa => ?_⟩ rfl rfl
    · have hpq := h.eq_of_granule hql hpl (congrArg (· / 256) hk)
      subst hpq
      simp only [beq_iff_eq] at hpa hqa
      unfold leafKey dramKey at hk
      unfold vpnOf at hpa hqa
      omega
    · subst hxa
      rw [hp] at hx
      rw [Option.some.inj hx]

/-! ## Pieces of a record (R364) -/

/-- Every page from `a` up to `a + n` has a leaf. -/
def Covered (ls : List (Nat × Word)) (a n : Nat) : Prop := ∀ j < n, (ls.find? fun p => p.1 == vpnOf (a + j)).isSome = true

theorem Covered.part {a n k m : Nat} (h : Covered ls a n) (hk : k + m ≤ n) : Covered ls (a + k) m :=
  fun j hj => Nat.add_assoc a k j ▸ h (k + j) (by omega)

/-- Bytes stored through leaves, read back at every address. -/
theorem loadLeaf_storeLeaf (h : LeavesApart ls) {a : Nat} {bs : List Byte} (hc : Covered ls a bs.length) (x : Nat) :
    loadLeaf (storeLeaf s ls a bs) ls x = if a ≤ x ∧ x < a + bs.length then bs.getD (x - a) 0 else loadLeaf s ls x := by
  induction bs generalizing s a with
  | nil => rw [if_neg (by simp)]; rfl
  | cons b bs ih =>
    obtain ⟨p, hp⟩ := Option.isSome_iff_exists.mp (hc 0 (by simp))
    rw [Nat.add_zero] at hp
    have hcs : Covered ls (a + 1) bs.length := hc.part (by rw [List.length_cons]; omega)
    unfold storeLeaf
    rw [hp]
    dsimp only
    rw [ih hcs, loadLeaf_pageStore h hp]
    by_cases h1 : x = a
    · subst h1
      rw [if_neg (by omega), if_pos rfl, if_pos (by simp), Nat.sub_self]
      rfl
    · by_cases h2 : a + 1 ≤ x ∧ x < a + 1 + bs.length
      · rw [if_pos h2, if_pos (by simp; omega), show x - a = (x - (a + 1)) + 1 by omega, List.getD_cons_succ]
      · rw [if_neg h2, if_neg h1, if_neg (by simp; omega)]

/-- Pieces stored through leaves, each at its offset. -/
def State.storeParts (s : State) (ls : List (Nat × Word)) (va : Nat) (ps : List (Nat × List Byte)) : State :=
  ps.foldl (fun t p => storeLeaf t ls (va + p.1) p.2) s

/-- Pieces leave every byte outside them. -/
theorem loadLeaf_storeParts_out (h : LeavesApart ls) {va n : Nat} (hc : Covered ls va n) {ps : List (Nat × List Byte)}
    (hn : ∀ p ∈ ps, p.1 + p.2.length ≤ n) {x : Nat} (hx : ∀ p ∈ ps, ¬ (va + p.1 ≤ x ∧ x < va + p.1 + p.2.length)) :
    loadLeaf (s.storeParts ls va ps) ls x = loadLeaf s ls x := by
  unfold State.storeParts
  induction ps generalizing s with
  | nil => rfl
  | cons p ps ih =>
    rw [List.foldl_cons, ih (fun q hq => hn q (by simp [hq])) fun q hq => hx q (by simp [hq]),
      loadLeaf_storeLeaf h (hc.part (hn p (by simp))), if_neg (hx p (by simp))]

/-- A byte of a piece that stands before those that follow it. -/
theorem loadLeaf_storeParts (h : LeavesApart ls) {va n : Nat} (hc : Covered ls va n) {ps : List (Nat × List Byte)}
    (hn : ∀ p ∈ ps, p.1 + p.2.length ≤ n) (ho : ps.Pairwise fun p q => p.1 + p.2.length ≤ q.1) {p : Nat × List Byte} (hp : p ∈ ps) {j : Nat}
    (hj : j < p.2.length) : loadLeaf (s.storeParts ls va ps) ls (va + p.1 + j) = p.2.getD j 0 := by
  induction ps generalizing s with
  | nil => exact absurd hp (by simp)
  | cons q ps ih =>
    obtain ⟨hq, ho⟩ := List.pairwise_cons.mp ho
    have hn' : ∀ p ∈ ps, p.1 + p.2.length ≤ n := fun p hp => hn p (by simp [hp])
    rcases List.mem_cons.mp hp with rfl | hp
    · refine (loadLeaf_storeParts_out h hc hn' fun r hr => ?_).trans ?_
      · have := hq r hr; omega
      · rw [loadLeaf_storeLeaf h (hc.part (hn p (by simp))), if_pos (by omega), Nat.add_sub_cancel_left]
    · exact ih hn' ho hp

end

section
/-! PROOFS (O53). The pages of the save area (R365), and what the save engine does before it writes the record: credits go out (R161) and
the channels keep what the record has no place for (log 27). Nothing that the record holds changes. -/

variable {s t u : State}

/-! ## Translations and charges -/

/-- From `s` to `t`, translations may have filled TLBs, and tokens may have been charged; nothing else is changed. -/
def Walked (s t : State) : Prop := t = { s with tlb1 := t.tlb1, tlb2 := t.tlb2, free := t.free, buckets := t.buckets }

namespace Walked

theorem refl (s : State) : Walked s s := rfl

theorem trans (h : Walked s t) (k : Walked t u) : Walked s u := by
  unfold Walked at *
  rw [h] at k
  exact k

theorem foldl {α : Type} {f : State → α → State} (hf : ∀ s a, Walked s (f s a)) (l : List α) (s : State) : Walked s (l.foldl f s) := by
  induction l generalizing s with
  | nil => exact refl s
  | cons a l ih => exact (hf s a).trans (ih _)

theorem slots (h : Walked s t) : t.slots = s.slots := by rw [h]
theorem nets (h : Walked s t) : t.nets = s.nets := by rw [h]
theorem tiles (h : Walked s t) : t.tiles = s.tiles := by rw [h]
theorem sameDram (h : Walked s t) : SameDram s t := ⟨by rw [h], by rw [h], by rw [h]⟩

theorem chan? (h : Walked s t) (n c : Nat) : t.chan? n c = s.chan? n c := by
  unfold State.chan?
  rw [h.nets]

theorem translate (s : State) (tile tenant : Nat) (world : Bool) (vpn : Nat) (wr atom : Bool) :
    Walked s (translate s tile tenant world vpn wr atom).2 := by
  unfold Machine.translate
  dsimp only
  split
  · exact refl s
  · split
    · dsimp only
      split
      · exact refl s
      · rfl
    · split
      · exact refl s
      · exact refl s
      · dsimp only
        split
        · exact refl s
        · rfl

theorem chargeLeaf (s : State) (tenant a n : Nat) (l : Word) : Walked s (chargeLeaf s tenant a n l) := by
  unfold Machine.chargeLeaf chargeBucket
  dsimp only
  split
  · split
    · rfl
    · exact refl s
  · exact refl s

theorem chargeRecord (s : State) (i : Nat) (ls : List (Nat × Word)) : Walked s (chargeRecord s i ls) := by
  refine foldl (fun s p => ?_) _ s
  dsimp only
  split
  · exact chargeLeaf _ _ _ _ _
  · exact refl s

end Walked

/-- R365: pages that are all at hand: each has its leaf, in order. -/
theorem savePages_ok {i : Nat} {d : Ident} {wr : Bool} {l : List Nat} {ls fs : List (Nat × Word)}
    (h : savePages s i d wr l ls = (.ok fs, u)) : Walked s u ∧ ∃ gs, fs = ls ++ gs ∧ gs.map Prod.fst = l := by
  induction l generalizing s ls with
  | nil =>
    cases h
    exact ⟨.refl _, [], by simp, rfl⟩
  | cons vpn l ih =>
    have ht := Walked.translate s (tileOf i) d.tenant d.world vpn wr false
    unfold savePages at h
    split at h
    · cases h
    · split at h
      · next e =>
        rw [e] at ht
        obtain ⟨hu, gs, hgs, hl⟩ := ih h
        exact ⟨ht.trans hu, (vpn, _) :: gs, by rw [hgs, List.append_assoc]; rfl, congrArg (vpn :: ·) hl⟩
      · cases h
      · cases h

/-- R365: the bytes of the record, and of the partition where it is asked for. -/
def Slot.recordSize (x : Slot) : Nat := if x.tr.savepart then 0x8000 + x.id.size * 4096 else 0x600 + 256 * x.id.vlmax

/-- R365: every page of the record has its leaf. -/
theorem savePages_covered {i : Nat} {d : Ident} {wr : Bool} {x : Slot} {ls : List (Nat × Word)}
    (h : savePages s i d wr x.saveVpns [] = (.ok ls, u)) : Covered ls x.tr.saveva.toNat x.recordSize := by
  obtain ⟨-, gs, rfl, hl⟩ := savePages_ok h
  intro j hj
  rw [List.find?_isSome]
  have hin : vpnOf (x.tr.saveva.toNat + j) ∈ x.saveVpns := by
    unfold Slot.recordSize at hj
    unfold Slot.saveVpns vpnOf
    dsimp only
    refine List.mem_map.mpr ⟨(x.tr.saveva.toNat + j) / 2 ^ 21 - x.tr.saveva.toNat / 2 ^ 21, List.mem_range.mpr ?_, ?_⟩
    · split at hj
      · next hp => rw [if_pos hp]; omega
      · next hp => rw [if_neg hp]; omega
    · omega
  rw [← hl] at hin
  obtain ⟨p, hp, he⟩ := List.mem_map.mp hin
  exact ⟨p, hp, beq_iff_eq.mpr he⟩

/-! ## What the record holds -/

/-- A channel but for what is on its way, and for what it keeps of saved endpoints. -/
def Chan.bare (c : Chan) : Chan := { c with transit := [], kept := [] }

/-- A network with its channels bare. -/
def Net.bare (n : Net) : Net := { n with chans := n.chans.map Chan.bare }

/-- From `s` to `t`, credits may have gone out of ports, channels may carry more packets and keep more of saved endpoints; nothing else that a
slot's record holds has changed. -/
structure Recorded (s t : State) : Prop extends SameDram s t where
  tiles : t.tiles = s.tiles
  slot : ∀ j, t.slot j = { s.slot j with ports := (t.slot j).ports }
  port : ∀ j n, (t.slot j).port n = { (s.slot j).port n with owed := ((t.slot j).port n).owed }
  net : ∀ k : Nat, (t.nets[k]?).map Net.bare = (s.nets[k]?).map Net.bare

namespace Recorded

theorem same (hs : t.slots = s.slots := by rfl) (hn : t.nets = s.nets := by rfl) (ht : t.tiles = s.tiles := by rfl)
    (hd : SameDram s t := by exact ⟨rfl, rfl, rfl⟩) : Recorded s t where
  toSameDram := hd
  tiles := ht
  slot j := by rw [slot_congr hs j]
  port j n := by rw [slot_congr hs j]
  net k := by rw [hn]

theorem refl (s : State) : Recorded s s := same

theorem trans (h : Recorded s t) (k : Recorded t u) : Recorded s u where
  dram := k.dram.trans h.dram
  ktags := k.ktags.trans h.ktags
  keys := k.keys.trans h.keys
  tiles := k.tiles.trans h.tiles
  slot j := by rw [k.slot j, h.slot j]
  port j n := by rw [k.port j n, h.port j n]
  net j := (k.net j).trans (h.net j)

theorem foldl {α : Type} {f : State → α → State} (hf : ∀ s a, Recorded s (f s a)) (l : List α) (s : State) : Recorded s (l.foldl f s) := by
  induction l generalizing s with
  | nil => exact refl s
  | cons a l ih => exact (hf s a).trans (ih _)

theorem of_walked (h : Walked s t) : Recorded s t := same h.slots h.nets h.tiles h.sameDram

/-- A channel that changes in what it carries and keeps. -/
theorem modChan (s : State) (n c : Nat) (f : Chan → Chan) (hf : ∀ c, (f c).bare = c.bare) : Recorded s (s.modChan n c f) where
  dram := rfl
  ktags := rfl
  keys := rfl
  tiles := rfl
  slot _ := rfl
  port _ _ := rfl
  net k := by
    by_cases hk : k = n
    · subst hk
      cases hn : s.nets[k]? with
      | none => simp [State.modChan, State.modNet, hn]
      | some w =>
        rw [show (s.modChan k c f).nets[k]? = _ from nets_modNet_self hn _, Option.map_some, Option.map_some]
        unfold Net.bare
        refine congrArg some (congrArg (fun l => { w with chans := l }) (List.ext_getElem? fun m => ?_))
        rw [List.getElem?_map, List.getElem?_map, List.getElem?_modify]
        cases w.chans[m]? with
        | none => rfl
        | some d =>
          refine congrArg some ?_
          dsimp only
          split
          · exact hf d
          · rfl
    · rw [show (s.modChan n c f).nets[k]? = _ from nets_modNet_ne s _ hk]

/-- A port that changes in the credits it owes. -/
theorem modEp (s : State) (e : Ep) (f : Port → Port) (hf : ∀ p, f p = { p with owed := (f p).owed }) : Recorded s (s.modEp e f) where
  dram := rfl
  ktags := rfl
  keys := rfl
  tiles := rfl
  slot j := by
    unfold State.modEp
    by_cases hj : j = e.slotNo
    · subst hj; rw [slot_modSlot_self]; rfl
    · rw [slot_modSlot_ne s _ hj]
  port j n := by
    unfold State.modEp
    by_cases hj : j = e.slotNo
    · subst hj
      rw [slot_modSlot_self]
      unfold Slot.modPort Slot.port
      dsimp only
      rw [sparse_get_set]
      split
      · next hn => subst hn; exact hf _
      · rfl
    · rw [slot_modSlot_ne s _ hj]
  net _ := rfl

theorem launch (s : State) (n : Nat) (c : Chan) (k : Pkt) (remote : Bool) : Recorded s (launch s n c k remote) := by
  unfold Machine.launch
  split
  · exact same
  · exact modChan s _ _ _ fun _ => rfl

theorem sendCredits (s : State) (n : Nat) (c : Chan) (r : Nat) : Recorded s (sendCredits s n c r) := by
  unfold Machine.sendCredits
  split
  · exact refl s
  · exact foldl (fun s _ => (modEp s _ _ fun _ => rfl).trans (launch _ _ _ _ _)) _ s

theorem flushCredits (s : State) (i : Nat) : Recorded s (flushCredits s i) := by
  refine foldl (fun s p => ?_) _ s
  dsimp only
  split
  · exact foldl (fun s _ => sendCredits s _ _ _) _ s
  · exact refl s

theorem keepPorts (s : State) (i : Nat) : Recorded s (keepPorts s i) := by
  refine foldl (fun s p => ?_) _ s
  dsimp only
  split
  · exact refl s
  · exact modChan s _ _ _ fun _ => rfl

/-- R161, R285, log 27: what precedes the writing of a record. -/
theorem beforeWrite (s : State) (i : Nat) (ls : List (Nat × Word)) :
    Recorded s (Machine.keepPorts (Machine.flushCredits (chargeRecord s i ls) i) i) :=
  ((of_walked (.chargeRecord s i ls)).trans (flushCredits _ i)).trans (keepPorts _ i)

theorem chan? (h : Recorded s t) (n c : Nat) : (t.chan? n c).map Chan.bare = (s.chan? n c).map Chan.bare := by
  have key : ∀ v : State, (v.chan? n c).map Chan.bare = ((v.nets[n]?).map Net.bare).bind fun w => w.chans[c]? := fun v => by
    unfold State.chan?
    cases v.nets[n]? with
    | none => rfl
    | some w => simp [Net.bare]
  rw [key, key, h.net]

end Recorded

/-- R364: the two dwords of a port, from its channel and network. -/
def Port.dwords (p : Port) (oc : Option Chan) (on : Option Net) : List Word :=
  match oc, on with
  | some c, some n =>
    let low := if p.isW then (p.freeCount c n).getD 0 else p.kc % c.turn
    [BitVec.ofNat 64 (low % 2 ^ 32 + p.closed.toNat * 2 ^ 32 + p.closed.toNat * 2 ^ 33 + p.gen.toNat * 2 ^ 34),
     BitVec.ofNat 64 (if p.isW then p.seq % 2 ^ 24 else p.unread c % 2 ^ 32)]
  | _, _ => [0, 0]

theorem portRecord_eq_dwords (s : State) (p : Port) :
    portRecord s p = p.dwords (if p.bound then s.chan? p.net p.ch else none) s.nets[p.net]? := by
  unfold portRecord Port.dwords
  generalize (if p.bound then s.chan? p.net p.ch else none) = oc
  generalize s.nets[p.net]? = on
  match oc, on with
  | none, _ => rfl
  | some _, none => rfl
  | some _, some _ => dsimp only; rw [← Nat.add_assoc, ← Nat.add_assoc]

/-- The dwords of a port are those of its channel and network, bare. -/
theorem dwords_bare (p : Port) (oc : Option Chan) (on : Option Net) : p.dwords (oc.map Chan.bare) (on.map Net.bare) = p.dwords oc on := by
  cases oc <;> cases on <;> rfl

namespace Recorded

theorem portRecord (h : Recorded s t) (j k : Nat) : portRecord t ((t.slot j).port k) = portRecord s ((s.slot j).port k) := by
  have hc := h.chan? ((s.slot j).port k).net ((s.slot j).port k).ch
  rw [portRecord_eq_dwords, portRecord_eq_dwords, h.port j k, ← dwords_bare, ← dwords_bare ((s.slot j).port k), ← h.net]
  dsimp only
  split
  · rw [← hc]; rfl
  · rfl

theorem accov (h : Recorded s t) (i : Nat) : t.accov i = s.accov i := by
  unfold State.accov State.ownsMatrix
  rw [tile_congr h.tiles, h.slot i]

theorem recordParts (h : Recorded s t) (i : Nat) : recordParts t i = recordParts s i := by
  have hp : ((List.range 16).flatMap fun k => dwordBytes (Machine.portRecord t ((t.slot i).port k))) =
      (List.range 16).flatMap fun k => dwordBytes (Machine.portRecord s ((s.slot i).port k)) :=
    congrArg (List.flatMap · _) (funext fun k => by rw [h.portRecord])
  unfold Machine.recordParts
  dsimp only
  rw [hp, h.accov i, h.slot i]
  rfl

theorem partBytes (h : Recorded s t) (i : Nat) : partBytes t i = partBytes s i := by
  unfold Machine.partBytes
  rw [tile_congr h.tiles, h.slot i]

end Recorded

end

section
/-! PROOFS (O53). A save: what the record of a slot reads as when it has been written (R364, R365). -/

variable {s u : State} {ls : List (Nat × Word)}

/-! ## The pieces of a record and their places -/

/-- A byte of dwords in a row. -/
theorem dwordBytes_getD (l : List Word) {k j : Nat} (hk : k < l.length) (hj : j < 8) :
    (dwordBytes l).getD (8 * k + j) 0 = (l.getD k 0).extractLsb' (8 * j) 8 := by
  induction l generalizing k with
  | nil => exact absurd hk (by simp)
  | cons w l ih =>
    have hc : dwordBytes (w :: l) = natLe w.toNat 8 ++ dwordBytes l := rfl
    rw [hc]
    cases k with
    | zero => rw [List.getD_append _ _ _ _ (by rw [natLe_length]; omega), Nat.mul_zero, Nat.zero_add, natLe_getD_bits _ hj]; rfl
    | succ k =>
      rw [List.getD_append_right _ _ _ _ (by rw [natLe_length]; omega), natLe_length, show 8 * (k + 1) + j - 8 = 8 * k + j by omega,
        List.getD_cons_succ]
      exact ih (by simpa using hk)

theorem portRecord_length (s : State) (p : Port) : (portRecord s p).length = 2 := by
  rw [portRecord_eq_dwords]
  unfold Port.dwords
  split <;> rfl

/-- R364: the dwords of a slot's record that have places of their own, ports and vector registers apart. -/
def recordLayout (s : State) (i : Nat) : List (Nat × List Word) :=
  let x := s.slot i
  let nums (n : Nat) (f : Nat → Word) : List Word := (List.range n).map f
  [(0x000, [x.status, x.tr.pc.zeroExtend 64, x.pb.eseq.zeroExtend 64, x.tr.waitd]), (0x040, nums 31 fun k => x.pb.readG (k + 1)),
   (0x140, nums 16 x.pb.readT), (0x1C0, nums 16 (x.pb.readE .vq)), (0x240, nums 16 (x.pb.readE .mq)), (0x2C0, nums 16 (x.pb.readE .xq)),
   (0x340, x.tr.rpat :: nums 6 fun k => (Sparse.get 0 x.tr.ridx k).zeroExtend 64),
   (0x380, [x.vec.fflags.zeroExtend 64, x.vec.fcsr.zeroExtend 64, BitVec.ofNat 64 x.vec.vl, x.csegvalid, x.vec.smap,
     x.vec.eos.zeroExtend 64, BitVec.ofNat 64 x.vec.closedwr, BitVec.ofNat 64 x.vec.staledrop, (s.accov i).zeroExtend 64]),
   (0x3C8, nums 7 fun k => Sparse.get 0 x.vec.win (k + 1)), (0x500, nums 7 fun k => Sparse.get 0 x.vec.m (k + 1))]

/-- R364: the ports of a slot in its record. -/
def recordPorts (s : State) (i : Nat) : List Byte := (List.range 16).flatMap fun k => dwordBytes (portRecord s ((s.slot i).port k))

/-- R364: the vector registers of a slot in its record. -/
def recordVregs (s : State) (i : Nat) : List Byte :=
  (List.range 64).flatMap fun k => natLe ((s.slot i).vreg k).toNat (4 * (s.slot i).id.vlmax)

theorem recordPorts_length (s : State) (i : Nat) : (recordPorts s i).length = 256 :=
  flatMap_range_length (l := 16) _ fun k => (dwordBytes_length _).trans (by rw [portRecord_length])

theorem recordVregs_length (s : State) (i : Nat) : (recordVregs s i).length = 64 * (4 * (s.slot i).id.vlmax) :=
  flatMap_range_length _ fun _ => natLe_length _ _

/-- A byte of the dwords of a port. -/
theorem recordPorts_getD (s : State) (i : Nat) {k d j : Nat} (hk : k < 16) (hd : d < 2) (hj : j < 8) :
    (recordPorts s i).getD (16 * k + (8 * d + j)) 0 = ((portRecord s ((s.slot i).port k)).getD d 0).extractLsb' (8 * j) 8 := by
  have hlen : ∀ k, (dwordBytes (portRecord s ((s.slot i).port k))).length = 16 := fun k => by rw [dwordBytes_length, portRecord_length]
  unfold recordPorts
  rw [Nat.mul_comm 16, flatMap_range_getD _ _ hlen hk (by omega), dwordBytes_getD _ (by rw [portRecord_length]; exact hd) hj]

/-- A byte of a vector register. -/
theorem recordVregs_getD (s : State) (i : Nat) {n j : Nat} (hn : n < 64) (hj : j < 4 * (s.slot i).id.vlmax) :
    (recordVregs s i).getD (4 * (s.slot i).id.vlmax * n + j) 0 = ((s.slot i).vreg n).extractLsb' (8 * j) 8 := by
  unfold recordVregs
  rw [Nat.mul_comm _ n, flatMap_range_getD _ _ (fun _ => natLe_length _ _) hn hj, natLe_getD_bits _ hj]

/-- A place in rows of one length lies before their end. -/
theorem row_place_lt {m n r j : Nat} (hn : n < r) (hj : j < m) : m * n + j < r * m :=
  calc m * n + j < m * n + m := Nat.add_lt_add_left hj _
    _ = m * (n + 1) := (Nat.mul_succ m n).symm
    _ ≤ m * r := Nat.mul_le_mul_left m hn
    _ = r * m := Nat.mul_comm m r

/-- R364: the pieces of a record: dwords, the ports among them, and the vector registers behind them. -/
theorem recordParts_eq (s : State) (i : Nat) : recordParts s i =
    ((recordLayout s i).take 9).map (fun p => (p.1, dwordBytes p.2)) ++
      (0x400, recordPorts s i) :: ((recordLayout s i).drop 9).map (fun p => (p.1, dwordBytes p.2)) ++ [(0x600, recordVregs s i)] := rfl

theorem mem_recordParts_layout {p : Nat × List Word} (h : p ∈ recordLayout s i) : (p.1, dwordBytes p.2) ∈ recordParts s i := by
  rw [← List.take_append_drop 9 (recordLayout s i)] at h
  rw [recordParts_eq]
  rcases List.mem_append.mp h with h | h
  · exact List.mem_append_left _ (List.mem_append_left _ (List.mem_map_of_mem h))
  · exact List.mem_append_left _ (List.mem_append_right _ (List.mem_cons_of_mem _ (List.mem_map_of_mem h)))

/-- R364: where each piece begins and how long it is. -/
theorem recordParts_places (s : State) (i : Nat) : (recordParts s i).map (fun p => (p.1, p.2.length)) =
    [(0x000, 0x20), (0x040, 0xF8), (0x140, 0x80), (0x1C0, 0x80), (0x240, 0x80), (0x2C0, 0x80), (0x340, 0x38), (0x380, 0x48), (0x3C8, 0x38),
      (0x400, 0x100), (0x500, 0x38), (0x600, 64 * (4 * (s.slot i).id.vlmax))] := by
  rw [recordParts_eq]
  simp only [List.map_append, List.map_cons, List.map_nil, List.map_map, Function.comp_def, dwordBytes_length, recordPorts_length,
    recordVregs_length]
  rfl

/-- R364: the pieces that a save writes: the state, and the partition where PART asks for it. -/
def recordPieces (s : State) (i : Nat) : List (Nat × List Byte) :=
  recordParts s i ++ if (s.slot i).tr.savepart then [(0x8000, partBytes s i)] else []

theorem partBytes_length (s : State) (i : Nat) : (partBytes s i).length = (s.slot i).id.size * 4096 := mem_bytes_length _ _ _

/-- R364: the pieces lie apart. -/
theorem recordPieces_apart {i : Nat} (hv : (s.slot i).id.vlmax ≤ 64) : (recordPieces s i).Pairwise fun p q => p.1 + p.2.length ≤ q.1 := by
  have hp := recordParts_places s i
  have hparts : (recordParts s i).Pairwise fun p q => p.1 + p.2.length ≤ q.1 := by
    have hm : ((recordParts s i).map fun p => (p.1, p.2.length)).Pairwise fun p q => p.1 + p.2 ≤ q.1 := by
      rw [hp]
      simp
    exact List.pairwise_map.mp hm
  have hend : ∀ p ∈ recordParts s i, p.1 + p.2.length ≤ 0x8000 := fun p h => by
    have hm := List.mem_map_of_mem (f := fun p : Nat × List Byte => (p.1, p.2.length)) h
    rw [hp] at hm
    simp only [List.mem_cons, List.not_mem_nil, or_false, Prod.mk.injEq] at hm
    omega
  unfold recordPieces
  split
  · refine List.pairwise_append.mpr ⟨hparts, List.pairwise_singleton _ _, fun p h q hq => ?_⟩
    rw [List.mem_singleton.mp hq]
    exact hend p h
  · rwa [List.append_nil]

/-- R364: the pieces lie inside the save area. -/
theorem recordPieces_inside {i : Nat} (hv : (s.slot i).id.vlmax ≤ 64) {p : Nat × List Byte} (h : p ∈ recordPieces s i) :
    p.1 + p.2.length ≤ (s.slot i).recordSize := by
  unfold recordPieces at h
  unfold Slot.recordSize
  rcases List.mem_append.mp h with h | h
  · have hm := List.mem_map_of_mem (f := fun p : Nat × List Byte => (p.1, p.2.length)) h
    rw [recordParts_places] at hm
    simp only [List.mem_cons, List.not_mem_nil, or_false, Prod.mk.injEq] at hm
    split <;> omega
  · split at h
    · next hp =>
      rw [List.mem_singleton.mp h, if_pos hp, partBytes_length]
    · exact absurd h (by simp)

/-! ## Writing it -/

/-- R365: a record is written piece by piece. -/
theorem writeRecord_eq (s : State) (i : Nat) (ls : List (Nat × Word)) :
    let v := keepPorts (flushCredits (chargeRecord s i ls) i) i
    writeRecord s i ls = v.storeParts ls (v.slot i).tr.saveva.toNat (recordPieces v i) := by
  have pieces : ∀ (v : State) (n : Nat), (if (v.slot i).tr.savepart then
      storeLeaf ((recordParts v i).foldl (fun t p => storeLeaf t ls (n + p.1) p.2) v) ls (n + 0x8000) (partBytes v i)
      else (recordParts v i).foldl (fun t p => storeLeaf t ls (n + p.1) p.2) v) = v.storeParts ls n (recordPieces v i) := by
    intro v n
    unfold recordPieces State.storeParts
    rw [List.foldl_append]
    split
    · rw [List.foldl_cons, List.foldl_nil]
    · rw [List.foldl_nil]
  exact pieces _ _

/-- R364, R365: a byte of a record that has been written. -/
theorem writeRecord_byte {i : Nat} (h : LeavesApart ls) (hc : Covered ls (s.slot i).tr.saveva.toNat (s.slot i).recordSize)
    (hv : (s.slot i).id.vlmax ≤ 64) {p : Nat × List Byte} (hp : p ∈ recordPieces s i) {j : Nat} (hj : j < p.2.length) :
    loadLeaf (writeRecord s i ls) ls ((s.slot i).tr.saveva.toNat + p.1 + j) = p.2.getD j 0 := by
  have hr := Recorded.beforeWrite s i ls
  have hpieces : recordPieces (keepPorts (flushCredits (chargeRecord s i ls) i) i) i = recordPieces s i := by
    unfold recordPieces
    rw [hr.recordParts, hr.partBytes, hr.slot i]
  have hva : ((keepPorts (flushCredits (chargeRecord s i ls) i) i).slot i).tr.saveva = (s.slot i).tr.saveva := by rw [hr.slot i]
  rw [writeRecord_eq, hpieces, hva]
  exact loadLeaf_storeParts h hc (fun q hq => recordPieces_inside hv hq) (recordPieces_apart hv) hp hj

/-! ## Starting and ending an operation of SAVECTL -/

/-- R365: an operation of SAVECTL begins. -/
def State.saveBegun (s : State) (part : Bool) (op : Nat) : State :=
  s.modMe fun x => { x with tr := { x.tr with saveop := op, savepart := part, savewant := none } }

theorem saveBegun_slot (s : State) (part : Bool) (op : Nat) : (s.saveBegun part op).slot s.cur =
    { s.me with tr := { s.me.tr with saveop := op, savepart := part, savewant := none } } := slot_modMe_cur s _

/-- R365: an operation of SAVECTL has only to end, with STATE 0. -/
def State.saveMoved (s : State) (i : Nat) : State :=
  s.modSlot i fun x => { x with tr := { x.tr with saveop := 3, savest := 0, savewant := none } }

theorem saveMoved_becomes (s : State) (i : Nat) :
    SlotBecomes s (s.saveMoved i) i { s.slot i with tr := { (s.slot i).tr with saveop := 3, savest := 0, savewant := none } } :=
  ⟨slot_modSlot_self s i _, fun _ hj => slot_modSlot_ne s _ hj, rfl⟩

theorem saveMoved_sameDram (s : State) (i : Nat) : SameDram s (s.saveMoved i) := ⟨rfl, rfl, rfl⟩

/-- R115, R365: an operation that awaits nothing moves the record. -/
theorem startSave_ok {op : Nat} {part : Bool} (hop : op = 1 ∨ op = 2) (hg : op = 1 → ∀ g ∈ s.me.segs, g.2.st ≠ .inflight)
    (h : savePages (s.saveBegun part op) s.cur ((s.saveBegun part op).slot s.cur).id (op = 1)
      ((s.saveBegun part op).slot s.cur).saveVpns [] = (.ok ls, u)) :
    startSave s s.cur op part = (if op = 1 then writeRecord u s.cur ls else readRecord u s.cur ls).saveMoved s.cur := by
  have hs := saveBegun_slot s part op
  have hgo : ¬ (op ≠ 1 ∧ op ≠ 2) := by omega
  have hseg : ¬ (op = 1 ∧ s.me.segs.any (fun g => g.2.st == .inflight) = true) := by
    rintro ⟨ho, ha⟩
    obtain ⟨g, hm, hf⟩ := List.any_eq_true.mp ha
    exact hg ho g hm (eq_of_beq hf)
  change saveRun (s.saveBegun part op) s.cur = _
  unfold saveRun
  rw [hs] at h ⊢
  simp only [if_neg hgo, if_neg hseg, Option.isSome_none, Bool.false_eq_true, if_false, h]
  rfl

/-- R365: the end of an operation frees SAVECTL. -/
theorem savectlDone_ends (h : s.me.tr.saveop = 3) :
    ∃ t, execSavectlDone s = .next t ∧ SlotBecomes s t s.cur { s.me with tr := { s.me.tr with saveop := 0 } } := by
  have hrun : saveRun s s.cur = s := by
    unfold saveRun
    rw [← me_def]
    simp only [h]
    rfl
  refine ⟨s.modMe fun x => { x with tr := { x.tr with saveop := 0 } }, ?_, slot_modMe_cur s _, fun _ hj => slot_modMe_ne s _ hj, rfl⟩
  unfold execSavectlDone
  rw [hrun]
  exact if_pos h

end

section
/-! PROOFS (O53). A save, from the slot that begins it to the bytes behind the leaves (R364, R365). -/

variable {s u : State} {part : Bool} {ls : List (Nat × Word)}

/-- R364: the dwords of a slot's record as the statement lists them. -/
def slotLayout (s : State) (i : Nat) : List (Nat × List Word) :=
  let x := s.slot i
  let nums (n : Nat) (f : Nat → Word) : List Word := (List.range n).map f
  [(0x000, [x.status, x.tr.pc.zeroExtend 64, x.pb.eseq.zeroExtend 64, x.tr.waitd]), (0x040, nums 31 fun k => x.pb.readG (k + 1)),
   (0x140, nums 16 x.pb.readT), (0x1C0, nums 16 (x.pb.readE .vq)), (0x240, nums 16 (x.pb.readE .mq)), (0x2C0, nums 16 (x.pb.readE .xq)),
   (0x340, [x.tr.rpat]), (0x348, nums 6 fun k => (Sparse.get 0 x.tr.ridx k).zeroExtend 64),
   (0x380, [x.vec.fflags.zeroExtend 64, x.vec.fcsr.zeroExtend 64, BitVec.ofNat 64 x.vec.vl, x.csegvalid, x.vec.smap,
     x.vec.eos.zeroExtend 64, BitVec.ofNat 64 x.vec.closedwr, BitVec.ofNat 64 x.vec.staledrop, (s.accov i).zeroExtend 64]),
   (0x3C8, nums 7 fun k => Sparse.get 0 x.vec.win (k + 1)), (0x500, nums 7 fun k => Sparse.get 0 x.vec.m (k + 1))]

/-- The statement's list is that of the pieces, RPAT and RIDX apart. -/
theorem slotLayout_eq (s : State) (i : Nat) : slotLayout s i = (recordLayout s i).take 6 ++ (0x340, [(s.slot i).tr.rpat]) ::
    (0x348, (List.range 6).map fun k => (Sparse.get 0 (s.slot i).tr.ridx k).zeroExtend 64) :: (recordLayout s i).drop 7 := rfl

theorem mem_recordLayout_rpat (s : State) (i : Nat) : (0x340, (s.slot i).tr.rpat :: (List.range 6).map fun k =>
    (Sparse.get 0 (s.slot i).tr.ridx k).zeroExtend 64) ∈ recordLayout s i :=
  List.mem_of_getElem? (i := 6) rfl

theorem mem_bytes_getD (m : Mem) (a : Nat) {n j : Nat} (h : j < n) : (m.bytes a n).getD j 0 = m.byte (a + j) := by
  induction n generalizing a j with
  | zero => omega
  | succ n ih =>
    rw [Mem.bytes]
    cases j with
    | zero => rfl
    | succ j => rw [List.getD_cons_succ, ih (a + 1) (by omega), Nat.add_assoc, Nat.add_comm 1]

/-- The pieces of a slot that has begun a save are those of the slot as it stood, and its partition where it is asked for. -/
theorem saveBegun_recordPieces (s : State) (part : Bool) (op : Nat) : recordPieces (s.saveBegun part op) s.cur =
    recordParts s s.cur ++ if part then [(0x8000, partBytes s s.cur)] else [] := by
  have hs := saveBegun_slot s part op
  have hparts : recordParts (s.saveBegun part op) s.cur = recordParts s s.cur := by
    have hports : recordPorts (s.saveBegun part op) s.cur = recordPorts s s.cur := by unfold recordPorts; rw [hs]; rfl
    have hv : recordVregs (s.saveBegun part op) s.cur = recordVregs s s.cur := by unfold recordVregs; rw [hs]; rfl
    have hl : recordLayout (s.saveBegun part op) s.cur = recordLayout s s.cur := by
      have ha : (s.saveBegun part op).accov s.cur = s.accov s.cur := by unfold State.accov; rw [hs]; rfl
      unfold recordLayout
      rw [hs, ha]
      rfl
    rw [recordParts_eq, recordParts_eq, hports, hv, hl]
  have hp : partBytes (s.saveBegun part op) s.cur = partBytes s s.cur := by unfold partBytes; rw [hs]; rfl
  unfold recordPieces
  rw [hparts, hp, hs]

/-- R365: the save has written the record: every byte of every piece. -/
theorem save_byte (h : savePages (s.saveBegun part 1) s.cur ((s.saveBegun part 1).slot s.cur).id true
      ((s.saveBegun part 1).slot s.cur).saveVpns [] = (.ok ls, u)) (hv : s.me.id.vlmax ≤ 64) (ha : LeavesApart ls)
    {p : Nat × List Byte} (hp : p ∈ recordParts s s.cur ++ if part then [(0x8000, partBytes s s.cur)] else []) {j : Nat}
    (hj : j < p.2.length) :
    loadLeaf ((writeRecord u s.cur ls).saveMoved s.cur) ls (s.me.tr.saveva.toNat + p.1 + j) = p.2.getD j 0 := by
  have hs := saveBegun_slot s part 1
  have hw := (savePages_ok h).1
  have hc := savePages_covered h
  have hus : u.slot s.cur = (s.saveBegun part 1).slot s.cur := slot_congr hw.slots s.cur
  have hup : recordPieces u s.cur = recordPieces (s.saveBegun part 1) s.cur := by
    unfold recordPieces
    rw [(Recorded.of_walked hw).recordParts, (Recorded.of_walked hw).partBytes, hus]
  rw [(saveMoved_sameDram _ _).loadLeaf fun l hl => (ha.frame l hl).1]
  have hva : s.me.tr.saveva = (u.slot s.cur).tr.saveva := by rw [hus, hs]
  rw [← hus] at hc
  rw [hva]
  refine writeRecord_byte ha hc (by rw [hus, hs]; exact hv) (by rw [hup, saveBegun_recordPieces]; exact hp) hj

section
variable (h : savePages (s.saveBegun part 1) s.cur ((s.saveBegun part 1).slot s.cur).id true
    ((s.saveBegun part 1).slot s.cur).saveVpns [] = (.ok ls, u)) (hv : s.me.id.vlmax ≤ 64) (ha : LeavesApart ls)
include h hv ha

/-- R364: a dword of the record. -/
theorem save_dword {o k j : Nat} {ds : List Word} (hp : (o, ds) ∈ recordLayout s s.cur) (hk : k < ds.length) (hj : j < 8) :
    loadLeaf ((writeRecord u s.cur ls).saveMoved s.cur) ls (s.me.tr.saveva.toNat + o + 8 * k + j) = (ds.getD k 0).extractLsb' (8 * j) 8 := by
  rw [Nat.add_assoc, ← dwordBytes_getD ds hk hj]
  exact save_byte h hv ha (List.mem_append_left _ (mem_recordParts_layout hp)) (by dsimp only; rw [dwordBytes_length]; omega)

/-- R364: a dword of the record, RPAT and RIDX as registers of their own. -/
theorem save_layout {o k j : Nat} {ds : List Word} (hp : (o, ds) ∈ slotLayout s s.cur) (hk : k < ds.length) (hj : j < 8) :
    loadLeaf ((writeRecord u s.cur ls).saveMoved s.cur) ls (s.me.tr.saveva.toNat + o + 8 * k + j) = (ds.getD k 0).extractLsb' (8 * j) 8 := by
  rw [slotLayout_eq] at hp
  have hrpat := mem_recordLayout_rpat s s.cur
  rcases List.mem_append.mp hp with hp | hp
  · exact save_dword h hv ha (List.mem_of_mem_take hp) hk hj
  rcases List.mem_cons.mp hp with hp | hp
  · obtain ⟨rfl, rfl⟩ := Prod.mk.inj hp
    obtain rfl : k = 0 := Nat.lt_one_iff.mp hk
    have hd := save_dword h hv ha hrpat (Nat.succ_pos _) hj
    exact hd
  rcases List.mem_cons.mp hp with hp | hp
  · obtain ⟨rfl, rfl⟩ := Prod.mk.inj hp
    have hd := save_dword h hv ha hrpat (k := k + 1) (Nat.succ_lt_succ hk) hj
    rwa [List.getD_cons_succ, show s.me.tr.saveva.toNat + 0x340 + 8 * (k + 1) + j = s.me.tr.saveva.toNat + 0x348 + 8 * k + j by omega] at hd
  · exact save_dword h hv ha (List.mem_of_mem_drop hp) hk hj

/-- R364: the dwords of a port. -/
theorem save_port {k d j : Nat} (hk : k < 16) (hd : d < 2) (hj : j < 8) :
    loadLeaf ((writeRecord u s.cur ls).saveMoved s.cur) ls (s.me.tr.saveva.toNat + 0x400 + 16 * k + 8 * d + j) =
      ((portRecord s (s.me.port k)).getD d 0).extractLsb' (8 * j) 8 := by
  have hmem : (0x400, recordPorts s s.cur) ∈ recordParts s s.cur := List.mem_of_getElem? (i := 9) rfl
  have hb := save_byte h hv ha (List.mem_append_left _ hmem) (j := 16 * k + (8 * d + j)) (by dsimp only; rw [recordPorts_length]; omega)
  rw [Nat.add_assoc, Nat.add_assoc]
  exact hb.trans (recordPorts_getD s s.cur hk hd hj)

/-- R364: the vector registers. -/
theorem save_vreg {n j : Nat} (hn : n < 64) (hj : j < 4 * s.me.id.vlmax) :
    loadLeaf ((writeRecord u s.cur ls).saveMoved s.cur) ls (s.me.tr.saveva.toNat + 0x600 + 4 * s.me.id.vlmax * n + j) =
      (s.me.vreg n).extractLsb' (8 * j) 8 := by
  have hmem : (0x600, recordVregs s s.cur) ∈ recordParts s s.cur := List.mem_of_getElem? (i := 11) rfl
  have hb := save_byte h hv ha (List.mem_append_left _ hmem) (j := 4 * s.me.id.vlmax * n + j)
    (by dsimp only; rw [recordVregs_length]; exact row_place_lt hn hj)
  rw [Nat.add_assoc]
  exact hb.trans (recordVregs_getD s s.cur hn hj)

/-- R364: the partition, where PART asks for it. -/
theorem save_part (hp : part = true) {j : Nat} (hj : j < s.me.id.size * 4096) :
    loadLeaf ((writeRecord u s.cur ls).saveMoved s.cur) ls (s.me.tr.saveva.toNat + 0x8000 + j) =
      (s.tile (tileOf s.cur)).sram.byte (s.me.id.base * 4096 + j) := by
  have hmem : (0x8000, partBytes s s.cur) ∈ recordParts s s.cur ++ if part then [(0x8000, partBytes s s.cur)] else [] :=
    List.mem_append_right _ (by rw [if_pos hp]; exact List.mem_singleton_self _)
  exact (save_byte h hv ha hmem (by rw [partBytes_length]; exact hj)).trans (mem_bytes_getD _ _ hj)

end

end

section
/-! PROOFS (O53). A restore: what a slot has from a record that is read back (R364, R365, R378). -/

variable {s u v : State} {x : Slot} {rd : Nat → Byte}

/-! ## Tables and lanes -/

/-- A table filled in a stretch. -/
theorem sparse_get_foldl_set {β : Type} [DecidableEq β] (d : β) (lo n : Nat) (f : Nat → β) (j : Nat) :
    Sparse.get d ((List.range n).foldl (fun t k => Sparse.set d t (lo + k) (f k)) []) j = if lo ≤ j ∧ j < lo + n then f (j - lo) else d := by
  induction n with
  | zero => rw [if_neg (by omega)]; rfl
  | succ n ih =>
    rw [List.range_succ, List.foldl_append, List.foldl_cons, List.foldl_nil, sparse_get_set, ih]
    by_cases hj : j = lo + n
    · rw [if_pos hj, if_pos (by omega), hj, Nat.add_sub_cancel_left]
    · rw [if_neg hj]
      exact if_congr (by omega) rfl rfl

/-- A table filled from its beginning. -/
theorem sparse_get_foldl_set_zero {β : Type} [DecidableEq β] (d : β) {n j : Nat} (f : Nat → β) (h : j < n) :
    Sparse.get d ((List.range n).foldl (fun t k => Sparse.set d t k (f k)) []) j = f j := by
  have hz := sparse_get_foldl_set d 0 n f j
  simp only [Nat.zero_add] at hz
  rw [hz, if_pos ⟨Nat.zero_le _, h⟩, Nat.sub_zero]

theorem tableOf_get (lo n : Nat) (f : Nat → Word) {j : Nat} (h1 : lo ≤ j) (h2 : j < lo + n) : Sparse.get 0 (tableOf lo n f) j = f (j - lo) :=
  (sparse_get_foldl_set 0 lo n f j).trans (if_pos ⟨h1, h2⟩)

/-- A word of four bytes of a stretch. -/
theorem leNat_word (f : Nat → Byte) (n k : Nat) : leNat ((List.range (4 * n)).map f) / 2 ^ (32 * k) % 2 ^ 32 =
    if k < n then leNat ((List.range 4).map fun j => f (4 * k + j)) else 0 := by
  have hpow : ∀ k : Nat, 256 ^ (4 * k) = 2 ^ (32 * k) := fun k => by
    rw [show (256 : Nat) = 2 ^ 8 by decide, ← Nat.pow_mul]
    exact congrArg _ (by omega)
  split
  · next h =>
    obtain ⟨m, rfl⟩ : ∃ m, n = k + 1 + m := ⟨n - (k + 1), by omega⟩
    rw [show 4 * (k + 1 + m) = 4 * k + (4 + 4 * m) by omega, List.range_add, List.map_append, leNat_append, List.range_add, List.map_append,
      List.map_append, leNat_append, List.map_map, List.length_map, List.length_map, List.length_range, List.length_range, hpow k]
    have hlo := leNat_lt ((List.range (4 * k)).map f)
    have hmid := leNat_lt ((List.range 4).map fun j => f (4 * k + j))
    rw [List.length_map, List.length_range, hpow k] at hlo
    rw [List.length_map, List.length_range] at hmid
    rw [Nat.add_mul_div_left _ _ (Nat.two_pow_pos _), Nat.div_eq_of_lt hlo, Nat.zero_add, show (256 : Nat) ^ 4 = 2 ^ 32 by decide,
      Nat.add_mul_mod_self_left]
    exact Nat.mod_eq_of_lt hmid
  · next h =>
    have hlt := leNat_lt ((List.range (4 * n)).map f)
    rw [List.length_map, List.length_range, hpow n] at hlt
    rw [Nat.div_eq_of_lt (Nat.lt_of_lt_of_le hlt (Nat.pow_le_pow_right (by decide) (by omega))), Nat.zero_mod]

/-! ## A slot from a record -/

section
variable (x : Slot) (s : State) (rd : Nat → Byte)

theorem fromRecord_g : (x.fromRecord s rd).pb.g = tableOf 1 31 fun k => dwordBy rd (0x040 + 8 * k) := by simp only [Slot.fromRecord]
theorem fromRecord_t : (x.fromRecord s rd).pb.t = tableOf 0 16 fun k => dwordBy rd (0x140 + 8 * k) := by simp only [Slot.fromRecord]
theorem fromRecord_ev : (x.fromRecord s rd).pb.ev = tableOf 0 16 fun k => dwordBy rd (0x1C0 + 8 * k) := by simp only [Slot.fromRecord]
theorem fromRecord_em : (x.fromRecord s rd).pb.em = tableOf 0 16 fun k => dwordBy rd (0x240 + 8 * k) := by simp only [Slot.fromRecord]
theorem fromRecord_ex : (x.fromRecord s rd).pb.ex = tableOf 0 16 fun k => dwordBy rd (0x2C0 + 8 * k) := by simp only [Slot.fromRecord]
theorem fromRecord_m : (x.fromRecord s rd).vec.m =
    tableOf 1 7 fun k => dwordBy rd (0x500 + 8 * k) &&& BitVec.ofNat 64 (2 ^ x.id.vlmax - 1) := by simp only [Slot.fromRecord]
theorem fromRecord_wins : (x.fromRecord s rd).vec.win =
    tableOf 1 7 fun k => winStored (x.id.size * 4096) (dwordBy rd (0x3C8 + 8 * k)) := by simp only [Slot.fromRecord]
theorem fromRecord_gen : (x.fromRecord s rd).gen = x.gen := by simp only [Slot.fromRecord]
theorem fromRecord_eng : (x.fromRecord s rd).eng = x.eng := by simp only [Slot.fromRecord]
theorem fromRecord_sb : (x.fromRecord s rd).sb = x.sb := by simp only [Slot.fromRecord]
theorem fromRecord_tr : (x.fromRecord s rd).tr =
    { x.tr with pc := (dwordBy rd 8).extractLsb' 2 19 ++ 0#2, waitd := dwordBy rd 0x18 &&& 0x3FFFFFFFFFF
                rpat := dwordBy rd 0x340 &&& 0x800000007FFFFFFF, ridx := (x.fromRecord s rd).tr.ridx } := by
  simp only [Slot.fromRecord]
theorem fromRecord_eseq : (x.fromRecord s rd).pb.eseq = (dwordBy rd 0x10).extractLsb' 0 32 := by simp only [Slot.fromRecord]

/-- R364: the registers of the vector state. -/
theorem fromRecord_vecState : (x.fromRecord s rd).vec.fflags = (dwordBy rd 0x380).extractLsb' 0 5 ∧
    (x.fromRecord s rd).vec.fcsr =
      (if 5 ≤ ((dwordBy rd 0x388).extractLsb' 0 3).toNat then 0 else (dwordBy rd 0x388).extractLsb' 0 3) ∧
    (x.fromRecord s rd).vec.vl = min (dwordBy rd 0x390).toNat x.id.vlmax ∧
    (x.fromRecord s rd).vec.smap = dwordBy rd 0x3A0 &&& 0x8F8F8F8F8F8F8F8F ∧
    (x.fromRecord s rd).vec.eos = (dwordBy rd 0x3A8).extractLsb' 0 16 ∧
    (x.fromRecord s rd).vec.closedwr = ((dwordBy rd 0x3B0).extractLsb' 0 32).toNat ∧
    (x.fromRecord s rd).vec.staledrop = ((dwordBy rd 0x3B8).extractLsb' 0 32).toNat := by
  simp only [Slot.fromRecord, and_self]

theorem fromRecord_ridxs : (x.fromRecord s rd).tr.ridx =
    (List.range 6).foldl (fun t k => Sparse.set 0 t k ((dwordBy rd (0x348 + 8 * k)).extractLsb' 0 8)) [] := by simp only [Slot.fromRecord]
theorem fromRecord_segs : (x.fromRecord s rd).segs = (List.range x.codeSegs).foldl (fun t k =>
    Sparse.set {} t k { st := if (dwordBy rd 0x398).getLsbD k then .valid else .invalid }) [] := by simp only [Slot.fromRecord]
theorem fromRecord_v : (x.fromRecord s rd).vec.v = (List.range 64).foldl (fun t k => Sparse.set 0 t k
    (BitVec.ofNat 2048 (leNat ((List.range (4 * x.id.vlmax)).map fun j => rd (0x600 + 4 * x.id.vlmax * k + j))))) [] := by
  simp only [Slot.fromRecord]
theorem fromRecord_ports : (x.fromRecord s rd).ports = (List.range 16).foldl (fun t k =>
    Sparse.set {} t k (restorePort s (x.port k) (dwordBy rd (0x400 + 16 * k)) (dwordBy rd (0x408 + 16 * k)))) [] := by
  simp only [Slot.fromRecord]
theorem fromRecord_id : (x.fromRecord s rd).id = { x.id with plevel := (dwordBy rd 0).extractLsb' 2 2 } := rfl

end

/-- R364: registers of the process's bank. -/
theorem fromRecord_readG (x : Slot) (s : State) (rd : Nat → Byte) {n : Nat} (h1 : 1 ≤ n) (h2 : n ≤ 31) :
    (x.fromRecord s rd).pb.readG n = dwordBy rd (0x038 + 8 * n) := by
  unfold Bank.readG
  rw [if_neg (by omega), fromRecord_g, tableOf_get 1 31 _ h1 (by omega), show 0x040 + 8 * (n - 1) = 0x038 + 8 * n by omega]

/-- R364: templates and engine registers. -/
theorem fromRecord_engine (x : Slot) (s : State) (rd : Nat → Byte) {n : Nat} (h : n < 16) :
    (x.fromRecord s rd).pb.readT n = dwordBy rd (0x140 + 8 * n) ∧ (x.fromRecord s rd).pb.readE .vq n = dwordBy rd (0x1C0 + 8 * n) ∧
      (x.fromRecord s rd).pb.readE .mq n = dwordBy rd (0x240 + 8 * n) ∧ (x.fromRecord s rd).pb.readE .xq n = dwordBy rd (0x2C0 + 8 * n) := by
  have table : ∀ f : Nat → Word, Sparse.get 0 (tableOf 0 16 f) n = f n := fun f => tableOf_get 0 16 f (Nat.zero_le n) (by omega)
  unfold Bank.readT Bank.readE
  rw [fromRecord_t, fromRecord_ev, fromRecord_em, fromRecord_ex]
  exact ⟨table _, table _, table _, table _⟩

theorem fromRecord_ridx (x : Slot) (s : State) (rd : Nat → Byte) {n : Nat} (h : n < 6) :
    Sparse.get 0 (x.fromRecord s rd).tr.ridx n = (dwordBy rd (0x348 + 8 * n)).extractLsb' 0 8 := by
  rw [fromRecord_ridxs, sparse_get_foldl_set_zero _ _ h]

theorem fromRecord_seg (x : Slot) (s : State) (rd : Nat → Byte) {k : Nat} (h : k < x.codeSegs) :
    ((x.fromRecord s rd).seg k).st = if (dwordBy rd 0x398).getLsbD k then .valid else .invalid := by
  unfold Slot.seg
  rw [fromRecord_segs, sparse_get_foldl_set_zero _ _ h]

theorem fromRecord_mask (x : Slot) (s : State) (rd : Nat → Byte) {n : Nat} (h1 : 1 ≤ n) (h2 : n ≤ 7) :
    (x.fromRecord s rd).mask n = dwordBy rd (0x4F8 + 8 * n) &&& BitVec.ofNat 64 (2 ^ x.id.vlmax - 1) := by
  unfold Slot.mask
  rw [if_neg (by omega), fromRecord_m, tableOf_get 1 7 _ h1 (by omega), show 0x500 + 8 * (n - 1) = 0x4F8 + 8 * n by omega]

theorem fromRecord_win (x : Slot) (s : State) (rd : Nat → Byte) {n : Nat} (h1 : 1 ≤ n) (h2 : n ≤ 7) :
    Sparse.get 0 (x.fromRecord s rd).vec.win n = winStored (x.id.size * 4096) (dwordBy rd (0x3C0 + 8 * n)) := by
  rw [fromRecord_wins, tableOf_get 1 7 _ h1 (by omega), show 0x3C8 + 8 * (n - 1) = 0x3C0 + 8 * n by omega]

/-- R202, R364: the lanes of a vector register. -/
theorem fromRecord_lane (x : Slot) (s : State) (rd : Nat → Byte) {n k : Nat} (hn : n < 64) (hk : k < 64) :
    lane ((x.fromRecord s rd).vreg n) k =
      if k < x.id.vlmax then leNat ((List.range 4).map fun j => rd (0x600 + 4 * x.id.vlmax * n + 4 * k + j)) else 0 := by
  unfold Slot.vreg
  rw [fromRecord_v, sparse_get_foldl_set_zero _ _ hn, lane_ofNat _ hk, leNat_word]
  exact if_congr Iff.rfl (congrArg leNat (List.map_congr_left fun j _ => by rw [← Nat.add_assoc])) rfl

theorem fromRecord_port (x : Slot) (s : State) (rd : Nat → Byte) {k : Nat} (h : k < 16) :
    (x.fromRecord s rd).port k = restorePort s (x.port k) (dwordBy rd (0x400 + 16 * k)) (dwordBy rd (0x408 + 16 * k)) := by
  unfold Slot.port
  rw [fromRecord_ports, sparse_get_foldl_set_zero _ _ h]
  rfl

/-- R364, R378: a bound port from its two dwords. -/
theorem restorePort_bound {p : Port} {c : Chan} (d0 d1 : Word) (hb : p.bound = true) (hc : s.chan? p.net p.ch = some c) :
    let q := restorePort s p d0 d1
    let low := (d0.extractLsb' 0 32).toNat
    let cnt := (d1.extractLsb' 0 32).toNat
    q.gen = c.gen ∧ q.closed = d0.getLsbD 32 ∧ q.owed = [] ∧
      (p.isW = true → q.seq % 2 ^ 24 = cnt % 2 ^ 24 ∧ ∀ f ∈ q.free, low ≤ f) ∧
      (p.isW = false → q.kc % (c.cap0 * c.legs) = low % (c.cap0 * c.legs) ∧ q.k = q.kc ∧ (c.streams = 1 → q.arr = [q.kc + cnt])) := by
  have hcnt : (d1.extractLsb' 0 24).toNat = (d1.extractLsb' 0 32).toNat % 2 ^ 24 := by
    rw [BitVec.extractLsb'_toNat, BitVec.extractLsb'_toNat, Nat.mod_mod_of_dvd _ (by decide)]
  unfold restorePort
  rw [if_pos hb, hc]
  dsimp only
  split
  · next hw =>
    refine ⟨rfl, rfl, rfl, fun _ => ⟨?_, fun f hf => ?_⟩, fun h => absurd (hw.symm.trans h) (by decide)⟩
    · dsimp only
      rw [hcnt]
      omega
    · obtain ⟨r, -, rfl⟩ := List.mem_map.mp hf
      exact Nat.le_add_right _ _
  · next hw =>
    refine ⟨rfl, rfl, rfl, fun h => absurd h hw, fun _ => ⟨?_, rfl, fun h1 => ?_⟩⟩
    · exact (Nat.mul_add_mod_self_right _ _ _).trans (Nat.mod_mod _ _)
    · have hm : c.mirror = false ∧ c.legs = 1 := by
        unfold Chan.streams at h1
        split at h1
        · exact absurd h1 (by decide)
        · next hm => exact ⟨Bool.eq_false_iff.mpr hm, h1⟩
      obtain ⟨hm, hl⟩ := hm
      dsimp only
      rw [if_neg (by simp [h1])]
      unfold Chan.arrAt
      rw [hm, hl]
      simp

/-- R364: slot `z` has what the record that `rd` reads holds for slot `x`, port by port where `s` has the channel. -/
structure HoldsRecord (s : State) (x z : Slot) (rd : Nat → Byte) : Prop where
  id : z.id = { x.id with plevel := (dwordBy rd 0).extractLsb' 2 2 }
  gen : z.gen = x.gen
  eng : z.eng = x.eng
  sb : z.sb = x.sb
  tr : z.tr = { x.tr with pc := (dwordBy rd 8).extractLsb' 2 19 ++ 0#2, waitd := dwordBy rd 0x18 &&& 0x3FFFFFFFFFF
                          rpat := dwordBy rd 0x340 &&& 0x800000007FFFFFFF, ridx := z.tr.ridx }
  eseq : z.pb.eseq = (dwordBy rd 0x10).extractLsb' 0 32
  g : ∀ n, 1 ≤ n → n ≤ 31 → z.pb.readG n = dwordBy rd (0x038 + 8 * n)
  ridx : ∀ n, n < 6 → Sparse.get 0 z.tr.ridx n = (dwordBy rd (0x348 + 8 * n)).extractLsb' 0 8
  engine : ∀ n, n < 16 → z.pb.readT n = dwordBy rd (0x140 + 8 * n) ∧ z.pb.readE .vq n = dwordBy rd (0x1C0 + 8 * n) ∧
    z.pb.readE .mq n = dwordBy rd (0x240 + 8 * n) ∧ z.pb.readE .xq n = dwordBy rd (0x2C0 + 8 * n)
  vec : z.vec.fflags = (dwordBy rd 0x380).extractLsb' 0 5 ∧
    z.vec.fcsr = (if 5 ≤ ((dwordBy rd 0x388).extractLsb' 0 3).toNat then 0 else (dwordBy rd 0x388).extractLsb' 0 3) ∧
    z.vec.vl = min (dwordBy rd 0x390).toNat x.id.vlmax ∧ z.vec.smap = dwordBy rd 0x3A0 &&& 0x8F8F8F8F8F8F8F8F ∧
    z.vec.eos = (dwordBy rd 0x3A8).extractLsb' 0 16 ∧ z.vec.closedwr = ((dwordBy rd 0x3B0).extractLsb' 0 32).toNat ∧
    z.vec.staledrop = ((dwordBy rd 0x3B8).extractLsb' 0 32).toNat
  seg : ∀ k, k < x.codeSegs → (z.seg k).st = if (dwordBy rd 0x398).getLsbD k then .valid else .invalid
  mask : ∀ n, 1 ≤ n → n ≤ 7 → z.mask n = dwordBy rd (0x4F8 + 8 * n) &&& BitVec.ofNat 64 (2 ^ x.id.vlmax - 1)
  lane : ∀ n k, n < 64 → k < 64 → lane (z.vreg n) k =
    if k < x.id.vlmax then leNat ((List.range 4).map fun j => rd (0x600 + 4 * x.id.vlmax * n + 4 * k + j)) else 0
  port : ∀ k, k < 16 → z.port k = restorePort s (x.port k) (dwordBy rd (0x400 + 16 * k)) (dwordBy rd (0x408 + 16 * k))
  win : ∀ n, 1 ≤ n → n ≤ 7 → Sparse.get 0 z.vec.win n = winStored (x.id.size * 4096) (dwordBy rd (0x3C0 + 8 * n))

theorem fromRecord_holds (s : State) (x : Slot) (rd : Nat → Byte) : HoldsRecord s x (x.fromRecord s rd) rd where
  id := fromRecord_id x s rd
  gen := fromRecord_gen x s rd
  eng := fromRecord_eng x s rd
  sb := fromRecord_sb x s rd
  tr := fromRecord_tr x s rd
  eseq := fromRecord_eseq x s rd
  g _ := fromRecord_readG x s rd
  ridx _ := fromRecord_ridx x s rd
  engine _ := fromRecord_engine x s rd
  vec := fromRecord_vecState x s rd
  seg _ := fromRecord_seg x s rd
  mask _ := fromRecord_mask x s rd
  lane _ _ := fromRecord_lane x s rd
  port _ := fromRecord_port x s rd
  win _ := fromRecord_win x s rd

end

section
/-! PROOFS (O53). A restore, from the slot that begins it to the slot that it leaves (R253, R364, R365). -/

variable {s u v : State} {part : Bool} {ls : List (Nat × Word)}

/-! ## ACCOV (R253) -/

/-- R253: ACCOV written goes into the accumulators that hold the running context. -/
theorem putAccov_ov (s : State) (i : Nat) (a : BitVec 2) {n : Nat} (h : n < 2) :
    (((s.putAccov i a).tile (tileOf i)).acc n).ov =
      if ((s.tile (tileOf i)).acc n).tag = (s.tile (tileOf i)).ctag then a.getLsbD n else ((s.tile (tileOf i)).acc n).ov := by
  have put : ∀ (t : Tile) (m : Nat) (c : Acc), (if t.inPlace c then { c with ov := a.getLsbD m } else c).ov =
      if c.tag = t.ctag then a.getLsbD m else c.ov := fun t m c => by
    unfold Tile.inPlace
    by_cases hc : c.tag = t.ctag <;> simp [hc]
  unfold State.putAccov
  rw [modSlot_tile, tile_modTile_self]
  unfold Tile.acc
  obtain rfl | rfl : n = 0 ∨ n = 1 := by omega
  · exact put _ 0 _
  · exact put _ 1 _

/-! ## Reading a record back -/

/-- R364: the bytes of a slot's record, by their offsets. -/
def State.recordByte (s : State) (ls : List (Nat × Word)) (va o : Nat) : Byte := loadLeaf s ls (va + o)

/-- R365: the slot that a record gives. -/
def State.restoredSlot (s : State) (i : Nat) (rd : Nat → Byte) : Slot :=
  let z := (s.slot i).fromRecord s rd
  if s.ownsMatrix i then { z with vec := { z.vec with accov := (dwordBy rd 0x3C0).extractLsb' 0 2 } } else z

section
variable (u : State) (i : Nat) (ls : List (Nat × Word))

/-- R365: the bytes that `readRecord` reads. -/
def State.readBack : Nat → Byte := (chargeRecord u i ls).recordByte ls ((chargeRecord u i ls).slot i).tr.saveva.toNat

/-- R365: the state with the slot restored, its partition apart. -/
def State.readState : State :=
  let v := chargeRecord u i ls
  let t := v.modSlot i fun x => x.fromRecord v (u.readBack i ls)
  if v.ownsMatrix i then t.putAccov i ((dwordBy (u.readBack i ls) 0x3C0).extractLsb' 0 2) else t

theorem readRecord_eq : readRecord u i ls =
    let v := chargeRecord u i ls
    if (v.slot i).tr.savepart then (u.readState i ls).modTile (tileOf i) fun tl =>
      { tl with sram := tl.sram.putBytes ((v.slot i).id.base * 4096)
                  ((List.range ((v.slot i).id.size * 4096)).map fun k => u.readBack i ls (0x8000 + k)) }
    else u.readState i ls := rfl

theorem readState_slot : (u.readState i ls).slot i = (chargeRecord u i ls).restoredSlot i (u.readBack i ls) := by
  unfold State.readState State.restoredSlot
  dsimp only
  split
  · rw [putAccov_slot, slot_modSlot_self]
  · rw [slot_modSlot_self]

theorem readRecord_slot : (readRecord u i ls).slot i = (chargeRecord u i ls).restoredSlot i (u.readBack i ls) := by
  rw [readRecord_eq]
  dsimp only
  split
  · exact readState_slot u i ls
  · exact readState_slot u i ls

/-- R365: the partition, where PART asks for it. -/
theorem readRecord_part (hp : ((chargeRecord u i ls).slot i).tr.savepart = true) {j : Nat}
    (hj : j < ((chargeRecord u i ls).slot i).id.size * 4096) :
    ((readRecord u i ls).tile (tileOf i)).sram.byte (((chargeRecord u i ls).slot i).id.base * 4096 + j) = u.readBack i ls (0x8000 + j) := by
  rw [readRecord_eq]
  dsimp only
  rw [if_pos hp, tile_modTile_self]
  dsimp only
  rw [mem_byte_putBytes, List.length_map, List.length_range, if_pos (by omega), Nat.add_sub_cancel_left, list_getD_map_range _ _ hj]

/-- R253: ACCOV goes into the accumulators that hold the running context. -/
theorem readRecord_ov (ho : (chargeRecord u i ls).ownsMatrix i = true) {n : Nat} (hn : n < 2) :
    (((readRecord u i ls).tile (tileOf i)).acc n).ov =
      if (((chargeRecord u i ls).tile (tileOf i)).acc n).tag = ((chargeRecord u i ls).tile (tileOf i)).ctag then
        (dwordBy (u.readBack i ls) 0x3C0).getLsbD n
      else (((chargeRecord u i ls).tile (tileOf i)).acc n).ov := by
  have hacc : ((readRecord u i ls).tile (tileOf i)).acc n = ((u.readState i ls).tile (tileOf i)).acc n := by
    rw [readRecord_eq]
    dsimp only
    split
    · rw [tile_modTile_self]; rfl
    · rfl
  rw [hacc]
  unfold State.readState
  dsimp only
  rw [if_pos ho, putAccov_ov _ _ _ hn, modSlot_tile]
  refine if_congr Iff.rfl ?_ rfl
  rw [BitVec.getLsbD_extractLsb']
  simp [hn]

end

/-! ## The slot restored -/

theorem restorePort_congr (h : ∀ n c, v.chan? n c = s.chan? n c) (p : Port) (d0 d1 : Word) : restorePort v p d0 d1 = restorePort s p d0 d1 := by
  unfold restorePort
  rw [h]

theorem fromRecord_congr (h : ∀ n c, v.chan? n c = s.chan? n c) (x : Slot) (rd : Nat → Byte) : x.fromRecord v rd = x.fromRecord s rd := by
  unfold Slot.fromRecord
  simp only [restorePort_congr h]

/-- R364: the record of a slot that has begun a restore is read where and as the slot stood. -/
theorem restore_same (hw : Walked (s.saveBegun part 2) v) (ht : ∀ l ∈ ls, leafTarget l.2 ≤ 11) :
    v.slot s.cur = (s.saveBegun part 2).slot s.cur ∧ (∀ n c, v.chan? n c = s.chan? n c) ∧ v.tiles = s.tiles ∧
      v.recordByte ls (v.slot s.cur).tr.saveva.toNat = s.recordByte ls s.me.tr.saveva.toNat := by
  have hslot : v.slot s.cur = (s.saveBegun part 2).slot s.cur := slot_congr hw.slots _
  have hb : SameDram s (s.saveBegun part 2) := ⟨rfl, rfl, rfl⟩
  refine ⟨hslot, hw.chan?, hw.tiles, funext fun o => ?_⟩
  unfold State.recordByte
  rw [hw.sameDram.loadLeaf ht, hb.loadLeaf ht, hslot, saveBegun_slot]

/-- R365: SAVECTL stands apart from what a record gives. -/
theorem fromRecord_savectl (x : Slot) (s : State) (rd : Nat → Byte) (op : Nat) (part : Bool) :
    Slot.fromRecord { x with tr := { x.tr with saveop := op, savepart := part, savewant := none } } s rd =
      { x.fromRecord s rd with tr := { (x.fromRecord s rd).tr with saveop := op, savepart := part, savewant := none } } := by
  simp only [Slot.fromRecord]
  rfl

section
variable (h : savePages (s.saveBegun part 2) s.cur ((s.saveBegun part 2).slot s.cur).id false
    ((s.saveBegun part 2).slot s.cur).saveVpns [] = (.ok ls, u)) (ht : ∀ l ∈ ls, leafTarget l.2 ≤ 11)
include h ht

theorem restore_readBack : u.readBack s.cur ls = s.recordByte ls s.me.tr.saveva.toNat :=
  (restore_same ((savePages_ok h).1.trans (.chargeRecord u s.cur ls)) ht).2.2.2

/-- R253, R364: a restored slot has what its record holds; ACCOV too, where it owns the unit. -/
theorem restore_slot :
    let rd := s.recordByte ls s.me.tr.saveva.toNat
    ∃ z a, HoldsRecord s s.me z rd ∧ ((readRecord u s.cur ls).saveMoved s.cur).slot s.cur =
        { z with tr := { z.tr with saveop := 3, savest := 0, savewant := none, savepart := part }, vec := { z.vec with accov := a } } ∧
      (s.ownsMatrix s.cur = true → a = (dwordBy rd 0x3C0).extractLsb' 0 2) := by
  intro rd
  have hz := fromRecord_holds s s.me rd
  generalize hzdef : s.me.fromRecord s rd = z at hz
  obtain ⟨hslot, hchan, htiles, hrd⟩ := restore_same ((savePages_ok h).1.trans (.chargeRecord u s.cur ls)) ht
  have hread : ((chargeRecord u s.cur ls).slot s.cur).fromRecord (chargeRecord u s.cur ls) (u.readBack s.cur ls) =
      { z with tr := { z.tr with saveop := 2, savepart := part, savewant := none } } := by
    rw [fromRecord_congr hchan, hslot, restore_readBack h ht, saveBegun_slot]
    rw [← hzdef]
    exact fromRecord_savectl _ _ _ _ _
  have howns : (chargeRecord u s.cur ls).ownsMatrix s.cur = s.ownsMatrix s.cur := by
    unfold State.ownsMatrix
    rw [tile_congr htiles]
  unfold State.saveMoved
  rw [slot_modSlot_self, readRecord_slot]
  unfold State.restoredSlot
  rw [hread, howns, restore_readBack h ht]
  clear hread
  dsimp only
  split
  · exact ⟨z, _, hz, rfl, fun _ => rfl⟩
  · next ho => exact ⟨z, z.vec.accov, hz, rfl, fun hc => absurd hc ho⟩

/-- R253: the accumulators take their bits of ACCOV. -/
theorem restore_ov (ho : s.ownsMatrix s.cur = true) {n : Nat} (hn : n < 2) :
    ((((readRecord u s.cur ls).saveMoved s.cur).tile (tileOf s.cur)).acc n).ov =
      if ((s.tile (tileOf s.cur)).acc n).tag = (s.tile (tileOf s.cur)).ctag then
        (dwordBy (s.recordByte ls s.me.tr.saveva.toNat) 0x3C0).getLsbD n
      else ((s.tile (tileOf s.cur)).acc n).ov := by
  obtain ⟨-, -, htiles, -⟩ := restore_same ((savePages_ok h).1.trans (.chargeRecord u s.cur ls)) ht
  have hov := readRecord_ov u s.cur ls (by unfold State.ownsMatrix at ho ⊢; rw [tile_congr htiles]; exact ho) hn
  rw [tile_congr htiles, restore_readBack h ht] at hov
  exact hov

/-- R365: the partition comes back, where PART asks for it. -/
theorem restore_part (hp : part = true) {j : Nat} (hj : j < s.me.id.size * 4096) :
    (((readRecord u s.cur ls).saveMoved s.cur).tile (tileOf s.cur)).sram.byte (s.me.id.base * 4096 + j) =
      s.recordByte ls s.me.tr.saveva.toNat (0x8000 + j) := by
  obtain ⟨hslot, -, -, -⟩ := restore_same ((savePages_ok h).1.trans (.chargeRecord u s.cur ls)) ht
  rw [saveBegun_slot] at hslot
  have hb := readRecord_part u s.cur ls (by rw [hslot]; exact hp) (j := j) (by rw [hslot]; exact hj)
  rw [hslot, restore_readBack h ht] at hb
  exact hb

end

end

section
/-! PROOFS (O53). Writes of special-purpose registers that are steps of their own, on a slot with nothing unretired or held (R78, R79, R112,
R138, R233, R253, R285, R377, R378). -/

variable {s u : State} {v : Word} {r : Nat}

/-! ## The commit of what a write has logged -/

/-- R187: at the commit point, with no store held and no `exit`, entries that only an unwind would use are dropped. -/
theorem commitSlot_inert {i : Nat} (hc : (u.slot i).committed = true) (he : (u.slot i).gen.heldExit = false)
    (hs : (u.slot i).eng.stores = []) (hi : ∀ h ∈ (u.slot i).eng.hist, h.act.inert = true) :
    commitSlot u i = u.modSlot i fun x => { x with eng := { x.eng with hist := [], stores := [] } } := by
  have hp : (u.slot i).eng.commitPos = none := (commitPos_none _).mpr hc
  have hpass : ∀ h : HistE, passedCommit none h.pos = true := fun _ => rfl
  unfold commitSlot
  dsimp only
  rw [hp, hs, he, foldl_commitHeld_inert _ fun h hh => hi h (List.mem_filter.mp hh).1]
  simp only [List.filter_nil, landStores, Bool.false_and, Bool.false_eq_true, if_false]
  refine congrArg (u.putSlot i) ?_
  have hh : (u.slot i).eng.hist.filter (fun h => !passedCommit none h.pos) = [] :=
    List.filter_eq_nil_iff.mpr fun h _ => by rw [hpass]; decide
  dsimp only
  rw [hs, hh]
  rfl

/-- A slot that holds nothing is as it was when what it holds is dropped. -/
theorem eng_holds_none {e : Eng} (hh : e.hist = []) (hs : e.stores = []) : { e with hist := [], stores := [] } = e := by
  cases e
  cases hh
  cases hs
  rfl

/-- A register write whose wait has ended commits what it logged. -/
theorem sysEvent_commits (h : Idle s) (hw : writeWait s r = none) : sysEvent s r v = .next (commitSlot (writeSys s r v) s.cur) := by
  have hfull : s.me.histFull 1 = false := by
    unfold Slot.histFull
    rw [h.1]
    rfl
  unfold sysEvent
  rw [hw, hfull, Bool.and_false]
  rfl

/-- A register write that changes the slot, and logs what only an unwind would use. -/
theorem sysEvent_becomes {f : Slot → Slot} (h : Idle s) (hw : writeWait s r = none) (hf : writeSys s r v = s.modMe f)
    (hg : (f s.me).gen = s.me.gen) (hl : (f s.me).eng = { s.me.eng with hist := (f s.me).eng.hist })
    (hi : ∀ e ∈ (f s.me).eng.hist, e.act.inert = true) :
    ∃ t, sysEvent s r v = .next t ∧ SlotBecomes s t s.cur { f s.me with eng := s.me.eng } := by
  obtain ⟨hc, hh, hs, he⟩ := h
  have hslot : (s.modMe f).slot s.cur = f s.me := slot_modMe_cur s f
  refine ⟨_, sysEvent_commits ⟨hc, hh, hs, he⟩ hw, ?_⟩
  rw [hf, commitSlot_inert (by rw [hslot]; unfold Slot.committed; rw [hl]; exact hc) (by rw [hslot, hg]; exact he)
    (by rw [hslot, hl]; exact hs) (by rw [hslot]; exact hi)]
  refine ⟨?_, fun j hj => ?_, rfl⟩
  · rw [slot_modSlot_self, hslot, hl]
    exact congrArg (fun e => { f s.me with eng := e }) (eng_holds_none hh hs)
  · rw [slot_modSlot_ne _ _ hj, slot_modMe_ne s f hj]

/-- A register write that leaves the engine and the generator of the slot as they are. -/
theorem sysEvent_keeps (h : Idle s) (hw : writeWait s r = none) (hg : ((writeSys s r v).slot s.cur).gen = s.me.gen)
    (he : ((writeSys s r v).slot s.cur).eng = s.me.eng) :
    ∃ t, sysEvent s r v = .next t ∧ (∀ j, t.slot j = (writeSys s r v).slot j) ∧ t = { writeSys s r v with slots := t.slots } := by
  obtain ⟨hc, hh, hs, hx⟩ := h
  refine ⟨_, sysEvent_commits ⟨hc, hh, hs, hx⟩ hw, ?_⟩
  rw [commitSlot_inert (by unfold Slot.committed; rw [he]; exact hc) (by rw [hg]; exact hx) (by rw [he]; exact hs)
    (by rw [he, hh]; exact fun _ hm => absurd hm List.not_mem_nil)]
  refine ⟨fun j => ?_, rfl⟩
  by_cases hj : j = s.cur
  · subst hj
    rw [slot_modSlot_self, eng_holds_none (by rw [he]; exact hh) (by rw [he]; exact hs)]
  · rw [slot_modSlot_ne _ _ hj]

/-! ## Waits -/

theorem queueBusy_committed {i : Nat} (h : (s.slot i).committed = true) (m : BitVec 3) : s.queueBusy i m = false := by
  obtain ⟨⟨⟨hv, hm⟩, hx⟩, ho⟩ : (((s.slot i).eng.vq = [] ∧ (s.slot i).eng.mq = []) ∧ (s.slot i).eng.xq = []) ∧ (s.slot i).eng.out = [] := by
    simpa [Slot.committed, Eng.idle] using h
  unfold State.queueBusy State.followsAhead Eng.words
  simp [hv, hm, hx, ho]

theorem writeWait_fflags (h : Idle s) : writeWait s 0x008 = none := by
  have hq : awaitWords (!s.queueBusy s.cur 3) = none := by rw [queueBusy_committed h.1]; rfl
  exact hq

theorem writeWait_smap (h : Idle s) : writeWait s 0x010 = none := by
  have hv : s.me.eng.vq.isEmpty = true := by
    have hc := h.1
    unfold Slot.committed Eng.idle at hc
    simp only [Bool.and_eq_true] at hc
    exact hc.1.1.1
  have hq : awaitWords s.me.eng.vq.isEmpty = none := by rw [hv]; rfl
  exact hq

theorem writeWait_accov (h : Idle s) : writeWait s 0x00F = none := by
  have hq : awaitWords s.me.committed = none := by rw [h.1]; rfl
  exact hq

theorem writeWait_win (h : Idle s) {n : Nat} (h1 : 1 ≤ n) (h2 : n ≤ 7) : writeWait s (0x020 + n) = none := by
  unfold writeWait
  dsimp only
  rw [if_neg (by omega), if_pos (by simp; omega), h.1]
  rfl

theorem writeSys_win (s : State) (v : Word) {n : Nat} (h1 : 1 ≤ n) (h2 : n ≤ 7) : writeSys s (0x020 + n) v = s.modMe fun x => writeWin x n v := by
  interval_cases n <;> rfl

/-! ## ACCOV (R253) -/

/-- R253: the tile after a write of ACCOV by the slot that owns the unit. -/
theorem putAccov_tile (s : State) (i : Nat) (v : Word) :
    let tile := s.tile (tileOf i)
    let put (n : Nat) (a : Acc) : Acc := if a.tag = tile.ctag then { a with ov := v.getLsbD n } else a
    (s.putAccov i (v.extractLsb' 0 2)).tile (tileOf i) = { tile with acc0 := put 0 tile.acc0, acc1 := put 1 tile.acc1 } := by
  intro tile put
  have hput : ∀ (n : Nat) (a : Acc), n < 2 → (if tile.inPlace a then { a with ov := (v.extractLsb' 0 2).getLsbD n } else a) = put n a := by
    intro n a hn
    have hbit : (v.extractLsb' 0 2).getLsbD n = v.getLsbD n := by simp [hn]
    rw [hbit]
    exact if_congr beq_iff_eq rfl rfl
  unfold State.putAccov
  rw [modSlot_tile, tile_modTile_self]
  dsimp only
  rw [hput 0 _ (by decide), hput 1 _ (by decide)]

/-! ## CSEGVALID (R111, R112) -/

/-- Segments changed one after another: the others are as they were, and nothing else of the slot is changed. -/
theorem foldl_modSeg (f : Nat → Seg → Seg) (ks : List Nat) (x : Slot) :
    let y := ks.foldl (fun y k => y.modSeg k (f k)) x
    y = { x with segs := y.segs } ∧ ∀ k, k ∉ ks → y.seg k = x.seg k := by
  induction ks generalizing x with
  | nil => exact ⟨rfl, fun _ _ => rfl⟩
  | cons m ks ih =>
    obtain ⟨hy, hk⟩ := ih (x.modSeg m (f m))
    refine ⟨hy, fun k hn => ?_⟩
    rw [List.mem_cons, not_or] at hn
    refine (hk k hn.2).trans ?_
    unfold Slot.seg Slot.modSeg
    exact sparse_get_set_ne _ _ _ hn.1

/-- Segments changed in the same state field. -/
theorem foldl_modSeg_st (g : Nat → SegSt) {ks : List Nat} {k : Nat} (h : k ∈ ks) (x : Slot) :
    ((ks.foldl (fun y k => y.modSeg k fun q => { q with st := g k }) x).seg k).st = g k := by
  induction ks generalizing x with
  | nil => exact absurd h List.not_mem_nil
  | cons m ks ih =>
    rw [List.foldl_cons]
    by_cases hk : k ∈ ks
    · exact ih hk _
    · obtain rfl : k = m := (List.mem_cons.mp h).resolve_right hk
      rw [(foldl_modSeg (fun k q => { q with st := g k }) ks _).2 k hk]
      unfold Slot.seg Slot.modSeg
      rw [sparse_get_set_self]

/-- R112: every segment after a write of CSEGVALID. -/
theorem writeCsegvalid_seg (x : Slot) (v : Word) (k : Nat) : ((writeCsegvalid x v).seg k).st =
    if k < x.codeSegs ∧ (x.seg k).st ≠ .inflight then (if v.getLsbD k then .valid else .invalid) else (x.seg k).st := by
  unfold writeCsegvalid
  dsimp only
  generalize hks : (List.range x.codeSegs).filter (fun k => (x.seg k).st != .inflight &&
    (x.seg k).st != (if v.getLsbD k then .valid else .invalid)) = ks
  have hmem : k ∈ ks ↔ k < x.codeSegs ∧ (x.seg k).st ≠ .inflight ∧ (x.seg k).st ≠ (if v.getLsbD k then .valid else .invalid) := by
    rw [← hks]
    simp
  by_cases hk : k ∈ ks
  · rw [foldl_modSeg_st (fun k => if v.getLsbD k then .valid else .invalid) hk]
    obtain ⟨h1, h2, -⟩ := hmem.mp hk
    exact (if_pos ⟨h1, h2⟩).symm
  · rw [(foldl_modSeg (fun k q => { q with st := if v.getLsbD k then .valid else .invalid }) ks _).2 k hk]
    change (x.seg k).st = _
    split
    · next h => exact not_not.mp fun hne => hk (hmem.mpr ⟨h.1, h.2, hne⟩)
    · rfl

/-- R111, R112: a write of CSEGVALID changes segments, and logs one entry. -/
theorem writeCsegvalid_rest (x : Slot) (v : Word) : ∃ l, writeCsegvalid x v = { x.log (.segs l) with segs := (writeCsegvalid x v).segs } :=
  ⟨_, (foldl_modSeg (fun k q => { q with st := if v.getLsbD k then .valid else .invalid }) _ _).1⟩

/-! ## WINTAB (R377, R378) -/

/-- Where no network stands, no channel is severed. -/
theorem severAdmitted_none (h : s.nets = []) (e : Word) : severAdmitted s e = s := by
  unfold severAdmitted
  rw [h]
  rfl

/-- R377, R378: the entry that WINTAB has after a write, where no network stands. -/
theorem writeWintab_eq (h : s.nets = []) (v : Word) :
    let old := Sparse.get 0 s.die.wintab s.selWindow
    let new := v &&& 0x00001FFFFFFFFFFF
    let down (e : Word) : Bool := e.extractLsb' 1 2 == 2#2
    let barred : Bool := new.extractLsb' 1 2 == 0#2 ||
      (!(s.slot Config.controlSlot).id.world && (down new || (down old && old.getLsbD 0)))
    writeWintab s v = { s with die := { s.die with wintab := (writeWintab s v).die.wintab } } ∧
      ∀ j, Sparse.get 0 (writeWintab s v).die.wintab j =
        if j = s.selWindow ∧ barred = false then new else Sparse.get 0 s.die.wintab j := by
  intro old new down barred
  unfold writeWintab
  dsimp only
  rw [severAdmitted_none h]
  split
  · next h0 => exact ⟨rfl, fun j => (if_neg fun hb => absurd hb.2 (by simp only [barred, new, h0, Bool.true_or]; decide)).symm⟩
  · next h0 =>
    split
    · next h1 => exact ⟨rfl, fun j => (if_neg fun hb => absurd hb.2 (by simp only [barred, new, old, down, h1, Bool.or_true]; decide)).symm⟩
    · next h1 =>
      have hb : barred = false := by
        simp only [barred, Bool.or_eq_false_iff]
        exact ⟨Bool.eq_false_iff.mpr h0, Bool.eq_false_iff.mpr h1⟩
      split
      · next hn =>
        refine ⟨rfl, fun j => ?_⟩
        split
        · next hj => rw [hj.1]; exact hn.symm
        · rfl
      · refine ⟨rfl, fun j => ?_⟩
        dsimp only
        rw [sparse_get_set]
        exact if_congr ⟨fun hj => ⟨hj, hb⟩, And.left⟩ rfl rfl

/-! ## The writes -/

/-- R79: FFLAGS takes its five bits. -/
theorem fflagsWrite_becomes (h : Idle s) : ∃ t, execFflagsWrite v s = .next t ∧
    SlotBecomes s t s.cur { s.me with vec := { s.me.vec with fflags := v.extractLsb' 0 5 } } := by
  have hlog : (writeFflags s.me v).eng.hist = s.me.eng.hist ++ [⟨s.me.gen.icnt, .fflags s.me.vec.fflags⟩] := rfl
  exact sysEvent_becomes (f := fun x => writeFflags x v) h (writeWait_fflags h) rfl rfl rfl (by rw [hlog, h.2.1]; simp [Held.inert])

/-- R138: STREAMMAP takes its fields. -/
theorem streammapWrite_becomes (h : Idle s) : ∃ t, execStreammapWrite v s = .next t ∧
    SlotBecomes s t s.cur { s.me with vec := { s.me.vec with smap := v &&& 0x8F8F8F8F8F8F8F8F } } := by
  have hlog : (writeStreammap s.me v).eng.hist = s.me.eng.hist ++ [⟨s.me.gen.icnt, .smap s.me.vec.smap⟩] := rfl
  exact sysEvent_becomes (f := fun x => writeStreammap x v) h (writeWait_smap h) rfl rfl rfl (by rw [hlog, h.2.1]; simp [Held.inert])

/-- R232, R233: a window register takes its fields, EN cleared where the window is not well formed. -/
theorem winWrite_becomes (h : Idle s) {n : Nat} (h1 : 1 ≤ n) (h2 : n ≤ 7) : ∃ t, execWinWrite n v s = .next t ∧
    SlotBecomes s t s.cur { s.me with vec := { s.me.vec with win := Sparse.set 0 s.me.vec.win n (winStored (s.me.id.size * 4096) v) } } := by
  have hlog : (writeWin s.me n v).eng.hist = s.me.eng.hist := rfl
  obtain ⟨t, ht, hb⟩ := sysEvent_becomes (f := fun x => writeWin x n v) h (writeWait_win h h1 h2) (writeSys_win s v h1 h2) rfl rfl
    (by rw [hlog, h.2.1]; exact fun _ hm => absurd hm List.not_mem_nil)
  exact ⟨t, (if_pos ⟨h1, h2⟩).trans ht, hb⟩

/-- R112: CSEGVALID sets the state of every segment that is not in flight. -/
theorem csegvalidWrite_becomes (h : Idle s) : ∃ t, execCsegvalidWrite v s = .next t ∧
    SlotBecomes s t s.cur { s.me with segs := (writeCsegvalid s.me v).segs } := by
  obtain ⟨l, hl⟩ := writeCsegvalid_rest s.me v
  have hlog : (writeCsegvalid s.me v).eng = { s.me.eng with hist := s.me.eng.hist ++ [⟨s.me.gen.icnt, .segs l⟩] } := by rw [hl]; rfl
  obtain ⟨t, ht, hb⟩ := sysEvent_becomes (f := fun x => writeCsegvalid x v) (r := 0x006) (v := v) h rfl rfl (by rw [hl]; rfl)
    (by rw [hlog]) (by rw [hlog, h.2.1]; simp [Held.inert])
  refine ⟨t, ht, ?_⟩
  rw [hl] at hb
  exact hb

/-- R253: ACCOV of the slot that owns the unit goes into the slot, and into the accumulators that hold the running context. -/
theorem accovWrite_puts (h : Idle s) (ho : s.ownsMatrix s.cur = true) : ∃ t, execAccovWrite v s = .next t ∧
    (∀ j, t.slot j = (s.putAccov s.cur (v.extractLsb' 0 2)).slot j) ∧
    t = { s with slots := t.slots, tiles := (s.putAccov s.cur (v.extractLsb' 0 2)).tiles } := by
  have hw : writeSys s 0x00F v = s.putAccov s.cur (v.extractLsb' 0 2) := if_pos ho
  obtain ⟨t, ht, hs, hr⟩ := sysEvent_keeps h (writeWait_accov h) (v := v) (by rw [hw, putAccov_slot]; rfl) (by rw [hw, putAccov_slot]; rfl)
  rw [hw] at hs hr
  exact ⟨t, ht, hs, by rw [hr, putAccov_eq]⟩

/-- R285: the bucket that TBCFG names takes its fields, TOK the effective BURST. -/
theorem tbcfgWrite_puts (h : Idle s) {k : Nat} (hk : s.selBucket = some k) :
    let b : Bucket := { rate := v.extractLsb' 0 24, burst := v.extractLsb' 24 24, en := v.getLsbD 63 }
    ∃ t, execTbcfgWrite v s = .next t ∧ (∀ j, t.slot j = s.slot j) ∧
      t = { s with slots := t.slots, buckets := Sparse.set {} s.buckets k { b with tok := b.depth } } := by
  intro b
  have hw : writeSys s 0x104 v = { s with buckets := Sparse.set {} s.buckets k { b with tok := b.depth } } := by
    change writeTbcfg s v = _
    unfold writeTbcfg
    rw [hk]
  obtain ⟨t, ht, hs, hr⟩ := sysEvent_keeps h (r := 0x104) (v := v) rfl (by rw [hw]; rfl) (by rw [hw]; rfl)
  rw [hw] at hs hr
  exact ⟨t, ht, hs, hr⟩

/-- R377, R378: WINTAB alone is written, where no network stands. -/
theorem wintabWrite_puts (h : Idle s) (hn : s.nets = []) : ∃ t, execWintabWrite v s = .next t ∧ (∀ j, t.slot j = s.slot j) ∧
    t = { s with slots := t.slots, die := { s.die with wintab := (writeWintab s v).die.wintab } } := by
  have hw : writeSys s 0x10D v = { s with die := { s.die with wintab := (writeWintab s v).die.wintab } } := (writeWintab_eq hn v).1
  obtain ⟨t, ht, hs, hr⟩ := sysEvent_keeps h (r := 0x10D) (v := v) rfl (by rw [hw]; rfl) (by rw [hw]; rfl)
  rw [hw] at hs hr
  exact ⟨t, ht, hs, hr⟩

end

section
/-! PROOFS (O53). The statement about saves, restores and register writes. -/

/-- Settles O53: a save and a restore from what the pieces of the record read as, the writes from what each leaves of the slot. -/
theorem saveAndRegisterEvents : Obligations.SaveAndRegisterEvents := by
  refine ⟨fun s part ls u => ⟨fun h0 hg => ⟨fun h => ?save, fun h ht => ?restore⟩, savectlDone_ends⟩, ?writes⟩
  case save =>
    have hrun := startSave_ok (s := s) (part := part) (.inl rfl) (fun _ => hg) h
    rw [if_pos rfl] at hrun
    refine ⟨_, ⟨(if_neg (not_not_intro h0)).trans (congrArg _ hrun), saveMoved_becomes _ _⟩, fun hv hf ha => ?_⟩
    have hl : LeavesApart ls := ⟨hf, ha⟩
    refine ⟨fun o ds k j hm hk hj => save_layout h hv hl hm hk hj, fun k d j hk hd hj => ?_,
      fun n j hn hj => save_vreg h hv hl hn hj, fun hp j hj => save_part h hv hl hp hj⟩
    have hd := save_port h hv hl hk hd hj
    rw [portRecord_eq_dwords] at hd
    exact hd
  case restore =>
    have hrun := startSave_ok (s := s) (part := part) (.inr rfl) (fun h => absurd h (by decide)) h
    rw [if_neg (by decide)] at hrun
    refine ⟨_, ⟨(if_neg (not_not_intro h0)).trans (congrArg _ hrun), saveMoved_becomes _ _⟩, ?_⟩
    obtain ⟨z, a, hz, hy, ha⟩ := restore_slot h ht
    have hbyte : ∀ o, loadLeaf s ls (s.me.tr.saveva.toNat + o) = s.recordByte ls s.me.tr.saveva.toNat o := fun _ => rfl
    have hov := fun ho n => restore_ov h ht ho (n := n)
    have hpart := fun hp j => restore_part h ht hp (j := j)
    simp only [hbyte]
    generalize s.recordByte ls s.me.tr.saveva.toNat = rd at *
    have hdword : ∀ o, BitVec.ofNat 64 (leNat ((List.range 8).map fun j => rd (o + j))) = dwordBy rd o := fun _ => rfl
    simp only [hdword]
    obtain ⟨hid, hgen, heng, hsb, htr, heseq, hg, hridx, hengine, ⟨hfl, hfc, hvl, hsm, heos, hcw, hsd⟩, hseg, hmask, hlane, hport, hwin⟩ := hz
    rw [hy]
    refine ⟨hid, hgen, heng, hsb, by dsimp only; rw [htr], heseq, hg, hridx, hengine, hfl, hfc, hvl, hsm, heos, hcw, hsd, hseg, hmask,
      hlane, fun k c hk hb hc => ?_, hwin, fun ho => ⟨ha ho, hov ho⟩, hpart⟩
    have hp := restorePort_bound (s := s) (dwordBy rd (0x400 + 16 * k)) (dwordBy rd (0x408 + 16 * k)) hb hc
    rw [← hport k hk] at hp
    exact hp
  case writes =>
    intro s v h
    refine ⟨fflagsWrite_becomes h, streammapWrite_becomes h, fun n h1 h2 => winWrite_becomes h h1 h2, ?csegvalid, fun ho => ?accov,
      fun k hk => ?tbcfg, fun hn => ?wintab⟩
    case csegvalid =>
      obtain ⟨t, ht, hb⟩ := csegvalidWrite_becomes (v := v) h
      exact ⟨t, _, ht, hb, rfl, fun k => writeCsegvalid_seg s.me v k⟩
    case accov =>
      obtain ⟨t, ht, hs, hr⟩ := accovWrite_puts (v := v) h ho
      have htile : ∀ k, t.tile k = (s.putAccov s.cur (v.extractLsb' 0 2)).tile k := tile_congr (by rw [hr])
      refine ⟨t, ht, (htile _).trans (putAccov_tile s s.cur v), fun k hk => ?_, (hs _).trans (putAccov_slot _), fun j hj => ?_, ?_⟩
      · rw [htile]
        unfold State.putAccov
        rw [modSlot_tile, tile_modTile_ne _ _ hk]
      · rw [hs, putAccov_slot_ne _ hj]
      · rw [hr]
    case tbcfg =>
      obtain ⟨t, ht, hs, hr⟩ := tbcfgWrite_puts (v := v) h hk
      refine ⟨t, ht, fun j => ?_, hs, by rw [hr]⟩
      rw [show t.buckets = _ from congrArg State.buckets hr]
      exact sparse_get_set _ _ _ _ _
    case wintab =>
      obtain ⟨t, ht, hs, hr⟩ := wintabWrite_puts (v := v) h hn
      refine ⟨t, ht, fun j => ?_, hs, by rw [hr]⟩
      rw [show t.die.wintab = _ from congrArg (fun u : State => u.die.wintab) hr]
      exact (writeWintab_eq hn v).2 j

end

end Sys2Proof.Machine
end

section
/-! PROOFS of the generator's statements: the integer instructions (O1-O4), branches and jumps (O11, O12), loads, stores and the store buffer
(O6, O7, O8, O10), code overlay (O13, O48), and the machine at power-on (O59). -/

namespace Sys2Proof.Machine

-- One proof at a time, as in the sections before.
set_option Elab.async false

section
/-! PROOFS (O59). The machine right after power-on: one slot is listed, the control tile's. -/

/-- Log 7: the control tile's slot is the one listed. -/
theorem reset_slot_control : State.reset.slot Config.controlSlot = controlSlotReset :=
  show (if Config.controlSlot = Config.controlSlot then controlSlotReset else {}) = controlSlotReset from if_pos rfl

/-- R101: no other slot is listed. -/
theorem reset_slot_ne {j : Nat} (h : j ≠ Config.controlSlot) : State.reset.slot j = {} := if_neg (Ne.symm h)

/-- A register of an empty bank. -/
theorem bank_empty_readG (r : Nat) : ({} : Bank).readG r = 0 := by
  unfold Bank.readG
  split
  · rfl
  · rfl

theorem bank_empty_readE (q : Queue) (r : Nat) : ({} : Bank).readE q r = 0 := by
  cases q
  · rfl
  · rfl
  · rfl

/-- R250: an accumulator of a tile that is not listed. -/
theorem tile_empty_acc (n : Nat) : ({} : Tile).acc n = {} := by
  unfold Tile.acc
  split
  · rfl
  · rfl

/-- Settles O59: table by table; what is not listed reads as its default, and of the slots only the control tile's is. -/
theorem resetState : Obligations.ResetState := by
  unfold Obligations.ResetState
  intro s c
  have hc : c = controlSlotReset := reset_slot_control
  refine ⟨fun _ => reset_slot_ne, ?control, fun k => ⟨rfl, fun n => ?acc⟩, fun _ => ⟨rfl, rfl, rfl⟩, fun _ => rfl, rfl, fun _ => rfl,
    rfl, rfl, rfl, rfl, fun _ => ⟨rfl, rfl, rfl⟩, rfl, memOk_reset⟩
  case control =>
    rw [hc]
    exact ⟨rfl, rfl, bank_empty_readG, fun _ => rfl, bank_empty_readE, fun _ => rfl, rfl, rfl, rfl, rfl, rfl, rfl⟩
  case acc =>
    rw [show (s.tile k).acc n = {} from tile_empty_acc n]
    exact ⟨rfl, rfl, fun _ => rfl⟩

end

section
/-! PROOFS (O1, O2). Two-source instructions (R120, R82): what each computes, in terms of numbers. -/

variable {s : State}

/-! ## Comparisons and shifts -/

/-- R120: the shift count is in the six low bits. -/
theorem shiftCount (y : Word) : y.toNat % 64 = (y.extractLsb' 0 6).toNat := by
  rw [BitVec.extractLsb'_toNat, Nat.shiftRight_zero]

theorem boolWord_slt (x y : Word) : boolWord (x.slt y) = if x.toInt < y.toInt then 1 else 0 := by
  simp [boolWord, BitVec.slt]

theorem boolWord_ult (x y : Word) : boolWord (x.ult y) = if x.toNat < y.toNat then 1 else 0 := by
  simp [boolWord, BitVec.ult]

/-- R120: the lesser of two, and the other one; of equals either. -/
theorem ite_slt_le (x y : Word) :
    (if x.slt y then x else y) = (if x.toInt ≤ y.toInt then x else y) ∧ (if x.slt y then y else x) = if x.toInt ≤ y.toInt then y else x := by
  simp only [BitVec.slt_iff_toInt_lt]
  by_cases h : x.toInt = y.toInt
  · simp [BitVec.eq_of_toInt_eq h]
  · simp only [show x.toInt < y.toInt ↔ x.toInt ≤ y.toInt by omega, and_self]

theorem ite_ult_le (x y : Word) :
    (if x.ult y then x else y) = (if x.toNat ≤ y.toNat then x else y) ∧ (if x.ult y then y else x) = if x.toNat ≤ y.toNat then y else x := by
  simp only [BitVec.ult_iff_toNat_lt]
  by_cases h : x.toNat = y.toNat
  · simp [BitVec.eq_of_toNat_eq h]
  · simp only [show x.toNat < y.toNat ↔ x.toNat ≤ y.toNat by omega, and_self]

/-- The product's low half. -/
theorem mul_eq_ofNat (x y : Word) : x * y = BitVec.ofNat 64 (x.toNat * y.toNat) := by
  rw [← BitVec.toNat_inj, BitVec.toNat_mul, BitVec.toNat_ofNat]

/-- R120: an instruction over the frame of two sources completes with the word that its function gives for them. -/
theorem completes_of_genBin {d a b : Opnd} {i : Instr} {f : Word → Word → Word} {v : Word} (h : OperandsOk s [a, b] (some d))
    (hi : exec i s = genBin s d a b f) (hv : f (srcVal s [a, b] 0) (srcVal s [a, b] 1) = v) :
    Completes (exec i s) s [a, b] d v (s.pc + 4) := by
  rw [hi, ← hv]
  exact genBin_completes h f

/-- Settles O1: instruction by instruction, the function of the shared frame is the one that R120 gives. -/
theorem binaryResults : Obligations.BinaryResults := by
  unfold Obligations.BinaryResults
  intro s d a b h x y sh done
  have hsh : y.toNat % 64 = sh := shiftCount y
  exact ⟨completes_of_genBin h (exec_add ..) rfl, completes_of_genBin h (exec_sub ..) rfl, completes_of_genBin h (exec_and ..) rfl,
    completes_of_genBin h (exec_or ..) rfl, completes_of_genBin h (exec_xor ..) rfl, completes_of_genBin h (exec_andn ..) rfl,
    completes_of_genBin h (exec_sll ..) (congrArg (x <<< ·) hsh), completes_of_genBin h (exec_srl ..) (congrArg (x >>> ·) hsh),
    completes_of_genBin h (exec_sra ..) (congrArg x.sshiftRight hsh), completes_of_genBin h (exec_slt ..) (boolWord_slt x y),
    completes_of_genBin h (exec_sltu ..) (boolWord_ult x y), completes_of_genBin h (exec_min ..) (ite_slt_le x y).1,
    completes_of_genBin h (exec_max ..) (ite_slt_le x y).2, completes_of_genBin h (exec_minu ..) (ite_ult_le x y).1,
    completes_of_genBin h (exec_maxu ..) (ite_ult_le x y).2, completes_of_genBin h (exec_mul ..) (mul_eq_ofNat x y),
    completes_of_genBin h (exec_mulh ..) rfl, completes_of_genBin h (exec_mulhu ..) rfl⟩

/-! ## Quotients and remainders (R82) -/

/-- R82: a signed quotient and its remainder, which is less than the divisor and has the dividend's sign. -/
theorem tdiv_tmod_spec {x y : Int} (h : y ≠ 0) :
    x = x.tdiv y * y + x.tmod y ∧ (x.tmod y).natAbs < y.natAbs ∧ (x.tmod y = 0 ∨ (x.tmod y < 0 ↔ x < 0)) := by
  have hlt : (x.tmod y).natAbs < y.natAbs := by
    rw [Int.natAbs_tmod]
    exact Nat.mod_lt _ (Int.natAbs_pos.mpr h)
  refine ⟨by rw [Int.mul_comm]; exact (Int.mul_tdiv_add_tmod x y).symm, hlt, ?_⟩
  by_cases hx : 0 ≤ x
  · have := Int.tmod_nonneg y hx
    omega
  · have := Int.tmod_nonneg y (show 0 ≤ -x by omega)
    rw [Int.neg_tmod] at this
    omega

/-- Settles O2: by zero, at the overflow, and otherwise, from the truncating division of integers and that of naturals. -/
theorem divisionResults : Obligations.DivisionResults := by
  unfold Obligations.DivisionResults
  intro s d a b h x y done
  refine ⟨fun hy => ?zero, fun hx hy => ?overflow, fun hy => ?signed, fun hy => ?unsigned⟩
  case zero =>
    exact ⟨completes_of_genBin h (exec_div ..) (if_pos hy), completes_of_genBin h (exec_divu ..) (if_pos hy),
      completes_of_genBin h (exec_rem ..) (if_pos hy), completes_of_genBin h (exec_remu ..) (if_pos hy)⟩
  case overflow =>
    have hdiv : divS x y = BitVec.intMin 64 := by rw [hx, hy]; rfl
    have hrem : remS x y = 0 := by rw [hx, hy]; rfl
    exact ⟨completes_of_genBin h (exec_div ..) hdiv, completes_of_genBin h (exec_rem ..) hrem⟩
  case signed =>
    have hy0 : y.toInt ≠ 0 := fun h0 => hy (BitVec.eq_of_toInt_eq h0)
    obtain ⟨heq, hlt, hsign⟩ := tdiv_tmod_spec (x := x.toInt) hy0
    exact ⟨_, _, heq, hlt, hsign, completes_of_genBin h (exec_div ..) (if_neg hy),
      completes_of_genBin h (exec_rem ..) (if_neg hy)⟩
  case unsigned =>
    have hpos : 0 < y.toNat := Nat.pos_of_ne_zero fun h0 => hy (BitVec.eq_of_toNat_eq h0)
    have hdiv : divU x y = BitVec.ofNat 64 (x.toNat / y.toNat) := by
      rw [divU, if_neg hy, ← BitVec.toNat_udiv, BitVec.ofNat_toNat, BitVec.setWidth_eq]
    have hrem : remU x y = BitVec.ofNat 64 (x.toNat % y.toNat) := by
      rw [remU, if_neg hy, ← BitVec.toNat_umod, BitVec.ofNat_toNat, BitVec.setWidth_eq]
    exact ⟨_, _, (Nat.div_add_mod' _ _).symm, Nat.mod_lt _ hpos, completes_of_genBin h (exec_divu ..) hdiv,
      completes_of_genBin h (exec_remu ..) hrem⟩

end

section
/-! PROOFS (O3, O4). One-source instructions and immediates (R10, R120-R122). -/

variable {s : State}

/-- R120: an instruction over the frame of one source completes with the word that its function gives for it. -/
theorem completes_of_genUn {d a : Opnd} {i : Instr} {f : Word → Word} {v : Word} (h : OperandsOk s [a] (some d))
    (hi : exec i s = genUn s d a f) (hv : f (srcVal s [a] 0) = v) : Completes (exec i s) s [a] d v (s.pc + 4) := by
  rw [hi, ← hv]
  exact genUn_completes h f

/-! ## Counts -/

/-- The length of a number whose top bit is known. -/
theorem bitLen_eq {m k : Nat} (hi : ∀ j, k ≤ j → m.testBit j = false) (lo : 0 < k → m.testBit (k - 1) = true) : bitLen m = k := by
  have hlt : m < 2 ^ k := Nat.lt_pow_two_of_testBit m hi
  unfold bitLen
  cases k with
  | zero => rw [if_pos (by omega)]
  | succ k =>
    have hge : 2 ^ k ≤ m := Nat.ge_two_pow_of_testBit (lo (Nat.succ_pos k))
    have hm : m ≠ 0 := fun h0 => by
      rw [h0] at hge
      exact absurd hge (Nat.not_le.mpr (Nat.two_pow_pos k))
    rw [if_neg hm, (Nat.log2_eq_iff hm).mpr ⟨hge, hlt⟩]

/-- R120: `clz` counts the zero bits above the highest one. -/
theorem clzW_eq (x : Word) {n : Nat} (hn : n ≤ 64) (hz : ∀ k, k < n → x.getLsbD (63 - k) = false)
    (ho : n < 64 → x.getLsbD (63 - n) = true) : clzW x = BitVec.ofNat 64 n := by
  have hlen : bitLen x.toNat = 64 - n := by
    refine bitLen_eq (fun j hj => ?_) fun hpos => ?_
    · rw [BitVec.testBit_toNat]
      by_cases hj64 : j < 64
      · rw [show j = 63 - (63 - j) by omega]
        exact hz _ (by omega)
      · exact BitVec.getLsbD_of_ge x j (by omega)
    · rw [BitVec.testBit_toNat, show 64 - n - 1 = 63 - n by omega]
      exact ho (by omega)
  rw [clzW, hlen, show 64 - (64 - n) = n by omega]

/-- R120: the count of zero bits from bit `k` up, of at most `m` bits. -/
theorem ctzGo_eq (a : Word) {m n k : Nat} (hn : n ≤ m) (hz : ∀ j, j < n → a.getLsbD (k + j) = false)
    (ho : n < m → a.getLsbD (k + n) = true) : ctzGo a m k = k + n := by
  induction n generalizing m k with
  | zero =>
    cases m with
    | zero => rfl
    | succ m => exact if_pos (ho (Nat.succ_pos m))
  | succ n ih =>
    obtain ⟨m, rfl⟩ : ∃ m', m = m' + 1 := ⟨m - 1, by omega⟩
    have h0 : a.getLsbD k = false := hz 0 (Nat.succ_pos n)
    have hstep : ∀ j, k + 1 + j = k + (j + 1) := fun j => by omega
    rw [ctzGo, if_neg (by rw [h0]; exact Bool.false_ne_true), ih (by omega) (fun j hj => ?_) fun h => ?_, hstep]
    · rw [hstep]; exact hz _ (by omega)
    · rw [hstep]; exact ho (by omega)

theorem ctzW_eq (x : Word) {n : Nat} (hn : n ≤ 64) (hz : ∀ k, k < n → x.getLsbD k = false) (ho : n < 64 → x.getLsbD n = true) :
    ctzW x = BitVec.ofNat 64 n := by
  rw [ctzW, ctzGo_eq x hn (fun j hj => by rw [Nat.zero_add]; exact hz j hj) fun h => by rw [Nat.zero_add]; exact ho h, Nat.zero_add]

/-- R10: SEXT. -/
theorem sext_eq {n : Nat} (x : Word) (h : n ≤ 64) : sext n x = (x.extractLsb' 0 n).signExtend 64 := by
  rw [sext, BitVec.setWidth_eq_extractLsb' h]

/-- R10: ZEXT. -/
theorem zext_eq {n : Nat} (x : Word) (h : n ≤ 64) : zext n x = (x.extractLsb' 0 n).zeroExtend 64 := by
  rw [zext, BitVec.setWidth_eq_extractLsb' h]

/-- Settles O3: the counts from the bits that they count, the extensions from the field that they extend. -/
theorem unaryResults : Obligations.UnaryResults := by
  unfold Obligations.UnaryResults
  intro s d a h x done
  exact ⟨fun n hn hz ho => completes_of_genUn h (exec_clz ..) (clzW_eq x hn hz ho),
    fun n hn hz ho => completes_of_genUn h (exec_ctz ..) (ctzW_eq x hn hz ho),
    completes_of_genUn h (exec_popc ..) (congrArg (BitVec.ofNat 64) List.countP_eq_length_filter),
    completes_of_genUn h (exec_sextb ..) (sext_eq x (by decide)), completes_of_genUn h (exec_sexth ..) (sext_eq x (by decide)),
    completes_of_genUn h (exec_sextw ..) (sext_eq x (by decide)), completes_of_genUn h (exec_zextb ..) (zext_eq x (by decide)),
    completes_of_genUn h (exec_zexth ..) (zext_eq x (by decide)), completes_of_genUn h (exec_zextw ..) (zext_eq x (by decide))⟩

/-- Settles O4: instruction by instruction, the function of the shared frame is the one that R121 or R122 gives. -/
theorem immediateResults : Obligations.ImmediateResults := by
  unfold Obligations.ImmediateResults
  refine ⟨fun s d a i h => ?_, fun s d a n h => ?_, fun s d i h => ?_⟩
  · intro x y done
    exact ⟨completes_of_genUn h (exec_addi ..) rfl, completes_of_genUn h (exec_andi ..) rfl, completes_of_genUn h (exec_ori ..) rfl,
      completes_of_genUn h (exec_xori ..) rfl, completes_of_genUn h (exec_slti ..) (boolWord_slt x y),
      completes_of_genUn h (exec_sltiu ..) (boolWord_ult x y)⟩
  · exact ⟨completes_of_genUn h (exec_slli ..) rfl, completes_of_genUn h (exec_srli ..) rfl, completes_of_genUn h (exec_srai ..) rfl⟩
  · rw [exec_lsi, execLsi, exec_addpc, execAddpc]
    exact ⟨genOp_completes h rfl, genOp_completes h rfl⟩

end

section
/-! PROOFS (O11, O12). Branches and jumps (R126-R128). -/

variable {s : State} {srcs : List Opnd}

/-! ## Branches -/

/-- R126: a branch goes where its condition says. -/
theorem branch_goes {a b : Opnd} {o : BitVec 14} {i : Instr} {c : Word → Word → Bool} {p : Prop} (h : OperandsOk s [a, b] none)
    (hi : exec i s = branchOp s a b o c) (hp : c (srcVal s [a, b] 0) (srcVal s [a, b] 1) = true ↔ p) :
    (p → Passes (exec i s) s [a, b] (s.pc + o.signExtend 64 * 4)) ∧ (¬ p → Passes (exec i s) s [a, b] (s.pc + 4)) := by
  rw [hi]
  have hgo : Passes (branchOp s a b o c) s [a, b] (if c (srcVal s [a, b] 0) (srcVal s [a, b] 1) then s.pc + sx14 o * 4 else s.pcNext) :=
    genOp_passes h rfl
  refine ⟨fun ht => ?_, fun hf => ?_⟩
  · rwa [if_pos (hp.mpr ht)] at hgo
  · rwa [if_neg fun ht => hf (hp.mp ht)] at hgo

/-- Settles O11: branch by branch, from what its comparison says of the two values. -/
theorem branchResults : Obligations.BranchResults := by
  unfold Obligations.BranchResults
  intro s a b o h x y goes
  refine ⟨branch_goes h (exec_beq ..) beq_iff_eq, branch_goes h (exec_bne ..) bne_iff_ne,
    branch_goes h (exec_blt ..) BitVec.slt_iff_toInt_lt, branch_goes h (exec_bge ..) ?bge,
    branch_goes h (exec_bltu ..) BitVec.ult_iff_toNat_lt, branch_goes h (exec_bgeu ..) ?bgeu⟩
  case bge =>
    rw [Bool.not_eq_true', ← Bool.not_eq_true, BitVec.slt_iff_toInt_lt]
    exact Int.not_lt
  case bgeu =>
    rw [Bool.not_eq_true', ← Bool.not_eq_true, BitVec.ult_iff_toNat_lt]
    exact Nat.not_lt

/-! ## What stops a jump -/

/-- R44: with its operands in order, a generator instruction whose body waits leaves the slot waiting. -/
theorem genOp_waits {dst : Option Opnd} {k : List Word → State → Body} {w : Wait} (h : OperandsOk s srcs dst)
    (hk : k (takeSrcs s srcs).1 (takeSrcs s srcs).2 = .wait w) : Waits (genOp s srcs dst k) s w := by
  unfold genOp
  rw [h.named]
  simp only [Bool.false_eq_true, if_false, h.checked, h.ready, h.room]
  rw [hk]
  exact waitG_waits s w

/-- R111: with its operands in order, a generator instruction that meets a FAILED segment below level S raises its MEMFAULT. -/
theorem genOp_failed {dst : Option Opnd} {k : List Word → State → Body} {n : Nat} (h : OperandsOk s srcs dst) (hs : s.me.atS = false)
    (hk : k (takeSrcs s srcs).1 (takeSrcs s srcs).2 = .failed n) : TrapsWith (genOp s srcs dst k) s
      { gFault s .memfault s.pc (((s.me.seg n).fva.extractLsb' 0 57).zeroExtend 64) (some (s.me.seg n).fva) with seg := some n } := by
  unfold genOp
  rw [h.named]
  simp only [Bool.false_eq_true, if_false, h.checked, h.ready, h.room]
  rw [hk]
  exact raiseG_traps _ _ _ _ _ hs Cause.noConfusion Cause.noConfusion

/-- R44, R119: with its operands in order, a generator instruction whose body traps, below level S and for no ECCFATAL, traps. -/
theorem genOp_traps {dst : Option Opnd} {k : List Word → State → Body} {c : Cause} {fw : Word} (h : OperandsOk s srcs dst)
    (hs : s.me.atS = false) (he : c ≠ .eccfatal) (hp : c ≠ .preempt)
    (hk : k (takeSrcs s srcs).1 (takeSrcs s srcs).2 = .trap c fw none) : Traps (genOp s srcs dst k) s c fw := by
  rw [genOp_trap h hk]
  exact trapG_traps c fw hs he hp

/-! ## Jumps -/

/-- The low bits of an address that is a multiple of a power of two. -/
theorem low_zero_iff (x : Word) (n : Nat) : x.extractLsb' 0 n = 0 ↔ x.toNat % 2 ^ n = 0 := by
  rw [← BitVec.toNat_inj, BitVec.extractLsb'_toNat, Nat.shiftRight_zero]
  rfl

/-- R127, R128: a jump's target is no multiple of 4, or it is one. -/
theorem misaligned_iff (x : Word) : x.extractLsb' 0 2 ≠ 0 ↔ x.toNat % 4 ≠ 0 := (low_zero_iff x 2).not

/-- R128: what the body of `jmpf` does below level S with a target that is a multiple of 4. -/
def jmpfBody (s t : State) (target : Word) : Body :=
  if s.me.codeSegs * 4096 ≤ target.toNat then .trap .window target none
  else segBody s (target.toNat / 4096) (.ok s.pcNext target t)

theorem execJmpf_below {d a : Opnd} {i : BitVec 14} (hs : s.me.atS = false) (ha : (srcVal s [a] 0 + sx14 i).toNat % 4 = 0) :
    ∃ k, execJmpf d a i s = genOp s [a] (some d) k ∧
      k (takeSrcs s [a]).1 (takeSrcs s [a]).2 = jmpfBody s (taken s [a]) (srcVal s [a] 0 + sx14 i) := by
  refine ⟨_, rfl, ?_⟩
  exact (if_neg fun hm => (misaligned_iff _).mp hm ha).trans (if_neg (by rw [hs]; exact Bool.false_ne_true))

/-- R111, R128: what a jump into segment `k` meets, by the state of the segment. -/
def segMeets (k : Nat) (go : Body) : SegSt → Body
  | .inflight => .wait .segment
  | .invalid => .trap .codemiss (BitVec.ofNat 64 k) none
  | .failed => .failed k
  | .valid => go

theorem segBody_of {k : Nat} {go : Body} {st : SegSt} (h : (s.me.seg k).st = st) : segBody s k go = segMeets k go st := by
  subst h
  unfold segBody segMeets
  cases (s.me.seg k).st
  · rfl
  · rfl
  · rfl
  · rfl

/-- Settles O12: each jump by where its target lies, and `jmpf` below level S by the state of the target's segment. -/
theorem jumpResults : Obligations.JumpResults := by
  unfold Obligations.JumpResults
  refine ⟨⟨fun s d i h => ?jal, fun s d a i h => ?goes⟩, fun s d a i h hs => ?stops⟩
  case jal =>
    rw [exec_jal, execJal]
    exact genOp_completes h rfl
  case goes =>
    intro target ha
    have hal : ¬ target.extractLsb' 0 2 ≠ 0 := fun hm => (misaligned_iff _).mp hm ha
    refine ⟨?_, fun hs hlt hst => ?_, fun hs hlt => ?_⟩
    · rw [exec_jalr, execJalr]
      exact genOp_completes h (if_neg hal)
    · obtain ⟨k, hk, hbody⟩ := execJmpf_below (d := d) hs ha
      rw [exec_jmpf, hk]
      exact genOp_completes h (hbody.trans ((if_neg (Nat.not_le.mpr hlt)).trans (segBody_of hst)))
    · rw [exec_jmpf, execJmpf]
      exact genOp_completes h ((if_neg hal).trans ((if_pos hs).trans (if_neg (Nat.not_le.mpr hlt))))
  case stops =>
    intro target n
    refine ⟨fun hm => ?_, fun ha hout => ?_, fun ha hlt => ?_⟩
    · have hmis := (misaligned_iff target).mpr hm
      rw [exec_jalr, execJalr, exec_jmpf, execJmpf]
      exact ⟨genOp_traps h hs Cause.noConfusion Cause.noConfusion (if_pos hmis),
        genOp_traps h hs Cause.noConfusion Cause.noConfusion (if_pos hmis)⟩
    all_goals
      obtain ⟨k, hk, hbody⟩ := execJmpf_below (d := d) hs ha
      rw [exec_jmpf, hk]
    · exact genOp_traps h hs Cause.noConfusion Cause.noConfusion (hbody.trans (if_pos hout))
    · have hin := hbody.trans (if_neg (Nat.not_le.mpr hlt))
      exact ⟨fun hst => genOp_traps h hs Cause.noConfusion Cause.noConfusion (hin.trans (segBody_of hst)),
        fun hst => genOp_failed h hs (hin.trans (segBody_of hst)), fun hst => genOp_waits h (hin.trans (segBody_of hst))⟩

end


section
/-! PROOFS (O6, O13). What the commit of a held effect leaves alone besides what `Calm` says: every tile, what the slot holds and has queued, and
of its segments the states and the requests, but for those of the positions that the commit point has passed. -/

variable {i : Nat} {P : Nat → Prop} {s t u : State}

/-- R129: a request that is the same `cfetch`'s still; it has been sent only if its position is in `P`. -/
structure SegReq.Follows (P : Nat → Prop) (r q : SegReq) : Prop where
  pos : q.pos = r.pos
  va : q.va = r.va
  sent : r.sent = true → q.sent = true
  unsent : ¬ P r.pos → q.sent = r.sent

theorem SegReq.Follows.refl (r : SegReq) : r.Follows P r := ⟨rfl, rfl, id, fun _ => rfl⟩

theorem SegReq.Follows.trans {r q v : SegReq} (h : r.Follows P q) (k : q.Follows P v) : r.Follows P v where
  pos := k.pos.trans h.pos
  va := k.va.trans h.va
  sent hr := k.sent (h.sent hr)
  unsent hp := (k.unsent (h.pos ▸ hp)).trans (h.unsent hp)

/-- R111: a segment in the same state, with the same requests in the same order. -/
structure Seg.Follows (P : Nat → Prop) (g q : Seg) : Prop where
  st : q.st = g.st
  reqs : List.Forall₂ (SegReq.Follows P) g.reqs q.reqs

theorem Seg.Follows.refl (g : Seg) : g.Follows P g := ⟨rfl, List.forall₂_same.mpr fun r _ => SegReq.Follows.refl r⟩

theorem SegReq.follows_all_trans {l m n : List SegReq} (h : List.Forall₂ (SegReq.Follows P) l m) (k : List.Forall₂ (SegReq.Follows P) m n) :
    List.Forall₂ (SegReq.Follows P) l n := by
  induction h generalizing n with
  | nil => exact k
  | cons hr _ ih =>
    cases k with
    | cons kr kl => exact .cons (hr.trans kr) (ih kl)

theorem Seg.Follows.trans {g q v : Seg} (h : g.Follows P q) (k : q.Follows P v) : g.Follows P v :=
  ⟨k.st.trans h.st, SegReq.follows_all_trans h.reqs k.reqs⟩

/-- A request that stands last does so still. -/
theorem Seg.Follows.last {g q : Seg} {r : SegReq} (h : g.Follows P q) (hr : g.reqs.getLast? = some r) :
    ∃ v, q.reqs.getLast? = some v ∧ r.Follows P v := by
  rw [List.getLast?_eq_head?_reverse] at hr ⊢
  have hrev := List.forall₂_reverse_iff.mpr h.reqs
  generalize g.reqs.reverse = l at hr hrev
  generalize q.reqs.reverse = m at hrev ⊢
  cases hrev with
  | nil => cases hr
  | cons hv _ =>
    cases hr
    exact ⟨_, rfl, hv⟩

/-- From `s` to `t`, with the effects of the positions in `P` committed. -/
structure Tracks (i : Nat) (P : Nat → Prop) (s t : State) : Prop where
  tiles : t.tiles = s.tiles
  eng : (t.slot i).eng = (s.slot i).eng
  seg : ∀ k, ((s.slot i).seg k).Follows P ((t.slot i).seg k)

namespace Tracks

/-! ## The shapes that a meaning is built from -/

theorem of_slot (ht : t.tiles = s.tiles) (he : (t.slot i).eng = (s.slot i).eng) (hs : (t.slot i).segs = (s.slot i).segs) : Tracks i P s t :=
  ⟨ht, he, fun k => by rw [show (t.slot i).seg k = (s.slot i).seg k by unfold Slot.seg; rw [hs]]; exact .refl _⟩

theorem same (hs : t.slots = s.slots := by rfl) (ht : t.tiles = s.tiles := by rfl) : Tracks i P s t := by
  have hi : t.slot i = s.slot i := slot_congr hs i
  exact of_slot ht (by rw [hi]) (by rw [hi])

theorem refl (s : State) : Tracks i P s s := same

theorem trans (h : Tracks i P s t) (k : Tracks i P t u) : Tracks i P s u :=
  ⟨k.tiles.trans h.tiles, k.eng.trans h.eng, fun j => (h.seg j).trans (k.seg j)⟩

theorem foldl {α : Type} {f : State → α → State} (l : List α) (hf : ∀ s, ∀ a ∈ l, Tracks i P s (f s a)) (s : State) :
    Tracks i P s (l.foldl f s) :=
  List.foldlRecOn l f (refl s) fun t h a ha => h.trans (hf t a ha)

theorem ite {p : Prop} [Decidable p] (h : Tracks i P s t) (k : Tracks i P s u) : Tracks i P s (if p then t else u) := by
  split
  · exact h
  · exact k

/-- An update of any slot that leaves alone what it holds, its queues and its segments. -/
theorem modSlot (j : Nat) (f : Slot → Slot) (he : ∀ x, (f x).eng = x.eng := by exact fun _ => rfl)
    (hs : ∀ x, (f x).segs = x.segs := by exact fun _ => rfl) : Tracks i P s (s.modSlot j f) := by
  refine of_slot rfl ?_ ?_
  all_goals
    rw [slot_modSlot]
    split
  · next e => rw [he, e]
  · rfl
  · next e => rw [hs, e]
  · rfl

/-- An update of a segment that its requests follow. -/
theorem modSeg (k : Nat) (f : Seg → Seg) (hf : ((s.slot i).seg k).Follows P (f ((s.slot i).seg k))) :
    Tracks i P s (s.modSlot i fun x => x.modSeg k f) := by
  have hi := slot_modSlot_self s i fun x => x.modSeg k f
  refine ⟨rfl, by rw [hi]; rfl, fun n => ?_⟩
  rw [hi]
  by_cases hn : n = k
  · subst hn
    rw [slot_seg_modSeg_self]
    exact hf
  · rw [slot_seg_modSeg_ne _ _ hn]
    exact .refl _

theorem modPort (j p : Nat) (f : Port → Port) : Tracks i P s (s.modSlot j fun x => x.modPort p f) := modSlot j _

theorem modNet (k : Nat) (f : Net → Net) : Tracks i P s (s.modNet k f) := same

theorem modChan (k c : Nat) (f : Chan → Chan) : Tracks i P s (s.modChan k c f) := same

theorem launchOut (n : Nat) (c : Chan) (k : Pkt) : Tracks i P s (Machine.launchOut s n c k) := same

/-! ## The fabric's side of a commit -/

theorem launch (n : Nat) (c : Chan) (k : Pkt) (r : Bool) : Tracks i P s (launch s n c k r) := ite (launchOut _ _ _) (modChan _ _ _)

theorem launchHere (n : Nat) (c : Chan) (k : Nat → Pkt) : Tracks i P s (launchHere s n c k) := by
  refine foldl _ (fun s r _ => ?_) s
  split
  · exact ite (refl _) (launch _ _ _ _)
  · exact refl _

theorem launchReaders (n : Nat) (c : Chan) (k : Nat → Pkt) : Tracks i P s (launchReaders s n c k) := by
  unfold Machine.launchReaders
  dsimp only
  split
  · exact (launchHere _ _ _).trans (launchOut _ _ _)
  · exact launchHere _ _ _

theorem launchInput (n : Nat) (c : Chan) (lvl j : Nat) (k : Pkt) : Tracks i P s (launchInput s n c lvl j k) :=
  have hout : ∀ (p : Prop) [Decidable p] (k : Pkt), Tracks i P s (if p then Machine.launchOut s n c k else s) := fun _ _ _ =>
    ite (launchOut _ _ _) (refl _)
  ite ((hout _ _).trans (launch _ _ _ _)) (hout _ _)

theorem discardInput (n : Nat) (c : Chan) (g : BitVec 8) (lvl j : Nat) (new : Bool) : Tracks i P s (discardInput s n c g lvl j new) :=
  (modChan _ _ _).trans ((modNet _ _).trans (foldl _ (fun _ _ _ => foldl _ (fun _ _ _ => launch _ _ _ _) _) _))

theorem cutNodes (n : Nat) (c : Chan) : Tracks i P s (cutNodes s n c) :=
  (modChan _ _ _).trans (foldl _ (fun _ _ _ => discardInput _ _ _ _ _ _) _)

theorem dropLegs (n : Nat) (c : Chan) (r : Nat) (e : Ep) (saved : Bool) (st a b : Nat) : Tracks i P s (dropLegs s n c r e saved st a b) :=
  ite ((modChan _ _ _).trans ((modChan _ _ _).trans (foldl _ (fun _ _ _ => launch _ _ _ _) _))) ((modChan _ _ _).trans (modPort _ _ _))

theorem cutReader (n : Nat) (c : Chan) (k r : Nat) : Tracks i P s (cutReader s n c k r) := by
  unfold Machine.cutReader
  split
  · exact refl _
  · exact ite (refl _) (foldl _ (fun _ _ _ => (dropLegs _ _ _ _ _ _ _ _).trans (modNet _ _)) _)

theorem cutEnds (n : Nat) (c : Chan) : Tracks i P s (cutEnds s n c) := by
  refine ite ?_ (cutNodes _ _)
  split
  · exact foldl _ (fun _ _ _ => cutReader _ _ _ _) _
  · exact refl _

theorem endContributor (n : Nat) (c : Chan) (w k : Nat) : Tracks i P s (endContributor s n c w k) := by
  have hcut : ∀ (f : Chan → Chan) (c : Chan), Tracks i P s (Machine.cutEnds (s.modChan n c.chid f) n c) := fun _ _ =>
    (modChan _ _ _).trans (cutEnds _ _)
  exact ite ((hcut _ _).trans (launchHere _ _ _)) (hcut _ _)

theorem commitRead (j p n : Nat) : Tracks i P s (commitRead s j p n) := by
  unfold Machine.commitRead
  dsimp only
  split
  · exact refl _
  · exact (modPort _ _ _).trans (modNet _ _)

theorem transmit (j p : Nat) (d : List Byte) : Tracks i P s (transmit s j p d) := by
  unfold Machine.transmit
  dsimp only
  split
  · refine (modPort j p fun p => { p with seq := p.seq + 1 }).trans (ite (refl _) (ite (modSlot _ _) (ite ?_ ?_)))
    · exact (launchInput _ _ _ _ _).trans (modNet _ _)
    · exact (launchReaders _ _ _).trans (modNet _ _)
  · exact refl _

theorem closePort (j p : Nat) : Tracks i P s (closePort s j p) := by
  refine ite (refl _) ((modPort j p fun p => { p with closed := true }).trans ?_)
  split
  · exact refl _
  · exact ite (ite ((endContributor _ _ _ _).trans (launchOut _ _ _)) (endContributor _ _ _ _)) (launchReaders _ _ _)

theorem checkEnd (k : Nat) : Tracks i P s (checkEnd s k) := by
  unfold Machine.checkEnd
  split
  · exact refl _
  · exact ite ((modNet _ _).trans (modNet _ _)) (refl _)

/-! ## The memory's side of a commit -/

theorem noteFound (j : Nat) (cs : List Conflict) : Tracks i P s (noteFound s j cs) := by
  refine ite (refl _) ?_
  unfold noteConflicts
  split
  · exact refl _
  · exact same

end Tracks

/-- The requests of a segment: those before the last one sent, that one, and those not sent. -/
theorem Seg.reqs_of_queued {g : Seg} {r : SegReq} (h : g.queued = some r) : g.reqs = g.sentRev.tail.reverse ++ [r] ++ g.later := by
  have hsplit : g.later.reverse ++ g.sentRev = g.reqs.reverse := by
    unfold Seg.later Seg.sentRev
    rw [List.reverse_reverse, List.takeWhile_append_dropWhile]
  have hcons : g.sentRev = r :: g.sentRev.tail := List.eq_cons_of_mem_head? h
  rw [← g.reqs.reverse_reverse, ← hsplit, hcons]
  simp

/-- R129: what sending a segment's request does to it: the request has come further, and is no other. -/
theorem Seg.follows_update {g : Seg} {r : SegReq} (h : g.queued = some r) {f : SegReq → SegReq} (hf : r.Follows P (f r)) :
    g.Follows P { g with reqs := g.sentRev.tail.reverse ++ [f r] ++ g.later } := by
  refine ⟨rfl, ?_⟩
  have hrefl : ∀ l : List SegReq, List.Forall₂ (SegReq.Follows P) l l := fun l => List.forall₂_same.mpr fun r _ => .refl r
  rw [Seg.reqs_of_queued h]
  exact List.rel_append (List.rel_append (hrefl _) (.cons hf .nil)) (hrefl _)

/-- Bytes of an image taken leave everything but the free values as it was. -/
theorem Walked.takeImage (s : State) (j : Nat) (l : Word) (view : List (Nat × Byte)) (va n : Nat) : Walked s (takeImage s j l view va n).2 := by
  have hbyte : ∀ (s : State) (far : Option Far) (off : Nat), Walked s (pageByte s far l off).2 := fun s far off => by
    unfold pageByte
    split
    · exact refl _
    · split
      · exact refl _
      · rfl
  unfold Machine.takeImage
  refine List.foldlRecOn _ _ (motive := fun a : List Byte × State => Walked s a.2) rfl fun a h k _ => ?_
  dsimp only
  split
  · exact h
  · exact h.trans (hbyte _ _ _)

theorem pageRequest_slots (s : State) (q : Requester) (vpn : Nat) : (pageRequest s q vpn).slots = s.slots := by
  unfold pageRequest
  dsimp only
  split
  · rfl
  · rfl

theorem pageRequest_tiles (s : State) (q : Requester) (vpn : Nat) : (pageRequest s q vpn).tiles = s.tiles := by
  unfold pageRequest
  dsimp only
  split
  · rfl
  · rfl

namespace Tracks

theorem sendFetch (k : Nat) : Tracks i P s (sendFetch s i k) := by
  unfold Machine.sendFetch
  dsimp only
  split
  · exact refl _
  · next r hr =>
    have hupd : ∀ (t : State) (f : SegReq → SegReq), t.slots = s.slots → t.tiles = s.tiles → r.Follows P (f r) →
        Tracks i P s (t.modSlot i fun x => x.modSeg k fun g => { g with reqs := g.sentRev.tail.reverse ++ [f r] ++ g.later }) :=
      fun t f hs ht hf => (same hs ht).trans (modSeg k _ (Seg.follows_update (by rw [slot_congr hs]; exact hr) hf))
    have ht := Walked.translate s (tileOf i) (s.slot i).id.tenant (s.slot i).id.world (vpnOf r.va.toNat) false false
    refine ite (refl _) ?_
    split
    · next s1 h1 =>
      rw [h1] at ht
      refine hupd _ (fun r => { r with paged := true }) ?_ ?_ ⟨rfl, rfl, id, fun _ => rfl⟩
      · split
        · exact ht.slots
        · exact (pageRequest_slots _ _ _).trans ht.slots
      · split
        · exact ht.tiles
        · exact (pageRequest_tiles _ _ _).trans ht.tiles
    · next kind s1 h1 =>
      rw [h1] at ht
      exact hupd _ (fun r => { r with fail := some kind.code, paged := false }) ht.slots ht.tiles ⟨rfl, rfl, id, fun _ => rfl⟩
    · next l s1 h1 =>
      rw [h1] at ht
      have himg := ht.trans ((Walked.chargeLeaf s1 (s.slot i).id.tenant r.va.toNat 4096 l).trans (.takeImage _ i l r.view r.va.toNat 4096))
      generalize takeImage (chargeLeaf s1 (s.slot i).id.tenant r.va.toNat 4096 l) i l r.view r.va.toNat 4096 = b at himg ⊢
      exact hupd b.2 (fun q => { q with image := some b.1, paged := false }) himg.slots himg.tiles ⟨rfl, rfl, id, fun _ => rfl⟩

/-- R129: a request whose `cfetch` commits. -/
theorem sentAt (h : HistE) (hp : P h.pos) (r : SegReq) : r.Follows P (if r.pos == h.pos then r.committed s i else r) := by
  split
  · next he =>
    have hpos : r.pos = h.pos := beq_iff_eq.mp he
    unfold SegReq.committed
    split
    · exact ⟨rfl, rfl, fun _ => rfl, fun hn => absurd (hpos ▸ hp) hn⟩
    · exact ⟨rfl, rfl, fun _ => rfl, fun hn => absurd (hpos ▸ hp) hn⟩
  · exact .refl r

theorem commitHeld (h : HistE) (hp : P h.pos) : Tracks i P s (commitHeld s i h) := by
  unfold Machine.commitHeld
  split
  · exact commitRead _ _ _
  · exact transmit _ _ _
  · exact closePort _ _
  · refine (modSeg _ _ ⟨rfl, ?_⟩).trans ((noteFound _ _).trans (sendFetch _))
    exact List.forall₂_map_right_iff.mpr (List.forall₂_same.mpr fun r _ => sentAt h hp r)
  all_goals exact refl _

end Tracks

end

section
/-! PROOFS (O6). The store buffer: what a load finds in it, and what the commit point performs of it (R109, R116, R117). -/

variable {s u : State} {i a p : Nat} {W : Nat → Nat → Prop}

/-! ## What a load finds (R117) -/

/-- R117: the youngest held store that covers a byte has it. -/
theorem loadByte_held {older newer : List Store} {h : Store} (hs : (s.slot i).eng.stores = older ++ h :: newer) (hlo : h.addr ≤ a)
    (hhi : a < h.addr + h.data.length) (hn : ∀ g ∈ newer, a < g.addr ∨ g.addr + g.data.length ≤ a) :
    s.loadByte i a = h.data.getD (a - h.addr) 0 := by
  have hnone : newer.reverse.find? (fun h => h.addr ≤ a && a < h.addr + h.data.length) = none :=
    List.find?_eq_none.mpr fun g hg => by
      have := hn g (List.mem_reverse.mp hg)
      simp only [Bool.and_eq_true, decide_eq_true_eq]
      omega
  unfold State.loadByte
  rw [hs, List.reverse_append, List.reverse_cons, List.append_assoc, List.find?_append, hnone, Option.none_or]
  simp [hlo, hhi]

/-- R117: a byte that no held store covers is SRAM's. -/
theorem loadByte_sram (hn : ∀ g ∈ (s.slot i).eng.stores, a < g.addr ∨ g.addr + g.data.length ≤ a) : s.loadByte i a = s.byteAt i a := by
  have hnone : (s.slot i).eng.stores.reverse.find? (fun h => h.addr ≤ a && a < h.addr + h.data.length) = none :=
    List.find?_eq_none.mpr fun g hg => by
      have := hn g (List.mem_reverse.mp hg)
      simp only [Bool.and_eq_true, decide_eq_true_eq]
      omega
  unfold State.loadByte
  rw [hnone]

/-! ## The commit point's two halves -/

/-- R186: the held effects that the commit point has passed. -/
def Eng.dueHist (e : Eng) : List HistE := e.hist.filter fun h => passedCommit e.commitPos h.pos

/-- R116: the held stores that the commit point has passed. -/
def Eng.dueStores (e : Eng) : List Store := e.stores.filter fun h => passedCommit e.commitPos h.pos

/-- A slot that no longer holds what the commit point has passed. -/
def Slot.unheld (x : Slot) : Slot :=
  { x with eng := { x.eng with hist := x.eng.hist.filter fun h => !passedCommit x.eng.commitPos h.pos
                               stores := x.eng.stores.filter fun h => !passedCommit x.eng.commitPos h.pos } }

/-- The state once the commit point has performed the held effects that it has passed, and none of the stores. -/
def effectsDone (s : State) (i : Nat) : State := (s.slot i).eng.dueHist.foldl (fun s h => commitHeld s i h) (s.modSlot i Slot.unheld)

theorem performed_eq (s : State) (i : Nat) : performed s i = landStores (effectsDone s i) i (s.slot i).eng.dueStores := by
  have he : s.modSlot i Slot.unheld = s.modSlot i fun x =>
      { x with eng := { x.eng with hist := x.eng.hist.filter fun h => !passedCommit (s.slot i).eng.commitPos h.pos
                                   stores := x.eng.stores.filter fun h => !passedCommit (s.slot i).eng.commitPos h.pos } } := rfl
  unfold effectsDone
  rw [he]
  rfl

theorem effectsDone_calm (s : State) (i : Nat) (W : Nat → Nat → Prop) : Calm i W s (effectsDone s i) :=
  (calm_modSlot Slot.unheld rfl rfl id rfl rfl rfl rfl rfl).trans (Calm.foldl _ (fun _ h => calm_commitHeld h) _ _)

theorem effectsDone_tracks (s : State) (i : Nat) :
    Tracks i (fun n => passedCommit (s.slot i).eng.commitPos n = true) (s.modSlot i Slot.unheld) (effectsDone s i) :=
  Tracks.foldl _ (fun _ h hh => Tracks.commitHeld h (List.mem_filter.mp hh).2) _

theorem effectsDone_tiles (s : State) (i : Nat) : (effectsDone s i).tiles = s.tiles := (effectsDone_tracks s i).tiles

theorem effectsDone_eng (s : State) (i : Nat) : ((effectsDone s i).slot i).eng = (s.slot i).unheld.eng := by
  rw [(effectsDone_tracks s i).eng, slot_modSlot_self]

/-- No held effect wakes a slot, or makes it wait. -/
theorem effectsDone_gen (s : State) (i j : Nat) : ((effectsDone s i).slot j).gen = (s.slot j).gen :=
  ((Steady.modSlot i Slot.unheld).trans (Steady.foldl (fun _ h => Steady.commitHeld i h) _ _) : Steady j s (effectsDone s i)).gen

theorem effectsDone_eccAt (s : State) (i a n : Nat) : (effectsDone s i).eccAt i a n = s.eccAt i a n := by
  unfold State.eccAt
  rw [(effectsDone_calm s i fun _ _ => False).toKept.phys, tile_congr (effectsDone_tiles s i)]

/-! ## The stores that land -/

/-- Stores performed one after another. -/
def storeAll (s : State) (i : Nat) (l : List Store) : State := l.foldl (fun s h => s.putBytesAt i h.addr h.data) s

theorem storeAll_slot (s : State) (i j : Nat) (l : List Store) : (storeAll s i l).slot j = s.slot j :=
  List.foldlRecOn l _ (motive := fun t : State => t.slot j = s.slot j) rfl fun _ h _ _ => (putBytesAt_slot _ _ _ _).trans h

/-- R116: a store covers a byte of SRAM. -/
def Store.covers (h : Store) (x : Slot) (p : Nat) : Prop := ∃ j < h.data.length, x.phys (h.addr + j) = some p

/-- Stores change nothing but the bytes that they cover. -/
theorem calm_storeAll (s : State) (i : Nat) (l : List Store) (hw : ∀ h ∈ l, ∀ p, h.covers (s.slot i) p → W (tileOf i) p) :
    Calm i W s (storeAll s i l) := by
  induction l generalizing s with
  | nil => exact .refl i W s
  | cons h l ih =>
    refine (calm_putBytesAt h.addr h.data fun j hj p hp => hw h (by simp) p ⟨j, hj, hp⟩).trans (ih _ fun g hg p hp => ?_)
    rw [putBytesAt_slot] at hp
    exact hw g (by simp [hg]) p hp

/-- A byte that no store covers is as it was. -/
theorem storeAll_byte_other (s : State) (i p : Nat) (l : List Store) (hl : ∀ h ∈ l, ¬ h.covers (s.slot i) p) :
    ((storeAll s i l).tile (tileOf i)).sram.byte p = (s.tile (tileOf i)).sram.byte p :=
  (calm_storeAll (W := fun _ q => q ≠ p) s i l fun h hh q hq => by rintro rfl; exact hl h hh hq).toKept.sram _ _ (not_not_intro rfl)

/-- A byte is as the last store that covers it has it. -/
theorem storeAll_byte (s : State) {older newer : List Store} {h : Store} (hp : (s.slot i).phys a = some p) (hlo : h.addr ≤ a)
    (hhi : a < h.addr + h.data.length) (hu : ∀ j < h.data.length, (s.slot i).phys (h.addr + j) = some p → h.addr + j = a)
    (hn : ∀ g ∈ newer, ¬ g.covers (s.slot i) p) :
    ((storeAll s i (older ++ h :: newer)).tile (tileOf i)).sram.byte p = h.data.getD (a - h.addr) 0 := by
  obtain ⟨u, hu0⟩ : ∃ u, u = storeAll s i older := ⟨_, rfl⟩
  have hus : u.slot i = s.slot i := by rw [hu0]; exact storeAll_slot s i i older
  have hsplit : storeAll s i (older ++ h :: newer) = storeAll (u.putBytesAt i h.addr h.data) i newer := by
    rw [hu0]
    exact List.foldl_append
  rw [hsplit, storeAll_byte_other _ i p newer fun g hg => by rw [putBytesAt_slot, hus]; exact hn g hg]
  refine putBytesAt_byte u i h.addr h.data p (a - h.addr) (by omega) ?_ fun k hk hq => ?_
  · rw [hus, show h.addr + (a - h.addr) = a by omega]
    exact hp
  · rw [hus] at hq
    have := hu k hk hq
    omega

/-- R109: no store that the commit point has passed, of fewer than 8 bytes, meets a double-bit error. -/
def DueClean (s : State) (i : Nat) : Prop :=
  ∀ h ∈ (s.slot i).eng.dueStores, h.data.length < 8 → s.eccAt i h.addr h.data.length = false

theorem StoresClean.due (h : StoresClean s i) : DueClean s i := fun x hx => h x (List.mem_filter.mp hx).1

theorem performed_clean (hc : DueClean s i) : performed s i = storeAll (effectsDone s i) i (s.slot i).eng.dueStores := by
  rw [performed_eq]
  exact (calm_landStores (W := fun _ _ => True) _ (fun _ _ _ _ _ _ => trivial) fun h hh hn => by
    rw [effectsDone_eccAt]; exact hc h hh hn).2

theorem performed_slot (hc : DueClean s i) (j : Nat) : (performed s i).slot j = (effectsDone s i).slot j := by
  rw [performed_clean hc]
  exact storeAll_slot _ _ _ _

/-- What a held `exit` performs at the end leaves SRAM and what the slot holds alone. -/
theorem commitSlot_calm_performed (s : State) (i : Nat) : Calm i (fun _ _ => False) (performed s i) (commitSlot s i) := by
  rw [commitSlot_eq]
  split
  · exact calm_commitExit
  · exact .refl _ _ _

theorem commitSlot_tracks_performed (s : State) (i : Nat) (P : Nat → Prop) : Tracks i P (performed s i) (commitSlot s i) := by
  rw [commitSlot_eq]
  split
  · have hclosed : Tracks i P (performed s i) (portsClosed (performed s i) i) :=
      Tracks.foldl _ (fun _ _ _ => .ite (.closePort _ _) (.refl _)) _
    rw [commitExit_eq]
    exact hclosed.trans ((Tracks.modSlot i Slot.gone).trans ((Tracks.modNet _ _).trans (Tracks.checkEnd _)))
  · exact .refl _

/-- R116: the commit point keeps the stores that it has not passed. -/
theorem commitSlot_stores (hc : DueClean s i) : ((commitSlot s i).slot i).eng.stores =
    (s.slot i).eng.stores.filter fun h => !passedCommit (s.slot i).eng.commitPos h.pos := by
  rw [(commitSlot_tracks_performed s i fun _ => True).eng, performed_slot hc, effectsDone_eng]
  rfl

theorem byteAt_of_phys (hp : (s.slot i).phys a = some p) : s.byteAt i a = (s.tile (tileOf i)).sram.byte p := by
  unfold State.byteAt
  rw [hp]

/-- R116: a byte after the commit point has done its work: what the stores that it has passed leave. -/
theorem commitSlot_byteAt (hc : DueClean s i) (hp : (s.slot i).phys a = some p) :
    (commitSlot s i).byteAt i a = ((storeAll (effectsDone s i) i (s.slot i).eng.dueStores).tile (tileOf i)).sram.byte p := by
  have hlast := (commitSlot_calm_performed s i).toKept
  have hphys : ((commitSlot s i).slot i).phys a = some p := by
    rw [hlast.phys, performed_slot hc, (effectsDone_calm s i fun _ _ => False).toKept.phys]
    exact hp
  rw [byteAt_of_phys hphys, hlast.sram _ _ id, performed_clean hc]

theorem effectsDone_phys (s : State) (i a : Nat) : ((effectsDone s i).slot i).phys a = (s.slot i).phys a :=
  (effectsDone_calm s i fun _ _ => False).toKept.phys a

theorem covers_effectsDone (s : State) (i : Nat) (h : Store) (p : Nat) : h.covers ((effectsDone s i).slot i) p ↔ h.covers (s.slot i) p := by
  unfold Store.covers
  simp only [effectsDone_phys]

/-- R116: a byte after the commit is as the last store that has reached it has it. -/
theorem commitSlot_byte_stored (hc : DueClean s i) (hp : (s.slot i).phys a = some p) {older newer : List Store} {h : Store}
    (hs : (s.slot i).eng.dueStores = older ++ h :: newer) (hlo : h.addr ≤ a) (hhi : a < h.addr + h.data.length)
    (hu : ∀ j < h.data.length, (s.slot i).phys (h.addr + j) = some p → h.addr + j = a) (hn : ∀ g ∈ newer, ¬ g.covers (s.slot i) p) :
    (commitSlot s i).byteAt i a = h.data.getD (a - h.addr) 0 := by
  rw [commitSlot_byteAt hc hp, hs]
  refine storeAll_byte _ ((effectsDone_phys s i a).trans hp) hlo hhi (fun j hj hq => hu j hj ?_) fun g hg => ?_
  · rw [← effectsDone_phys]; exact hq
  · rw [covers_effectsDone]; exact hn g hg

/-- R116: a byte that no store due covers is as it was. -/
theorem commitSlot_byte_other (hc : DueClean s i) (hp : (s.slot i).phys a = some p)
    (hn : ∀ h ∈ (s.slot i).eng.dueStores, ¬ h.covers (s.slot i) p) : (commitSlot s i).byteAt i a = s.byteAt i a := by
  rw [commitSlot_byteAt hc hp, byteAt_of_phys hp, storeAll_byte_other _ i p _ fun h hh => by rw [covers_effectsDone]; exact hn h hh,
    tile_congr (effectsDone_tiles s i)]

/-! ## A store into a bad word (R109, log 19) -/

/-- R371: a region halted for ECCFATAL, and no slot that waits at a group. -/
structure EccHalted (r : Nat) (s : State) : Prop where
  st : (s.region r).st = .halted
  hcause : (s.region r).hcause = BitVec.ofNat 8 Cause.eccfatal.code
  waits : NoGroupWaits s

theorem haltRegion_eccHalted (h : NoGroupWaits s) (r kind : Nat) : EccHalted r (haltRegion s r Cause.eccfatal.code kind) := by
  have hl := haltRegion_lasting h r Cause.eccfatal.code kind
  have hr := (region_congr hl.regions r).trans (region_halt s r Cause.eccfatal.code)
  exact ⟨by rw [hr]; rfl, by rw [hr]; rfl, hl.noGroupWaits h⟩

/-- R109: stores that land after it leave the region halted for ECCFATAL. -/
theorem EccHalted.landStores (l : List Store) (h : EccHalted (regionOf (tileOf i)) s) : EccHalted (regionOf (tileOf i)) (landStores s i l) := by
  induction l generalizing s with
  | nil => exact h
  | cons x l ih =>
    refine ih ?_
    split
    · exact haltRegion_eccHalted h.waits _ _
    · have hk := (calm_putBytesAt (i := i) (W := fun _ _ => True) (s := s) x.addr x.data fun _ _ _ _ => trivial).toKept
      refine ⟨?_, ?_, fun j => by rw [putBytesAt_slot]; exact h.waits j⟩
      · rw [region_congr hk.regions]; exact h.st
      · rw [region_congr hk.regions]; exact h.hcause

/-- R109, log 19: where the first store due lies in a bad word, its region halts. -/
theorem commitSlot_eccHalts (hw : NoGroupWaits s) {h : Store} {newer : List Store} (hs : (s.slot i).eng.dueStores = h :: newer)
    (hn : h.data.length < 8) (he : s.eccAt i h.addr h.data.length = true) :
    ((commitSlot s i).region (regionOf (tileOf i))).st = .halted ∧
      ((commitSlot s i).region (regionOf (tileOf i))).hcause = BitVec.ofNat 8 Cause.eccfatal.code := by
  have hbad : (decide (h.data.length < 8) && (effectsDone s i).eccAt i h.addr h.data.length) = true := by
    rw [effectsDone_eccAt, he, decide_eq_true hn]; rfl
  have hwaits : NoGroupWaits (effectsDone s i) := fun j g e => by rw [effectsDone_gen]; exact hw j g e
  have hhalt : EccHalted (regionOf (tileOf i)) (performed s i) := by
    rw [performed_eq, hs, Machine.landStores]
    refine EccHalted.landStores newer ?_
    rw [if_pos hbad]
    exact haltRegion_eccHalted hwaits _ _
  have hreg := region_congr (commitSlot_calm_performed s i).toKept.regions (regionOf (tileOf i))
  exact ⟨by rw [hreg]; exact hhalt.st, by rw [hreg]; exact hhalt.hcause⟩

/-- Settles O6: a load searches the held stores from the youngest; a commit performs the effects that are due, then the stores in order. -/
theorem storeBuffer : Obligations.StoreBuffer := by
  unfold Obligations.StoreBuffer
  refine ⟨fun s i a => ⟨fun older newer h hs hlo hhi hn => loadByte_held hs hlo hhi hn, loadByte_sram⟩, fun s i a p hp => ?_,
    fun s i h newer hw hs hn he => commitSlot_eccHalts hw hs hn he⟩
  intro covers lim hc
  have hclean : DueClean s i := fun h hh => hc h (List.mem_filter.mp hh).1 (List.mem_filter.mp hh).2
  exact ⟨commitSlot_stores hclean, fun older newer h hs hlo hhi hu hn => commitSlot_byte_stored hclean hp hs hlo hhi hu hn,
    fun hn => commitSlot_byte_other hclean hp fun h hh => hn h (List.mem_filter.mp hh).1 (List.mem_filter.mp hh).2⟩

end

section
/-! PROOFS (O7, O10). Scalar loads (R107, R117, R123, R124), and the checks that an access does not pass. -/

variable {s t : State} {d a : Opnd} {i : BitVec 14} {n : Nat}

/-! ## Values from bytes (R5) -/

theorem ofNat_leNat_one (b0 : Byte) : BitVec.ofNat 8 (leNat [b0]) = b0 := by
  refine BitVec.eq_of_toNat_eq ?_
  have h0 := b0.isLt
  simp only [BitVec.toNat_ofNat, leNat]
  omega

theorem ofNat_leNat_two (b0 b1 : Byte) : BitVec.ofNat 16 (leNat [b0, b1]) = b1 ++ b0 := by
  refine BitVec.eq_of_toNat_eq ?_
  have h0 := b0.isLt
  have h1 := b1.isLt
  simp only [BitVec.toNat_ofNat, toNat_append_add, leNat]
  omega

/-- Eight bytes are two words of four. -/
theorem ofNat_leNat_eight (b0 b1 b2 b3 b4 b5 b6 b7 : Byte) :
    BitVec.ofNat 64 (leNat [b0, b1, b2, b3, b4, b5, b6, b7]) = b7 ++ b6 ++ b5 ++ b4 ++ b3 ++ b2 ++ b1 ++ b0 := by
  refine BitVec.eq_of_toNat_eq ?_
  have h0 := b0.isLt
  have h1 := b1.isLt
  have h2 := b2.isLt
  have h3 := b3.isLt
  have h4 := b4.isLt
  have h5 := b5.isLt
  have h6 := b6.isLt
  have h7 := b7.isLt
  simp only [BitVec.toNat_ofNat, toNat_append_add, leNat]
  omega

/-- A signed load extends the value of its bytes. -/
theorem sext_ofNat {w x : Nat} {v : BitVec w} (hw : w ≤ 64) (hv : BitVec.ofNat w x = v) : sext w (BitVec.ofNat 64 x) = v.signExtend 64 := by
  rw [sext, BitVec.setWidth_ofNat_of_le hw, hv]

/-- An unsigned load is the value of its bytes. -/
theorem ofNat_zeroExtend {w : Nat} {l : List Byte} {v : BitVec w} (hl : 8 * l.length = w) (hv : BitVec.ofNat w (leNat l) = v) :
    BitVec.ofNat 64 (leNat l) = v.zeroExtend 64 := by
  have hlt : leNat l < 2 ^ w := by
    rw [← hl, Nat.pow_mul]
    exact leNat_lt l
  refine BitVec.eq_of_toNat_eq ?_
  rw [← hv, BitVec.zeroExtend_eq_setWidth, BitVec.toNat_setWidth, BitVec.toNat_ofNat, BitVec.toNat_ofNat, Nat.mod_eq_of_lt hlt]

/-! ## Loads -/

/-- R123: a load that may proceed completes with the word that its bytes form. -/
theorem completes_of_load {j : Instr} {f : Nat → Word} {v : Word} (h : OperandsOk s [a] (some d)) (hj : exec j s = loadOp s d a i n f)
    (hgo : loadAccess (taken s [a]) s.cur (srcVal s [a] 0 + i.signExtend 64).toNat n = .go)
    (hv : f ((taken s [a]).loadNat s.cur (srcVal s [a] 0 + i.signExtend 64).toNat n) = v) : Completes (exec j s) s [a] d v (s.pc + 4) := by
  rw [hj, ← hv]
  refine genOp_completes h ?_
  change Access.body (loadAccess (taken s [a]) s.cur (srcVal s [a] 0 + i.signExtend 64).toNat n) _ _ = _
  rw [hgo]
  rfl

/-- Settles O7: load by load, the value that its function forms from the bytes is their concatenation, extended. -/
theorem loadResults : Obligations.LoadResults := by
  unfold Obligations.LoadResults
  refine ⟨fun s d a i h => ?_, fun s d i h => ?_⟩
  · intro t ea byte done
    refine ⟨fun hgo => ?_, fun hgo => ?_, fun hgo => ?_, fun hgo => ?_⟩
    · have hv : BitVec.ofNat 8 (t.loadNat s.cur ea 1) = byte 0 := ofNat_leNat_one _
      exact ⟨completes_of_load h (exec_ldb ..) hgo (sext_ofNat (by decide) hv),
        completes_of_load h (exec_ldbu ..) hgo (ofNat_zeroExtend (l := t.loadBytes s.cur ea 1) rfl hv)⟩
    · have hv : BitVec.ofNat 16 (t.loadNat s.cur ea 2) = byte 1 ++ byte 0 := ofNat_leNat_two _ _
      exact ⟨completes_of_load h (exec_ldh ..) hgo (sext_ofNat (by decide) hv),
        completes_of_load h (exec_ldhu ..) hgo (ofNat_zeroExtend (l := t.loadBytes s.cur ea 2) rfl hv)⟩
    · have hv : BitVec.ofNat 32 (t.loadNat s.cur ea 4) = byte 3 ++ byte 2 ++ byte 1 ++ byte 0 := ofNat_leNat_four _ _ _ _
      exact ⟨completes_of_load h (exec_ldw ..) hgo (sext_ofNat (by decide) hv),
        completes_of_load h (exec_ldwu ..) hgo (ofNat_zeroExtend (l := t.loadBytes s.cur ea 4) rfl hv)⟩
    · exact completes_of_load h (exec_ldd ..) hgo (ofNat_leNat_eight _ _ _ _ _ _ _ _)
  · intro ea byte hgo
    have hv : BitVec.ofNat 64 (s.loadNat s.cur ea 8) = byte 7 ++ byte 6 ++ byte 5 ++ byte 4 ++ byte 3 ++ byte 2 ++ byte 1 ++ byte 0 :=
      ofNat_leNat_eight _ _ _ _ _ _ _ _
    rw [exec_ldpc, execLdpc, ← hv]
    refine genOp_completes h ?_
    change Access.body (literalAccess s s.cur ea) _ _ = _
    rw [hgo]
    rfl

/-! ## Checks that an access does not pass (R107) -/

/-- R107, R351: below level S an access is refused by rules 2 to 4. -/
theorem badRange_below {i a : Nat} {wr : Bool} (hs : (s.slot i).atS = false)
    (hb : (s.slot i).id.size * 4096 < a + n ∨ s.inBuffer (s.slot i) a n = true ∨ (wr = true ∧ (s.slot i).inCode a n = true)) :
    s.badRange i a n wr = true := by
  refine (if_neg (by rw [hs]; exact Bool.false_ne_true)).trans ?_
  simp only [Bool.or_eq_true, Bool.and_eq_true, decide_eq_true_eq, or_assoc]
  exact hb

theorem loadAccess_refuses {i a : Nat} :
    (a % n ≠ 0 → loadAccess s i a n = .trap .align) ∧ (a % n = 0 → s.badRange i a n false = true → loadAccess s i a n = .trap .window) :=
  ⟨fun h => if_pos h, fun h hb => (if_neg (not_not_intro h)).trans (if_pos hb)⟩

theorem storeAccess_refuses {i a : Nat} :
    (a % n ≠ 0 → storeAccess s i a n = .trap .align) ∧ (a % n = 0 → s.badRange i a n true = true → storeAccess s i a n = .trap .window) :=
  ⟨fun h => if_pos h, fun h hb => (if_neg (not_not_intro h)).trans (if_pos hb)⟩

/-- R107, R357: an instruction whose access `r` refuses a misaligned address, and an aligned one of a range that it may not reach, raises ALIGN
or WINDOW with the address. -/
theorem access_traps {j : Instr} {srcs : List Opnd} {dst : Option Opnd} {k : List Word → State → Body} {r : Access} {go : Unit → Body}
    {ea : Word} {wr : Bool} (h : OperandsOk s srcs dst) (hs : s.me.atS = false) (hj : exec j s = genOp s srcs dst k)
    (hk : k (takeSrcs s srcs).1 (takeSrcs s srcs).2 = r.body ea go)
    (hr : (ea.toNat % n ≠ 0 → r = .trap .align) ∧
      (ea.toNat % n = 0 → (taken s srcs).badRange s.cur ea.toNat n wr = true → r = .trap .window)) :
    (ea.toNat % n ≠ 0 → Traps (exec j s) s .align ea) ∧
    (ea.toNat % n = 0 → (taken s srcs).me.id.size * 4096 < ea.toNat + n ∨ (taken s srcs).inBuffer (taken s srcs).me ea.toNat n = true ∨
      (wr = true ∧ (taken s srcs).me.inCode ea.toNat n = true) → Traps (exec j s) s .window ea) := by
  have ht := took_takeSrcs (s := s) srcs
  have hme : (taken s srcs).me = (taken s srcs).slot s.cur := congrArg (taken s srcs).slot ht.cur
  have hlow : ((taken s srcs).slot s.cur).atS = false := ht.kept.atS.trans hs
  rw [hj]
  refine ⟨fun hm => genOp_traps h hs Cause.noConfusion Cause.noConfusion ?_, fun ha hb =>
    genOp_traps h hs Cause.noConfusion Cause.noConfusion ?_⟩
  · rw [hk, hr.1 hm]
    rfl
  · rw [hme] at hb
    rw [hk, hr.2 ha (badRange_below hlow hb)]
    rfl

/-- Settles O10: access by access, the check that refuses it is the first that it does not pass. -/
theorem accessTraps : Obligations.AccessTraps := by
  unfold Obligations.AccessTraps
  intro s v a i hs bad checked
  have load : ∀ {j : Instr} {n : Nat} {f : Nat → Word}, OperandsOk s [a] (some v) → exec j s = loadOp s v a i n f → checked j [a] false n :=
    fun h hj => access_traps h hs hj rfl loadAccess_refuses
  have store : ∀ {j : Instr} {n : Nat}, OperandsOk s [a, v] none → exec j s = storeOp s v a i n → checked j [a, v] true n :=
    fun h hj => access_traps h hs hj rfl storeAccess_refuses
  exact ⟨fun h => ⟨load h (exec_ldb ..), load h (exec_ldbu ..), load h (exec_ldh ..), load h (exec_ldhu ..), load h (exec_ldw ..),
      load h (exec_ldwu ..), load h (exec_ldd ..)⟩,
    fun h => ⟨store h (exec_stb ..), store h (exec_sth ..), store h (exec_stw ..), store h (exec_std ..)⟩⟩

end

section
/-! PROOFS (O8). Scalar stores: what stands in the store buffer, and what the commit performs at once (R116, R125). -/

variable {s t : State} {a v : Opnd} {i : BitVec 14} {k ea n : Nat} {x pc : Word} {l : List Byte} {W : Nat → Nat → Prop}

/-! ## A store held (R116) -/

theorem holdStore_slot (s : State) (k a : Nat) (l : List Byte) : (s.holdStore k a l).slot k =
    { s.slot k with eng := { (s.slot k).eng with stores := (s.slot k).eng.stores ++ [⟨(s.slot k).gen.icnt, a, l⟩] } } := by
  unfold State.holdStore
  rw [slot_modSlot_self]

theorem holdStore_kept (s : State) (k a : Nat) (l : List Byte) : Kept k W s (s.holdStore k a l) := kept_modSlot _ rfl rfl rfl rfl rfl rfl

theorem holdStore_still (s : State) (k a : Nat) (l : List Byte) : Still k s (s.holdStore k a l) := by
  refine ⟨fun j hj => slot_modSlot_ne s _ hj, rfl, rfl, rfl, rfl, rfl, rfl, rfl, rfl, ?_, ?_, ?_⟩ <;> rw [holdStore_slot]

/-- R109: a store that meets no bad word joins those that meet none. -/
theorem holdStore_clean (h : StoresClean s k) (hl : l.length < 8 → s.eccAt k ea l.length = false) : StoresClean (s.holdStore k ea l) k := by
  intro g hg hn
  refine (holdStore_kept (W := fun _ _ => True) s k ea l).eccAt ?_
  rw [holdStore_slot] at hg
  rcases List.mem_append.mp hg with hg | hg
  · exact h g hg hn
  · obtain rfl := List.mem_singleton.mp hg
    exact hl hn

/-- R116: where no word is unretired, the commit point has passed every held store. -/
theorem dueStores_of_idle {e : Eng} (h : e.idle = true) : e.dueStores = e.stores := by
  unfold Eng.dueStores
  rw [(commitPos_none e).mpr h]
  exact List.filter_eq_self.mpr fun _ _ => rfl

/-- Of addresses that lie behind one another no two name one byte. -/
theorem Slot.Behind.inj {y : Slot} (h : y.Behind ea n) {j m p : Nat} (hj : j < n) (hm : m < n) (hpj : y.phys (ea + j) = some p)
    (hpm : y.phys (ea + m) = some p) : m = j := by
  obtain ⟨b, hb⟩ := h
  have h1 : b + j = p := Option.some.inj ((hb j hj).symm.trans hpj)
  have h2 : b + m = p := Option.some.inj ((hb m hm).symm.trans hpm)
  omega

theorem Slot.Behind.congr {y z : Slot} (h : y.Behind ea n) (hp : ∀ b, z.phys b = y.phys b) : z.Behind ea n := by
  obtain ⟨b, hb⟩ := h
  exact ⟨b, fun j hj => (hp _).trans (hb j hj)⟩

/-- R116: once no word is unretired, the commit leaves the bytes of the youngest held store in SRAM. -/
theorem commitSlot_youngest {older : List Store} {pos : Nat} (hc : StoresClean s k) (hi : (s.slot k).eng.idle = true)
    (hs : (s.slot k).eng.stores = older ++ [⟨pos, ea, natLe x.toNat n⟩]) (hb : (s.slot k).Behind ea n) {j : Nat} (hj : j < n) :
    (commitSlot s k).byteAt k (ea + j) = x.extractLsb' (8 * j) 8 := by
  obtain ⟨p, hp⟩ : ∃ p, (s.slot k).phys (ea + j) = some p := hb.elim fun b hb => ⟨b + j, hb j hj⟩
  have hlen : (natLe x.toNat n).length = n := natLe_length _ _
  refine (commitSlot_byte_stored hc.due hp ((dueStores_of_idle hi).trans hs) (Nat.le_add_right ea j)
    (Nat.add_lt_add_left (hj.trans_eq hlen.symm) ea) (fun m hm hq => ?_) fun g hg => absurd hg List.not_mem_nil).trans ?_
  · exact congrArg (ea + ·) (hb.inj hj (hm.trans_eq hlen) hp hq)
  · rw [Nat.add_sub_cancel_left]
    exact natLe_getD_bits x hj

/-! ## Stores (R125) -/

/-- R107: a store that may proceed lies in one partition. -/
theorem behind_of_storeAccess (h : storeAccess s k ea n = .go) : (s.slot k).Behind ea n := by
  refine behind_of_badRange (wr := true) (Bool.eq_false_iff.mpr fun hb => ?_)
  by_cases ha : ea % n = 0
  · exact absurd ((storeAccess_refuses.2 ha hb).symm.trans h) Access.noConfusion
  · exact absurd ((storeAccess_refuses.1 ha).symm.trans h) Access.noConfusion

/-- R116: from `s` the sources of an instruction were taken, and a store of the low `n` bytes of `x` at `ea` joined the held ones, as
the youngest. -/
structure StoreJoined (s : State) (ea : Nat) (x : Word) (n : Nat) (u : State) : Prop where
  kept : Kept s.cur (bytesBehind s s.cur ea n) s u
  gen : u.me.gen = s.me.gen
  stores : (u.slot s.cur).eng.stores = s.me.eng.stores ++ [⟨s.me.gen.icnt, ea, natLe x.toNat n⟩]
  bank : (u.slot s.cur).bank = s.me.bank
  clean : StoresClean u u.cur

theorem storeJoined_holdStore (ht : Took s t) (hc : StoresClean s s.cur) (he : n < 8 → t.eccAt s.cur ea n = false) :
    StoreJoined s ea x n (t.holdStore s.cur ea (natLe x.toNat n)) := by
  have hkept : Kept s.cur (bytesBehind s s.cur ea n) s (t.holdStore s.cur ea (natLe x.toNat n)) :=
    (ht.kept.weaken fun _ _ => False.elim).trans (holdStore_kept ..)
  have hgen : (t.slot s.cur).gen = s.me.gen := (congrArg (fun c => (t.slot c).gen) ht.cur).symm.trans ht.gen
  have hstores : (t.slot s.cur).eng.stores = s.me.eng.stores := (congrArg (fun c => (t.slot c).eng.stores) ht.cur).symm.trans ht.stores
  refine ⟨hkept, ?_, ?_, ?_, ?_⟩
  · rw [State.me, hkept.cur, holdStore_slot, hgen]
  · rw [holdStore_slot, hgen, hstores]
  · rw [holdStore_slot]
    exact (congrArg (fun c => (t.slot c).bank) ht.cur).symm.trans ht.bank
  · rw [hkept.cur]
    refine holdStore_clean (hc.congr ht.kept hstores) fun hn => ?_
    rw [natLe_length] at hn ⊢
    exact he hn

/-- R116: at the end of an instruction that stores, the commit point finds its store youngest. -/
theorem StoreJoined.finishG {u : State} (h : StoreJoined s ea x n u) (pc : Word) :
    ∃ w, finishG u pc = commitSlot w s.cur ∧ StoresClean w s.cur ∧ Kept s.cur (bytesBehind s s.cur ea n) s w ∧
      (w.slot s.cur).eng.stores = s.me.eng.stores ++ [⟨s.me.gen.icnt, ea, natLe x.toNat n⟩] := by
  have hk : Kept s.cur (bytesBehind s s.cur ea n) u (atPc u pc) := h.kept.cur ▸ atPc_kept u pc
  have heng : ((atPc u pc).slot s.cur).eng.stores = (u.slot s.cur).eng.stores := by rw [← h.kept.cur, atPc_slot]
  have hclean : StoresClean u s.cur := h.kept.cur ▸ h.clean
  exact ⟨atPc u pc, by rw [finishG_eq, h.kept.cur], hclean.congr hk heng, h.kept.trans hk, heng.trans h.stores⟩

/-- R116: an instruction that holds a store after its sources are taken completes. -/
theorem storesAt_holdStore {srcs : List Opnd} (h : OperandsOk s srcs none) (ht : taken s srcs = t) (hb : (t.slot s.cur).Behind ea n)
    (he : n < 8 → t.eccAt s.cur ea n = false) :
    StoresAt (.next (finishG (t.holdStore s.cur ea (natLe x.toNat n)) (s.pc + 4))) s srcs ea x n := by
  have htook : Took s t := ht ▸ took_takeSrcs srcs
  have hsame : (∀ o ∈ srcs, opIsPort o = false) → t = s := fun hno => ht.symm.trans (takeSrcs_noPorts srcs hno)
  have hj : StoreJoined s ea x n (t.holdStore s.cur ea (natLe x.toNat n)) := storeJoined_holdStore htook h.clean he
  obtain ⟨w, hend, hclean, hkept, hyoung⟩ := hj.finishG (s.pc + 4)
  obtain ⟨hissued, hkeptEnd, hbank, heos⟩ := finishG_after (pc := s.pc + 4) hj.kept hj.clean hj.gen fun g hg => by
    rw [hj.stores] at hg
    refine (List.mem_append.mp hg).imp_right fun hg m hm p hp => ?_
    obtain rfl := List.mem_singleton.mp hg
    exact ⟨rfl, m, hm.trans_eq (natLe_length x.toNat n), hp⟩
  refine ⟨_, rfl, hissued, ⟨hkeptEnd, fun hno => ?_, fun hh hx hno => ?_⟩, ?_, ⟨w, hend, hyoung⟩, fun hi m hm => ?_⟩
  · rw [heos, holdStore_slot, hsame hno]
    rfl
  · have hts := hsame fun o ho => hno o (List.mem_append_left _ ho)
    have hlast := finishG_still _ (s.pc + 4) (fun g hg => ?_) (by rw [hj.gen]; exact hx) hj.clean
    · rw [hj.kept.cur] at hlast
      rw [hts] at hlast ⊢
      exact (holdStore_still ..).trans hlast
    · rw [State.me, hj.kept.cur, holdStore_slot, hts] at hg
      exact absurd (hh ▸ hg) List.not_mem_nil
  · constructor <;> intros <;> rw [hbank, hj.bank] <;> rfl
  · have hidle : (w.slot s.cur).eng.idle = true := by
      rw [hkept.eng]
      exact hi
    rw [hend]
    refine commitSlot_youngest hclean hidle hyoung (hb.congr fun b => ?_) hm
    rw [hkept.phys, htook.kept.phys]

/-- R125: a store that may proceed, and meets no bad word, is held and, at its commit, performed. -/
theorem storesAt_of_store {j : Instr} (h : OperandsOk s [a, v] none) (hj : exec j s = storeOp s v a i n)
    (hgo : storeAccess (taken s [a, v]) s.cur (srcVal s [a, v] 0 + i.signExtend 64).toNat n = .go)
    (he : n < 8 → (taken s [a, v]).eccAt s.cur (srcVal s [a, v] 0 + i.signExtend 64).toNat n = false) :
    StoresAt (exec j s) s [a, v] (srcVal s [a, v] 0 + i.signExtend 64).toNat (srcVal s [a, v] 1) n := by
  have hout : exec j s = .next (finishG ((taken s [a, v]).holdStore s.cur (srcVal s [a, v] 0 + i.signExtend 64).toNat
      (natLe (srcVal s [a, v] 1).toNat n)) (s.pc + 4)) := by
    rw [hj]
    refine genOp_ok (v := 0) h ?_
    change Access.body (storeAccess (taken s [a, v]) s.cur (srcVal s [a, v] 0 + i.signExtend 64).toNat n) _ _ = _
    rw [hgo]
    rfl
  rw [hout]
  exact storesAt_holdStore h rfl (behind_of_storeAccess hgo) he

/-- Settles O8: a store of each width is held, and lands where no word is unretired. -/
theorem storeResults : Obligations.StoreResults := by
  unfold Obligations.StoreResults
  intro s v a i h
  exact ⟨fun hgo he => storesAt_of_store h (exec_stb ..) hgo fun _ => he, fun hgo he => storesAt_of_store h (exec_sth ..) hgo fun _ => he,
    fun hgo he => storesAt_of_store h (exec_stw ..) hgo fun _ => he,
    fun hgo => storesAt_of_store h (exec_std ..) hgo fun hlt => absurd hlt (Nat.lt_irrefl 8)⟩

end

section
/-! PROOFS (O13). `cfetch` and `cwait` (R129, R130): a request queued, what the commit does with it, and what is refused. -/

variable {s t u : State} {i k pos : Nat} {va pc : Word} {W : Nat → Nat → Prop} {r : SegReq}

/-! ## Requests at the commit (R129) -/

/-- R129: what the commit point does to the segments of its slot: it sends the requests that it has passed, and no other. -/
theorem commitSlot_follows (hc : DueClean s i) (k : Nat) :
    ((s.slot i).seg k).Follows (fun n => passedCommit (s.slot i).eng.commitPos n = true) (((commitSlot s i).slot i).seg k) := by
  have hdone := (effectsDone_tracks s i).seg k
  have hlast := (commitSlot_tracks_performed s i fun n => passedCommit (s.slot i).eng.commitPos n = true).seg k
  rw [slot_modSlot_self] at hdone
  rw [performed_slot hc] at hlast
  exact hdone.trans hlast

/-- R129: a segment whose requests of position `pos` are sent. -/
def Seg.sends (g : Seg) (s : State) (i pos : Nat) : Seg := { g with reqs := g.reqs.map fun r => if r.pos == pos then r.committed s i else r }

theorem SegReq.committed_sent (r : SegReq) (s : State) (i : Nat) : (r.committed s i).sent = true := by
  unfold SegReq.committed
  split
  · rfl
  · rfl

theorem commitHeld_seg (s : State) (i k pos : Nat) (old : SegSt) : ∃ cs, commitHeld s i ⟨pos, .seg k old⟩ =
    sendFetch (noteFound (s.modSlot i fun x => x.modSeg k fun g => g.sends s i pos) i cs) i k := by
  unfold commitHeld Seg.sends
  exact ⟨_, rfl⟩

/-- R129: the last request of a segment, if its `cfetch` commits, is sent. -/
theorem commitHeld_sends {old : SegSt} (hr : ((s.slot i).seg k).reqs.getLast? = some r) (hp : r.pos = pos) :
    ∃ v, (((commitHeld s i ⟨pos, .seg k old⟩).slot i).seg k).reqs.getLast? = some v ∧ v.sent = true := by
  obtain ⟨t, ht⟩ : ∃ t, t = s.modSlot i fun x => x.modSeg k fun g => g.sends s i pos := ⟨_, rfl⟩
  have hlast : ((t.slot i).seg k).reqs.getLast? = some (r.committed s i) := by
    rw [ht, slot_modSlot_self, slot_seg_modSeg_self, Seg.sends, List.getLast?_map, hr, Option.map_some, if_pos (beq_iff_eq.mpr hp)]
  obtain ⟨cs, hcs⟩ := commitHeld_seg s i k pos old
  rw [hcs, ← ht]
  have htracks : Tracks i (fun _ => True) t (sendFetch (noteFound t i cs) i k) := (Tracks.noteFound i cs).trans (Tracks.sendFetch k)
  obtain ⟨v, hv, hf⟩ := (htracks.seg k).last hlast
  exact ⟨v, hv, hf.sent (r.committed_sent s i)⟩

/-- R186: where no word is unretired, the commit point has passed every held effect. -/
theorem dueHist_of_idle {e : Eng} (h : e.idle = true) : e.dueHist = e.hist := by
  unfold Eng.dueHist
  rw [(commitPos_none e).mpr h]
  exact List.filter_eq_self.mpr fun _ _ => rfl

/-- Held effects performed one after another. -/
def commitAll (s : State) (i : Nat) (l : List HistE) : State := l.foldl (fun s h => commitHeld s i h) s

theorem commitAll_tracks (s : State) (i : Nat) (l : List HistE) : Tracks i (fun _ => True) s (commitAll s i l) :=
  Tracks.foldl l (fun _ h _ => Tracks.commitHeld h trivial) s

/-- The effect due last is performed on what the ones before it leave. -/
theorem effectsDone_concat {l : List HistE} {h : HistE} (hd : (s.slot i).eng.dueHist = l ++ [h]) :
    effectsDone s i = commitHeld (commitAll (s.modSlot i Slot.unheld) i l) i h := by
  unfold effectsDone
  rw [hd]
  exact List.foldl_concat _ _ _ _

/-- R129: with no word unretired, the commit point sends the request of the `cfetch` logged last. -/
theorem commitSlot_sends {l : List HistE} {old : SegSt} (hc : DueClean s i) (hi : (s.slot i).eng.idle = true)
    (hh : (s.slot i).eng.hist = l ++ [⟨pos, .seg k old⟩]) (hr : ((s.slot i).seg k).reqs.getLast? = some r) (hp : r.pos = pos) :
    ∃ v, (((commitSlot s i).slot i).seg k).reqs.getLast? = some v ∧ v.sent = true := by
  have hdone := effectsDone_concat ((dueHist_of_idle hi).trans hh)
  have hseg := (commitAll_tracks (s.modSlot i Slot.unheld) i l).seg k
  generalize commitAll (s.modSlot i Slot.unheld) i l = w at hdone hseg
  rw [slot_modSlot_self] at hseg
  obtain ⟨v, hv, hvr⟩ := hseg.last hr
  obtain ⟨q, hq, hqs⟩ := commitHeld_sends (old := old) hv (hvr.pos.trans hp)
  have hlast := (commitSlot_tracks_performed s i fun _ => True).seg k
  rw [performed_slot hc, hdone] at hlast
  obtain ⟨z, hz, hzq⟩ := hlast.last hq
  exact ⟨z, hz, hzq.sent hqs⟩

/-! ## A request queued (R129) -/

theorem takePort_segs (s : State) (p : Nat) : ((takePort s s.cur p).2.slot s.cur).segs = (s.slot s.cur).segs := by
  unfold takePort
  dsimp only
  split
  · rfl
  · split
    · rw [slot_modSlot_self, slot_modPort_segs, log_segs]
    · rw [slot_modSlot_self, log_segs]

/-- Taking the sources leaves the segments alone. -/
theorem takeSrcs_segs (s : State) (srcs : List Opnd) : ((takeSrcs s srcs).2.slot s.cur).segs = (s.slot s.cur).segs := by
  induction srcs generalizing s with
  | nil => rfl
  | cons o os ih =>
    have hcur : (takeSrc s o).2.cur = s.cur := (took_takeSrc o).cur
    have hrest := ih (takeSrc s o).2
    rw [hcur] at hrest
    refine hrest.trans ?_
    unfold takeSrc
    split
    · exact takePort_segs s _
    · rfl

/-- R129: the request of a `cfetch` that has not committed. -/
def SegReq.fresh (pos : Nat) (va : Word) : SegReq := { pos := pos, va := va, sent := false, image := none, paged := false }

theorem startFetch_slot (s : State) (k : Nat) (va : Word) : (startFetch s k va).slot s.cur =
    ((s.slot s.cur).log (.seg k ((s.slot s.cur).seg k).st)).modSeg k fun g =>
      { g with st := .inflight, reqs := g.reqs ++ [.fresh (s.slot s.cur).gen.icnt va] } := by
  unfold startFetch State.modMe
  rw [slot_modSlot_self]
  rfl

theorem startFetch_kept (s : State) (k : Nat) (va : Word) : Kept s.cur W s (startFetch s k va) := by
  unfold startFetch State.modMe
  exact kept_modSlot _ rfl rfl rfl rfl rfl rfl

/-- R129: the state in which a `cfetch` of `va` into segment `k` has been logged and its request queued. -/
structure Fetching (s : State) (k : Nat) (va : Word) (u : State) : Prop where
  kept : Kept s.cur (fun _ _ => False) s u
  gen : (u.slot s.cur).gen = s.me.gen
  stores : (u.slot s.cur).eng.stores = s.me.eng.stores
  bank : (u.slot s.cur).bank = s.me.bank
  hist : ∃ l, (u.slot s.cur).eng.hist = l ++ [⟨s.me.gen.icnt, .seg k (s.me.seg k).st⟩]
  st : ((u.slot s.cur).seg k).st = .inflight
  last : ((u.slot s.cur).seg k).reqs.getLast? = some (.fresh s.me.gen.icnt va)
  others : ∀ j, j ≠ k → (u.slot s.cur).seg j = s.me.seg j

theorem fetching_startFetch (s : State) (srcs : List Opnd) (k : Nat) (va : Word) : Fetching s k va (startFetch (taken s srcs) k va) := by
  obtain ⟨t, ht⟩ : ∃ t, t = taken s srcs := ⟨_, rfl⟩
  have htook : Took s t := ht ▸ took_takeSrcs srcs
  have hcur := htook.cur
  have hgen : (t.slot s.cur).gen = s.me.gen := (congrArg (fun c => (t.slot c).gen) hcur).symm.trans htook.gen
  have hstores : (t.slot s.cur).eng.stores = s.me.eng.stores := (congrArg (fun c => (t.slot c).eng.stores) hcur).symm.trans htook.stores
  have hbank : (t.slot s.cur).bank = s.me.bank := (congrArg (fun c => (t.slot c).bank) hcur).symm.trans htook.bank
  have hseg : ∀ j, (t.slot s.cur).seg j = s.me.seg j := fun j => by
    unfold Slot.seg
    rw [ht, taken, takeSrcs_segs, State.me]
  have hslot := startFetch_slot t k va
  rw [hcur, hgen, hseg] at hslot
  rw [← ht]
  refine ⟨htook.kept.trans (hcur ▸ startFetch_kept t k va), ?_, ?_, ?_, ⟨(t.slot s.cur).eng.hist, ?_⟩, ?_, ?_, fun j hj => ?_⟩
  · rw [hslot, slot_modSeg_gen, log_gen, hgen]
  · rw [hslot, slot_modSeg_eng, log_stores, hstores]
  · rw [hslot]
    exact hbank
  · rw [hslot, slot_modSeg_eng, log_hist, hgen]
  · rw [hslot, slot_seg_modSeg_self]
  · rw [hslot, slot_seg_modSeg_self]
    exact List.getLast?_concat
  · rw [hslot, slot_seg_modSeg_ne _ _ hj]
    exact hseg j

/-- The oldest position among some words and a bound: it is no larger than the bound, nor than any word's. -/
theorem oldest_le (l : List QEntry) (p : Nat) :
    ∃ m, l.foldl (fun o w => match o with | none => some w.pos | some p => some (min p w.pos)) (some p) = some m ∧
      m ≤ p ∧ ∀ w ∈ l, m ≤ w.pos := by
  induction l generalizing p with
  | nil => exact ⟨p, rfl, Nat.le_refl p, fun _ h => absurd h List.not_mem_nil⟩
  | cons w l ih =>
    obtain ⟨m, hm, hle, hall⟩ := ih (min p w.pos)
    refine ⟨m, hm, by omega, fun v hv => ?_⟩
    rcases List.mem_cons.mp hv with rfl | hv
    · omega
    · exact hall v hv

/-- R186: the commit point lies no later than any unretired word. -/
theorem commitPos_le {e : Eng} {w : QEntry} (h : w ∈ e.words) : ∃ m, e.commitPos = some m ∧ m ≤ w.pos := by
  unfold Eng.commitPos
  cases hl : e.words with
  | nil =>
    rw [hl] at h
    exact absurd h List.not_mem_nil
  | cons v l =>
    obtain ⟨m, hm, hle, hall⟩ := oldest_le l v.pos
    refine ⟨m, hm, ?_⟩
    rw [hl] at h
    rcases List.mem_cons.mp h with rfl | h
    · exact hle
    · exact hall w h

/-- R186: no position from an unretired word on lies before the commit point. -/
theorem not_passedCommit {e : Eng} {n : Nat} (h : ∃ w ∈ e.words, w.pos ≤ n) : passedCommit e.commitPos n = false := by
  obtain ⟨w, hw, hle⟩ := h
  obtain ⟨m, hm, hmw⟩ := commitPos_le hw
  rw [hm]
  exact decide_eq_false (by omega)

/-- R129: the end of a `cfetch`. -/
theorem Fetching.ends (h : Fetching s k va u) (hc : StoresClean s s.cur) (pc : Word) :
    Issued s (finishG u pc) pc ∧ Kept s.cur (heldBytes s s.cur) s (finishG u pc) ∧ GKept s.cur none s (finishG u pc) ∧
      (((finishG u pc).slot s.cur).seg k).st = .inflight ∧ (∀ j, j ≠ k → (((finishG u pc).slot s.cur).seg j).st = (s.me.seg j).st) ∧
      ∃ r, (((finishG u pc).slot s.cur).seg k).reqs.getLast? = some r ∧ r.va = va ∧ r.pos = s.me.gen.icnt ∧
        (s.me.committed = true → r.sent = true) ∧ ((∃ w ∈ s.me.eng.words, w.pos ≤ s.me.gen.icnt) → r.sent = false) := by
  have hcur := h.kept.cur
  have hclean : StoresClean u s.cur := hc.congr h.kept h.stores
  obtain ⟨hissued, hkept, hbank, -⟩ := finishG_after (pc := pc) h.kept (hcur ▸ hclean) ((congrArg (fun c => (u.slot c).gen) hcur).trans h.gen)
    fun g hg => Or.inl (h.stores ▸ hg)
  obtain ⟨w, hw⟩ : ∃ w, w = atPc u pc := ⟨_, rfl⟩
  have hwslot : w.slot s.cur = { u.slot s.cur with gen := (w.slot s.cur).gen } := by
    rw [hw, ← hcur, atPc_slot]
  have hend : finishG u pc = commitSlot w s.cur := by rw [finishG_eq, hcur, hw]
  have hwkept : Kept s.cur (fun _ _ => False) s w := h.kept.trans (hw ▸ hcur ▸ atPc_kept u pc)
  have hwseg : ∀ j, (w.slot s.cur).seg j = (u.slot s.cur).seg j := fun j => by rw [hwslot]; rfl
  have hwclean : DueClean w s.cur := (hc.congr hwkept (by rw [hwslot]; exact h.stores)).due
  have hfollows := commitSlot_follows hwclean
  obtain ⟨l, hl⟩ := h.hist
  have hlast := (congrArg (fun g => g.reqs.getLast?) (hwseg k)).trans h.last
  obtain ⟨r, hr, hrf⟩ := (hfollows k).last hlast
  have hwords : (w.slot s.cur).eng.commitPos = s.me.eng.commitPos := by
    unfold Eng.commitPos Eng.words
    rw [hwkept.eng]
    rfl
  rw [hend] at hissued hkept hbank ⊢
  refine ⟨hissued, hkept.weaken fun _ _ hh => hh.elim id False.elim, ?_, ?_, fun j hj => ?_, r, hr, hrf.va, hrf.pos, fun hi => ?_,
    fun hb => ?_⟩
  · constructor <;> intros <;> rw [hbank, h.bank] <;> rfl
  · rw [(hfollows k).st, hwseg, h.st]
  · rw [(hfollows j).st, hwseg, h.others j hj]
  · have hidle : (w.slot s.cur).eng.idle = true := by
      rw [hwkept.eng]
      exact hi
    obtain ⟨v, hv, hvs⟩ := commitSlot_sends hwclean hidle (by rw [hwslot]; exact hl) hlast rfl
    obtain rfl := Option.some.inj (hr.symm.trans hv)
    exact hvs
  · refine hrf.unsent fun hp => ?_
    rw [hwords] at hp
    exact Bool.false_ne_true ((not_passedCommit hb).symm.trans hp)

/-! ## What is checked (R129, R130) -/

/-- R129: an address that is no multiple of 4,096, or exceeds 57 bits. -/
theorem badPage_iff (va : Word) : (va.extractLsb' 0 12 ≠ 0 || va.extractLsb' 57 7 ≠ 0) = true ↔
    va.toNat % 4096 ≠ 0 ∨ 2 ^ 57 ≤ va.toNat := by
  have hlow : va.extractLsb' 0 12 = 0 ↔ va.toNat % 4096 = 0 := low_zero_iff va 12
  have hhigh : va.extractLsb' 57 7 = 0 ↔ va.toNat < 2 ^ 57 := by
    have hlt := va.isLt
    rw [← BitVec.toNat_inj, BitVec.extractLsb'_toNat, Nat.shiftRight_eq_div_pow]
    simp only [BitVec.ofNat_eq_ofNat, BitVec.toNat_ofNat]
    omega
  rw [Bool.or_eq_true, decide_eq_true_eq, decide_eq_true_eq, ne_eq, ne_eq, hlow, hhigh, Nat.not_lt]

theorem goodPage (hpage : va.toNat % 4096 = 0) (hva : va.toNat < 2 ^ 57) : ¬ (va.extractLsb' 0 12 ≠ 0 || va.extractLsb' 57 7 ≠ 0) = true :=
  fun hb => ((badPage_iff va).mp hb).elim (fun h => h hpage) (Nat.not_le.mpr hva)

/-- R130, R351: what `cwait` does with a segment in each state. -/
def segAwaits (s t : State) (k : Nat) : SegSt → Body
  | .inflight => .wait .segment
  | .failed => if s.me.atS then .ok 0 s.pcNext t else .failed k
  | .invalid => .ok 0 s.pcNext t
  | .valid => .ok 0 s.pcNext t

theorem execCwait_inside {a : Opnd} {st : SegSt} (hk : (srcVal s [a] 0).toNat < s.me.codeSegs)
    (hst : (s.me.seg (srcVal s [a] 0).toNat).st = st) :
    ∃ k, execCwait a s = genOp s [a] none k ∧
      k (takeSrcs s [a]).1 (takeSrcs s [a]).2 = segAwaits s (takeSrcs s [a]).2 (srcVal s [a] 0).toNat st := by
  refine ⟨_, rfl, (if_neg (Nat.not_le.mpr hk)).trans ?_⟩
  subst hst
  unfold srcVal
  cases (s.me.seg ((takeSrcs s [a]).1.getD 0 0).toNat).st
  · rfl
  · rfl
  · rfl
  · rfl

/-- Settles O13: a `cfetch` that its checks let through is logged and queued, and the commit point does the rest; `cwait` goes by the state of
its segment. -/
theorem overlayResults : Obligations.OverlayResults := by
  unfold Obligations.OverlayResults
  refine ⟨fun s a b h => ?fetches, fun s a b h hs => ?stops, fun s a h => ?waits⟩
  case fetches =>
    intro k va hpage hva hk hpc hroom
    have hin : (!s.me.atS && s.pc.toNat / 4096 = k.toNat) ≠ true := fun hb => by
      simp only [Bool.and_eq_true, Bool.not_eq_true', decide_eq_true_eq] at hb
      exact hpc hb.1 hb.2
    rw [exec_cfetch, execCfetch]
    exact ⟨_, genOp_ok (v := 0) h ((if_neg (goodPage hpage hva)).trans ((if_neg (Nat.not_le.mpr hk)).trans ((if_neg hin).trans
      (if_neg (Bool.eq_false_iff.mp hroom))))), (fetching_startFetch s [a, b] k.toNat va).ends h.clean _⟩
  case stops =>
    intro k va
    rw [exec_cfetch, execCfetch]
    refine ⟨fun hbad => genOp_traps h hs Cause.noConfusion Cause.noConfusion (if_pos ((badPage_iff va).mpr hbad)), fun hpage hva hk => ?_⟩
    refine genOp_traps h hs Cause.noConfusion Cause.noConfusion ((if_neg (goodPage hpage hva)).trans ?_)
    by_cases hout : s.me.codeSegs ≤ k.toNat
    · exact if_pos hout
    · have hin : (!s.me.atS && s.pc.toNat / 4096 = k.toNat) = true := by
        rw [hs, decide_eq_true (hk.resolve_left hout)]
        rfl
      exact (if_neg hout).trans (if_pos hin)
  case waits =>
    intro k hk
    have goes : ∀ {st}, (s.me.seg k.toNat).st = st → segAwaits s (takeSrcs s [a]).2 k.toNat st = .ok 0 (s.pc + 4) (takeSrcs s [a]).2 →
        Passes (exec (.cwait a) s) s [a] (s.pc + 4) := fun hst hgo => by
      obtain ⟨f, hf, hbody⟩ := execCwait_inside hk hst
      rw [exec_cwait, hf]
      exact genOp_passes h (hbody.trans hgo)
    refine ⟨?_, fun hst => ?_, fun hst hs => ?_⟩
    · rintro (hst | hst | ⟨hst, hs⟩)
      · exact goes hst rfl
      · exact goes hst rfl
      · exact goes hst (if_pos hs)
    all_goals
      obtain ⟨f, hf, hbody⟩ := execCwait_inside hk hst
      rw [exec_cwait, hf]
    · exact genOp_waits h hbody
    · exact genOp_failed h hs (hbody.trans (if_neg (Bool.eq_false_iff.mp hs)))

end

section
/-! PROOFS (O48). A code segment's image lands, or its request has failed (R111, R129). -/

variable {s : State} {x z : Slot} {k : Nat} {st : SegSt} {fva : Word} {q r : SegReq} {l : List SegReq} {bs : List Byte}

/-! ## A segment settled (R111, log 18) -/

/-- R111, log 18: an entry that a younger `cfetch` of the segment has logged at `pos` gives back the state in which the segment settled. -/
def HistE.settled (k pos : Nat) (st : SegSt) (h : HistE) : HistE :=
  match h.act with
  | .seg j _ => if j = k ∧ h.pos = pos then { h with act := .seg k st } else h
  | _ => h

theorem settle_last (h : (x.seg k).later = []) : x.settle k st = x.modSeg k fun g => { g with st := st, reqs := [] } := by
  unfold Slot.settle
  rw [h]

theorem settle_younger (h : (x.seg k).later = q :: l) : x.settle k st =
    { x.modSeg k fun g => { g with reqs := q :: l } with eng := { x.eng with hist := x.eng.hist.map (HistE.settled k q.pos st) } } := by
  have hentry : ∀ h : HistE, (match h.act with
      | .seg j _ => if j = k && h.pos == q.pos then { h with act := .seg k st } else h
      | _ => h) = h.settled k q.pos st := fun h => by
    unfold HistE.settled
    cases h.act <;> simp
  unfold Slot.settle
  rw [h]
  exact congrArg (fun m => { x.modSeg k fun g => { g with reqs := q :: l } with eng := { x.eng with hist := m } })
    (List.map_congr_left fun h _ => hentry h)

/-- R111, log 18: from `x` to `y`, segment `k` has settled in state `st`, with FAULTVA `fva`: at once, where no younger request waits, else in
what an unwind of the first of them gives back. -/
structure Slot.Settles (x : Slot) (k : Nat) (fva : Word) (st : SegSt) (y : Slot) : Prop where
  rest : y = { x with segs := y.segs, eng := { x.eng with hist := y.eng.hist } }
  others : ∀ j, j ≠ k → y.seg j = x.seg j
  last : (x.seg k).later = [] → y.seg k = { x.seg k with st := st, reqs := [], fva := fva } ∧ y.eng.hist = x.eng.hist
  younger : ∀ q l, (x.seg k).later = q :: l →
    y.seg k = { x.seg k with reqs := q :: l, fva := fva } ∧ y.eng.hist = x.eng.hist.map (HistE.settled k q.pos st)

theorem settle_settles (hz : z = { x with segs := z.segs }) (ho : ∀ j, j ≠ k → z.seg j = x.seg j) (hk : z.seg k = { x.seg k with fva := fva }) :
    x.Settles k fva st (z.settle k st) := by
  have hlater : (z.seg k).later = (x.seg k).later := by rw [hk]; rfl
  have heng : z.eng = x.eng := by rw [hz]
  cases hl : (x.seg k).later with
  | nil =>
    rw [settle_last (hlater.trans hl)]
    refine ⟨?_, fun j hj => ?_, fun _ => ⟨?_, congrArg Eng.hist heng⟩, fun q l h => absurd (hl.symm.trans h) (List.cons_ne_nil q l).symm⟩
    · rw [hz]
      rfl
    · rw [slot_seg_modSeg_ne _ _ hj, ho j hj]
    · rw [slot_seg_modSeg_self, hk]
  | cons q l =>
    obtain ⟨y, hy⟩ : ∃ y, y = z.modSeg k fun g => { g with reqs := q :: l } := ⟨_, rfl⟩
    have hyk : y.seg k = { x.seg k with reqs := q :: l, fva := fva } := by rw [hy, slot_seg_modSeg_self, hk]
    have hyo : ∀ j, j ≠ k → y.seg j = x.seg j := fun j hj => by rw [hy, slot_seg_modSeg_ne _ _ hj, ho j hj]
    rw [settle_younger (hlater.trans hl), heng, ← hy]
    refine ⟨?_, hyo, fun h => absurd (hl.symm.trans h) (List.cons_ne_nil q l), fun q' l' h => ?_⟩
    · rw [hy, hz]
      rfl
    · obtain ⟨rfl, rfl⟩ := List.cons.inj (hl.symm.trans h)
      exact ⟨hyk, rfl⟩

/-- R111: an image's bytes stand in SRAM where its segment lies, and no other byte of a memory has changed. -/
theorem landed_byte (s : State) (p : Nat) (bs : List Byte) (n : Nat) :
    ((s.modTile (tileOf s.cur) fun t => { t.renew p 4096 with sram := t.sram.putBytes p bs }).tile (tileOf s.cur)).sram.byte n =
      if p ≤ n ∧ n < p + bs.length then bs.getD (n - p) 0 else (s.tile (tileOf s.cur)).sram.byte n := by
  rw [tile_modTile_self]
  exact mem_byte_putBytes _ _ _ _

/-! ## The two events -/

theorem execCfetchLanding_lands (hq : (s.me.seg k).queued = some r) (hs : (s.me.seg k).st = .inflight) (hi : r.image = some bs) :
    execCfetchLanding k s = .next ((s.modTile (tileOf s.cur) fun t =>
      { t.renew ((s.me.id.base + k) * 4096) 4096 with sram := t.sram.putBytes ((s.me.id.base + k) * 4096) bs }).modMe
        fun x => x.settle k .valid) := by
  unfold execCfetchLanding
  simp only [hq, hi, hs, bne_self_eq_false, Bool.false_eq_true, if_false]

theorem execCfetchFailure_fails {c : Nat} (hq : (s.me.seg k).queued = some r) (hs : (s.me.seg k).st = .inflight) (hf : r.fail = some c) :
    execCfetchFailure k s =
      .next (s.modMe fun x => (x.modSeg k fun g => { g with fva := faultVaCode r.va.toNat c }).settle k .failed) := by
  unfold execCfetchFailure
  simp only [hq, hf, hs, bne_self_eq_false, Bool.false_eq_true, if_false]

/-- Settles O48: either event settles the segment by its requests that are not yet sent; a landing writes the image before. -/
theorem segmentEvents : Obligations.SegmentEvents := by
  unfold Obligations.SegmentEvents
  intro s k r x g hq hs settled
  have hsettled : ∀ {y fva st}, x.Settles k fva st y → settled y fva st := fun h => by
    refine ⟨h.rest, h.others, h.last, fun q l hl => ?_⟩
    obtain ⟨hseg, hhist⟩ := h.younger q l hl
    refine ⟨hseg, (congrArg List.length hhist).trans (List.length_map _), fun n e he => ?_⟩
    rw [hhist, List.getElem?_map, he]
    rfl
  refine ⟨fun bs hi => ?_, fun c hf => ?_⟩
  · intro at0
    refine ⟨_, execCfetchLanding_lands hq hs hi, ?_, fun j hj => slot_modMe_ne (s.modTile (tileOf s.cur) _) _ hj, rfl,
      fun j hj => (modMe_tile ..).trans (tile_modTile_ne s _ hj),
      fun p => (congrArg (fun t : Tile => t.sram.byte p) (modMe_tile ..)).trans (landed_byte s at0 bs p)⟩
    exact (slot_modMe_cur (s.modTile (tileOf s.cur) _) _).symm ▸ hsettled (settle_settles rfl (fun _ _ => rfl) rfl)
  · refine ⟨_, _, execCfetchFailure_fails hq hs hf, ⟨slot_modMe_cur s _, fun j hj => slot_modMe_ne s _ hj, rfl⟩,
      hsettled (settle_settles rfl (fun j hj => ?_) ?_)⟩
    · exact slot_seg_modSeg_ne x _ hj
    · exact slot_seg_modSeg_self x k _

end
end Sys2Proof.Machine
end

section
/-! PROOFS of the channels' statements: the burst instructions (O18, O19), `chctl` (O20), port operands (O21), what a slot's engines do
besides starting words (O49), and the link's and the detector's events (O51). -/

namespace Sys2Proof.Machine

-- One proof at a time, for the check's memory limit.
set_option Elab.async false

section
/-! PROOFS (O51). As O50 does, the statement takes a message's channel by its place; the fabric finds the route by the channel's CHID. -/

/-- A credit of the generation of `strayChan`, for the channel at place 0. -/
def strayCredit : UalMsg :=
  { net := 0, chid := 0, gen := 0, seq := 0, kind := .credit, part := 0, count := 1, src := 0, dst := 0, data := [] }

/-- The packet that it becomes. -/
def strayCreditPkt : Pkt := { kind := .credit, gen := 0, seq := 0, count := 1, src := 0, dst := 0, node := none, data := [] }

/-- Refutes O51: the clause on credits takes the channel at place `m.chid` and has no premise that this place is its CHID (R147, R394). The
channel at place 0 of `strayState` has CHID 1: the credit goes to the route of CHID 1, and the channel at place 0 is left without the
packet that the clause claims on its route. -/
theorem not_linkAndTimeEvents : ¬ Obligations.LinkAndTimeEvents := by
  unfold Obligations.LinkAndTimeEvents
  rintro ⟨h, -⟩
  obtain ⟨hm, -⟩ := h strayState 0
  obtain ⟨-, -, hcredit, -⟩ := hm strayCredit strayChan rfl
  obtain ⟨t, ht, -, hc⟩ := hcredit rfl rfl
  have hsent : exec (.ualinkWriteRequest 0 strayCredit) strayState =
      .next ((launch strayState 0 strayChan strayCreditPkt false).modUal 0 fun u => { u with acks := u.acks ++ [(0, 0, 0)] }) := rfl
  cases hsent.symm.trans ht
  have hstays : (launch strayState 0 strayChan strayCreditPkt false).chan? 0 0 = some strayChan := launch_chan_ne (by decide) _ _
  exact List.cons_ne_nil _ _ (congrArg Chan.transit (Option.some.inj (hc.symm.trans hstays)))

end

section
/-! PROOFS (O19). An instruction at its commit point performs what is held before it ends, a held send of the burst's own port among it. -/

/-- A channel without readers, at the place of its CHID. -/
def lateChan : Chan := { strayChan with chid := 0, readers := [] }

/-- A process at its commit point whose send to port 0 is held still: the port has sent nothing yet. -/
def lateState : State :=
  { cur := 0
    nets := [{ strayNet with chans := [lateChan] }]
    slots := [(0, { id := { loaded := true }, ports := [(0, { bound := true, isW := true })], eng := { hist := [⟨0, .send 0 []⟩] } })] }

/-- Its `sendb` has nothing to send: gb is 0. -/
theorem lateState_sendb : exec (.sendb 32 1 2) lateState = .next (finishG lateState lateState.pcNext) := rfl

/-- The end of that instruction performs the held send. -/
theorem lateState_sent : (((finishG lateState lateState.pcNext).slot 0).port 0).seq = 1 := rfl

/-- Refutes O19: `moved` says that the port's SEQ has gone on by the m slots of the burst alone, with no premise that the port has no
send held. In `lateState` a send of the same port is held, the process stands at its commit point, and `sendb` has no slot to send: at its
end the held send is performed, and SEQ is 1 where the statement has 0. -/
theorem not_sendbCompletes : ¬ Obligations.SendbCompletes := by
  unfold Obligations.SendbCompletes
  intro h
  obtain ⟨-, -, -, hgo⟩ := h lateState 32 1 2 rfl rfl
  obtain ⟨-, -, -, -, -, hmoves⟩ := hgo lateChan { strayNet with chans := [lateChan] } rfl rfl rfl rfl rfl
  have hclean : StoresClean lateState lateState.cur := fun _ hx => absurd hx List.not_mem_nil
  obtain ⟨hall, -⟩ := hmoves 0 rfl (fun hb => absurd hb.1 (Nat.lt_irrefl 0)) rfl (fun hb => absurd hb.1 (Nat.lt_irrefl 0)) hclean
    (.inl rfl) (Nat.le_refl 0) (fun _ _ => Nat.zero_le _)
  obtain ⟨t, ht, -, -, -, -, hseq, -⟩ := hall rfl
  cases lateState_sendb.symm.trans ht
  exact absurd (lateState_sent.symm.trans hseq) (by decide)

end

section
/-! PROOFS (O21). What the frame of a generator instruction (`genOp`) does with the one port operand of an instruction: its static check
(R134), then its state (R135, R136). -/

variable {s : State} {srcs pre post : List Opnd} {o d : Opnd} {dst : Option Opnd} {k : List Word → State → Body} {c : Chan}

/-! ## Where the frame stops -/

theorem genOp_reserved (h : (srcs ++ dst.toList).any opReserved = true) : genOp s srcs dst k = trapG s .badopnd s.instrWord none := by
  unfold genOp
  rw [if_pos h]

theorem genOp_unchecked {e : Cause} {n : Nat} (h : (srcs ++ dst.toList).any opReserved = false) (hc : portChecks s srcs dst = some (e, n)) :
    genOp s srcs dst k = trapG s e (BitVec.ofNat 64 n) none := by
  unfold genOp
  rw [h, hc]
  rfl

theorem genOp_unready_trap {e : Cause} {fw : Word} (h : (srcs ++ dst.toList).any opReserved = false) (hc : portChecks s srcs dst = none)
    (hr : portsReady s srcs dst = .trap e fw) : genOp s srcs dst k = trapG s e fw none := by
  unfold genOp
  rw [h, hc, hr]
  rfl

theorem genOp_unready_wait {w : Wait} (h : (srcs ++ dst.toList).any opReserved = false) (hc : portChecks s srcs dst = none)
    (hr : portsReady s srcs dst = .wait w) : genOp s srcs dst k = waitG s w := by
  unfold genOp
  rw [h, hc, hr]
  rfl

section
variable {i : Instr} (hi : exec i s = genOp s srcs dst k) (hS : s.me.atS = false) (hnamed : (srcs ++ dst.toList).any opReserved = false)
include hi hS hnamed

/-- R134: the check of the one port that is looked at fails. -/
theorem exec_unchecked_traps {n : Nat} {wr : Bool} {e : Cause}
    (hone : portChecks s srcs dst = (portCheck s s.cur n wr).map fun c => (c, n)) (he : e ≠ .eccfatal) (hp : e ≠ .preempt)
    (h : portCheck s s.cur n wr = some e) : Traps (exec i s) s e (BitVec.ofNat 64 n) := by
  rw [hi, genOp_unchecked hnamed (hone.trans (congrArg _ h))]
  exact trapG_traps _ _ hS he hp

theorem exec_unready_traps {e : Cause} {fw : Word} (he : e ≠ .eccfatal) (hp : e ≠ .preempt) (hc : portChecks s srcs dst = none)
    (hr : portsReady s srcs dst = .trap e fw) : Traps (exec i s) s e fw := by
  rw [hi, genOp_unready_trap hnamed hc hr]
  exact trapG_traps _ _ hS he hp
end

/-! ## The static check of a port (R134) -/

theorem portCheck_unbound {i n : Nat} {wr : Bool}
    (h : ((s.slot i).port n).bound = false ∨ ((s.slot i).port n).isW ≠ wr ∨ portMapped (s.slot i).vec.smap n = true) :
    portCheck s i n wr = some .portunbound := by
  unfold portCheck
  exact if_pos (by rcases h with h | h | h <;> simp [h])

section
variable {i n : Nat} {wr : Bool} (hb : ((s.slot i).port n).bound = true) (hw : ((s.slot i).port n).isW = wr)
  (hm : portMapped (s.slot i).vec.smap n = false) (hc : s.chan? ((s.slot i).port n).net ((s.slot i).port n).ch = some c)
include hb hw hm hc

/-- A port that is bound, of the direction and not mapped. -/
theorem portCheck_bound : portCheck s i n wr =
    if c.size ≠ 8 then some .portsize else if wr && (s.slot i).writeClosed n then some .endstream else none := by
  unfold portCheck
  simp only [hb, hw, hm, hc, Bool.not_true, bne_self_eq_false, Bool.or_false, Bool.false_eq_true, if_false]

theorem portCheck_size (h : c.size ≠ 8) : portCheck s i n wr = some .portsize := (portCheck_bound hb hw hm hc).trans (if_pos h)

theorem portCheck_closed (h : c.size = 8) (hwr : wr = true) (hcl : (s.slot i).writeClosed n = true) :
    portCheck s i n wr = some .endstream := by
  rw [portCheck_bound hb hw hm hc, if_neg (not_not_intro h), hwr, hcl]
  rfl

theorem portCheck_passes (h : c.size = 8) (hcl : wr = true → (s.slot i).writeClosed n = false) : portCheck s i n wr = none := by
  rw [portCheck_bound hb hw hm hc, if_neg (not_not_intro h)]
  exact if_neg fun hx => by simp_all
end

/-! ## The one port operand among the sources -/

/-- Operands that are no ports pass the check. -/
theorem findSome?_noPorts {α : Type} {l : List Opnd} {f : Opnd → Option α} (h : ∀ q ∈ l, opIsPort q = false) :
    l.findSome? (fun q => if opIsPort q then f q else none) = none :=
  List.findSome?_eq_none_iff.mpr fun q hq => if_neg (by rw [h q hq]; exact Bool.false_ne_true)

theorem portChecks_source (hpre : ∀ q ∈ pre, opIsPort q = false) (ho : opIsPort o = true) (hpost : ∀ q ∈ post, opIsPort q = false)
    (hd : opIsPort d = false) :
    portChecks s (pre ++ o :: post) (some d) = (portCheck s s.cur (opPort o) false).map fun c => (c, opPort o) := by
  unfold portChecks
  simp only [List.findSome?_append, List.findSome?_cons, findSome?_noPorts hpre, findSome?_noPorts hpost, ho, if_true, Option.none_or]
  cases portCheck s s.cur (opPort o) false with
  | none => simp [hd]
  | some e => rfl

/-- Operands that are no ports are ready. -/
theorem portsReady_go_noPorts (hpre : ∀ q ∈ pre, opIsPort q = false) (seen : List Opnd) :
    portsReady.go s dst seen (pre ++ post) = portsReady.go s dst (pre.reverse ++ seen) post := by
  induction pre generalizing seen with
  | nil => rfl
  | cons q l ih =>
    have hq : opIsPort q = false := hpre q List.mem_cons_self
    rw [List.cons_append, portsReady.go, hq]
    simp only [Bool.false_eq_true, if_false, ih fun r hr => hpre r (List.mem_cons_of_mem _ hr), List.reverse_cons, List.append_assoc,
      List.singleton_append]

/-- R135: the first port among the sources decides, where it is not at hand. -/
theorem portsReady_source {r : Ready} (hpre : ∀ q ∈ pre, opIsPort q = false) (ho : opIsPort o = true)
    (hr : readReady s s.cur (opPort o) 0 = r) (hgo : r ≠ .go) : portsReady s (pre ++ o :: post) dst = r := by
  have hcount : (pre.reverse ++ []).countP (fun x => x == o) = 0 := List.countP_eq_zero.mpr fun q hq => by
    have hq := hpre q (by simpa using hq)
    rintro he
    rw [eq_of_beq he, ho] at hq
    exact absurd hq Bool.noConfusion
  unfold portsReady
  rw [portsReady_go_noPorts hpre, portsReady.go, if_pos ho, hcount, hr]
  cases r with
  | go => exact absurd rfl hgo
  | wait w => rfl
  | trap e fw => rfl

section
variable {i n : Nat} (hc : s.chan? ((s.slot i).port n).net ((s.slot i).port n).ch = some c)
include hc

theorem readReady_fin (hr : ((s.slot i).port n).readAt c ((s.slot i).port n).k = .fin) (ht : c.eostol = false) :
    readReady s i n 0 = .trap .endstream (BitVec.ofNat 64 n) := by
  unfold readReady
  simp only [hc, Nat.add_zero, hr, ht, Bool.false_eq_true, if_false]

theorem readReady_diff (hr : ((s.slot i).port n).readAt c ((s.slot i).port n).k = .diff) :
    readReady s i n 0 = .trap .mirrordiff (BitVec.ofNat 64 c.chid) := by
  unfold readReady
  simp only [hc, Nat.add_zero, hr]

theorem readReady_severed (hr : ((s.slot i).port n).readAt c ((s.slot i).port n).k = .sev) :
    readReady s i n 0 = .trap .severed (BitVec.ofNat 64 n) := by
  unfold readReady
  simp only [hc, Nat.add_zero, hr]

theorem readReady_empty (hr : ((s.slot i).port n).readAt c ((s.slot i).port n).k = .empty) : readReady s i n 0 = .wait (.readPort n 0) := by
  unfold readReady
  simp only [hc, Nat.add_zero, hr]
end

/-! ## The port as destination -/

theorem portChecks_dest (hs : ∀ q ∈ srcs, opIsPort q = false) (hd : opIsPort d = true) :
    portChecks s srcs (some d) = (portCheck s s.cur (opPort d) true).map fun c => (c, opPort d) := by
  unfold portChecks
  simp only [findSome?_noPorts hs, Option.bind_some, hd, if_true]

theorem portsReady_dest (hs : ∀ q ∈ srcs, opIsPort q = false) (hd : opIsPort d = true) :
    portsReady s srcs (some d) = writeReady s s.cur (opPort d) := by
  unfold portsReady
  rw [← List.append_nil srcs, portsReady_go_noPorts hs, portsReady.go]
  simp only [hd, if_true]

/-- A minimum of counts, one of which is 0. -/
theorem foldl_min_zero {α : Type} (f : α → Nat) (l : List α) (m : Nat) (h : m = 0 ∨ ∃ r ∈ l, f r = 0) :
    l.foldl (fun m r => min m (f r)) m = 0 := by
  induction l generalizing m with
  | nil => simpa using h
  | cons q l ih =>
    refine ih _ ?_
    rcases h with rfl | ⟨r, hr, h0⟩
    · exact .inl (Nat.zero_min _)
    · rcases List.mem_cons.mp hr with rfl | hr
      · exact .inl (by show min m (f r) = 0; rw [h0, Nat.min_zero])
      · exact .inr ⟨r, hr, h0⟩

/-- R151: a write port without a place free at some live reader is full. -/
theorem freeCount_full {p : Port} {w : Net} (h : ∃ r ∈ c.liveReaders w, p.free.getD r 0 = 0) : p.freeCount c w = some 0 := by
  obtain ⟨r, hr, h0⟩ := h
  unfold Port.freeCount
  cases hl : c.liveReaders w with
  | nil => exact absurd (hl ▸ hr) List.not_mem_nil
  | cons q l =>
    refine congrArg some (foldl_min_zero (fun r => p.free.getD r 0) l _ ?_)
    rcases List.mem_cons.mp (hl ▸ hr) with rfl | hr
    · exact .inl h0
    · exact .inr ⟨r, hr, h0⟩

section
variable {i n : Nat} {w : Net} (hc : s.chan? ((s.slot i).port n).net ((s.slot i).port n).ch = some c)
  (hn : s.nets[((s.slot i).port n).net]? = some w)
include hc hn

theorem writeReady_severed (h : ((s.slot i).port n).sev = true) : writeReady s i n = .trap .severed (BitVec.ofNat 64 n) := by
  unfold writeReady
  simp only [hc, hn, h, if_true]

theorem writeReady_full (h : ((s.slot i).port n).sev = false) (hf : ∃ r ∈ c.liveReaders w, ((s.slot i).port n).free.getD r 0 = 0) :
    writeReady s i n = .wait (.writePort n) := by
  unfold writeReady
  simp only [hc, hn, h, freeCount_full hf, Bool.false_eq_true, if_false, Nat.lt_irrefl]
end

/-- Settles O21: an instruction with one port operand stops at that port's check, or else at that port's state. -/
theorem portOperandTraps : Obligations.PortOperandTraps := by
  unfold Obligations.PortOperandTraps
  intro s d a b hS reads writes
  have hreads : ∀ {i : Instr} {pre post : List Opnd} {o : Opnd} {k}, exec i s = genOp s (pre ++ o :: post) (some d) k →
      ((pre ++ o :: post) ++ [d]).any opReserved = false → (∀ q ∈ pre, opIsPort q = false) → opIsPort o = true →
      (∀ q ∈ post, opIsPort q = false) → opIsPort d = false → reads i o := by
    intro i pre post o k hi hnamed hpre ho hpost hd
    have hcheck := portChecks_source (s := s) hpre ho hpost hd
    have fails := fun {e} => exec_unchecked_traps (e := e) hi hS hnamed hcheck
    refine ⟨fun h => fails (by decide) (by decide) (portCheck_unbound (h.imp_right (Or.imp_left (ne_of_eq_of_ne · Bool.noConfusion)))),
      fun c hb hw hm hc => ⟨fun h => fails (by decide) (by decide) (portCheck_size hb hw hm hc h), fun h => ?_⟩⟩
    have hnone := hcheck.trans (congrArg _ (portCheck_passes hb hw hm hc h (fun h => absurd h Bool.false_ne_true)))
    have stops {e : Cause} {fw : Word} (he : e ≠ .eccfatal) (hp : e ≠ .preempt) (h : readReady s s.cur (opPort o) 0 = .trap e fw) :
        Traps (exec i s) s e fw :=
      exec_unready_traps hi hS hnamed he hp hnone (portsReady_source hpre ho h Ready.noConfusion)
    refine ⟨fun hr ht => stops (by decide) (by decide) (readReady_fin hc hr ht),
      fun hr => stops (by decide) (by decide) (readReady_diff hc hr),
      fun hr => stops (by decide) (by decide) (readReady_severed hc hr), fun hr => ?_⟩
    rw [hi, genOp_unready_wait hnamed hnone (portsReady_source hpre ho (readReady_empty hc hr) Ready.noConfusion)]
    exact waitG_waits s _
  have hwrites : ∀ {i : Instr} {srcs : List Opnd} {k}, exec i s = genOp s srcs (some d) k → (srcs ++ [d]).any opReserved = false →
      (∀ q ∈ srcs, opIsPort q = false) → opIsPort d = true → writes i d := by
    intro i srcs k hi hnamed hsrcs hd
    have hcheck := portChecks_dest (s := s) hsrcs hd
    have fails := fun {e} => exec_unchecked_traps (e := e) hi hS hnamed hcheck
    refine ⟨fun h => fails (by decide) (by decide) (portCheck_unbound (h.imp_right (Or.imp_left (ne_of_eq_of_ne · Bool.noConfusion)))),
      fun c w hb hw hm hc hn => ⟨fun h => fails (by decide) (by decide) (portCheck_size hb hw hm hc h),
        fun h => ⟨fun hcl => fails (by decide) (by decide) (portCheck_closed hb hw hm hc h rfl hcl), fun hcl => ?_⟩⟩⟩
    have hnone := hcheck.trans (congrArg _ (portCheck_passes hb hw hm hc h fun _ => hcl))
    have hready := portsReady_dest (s := s) hsrcs hd
    refine ⟨fun hsev => ?_, fun hsev hfull => ?_⟩
    · exact exec_unready_traps hi hS hnamed (by decide) (by decide) hnone (hready.trans (writeReady_severed hc hn hsev))
    · rw [hi, genOp_unready_wait hnamed hnone (hready.trans (writeReady_full hc hn hsev hfull))]
      exact waitG_waits s _
  have hclz : exec (.clz d a) s = genOp s [a] (some d) fun vs t => .ok (clzW (vs.getD 0 0)) s.pcNext t := rfl
  have hadd : exec (.add d a b) s = genOp s [a, b] (some d) fun vs t => .ok (vs.getD 0 0 + vs.getD 1 0) s.pcNext t := rfl
  refine ⟨fun h => ?_, fun hrd hra hrb => ⟨fun ha hd hb => ⟨?_, ?_⟩, fun hb hd ha => ?_, fun hd ha hb => ⟨?_, ?_⟩⟩⟩
  · rw [hclz, genOp_reserved (by simpa using h)]
    exact trapG_traps _ _ hS (by decide) (by decide)
  · exact hreads (pre := []) (post := []) hclz (by simp [hra, hrd]) (by simp) ha (by simp) hd
  · exact hreads (pre := []) (post := [b]) hadd (by simp [hra, hrb, hrd]) (by simp) ha (by simpa using hb) hd
  · exact hreads (pre := [a]) (post := []) hadd (by simp [hra, hrb, hrd]) (by simpa using ha) hb (by simp) hd
  · exact hwrites (srcs := [a]) hclz (by simp [hra, hrd]) (by simpa using ha) hd
  · exact hwrites (srcs := [a, b]) hadd (by simp [hra, hrb, hrd]) (by simp [ha, hb]) hd

end

section
/-! PROOFS (O20). `chctl`: what is logged or cleared in the slot, and the close that the commit point performs. -/

variable {s : State} {p d : Opnd}

/-! ## The end of an instruction that has changed its slot alone -/

theorem finishG_modMe {f : Slot → Slot} {pc : Word} (hc : StoresClean s s.cur) (hk : Kept s.cur (fun _ _ => False) s (s.modMe f))
    (hgen : (f s.me).gen = s.me.gen) (hst : (f s.me).eng.stores = s.me.eng.stores) (hbank : (f s.me).bank = s.me.bank) :
    Issued s (finishG (s.modMe f) pc) pc ∧ Kept s.cur (heldBytes s s.cur) s (finishG (s.modMe f) pc) ∧
      GKept s.cur none s (finishG (s.modMe f) pc) ∧ ((finishG (s.modMe f) pc).slot s.cur).vec.eos = (f s.me).vec.eos := by
  have hme : (s.modMe f).slot s.cur = f s.me := slot_modMe_cur s f
  have hstores : ((s.modMe f).slot s.cur).eng.stores = (s.slot s.cur).eng.stores := hme.symm ▸ hst
  obtain ⟨hissued, hkept, hb, heos⟩ := finishG_after (pc := pc) hk (hc.congr hk hstores) ((me_modMe s f).symm ▸ hgen) fun h hh =>
    .inl (hstores ▸ hh)
  rw [hme] at hb heos
  refine ⟨hissued, hkept.weaken fun _ _ h => h.resolve_right id, ?_, heos⟩
  constructor <;> intros <;> rw [hb, hbank] <;> rfl

theorem atPc_eng (s : State) (pc : Word) : ((atPc s pc).slot s.cur).eng = (s.slot s.cur).eng := by rw [atPc_slot]

/-! ## The commit of a close -/

/-- R36: a port closed stays closed at the end of a process. -/
theorem commitExit_closed {i n : Nat} (h : ((s.slot i).port n).closed = true) : (((commitExit s i).slot i).port n).closed = true := by
  rw [commitExit_slot]
  exact ((portsClosed_steady s i).port n).closed h

/-- R145: with no word unretired, the commit point performs the close logged last. -/
theorem commitSlot_closes {i n pos : Nat} {l : List HistE} (hc : DueClean s i) (hi : (s.slot i).eng.idle = true)
    (hh : (s.slot i).eng.hist = l ++ [⟨pos, .close n⟩]) : (((commitSlot s i).slot i).port n).closed = true := by
  have hperformed : (((performed s i).slot i).port n).closed = true := by
    rw [performed_slot hc, effectsDone_concat ((dueHist_of_idle hi).trans hh)]
    exact Steady.closePort_closed _ i n
  rw [commitSlot_eq]
  split
  · exact commitExit_closed hperformed
  · exact hperformed

/-! ## The three forms -/

theorem chctlPort_bound {wr : Bool} (hb : (s.me.port (opPort p)).bound = true) (hw : (s.me.port (opPort p)).isW = wr) :
    chctlPort s p wr = some (s.me.port (opPort p)) := by
  unfold chctlPort
  dsimp only
  rw [hb, hw, beq_self_eq_true]
  rfl

section
variable (hp : opReserved p = false) (ho : OperandsOk s [] none) (hb : (s.me.port (opPort p)).bound = true)
include hp ho hb

/-- R145: a port closed before is left alone. -/
theorem execChctlClose_again (hw : (s.me.port (opPort p)).isW = true) (hcl : s.me.writeClosed (opPort p) = true) :
    execChctlClose p s = .next (finishG s s.pcNext) := by
  unfold execChctlClose
  rw [hp, if_neg Bool.false_ne_true]
  refine genOp_ok (v := 0) ho ?_
  dsimp only [takeSrcs]
  simp only [chctlPort_bound hb hw, hcl, if_true]

theorem execChctlClose_holds (hw : (s.me.port (opPort p)).isW = true) (hs : (s.me.port (opPort p)).sev = false)
    (hr : s.me.histFull 1 = false) (hcl : s.me.writeClosed (opPort p) = false) :
    execChctlClose p s = .next (finishG (s.modMe fun x => x.log (.close (opPort p))) s.pcNext) := by
  unfold execChctlClose
  rw [hp, if_neg Bool.false_ne_true]
  refine genOp_ok (v := 0) ho ?_
  dsimp only [takeSrcs]
  simp only [chctlPort_bound hb hw, hcl, hs, hr, Bool.false_eq_true, if_false]
  rfl

/-- A slot whose EOSBITS bit of a port is logged and cleared. -/
def Slot.clearEos (x : Slot) (n : Nat) : Slot :=
  { x.log (.eos n (x.vec.eos.getLsbD n)) with vec := { x.vec with eos := x.vec.eos &&& ~~~(1#16 <<< n) } }

theorem execChctlEosclr_clears (hw : (s.me.port (opPort p)).isW = false) (hs : s.me.streamReader (opPort p) = false)
    (hr : s.me.histFull 1 = false) :
    execChctlEosclr p s = .next (finishG (s.modMe fun x => x.clearEos (opPort p)) s.pcNext) := by
  unfold execChctlEosclr
  rw [hp, if_neg Bool.false_ne_true]
  refine genOp_ok (v := 0) ho ?_
  dsimp only [takeSrcs]
  simp only [chctlPort_bound hb hw, hs, hr, Bool.false_eq_true, if_false]
  rfl
end

/-- R145: the other bits stay. -/
theorem clearEos_getLsbD (x : Slot) (n k : Nat) :
    (x.clearEos n).vec.eos.getLsbD k = (x.vec.eos.getLsbD k && decide (k ≠ n)) := by
  show (x.vec.eos &&& ~~~(1#16 <<< n)).getLsbD k = _
  have hbit : k < 16 → (1#16 <<< n).getLsbD k = decide (k = n) := fun hk => by
    rw [BitVec.getLsbD_shiftLeft, BitVec.getLsbD_one]
    simp only [hk, decide_true, Bool.true_and, show 0 < 16 by decide]
    by_cases h : k = n
    · simp [h]
    · have : k < n ∨ k - n ≠ 0 := by omega
      simp [h]
      omega
  by_cases hk : k < 16
  · rw [BitVec.getLsbD_and, BitVec.getLsbD_not, hbit hk, decide_eq_true hk, Bool.true_and, decide_not]
  · rw [BitVec.getLsbD_of_ge _ _ (by omega), BitVec.getLsbD_of_ge _ _ (by omega), Bool.false_and]

theorem execChctlEosrd_reads (hp : opReserved p = false) (ho : OperandsOk s [] (some d)) (hb : (s.me.port (opPort p)).bound = true)
    (hw : (s.me.port (opPort p)).isW = false) (hs : s.me.streamReader (opPort p) = false) :
    Completes (execChctlEosrd d p s) s [] d (boolWord (s.me.vec.eos.getLsbD (opPort p))) (s.pc + 4) := by
  have hd : opReserved d = false := by simpa using ho.named
  unfold execChctlEosrd
  rw [hp, hd, Bool.or_false, if_neg Bool.false_ne_true, chctlPort_bound hb hw]
  refine genOp_completes ho ?_
  dsimp only [takeSrcs]
  rw [hs, if_neg Bool.false_ne_true]
  rfl

/-- Settles O20: a close is logged, and is the last effect that the commit point performs; the two other forms read and clear one bit. -/
theorem chctlResults : Obligations.ChctlResults := by
  unfold Obligations.ChctlResults
  intro s d p hp hport n port
  refine ⟨fun ho hb hw hs hr => ?_, fun ho hb hw hs => ?_, fun ho hb hw hs hr => ?_⟩
  · cases hcl : s.me.writeClosed n with
    | true =>
      obtain ⟨hissued, hkept, hg, -, -⟩ := finishG_spec s s.pcNext ho.clean
      exact ⟨_, execChctlClose_again hp ho hb hw hcl, hissued, hkept, hg none, fun h => absurd h Bool.noConfusion⟩
    | false =>
      have hk : Kept s.cur (fun _ _ => False) s (s.modMe fun x => x.log (.close n)) := kept_modSlot _ rfl rfl rfl rfl rfl rfl
      obtain ⟨hissued, hkept, hg, -⟩ := finishG_modMe (pc := s.pcNext) ho.clean hk rfl rfl rfl
      refine ⟨_, execChctlClose_holds hp ho hb hw hs hr hcl, hissued, hkept, hg, fun _ => ?_⟩
      have heng : ((atPc (s.modMe fun x => x.log (.close n)) s.pcNext).slot s.cur).eng = (s.me.log (.close n)).eng :=
        (atPc_eng (s.modMe fun x => x.log (.close n)) s.pcNext).trans (congrArg Slot.eng (slot_modMe_cur s _))
      have hclean := ho.clean.congr (hk.trans (atPc_kept (s.modMe fun x => x.log (.close n)) s.pcNext)) (by rw [heng]; rfl)
      exact ⟨⟨_, rfl, congrArg Eng.hist heng⟩, fun hi => commitSlot_closes hclean.due (heng ▸ hi) (congrArg Eng.hist heng)⟩
  · exact execChctlEosrd_reads hp ho hb hw hs
  · obtain ⟨hissued, hkept, hg, heos⟩ := finishG_modMe (pc := s.pcNext) (f := fun x => x.clearEos n) ho.clean
      (kept_modSlot _ rfl rfl rfl rfl rfl rfl) rfl rfl rfl
    exact ⟨_, execChctlEosclr_clears hp ho hb hw hs hr, hissued, hkept, hg, fun k => by rw [heos, clearEos_getLsbD]⟩

end

section
/-! PROOFS (O49). The events of a slot's engines: the sequencer of a replay (R195), the retirement of the oldest word that can (R172), and
the stream hold buffer (R140). -/

variable {s t : State} {x : Slot} {sd : Side} {w iw : Word}

/-! ## No judgement names a pre-emption

Cause 26 is no fault of a word; the refusals of R54, R209, R241, R249, R258, R287 and R193 have other causes. -/

/-- A judgement that, where it refuses, has the cause of a word's fault. -/
def Judged.Faults (j : Judged) : Prop := ∀ c fw, j = .bad c fw → c ≠ .preempt

namespace Judged.Faults

@[simp] theorem ok (h d : List Hull) : (Judged.ok h d).Faults := fun _ _ he => Judged.noConfusion he
@[simp] theorem wait (w : Wait) : (Judged.wait w).Faults := fun _ _ he => Judged.noConfusion he
@[simp] theorem bad_iff {c : Cause} {fw : Word} : (Judged.bad c fw).Faults ↔ c ≠ .preempt :=
  ⟨fun h => h c fw rfl, fun hc _ _ he => by cases he; exact hc⟩

theorem ite {p : Prop} [Decidable p] {a b : Judged} (ha : a.Faults) (hb : b.Faults) : (if p then a else b).Faults := by
  split
  · exact ha
  · exact hb

theorem both {a b : Judged} (ha : a.Faults) (hb : b.Faults) : (a.both b).Faults := by
  unfold Judged.both
  split
  · exact ok _ _
  · exact hb
  · exact ha

@[simp] theorem judgeVec (i : Instr) : (judgeVec x w i).Faults := by
  unfold Machine.judgeVec
  exact ite (ok _ _) (by simp)

@[simp] theorem judgeAccess (f : MemF) (str ind wr scadd : Bool) : (judgeAccess x sd w f str ind wr scadd).Faults := by
  unfold Machine.judgeAccess
  dsimp only
  repeat' split
  all_goals simp

theorem judgePanel (src : BitVec 1) (e d n : Nat) : (judgePanel sd src e d n).Faults := by
  unfold Machine.judgePanel
  dsimp only
  repeat' split
  all_goals simp

@[simp] theorem judgeMat (j : Nat) (i : Instr) : (judgeMat s j sd w iw i).Faults := by
  unfold Machine.judgeMat
  dsimp only
  split
  · simp
  split
  case h_1 =>
    split
    · simp
    · exact both (judgePanel _ _ _ _) (judgePanel _ _ _ _)
  all_goals
    repeat' split
    all_goals simp

theorem judgeCopyAt (i : Instr) (a : Nat) : (judgeCopyAt x sd i a).Faults := by
  unfold Machine.judgeCopyAt
  dsimp only
  split
  · simp
  refine ite (by simp) ?_
  repeat' split
  all_goals simp

@[simp] theorem judgeCopy (j : Nat) (f : CopyF) (i : Instr) : (judgeCopy s j sd w iw f i).Faults := by
  unfold Machine.judgeCopy
  split
  · next d fw _ _ =>
    have hfo : (if f.fo = 0 then Judged.ok [] [] else if !s.ownsMatrix j then .bad .matrixnotowned iw else
        match decodeEng fw with
        | .ok (.mstep m) => Machine.judgeMat s j sd fw iw (.mstep m)
        | _ => .bad .badword w).Faults := by
      split
      · simp
      split
      · simp
      split
      · exact judgeMat _ _
      · simp
    dsimp only
    split
    · exact ite (by simp) (judgeCopyAt _ _)
    · simp
    · exact hfo
  · simp

@[simp] theorem judgeReplay (q : Queue) (e : Nat) : (judgeReplay x sd q e).Faults := by
  unfold Machine.judgeReplay
  dsimp only
  repeat' split
  all_goals simp

theorem judgeInstr (j : Nat) (q : Queue) (i : Instr) : (judgeInstr s j sd q w iw i).Faults := by
  unfold Machine.judgeInstr
  dsimp only
  split
  all_goals simp

theorem judgeWord (j : Nat) (q : Queue) : (judgeWord s j sd q w iw).Faults := by
  unfold Machine.judgeWord
  split
  · simp
  · split
    · exact judgeInstr _ _ _
    · simp

end Judged.Faults

/-! ## Faults at level E -/

/-- R189, R359, R109: a level-E fault of a word. -/
theorem raiseE_stopsE {e : QEntry} {c : Cause} {va : Option Word} (hc : c ≠ .preempt) : StopsE (.next (raiseE s s.cur e c va)) s e c va := by
  refine ⟨fun he hs => raiseE_faults e c va hs he hc, fun he hs hw => ⟨_, rfl, ?_⟩, fun he => ⟨_, rfl, ?_⟩⟩
  · have hdouble : raiseE s s.cur e c va = doubleFault s s.cur c true := by
      unfold raiseE raiseEW
      exact (if_neg (by simpa using he)).trans (if_pos hs)
    exact hdouble ▸ doubleFault_doubleFaulted hw _ _ _
  · exact he ▸ haltRegion_halted _ _ _ _

/-- From `s` to `s.modMe f` the slot that moves has become what `f` makes of it. -/
theorem modMe_becomes (s : State) (f : Slot → Slot) : SlotBecomes s (s.modMe f) s.cur (f s.me) :=
  ⟨slot_modMe_cur s f, fun _ hj => slot_modMe_ne s f hj, rfl⟩

/-! ## The sequencer of a replay (R195) -/

section
variable {r : Replay} {rep : QEntry}

/-- The word of the position. -/
def positionWord (s : State) (r : Replay) : Word := bodyWord (s.byteAt s.cur) r.pat r.head r.idx r.w

/-- R190, R195: its entry, before it is judged. -/
def positionEntry (s : State) (rep : QEntry) (r : Replay) : QEntry :=
  { rep with word := positionWord s r, sub := 2 * r.n, hulls := [], dhull := [], fo := none, stat := .queued, prog := {}
             iter := iterWord r.idx r.w }

/-- R195: the judgement at issue. -/
def positionJudged (s : State) (rep : QEntry) (r : Replay) : Judged :=
  judgeWord s s.cur (issueSide s s.cur rep.pos) r.q (positionWord s r) (positionWord s r)

/-- R181: the follow-on of the position. -/
def positionFollow (s : State) (rep : QEntry) (r : Replay) : Option Word := followOn (issueSide s s.cur rep.pos) (positionWord s r)

/-- The hulls of the follow-on. -/
def positionFollowHulls (s : State) (rep : QEntry) (r : Replay) : List Hull :=
  match positionFollow s rep r with
  | some fw => foHulls s s.cur (issueSide s s.cur rep.pos) fw
  | none => []

/-- What the issue appends: the word, and its follow-on behind it. -/
def positionIssued (s : State) (rep : QEntry) (r : Replay) (hulls dhull : List Hull) : List QEntry :=
  { positionEntry s rep r with hulls := hulls, dhull := dhull, fo := positionFollow s rep r } :: match positionFollow s rep r with
    | some fw => [{ positionEntry s rep r with
        word := fw, sub := 2 * r.n + 1, hulls := positionFollowHulls s rep r, stat := .reserved, q := .mq }]
    | none => []

theorem hullsInside_iff {lo hi : Nat} {l : List Hull} :
    hullsInside lo hi l = true ↔ ∀ h ∈ l, lo < hi ∧ sector lo ≤ h.lo ∧ h.hi ≤ sector (hi - 1) := by
  simp [hullsInside, and_assoc]

theorem issueWord_replay (h : isReplay (positionWord s r) = true) :
    issueWord s rep r = raiseE s s.cur (positionEntry s rep r) .badword none := if_pos h

section
variable (h : isReplay (positionWord s r) = false)
include h

theorem issueWord_bad {c : Cause} {fw : Word} (hj : positionJudged s rep r = .bad c fw) :
    issueWord s rep r = raiseE s s.cur (positionEntry s rep r) c none := by
  unfold positionJudged positionWord at hj
  unfold issueWord
  dsimp only
  rw [show isReplay (bodyWord (s.byteAt s.cur) r.pat r.head r.idx r.w) = false from h, if_neg Bool.false_ne_true, hj]
  rfl

theorem issueWord_wait {v : Wait} (hj : positionJudged s rep r = .wait v) : issueWord s rep r = s := by
  unfold positionJudged positionWord at hj
  unfold issueWord
  dsimp only
  rw [show isReplay (bodyWord (s.byteAt s.cur) r.pat r.head r.idx r.w) = false from h, if_neg Bool.false_ne_true, hj]

theorem issueWord_ok {hulls dhull : List Hull} (hj : positionJudged s rep r = .ok hulls dhull) : issueWord s rep r =
    if !hullsInside r.hbase r.hlimit (hulls ++ positionFollowHulls s rep r) then raiseE s s.cur (positionEntry s rep r) .descriptor none
    else s.modMe fun x => { x with eng := { x.eng with
      out := x.eng.out ++ positionIssued s rep r hulls dhull, replay := some { r.advance with n := r.n + 1 } } } := by
  unfold positionJudged positionWord at hj
  unfold issueWord
  dsimp only
  rw [show isReplay (bodyWord (s.byteAt s.cur) r.pat r.head r.idx r.w) = false from h, if_neg Bool.false_ne_true, hj]
  unfold positionFollowHulls positionIssued positionFollowHulls positionFollow positionWord
  cases followOn (issueSide s s.cur rep.pos) (bodyWord (s.byteAt s.cur) r.pat r.head r.idx r.w) <;> rfl
end

variable (hr : s.me.eng.replay = some r) (hf : s.me.eng.ordered.find? (fun w => w.stat == .waiting && isReplay w.word) = some rep)
  (hp : ∀ o ∈ s.me.eng.out, o.pos = rep.pos → o.isPast = true)
include hr hf hp

/-- R193, R195: the sequencer's step, once the word it issued last has passed its fault point. -/
theorem execReplayIssue_eq : execReplayIssue s =
    if r.nw ≤ r.w then .next (s.modMe fun x => { x with eng := { x.eng.mapWord rep (fun a => { a with stat := .passed }) with replay := none } })
    else if s.me.parking && r.w = 0 then .next s
    else if ((issueSide s s.cur rep.pos).blocked r.pat (8 * r.head.total)).isSome then .next s
    else if !bodyIssues (s.byteAt s.cur) r.pat r.head r.idx r.w then
      .next (s.modMe fun x => { x with eng := { x.eng with replay := some r.advance } })
    else .next (issueWord s rep r) := by
  have hpast : (s.me.eng.out.any fun o => o.pos == rep.pos && !o.isPast) = false := by
    simpa using fun o ho he => hp o ho he
  unfold execReplayIssue
  simp only [hr, hf, hpast, Bool.false_eq_true, if_false]
  rfl

theorem execReplayIssue_ends (h : r.nw ≤ r.w) : execReplayIssue s =
    .next (s.modMe fun x => { x with eng := { x.eng.mapWord rep (fun a => { a with stat := .passed }) with replay := none } }) :=
  (execReplayIssue_eq hr hf hp).trans (if_pos h)

variable (hw : r.w < r.nw) (hk : ¬ (s.me.parking = true ∧ r.w = 0))
include hw hk

theorem execReplayIssue_body : execReplayIssue s =
    if ((issueSide s s.cur rep.pos).blocked r.pat (8 * r.head.total)).isSome then .next s
    else if !bodyIssues (s.byteAt s.cur) r.pat r.head r.idx r.w then
      .next (s.modMe fun x => { x with eng := { x.eng with replay := some r.advance } })
    else .next (issueWord s rep r) := by
  rw [execReplayIssue_eq hr hf hp, if_neg (by omega), if_neg (by simpa using hk)]

theorem execReplayIssue_blocked (hb : ((issueSide s s.cur rep.pos).blocked r.pat (8 * r.head.total)).isSome = true) :
    execReplayIssue s = .next s := (execReplayIssue_body hr hf hp hw hk).trans (if_pos hb)

variable (hb : ((issueSide s s.cur rep.pos).blocked r.pat (8 * r.head.total)).isSome = false)
include hb

theorem execReplayIssue_skips (hi : bodyIssues (s.byteAt s.cur) r.pat r.head r.idx r.w = false) :
    execReplayIssue s = .next (s.modMe fun x => { x with eng := { x.eng with replay := some r.advance } }) := by
  rw [execReplayIssue_body hr hf hp hw hk, hb, hi]
  rfl

theorem execReplayIssue_issues (hi : bodyIssues (s.byteAt s.cur) r.pat r.head r.idx r.w = true) :
    execReplayIssue s = .next (issueWord s rep r) := by
  rw [execReplayIssue_body hr hf hp hw hk, hb, hi]
  rfl
end

/-! ## Retirement (R172) -/

section
variable {i : Nat} {v : State} {W : Nat → Nat → Prop}

/-- The entry of a word left, its follow-on awake. -/
def Slot.retired (x : Slot) (w : QEntry) : Slot := { x with eng := (x.eng.dropWord w).wakeFollow w }

/-- A word that retires leaves its slot as it was, the queues and what a replay has issued apart. -/
theorem retired_eng (x : Slot) (w : QEntry) : (x.retired w).eng =
    { x.eng with vq := (x.retired w).eng.vq, mq := (x.retired w).eng.mq, xq := (x.retired w).eng.xq, out := (x.retired w).eng.out } := rfl

theorem retireWord_eq (s : State) (i : Nat) (w : QEntry) : retireWord s i w = commitSlot (s.modSlot i fun x => x.retired w) i := rfl

/-- Of a slot whose queues, and what its replay has issued, were changed before the commit point did its work, the rest is kept. -/
theorem Kept.requeued {f : Slot → Slot} (h : Kept i W (s.modSlot i f) t) (hf : f (s.slot i) = { s.slot i with eng := (f (s.slot i)).eng })
    (he : (f (s.slot i)).eng = { (s.slot i).eng with vq := (f (s.slot i)).eng.vq, mq := (f (s.slot i)).eng.mq, xq := (f (s.slot i)).eng.xq
                                                     out := (f (s.slot i)).eng.out }) :
    Kept i W s ((withQueuesOf s t i).modSlot i fun y => { y with eng := { y.eng with out := (s.slot i).eng.out } }) := by
  have ht : ((withQueuesOf s t i).modSlot i fun y => { y with eng := { y.eng with out := (s.slot i).eng.out } }).slot i =
      { t.slot i with eng := { (t.slot i).eng with vq := (s.slot i).eng.vq, mq := (s.slot i).eng.mq, xq := (s.slot i).eng.xq
                                                   omask := (s.slot i).eng.omask, out := (s.slot i).eng.out } } := by
    rw [slot_modSlot_self]
    exact congrArg (fun y : Slot => { y with eng := { y.eng with out := (s.slot i).eng.out } }) (slot_modSlot_self t i _)
  have hs : (s.modSlot i f).slot i = { s.slot i with eng := (f (s.slot i)).eng } := (slot_modSlot_self s i f).trans hf
  refine { h with slots := fun j hj => ?_, id := ?_, gen := ?_, eng := ?_, vec := ?_, tr := ?_, other := ?_ }
  · have hsj := h.slots j hj
    rw [slot_modSlot_ne s f hj] at hsj
    rw [slot_modSlot_ne _ _ hj]
    exact (slot_modSlot_ne t _ hj : (withQueuesOf s t i).slot j = t.slot j).symm ▸ hsj
  all_goals rw [ht]
  · exact h.id.trans (by rw [hs])
  · exact h.gen.trans (by rw [hs])
  · dsimp only
    rw [h.eng, hs, he]
  · exact h.vec.trans (by rw [hs])
  · exact h.tr.trans (by rw [hs])
  · exact h.other.trans (by rw [hs]; rfl)

theorem retireWord_retired {e : QEntry} (hc : StoresClean s s.cur) :
    Retired s (retireWord s s.cur e) e ∧ ((retireWord s s.cur e).slot s.cur).bank = s.me.bank := by
  have hslot : (s.modSlot s.cur fun x => x.retired e).slot s.cur = s.me.retired e := slot_modSlot_self s s.cur _
  have hphys : ∀ a, ((s.modSlot s.cur fun x => x.retired e).slot s.cur).phys a = (s.slot s.cur).phys a := fun a => by rw [hslot]; rfl
  have hst : ((s.modSlot s.cur fun x => x.retired e).slot s.cur).eng.stores = (s.slot s.cur).eng.stores := by rw [hslot]; rfl
  have hcalm := commitSlot_calm _ s.cur (storesClean_congr hc hphys rfl hst)
  rw [← retireWord_eq] at hcalm
  have hkept := hcalm.toKept.weaken (heldBytes_congr (by rw [hslot]; rfl) hst · · |>.mp)
  refine ⟨⟨fun q => ?_, ?_, hkept.requeued rfl (retired_eng _ e)⟩, ?_⟩
  · rw [hkept.queue, hslot]
    rfl
  · rw [hkept.eng, hslot]
    rfl
  · rw [hcalm.bank, hslot]
    rfl

/-- R172: a word that is no copy and no replay leaves nothing behind but what its retirement does. -/
theorem execWordRetire_retires {e : QEntry} (hf : s.me.eng.ordered.find? s.me.retirable = some e) (hc : copyGathers e.word = none)
    (hr : isReplay e.word = false) : execWordRetire s = .next (retireWord s s.cur e) := by
  have hclose : closeDesc s e = s := by
    unfold closeDesc
    rw [hc]
  unfold execWordRetire
  rw [hf]
  simp only [hclose, hr, Bool.false_and, Bool.false_eq_true, if_false]
end
/-! ## What a send does to the fabric (R150) -/

/-- An operation that reads and changes the networks and the links alone, and reads the link keys. -/
def FabricOp (g : State → State) : Prop :=
  ∀ s u : State, s.nets = u.nets → s.ual = u.ual → s.keys = u.keys → g s = { s with nets := (g u).nets, ual := (g u).ual }

namespace FabricOp

variable {g h : State → State}

theorem frame (hg : FabricOp g) (s : State) : g s = { s with nets := (g s).nets, ual := (g s).ual } := hg s s rfl rfl rfl

theorem id : FabricOp fun s => s := fun s u hn hu _ => by rw [← hn, ← hu]

theorem comp (hh : FabricOp h) (hg : FabricOp g) : FabricOp fun s => h (g s) := fun s u hn hu hk => by
  have he := hg s u hn hu hk
  have hkeys : (g u).keys = u.keys := by rw [hg.frame u]
  refine (hh (g s) (g u) (by rw [he]) (by rw [he]) (by rw [he, hkeys]; exact hk)).trans ?_
  rw [he]

theorem ite {p : Prop} [Decidable p] (hg : FabricOp g) (hh : FabricOp h) : FabricOp fun s => if p then g s else h s := by
  by_cases hp : p
  · simpa only [hp, if_true] using hg
  · simpa only [hp, if_false] using hh

theorem foldl {α : Type} {f : State → α → State} (hf : ∀ a, FabricOp fun s => f s a) (l : List α) : FabricOp fun s => l.foldl f s := by
  induction l with
  | nil => exact id
  | cons a l ih => exact comp ih (hf a)

theorem of_fields (hf : ∀ s, g s = { s with nets := (g s).nets, ual := (g s).ual })
    (hc : ∀ s u : State, s.nets = u.nets → s.ual = u.ual → s.keys = u.keys → (g s).nets = (g u).nets ∧ (g s).ual = (g u).ual) :
    FabricOp g := fun s u hn hu hk => by
  obtain ⟨hnets, hual⟩ := hc s u hn hu hk
  rw [← hnets, ← hual]
  exact hf s

theorem modNet (k : Nat) (f : Net → Net) : FabricOp fun s => s.modNet k f :=
  of_fields (fun _ => rfl) fun _ _ hn hu _ => ⟨congrArg (fun l : List Net => l.modify k f) hn, hu⟩

theorem launchOut (k : Nat) (c : Chan) (m : Pkt) : FabricOp fun s => launchOut s k c m :=
  of_fields (fun _ => rfl) fun s u hn hu hk => ⟨hn, by
    have hlink : s.linkMsg false = u.linkMsg false := funext fun x => by
      unfold State.linkMsg State.chan? State.key
      rw [hn, hk]
    show Sparse.set {} s.ual c.uport { s.ualPort c.uport with sent := (s.ualPort c.uport).sent ++ (ualMsgs k c m).map (s.linkMsg false) } = _
    unfold State.ualPort
    rw [hlink, hu]
    rfl⟩

theorem launch (k : Nat) (c : Chan) (m : Pkt) (r : Bool) : FabricOp fun s => launch s k c m r := ite (launchOut _ _ _) (modNet _ _)

theorem launchHere (k : Nat) (c : Chan) (m : Nat → Pkt) : FabricOp fun s => launchHere s k c m := by
  refine foldl (fun r => ?_) _
  cases c.readers[r]? with
  | none => exact id
  | some e => exact ite id (launch _ _ _ _)

theorem launchReaders (k : Nat) (c : Chan) (m : Nat → Pkt) : FabricOp fun s => launchReaders s k c m := by
  unfold Machine.launchReaders
  cases c.firstAway with
  | none => exact launchHere _ _ _
  | some r => exact comp (launchOut _ _ _) (launchHere _ _ _)

theorem launchInput (k : Nat) (c : Chan) (lvl j : Nat) (m : Pkt) : FabricOp fun s => launchInput s k c lvl j m :=
  comp (ite (launch _ _ _ _) id) (ite (launchOut _ _ _) id)

end FabricOp

/-- R150, R305: the packets of a send of `d` from port `p`. -/
def sendPackets (p : Port) (c : Chan) (n : Net) (d : List Byte) (s : State) : State :=
  if (c.sev || p.sev) = true ∨ c.liveReaders n = [] then s
  else
    let k (r : Nat) (node : Option (Nat × Nat)) : Pkt :=
      { kind := .slot, gen := p.gen, seq := p.seq, count := 0, src := p.ix, dst := r, node := node, data := d }
    if c.reduce && !c.endpt then (launchInput s p.net c 0 p.ix (k 0 none)).modNet p.net fun n => { n with sent := n.sent + 1 }
    else (launchReaders s p.net c fun r => k r none).modNet p.net fun n => { n with sent := n.sent + c.readers.length }

theorem sendPackets_fabricOp (p : Port) (c : Chan) (n : Net) (d : List Byte) : FabricOp (sendPackets p c n d) :=
  FabricOp.ite .id (.ite (.comp (.modNet _ _) (.launchInput _ _ _ _ _)) (.comp (.modNet _ _) (.launchReaders _ _ _)))

/-- What a send leaves: its packets in the fabric, and in the slot the port's SEQ gone on; CLOSEDWR may have counted it. -/
structure Transmitted (i port : Nat) (p : Port) (c : Chan) (n : Net) (d : List Byte) (s t : State) : Prop where
  rest : t = { s with slots := t.slots, nets := (sendPackets p c n d s).nets, ual := (sendPackets p c n d s).ual }
  others : ∀ j, j ≠ i → t.slot j = s.slot j
  slot : t.slot i = { (s.slot i).modPort port fun p => { p with seq := p.seq + 1 } with
    vec := { (s.slot i).vec with closedwr := (t.slot i).vec.closedwr } }

theorem transmit_transmitted {i port : Nat} {p : Port} {c : Chan} {n : Net} (d : List Byte) (hp : (s.slot i).port port = p)
    (hc : s.chan? p.net p.ch = some c) (hn : s.nets[p.net]? = some n) : Transmitted i port p c n d s (transmit s i port d) := by
  obtain ⟨v, hv⟩ : ∃ v, v = s.modSlot i fun x => x.modPort port fun p => { p with seq := p.seq + 1 } := ⟨_, rfl⟩
  have hvi : v.slot i = (s.slot i).modPort port fun p => { p with seq := p.seq + 1 } := by rw [hv, slot_modSlot_self]
  have hvj : ∀ j, j ≠ i → v.slot j = s.slot j := fun j hj => by rw [hv, slot_modSlot_ne s _ hj]
  have hnets : v.nets = s.nets := by rw [hv]; rfl
  have hual : v.ual = s.ual := by rw [hv]; rfl
  have hkeys : v.keys = s.keys := by rw [hv]; rfl
  have hrest : v = { s with slots := v.slots } := by rw [hv]; rfl
  by_cases hq : c.sev || p.sev
  · have ht : transmit s i port d = v := by
      unfold transmit
      simp only [hp, hc, hn, hq, if_true, hv]
    have hs : sendPackets p c n d s = s := if_pos (.inl hq)
    rw [ht]
    exact ⟨by rw [hs]; exact hrest, hvj, by rw [hvi]; rfl⟩
  by_cases hl : c.liveReaders n = []
  · have ht : transmit s i port d = v.modSlot i fun x => { x with vec := { x.vec with closedwr := min 0xFFFFFFFF (x.vec.closedwr + 1) } } := by
      unfold transmit
      simp only [hp, hc, hn, hq, hl, if_true, if_false, hv, Bool.false_eq_true]
    have hs : sendPackets p c n d s = s := if_pos (.inr hl)
    rw [ht]
    refine ⟨by rw [hs, hv]; rfl, fun j hj => (slot_modSlot_ne v _ hj).trans (hvj j hj), ?_⟩
    rw [slot_modSlot_self, hvi]
    rfl
  · have ht : transmit s i port d = sendPackets p c n d v := by
      unfold transmit sendPackets
      simp only [hp, hc, hn, hq, hl, if_false, hv, Bool.false_eq_true, or_self]
    have hs := sendPackets_fabricOp p c n d v s hnets hual hkeys
    have hslot : ∀ j, (sendPackets p c n d v).slot j = v.slot j := fun j => by rw [hs]; rfl
    rw [ht]
    refine ⟨?_, fun j hj => (hslot j).trans (hvj j hj), ?_⟩
    · rw [hs, hrest]
    · rw [hslot, hvi]
      rfl

/-! ## The stream hold buffer (R140) -/

section
variable {h : HoldE} {rest : List HoldE} {b : List Byte} {bs : List (List Byte)} {c : Chan} {n : Net}
  (hh : s.me.eng.hold = h :: rest) (hb : h.slots = b :: bs)
  (ho : ∀ w ∈ s.me.eng.words, w.pos = h.pos → w.sub = h.sub → ∀ o ∈ s.me.eng.words, o.olderFor w = false)
  (hc : s.chan? (s.me.port h.port).net (s.me.port h.port).ch = some c) (hn : s.nets[(s.me.port h.port).net]? = some n)
include hh hb ho hc hn

/-- R140: the oldest entry of the hold buffer, once every older word has retired. -/
theorem execStreamSendRelease_eq : execStreamSendRelease s =
    if (s.me.port h.port).sev then .next (s.modMe fun x => { x with eng := { x.eng with hold := rest } })
    else if (s.me.port h.port).freeCount c n = some 0 then .next s
    else .next ((transmit (s.modMe fun x => x.modPort h.port Port.takeFree) s.cur h.port b).modMe fun x =>
      { x with eng := { x.eng with hold := if bs.isEmpty then rest else { h with slots := bs } :: rest } }) := by
  have holder : (match s.me.eng.words.find? fun w => w.pos == h.pos && w.sub == h.sub with
      | some w => s.me.eng.words.any fun o => o.olderFor w
      | none => false) = false := by
    cases hf : s.me.eng.words.find? fun w => w.pos == h.pos && w.sub == h.sub with
    | none => rfl
    | some w =>
      have hw := List.find?_some hf
      rw [Bool.and_eq_true, beq_iff_eq, beq_iff_eq] at hw
      exact List.any_eq_false.mpr fun o hm => by rw [ho w (List.mem_of_find?_eq_some hf) hw.1 hw.2 o hm]; exact Bool.false_ne_true
  unfold execStreamSendRelease
  dsimp only
  rw [hh]
  dsimp only
  rw [hc, hn, hb]
  exact if_neg fun he => Bool.false_ne_true (holder.symm.trans he)

/-- R140: on a severed port what is left is discarded. -/
theorem execStreamSendRelease_drops (hs : (s.me.port h.port).sev = true) :
    execStreamSendRelease s = .next (s.modMe fun x => { x with eng := { x.eng with hold := rest } }) :=
  (execStreamSendRelease_eq hh hb ho hc hn).trans (if_pos hs)

theorem execStreamSendRelease_sends (hs : (s.me.port h.port).sev = false) (hf : (s.me.port h.port).freeCount c n ≠ some 0) :
    execStreamSendRelease s = .next ((transmit (s.modMe fun x => x.modPort h.port Port.takeFree) s.cur h.port b).modMe fun x =>
      { x with eng := { x.eng with hold := if bs.isEmpty then rest else { h with slots := bs } :: rest } }) := by
  rw [execStreamSendRelease_eq hh hb ho hc hn, hs, if_neg Bool.false_ne_true, if_neg hf]
end

theorem sendKept_of_slot {i : Nat} (h : t = { s with slots := t.slots, nets := t.nets, ual := t.ual }) (hj : ∀ j, j ≠ i → t.slot j = s.slot j)
    (hi : t.slot i = { s.slot i with eng := (t.slot i).eng, ports := (t.slot i).ports
                                     vec := { (s.slot i).vec with closedwr := (t.slot i).vec.closedwr } }) : SendKept i s t := by
  obtain ⟨l, ns, us, rfl⟩ : ∃ l ns us, t = { s with slots := l, nets := ns, ual := us } := ⟨_, _, _, h⟩
  exact ⟨rfl, rfl, rfl, hi, fun j hne => hj j hne ▸ PortsCut.refl _, rfl, rfl, rfl, rfl, rfl, rfl, rfl, rfl, rfl, rfl, rfl, rfl, rfl, rfl,
    rfl, rfl, rfl⟩

/-- R140, R150: what a send from the hold buffer leaves: it is that of `transmit`, with one place less free. -/
theorem transmit_afterTakeFree {p : Nat} {c : Chan} {n : Net} {d : List Byte} (hold : List HoldE)
    (hc : s.chan? (s.me.port p).net (s.me.port p).ch = some c) (hn : s.nets[(s.me.port p).net]? = some n)
    (ht : t = (transmit (s.modMe fun x => x.modPort p Port.takeFree) s.cur p d).modMe fun x => { x with eng := { x.eng with hold := hold } }) :
    SendKept s.cur s t ∧ (t.slot s.cur).eng = { s.me.eng with hold := hold } ∧
      ((t.slot s.cur).port p).seq = (s.me.port p).seq + 1 ∧ ((t.slot s.cur).port p).free = (s.me.port p).free.map (fun g => g - 1) ∧
      (∀ q, q ≠ p → (t.slot s.cur).port q = s.me.port q) ∧
      t.nets = (transmit s s.cur p d).nets ∧ t.ual = (transmit s s.cur p d).ual := by
  obtain ⟨v, hv⟩ : ∃ v, v = s.modMe fun x => x.modPort p Port.takeFree := ⟨_, rfl⟩
  have hvi : v.slot s.cur = s.me.modPort p Port.takeFree := hv ▸ slot_modMe_cur s _
  have hvj : ∀ j, j ≠ s.cur → v.slot j = s.slot j := fun j hj => hv ▸ slot_modMe_ne s _ hj
  have hrest : v = { s with slots := v.slots } := by rw [hv]; rfl
  have hnets : v.nets = s.nets := by rw [hrest]
  have hport : (v.slot s.cur).port p = (s.me.port p).takeFree := by rw [hvi, slot_port_modPort_self]
  have hs := transmit_transmitted d rfl hc hn
  have hsent := transmit_transmitted (s := v) d hport (by unfold State.chan?; rw [hnets]; exact hc) (hnets ▸ hn)
  have hsame := sendPackets_fabricOp (s.me.port p) c n d v s hnets (by rw [hrest]) (by rw [hrest])
  rw [← hv] at ht
  generalize hw : transmit v s.cur p d = w at ht hsent
  have hwcur : w.cur = s.cur := by rw [hsent.rest, hrest]
  have hti : t.slot s.cur = { w.slot s.cur with eng := { (w.slot s.cur).eng with hold := hold } } := by
    rw [ht, ← hwcur]
    exact slot_modMe_cur w _
  have htj : ∀ j, j ≠ s.cur → t.slot j = s.slot j := fun j hj => by
    rw [ht, slot_modMe_ne w _ (by rw [hwcur]; exact hj), hsent.others j hj, hvj j hj]
  have hwi := hsent.slot
  rw [hvi] at hwi
  have htn : w.nets = t.nets := by rw [ht]; rfl
  have htu : w.ual = t.ual := by rw [ht]; rfl
  have hwrest : w = { v with slots := w.slots, nets := w.nets, ual := w.ual } := by rw [hsent.rest]
  have htrest : t = { s with slots := t.slots, nets := t.nets, ual := t.ual } := calc
    t = { w with slots := t.slots } := by rw [ht]; rfl
    _ = { v with slots := t.slots, nets := w.nets, ual := w.ual } := congrArg (fun y : State => { y with slots := t.slots }) hwrest
    _ = { s with slots := t.slots, nets := w.nets, ual := w.ual } :=
      congrArg (fun y : State => { y with slots := t.slots, nets := w.nets, ual := w.ual }) hrest
    _ = { s with slots := t.slots, nets := t.nets, ual := t.ual } := by rw [htn, htu]
  have hpackets : sendPackets (s.me.port p).takeFree c n d = sendPackets (s.me.port p) c n d := rfl
  have hports : ∀ q, (t.slot s.cur).port q = ((s.me.modPort p Port.takeFree).modPort p fun p => { p with seq := p.seq + 1 }).port q := fun q => by
    rw [hti, hwi]
    rfl
  refine ⟨sendKept_of_slot htrest htj ?_, ?_, ?_, ?_, fun q hq => ?_, ?_, ?_⟩
  · rw [hti, hwi]
    rfl
  · rw [hti, hwi]
    rfl
  · rw [hports, slot_port_modPort_self, slot_port_modPort_self]
    rfl
  · rw [hports, slot_port_modPort_self, slot_port_modPort_self]
    rfl
  · rw [hports, slot_port_modPort_ne _ _ hq, slot_port_modPort_ne _ _ hq]
  · rw [← htn, hsent.rest, hs.rest, hpackets, hsame]
    rfl
  · rw [← htu, hsent.rest, hs.rest, hpackets, hsame]
    rfl

/-- Settles O49: the sequencer's step case by case, a retirement, and a send from the hold buffer. -/
theorem engineEventResults : Obligations.EngineEventResults := by
  unfold Obligations.EngineEventResults
  intro s x i
  refine ⟨fun r rep hr hf hp => ⟨fun hw => ?_, fun hw hk hb => ?_, fun hw hk hb => ⟨fun hi => ?_, fun hi => ⟨fun hrep => ?_, fun hrep =>
    ⟨fun c fw hj => ?_, fun v hj => ?_, fun hulls dhull hj => ⟨fun hout => ?_, fun hin => ?_⟩⟩⟩⟩⟩,
    fun w hc hf hg hr => ?_, fun h rest b bs c n hh hb ho hc hn => ⟨fun hs => ?_, fun hs hf => ?_⟩⟩
  · exact ⟨_, execReplayIssue_ends hr hf hp hw, modMe_becomes s _⟩
  · exact execReplayIssue_blocked hr hf hp hw hk hb
  · exact ⟨_, execReplayIssue_skips hr hf hp hw hk hb hi, modMe_becomes s _⟩
  · rw [exec_replayIssue, execReplayIssue_issues hr hf hp hw hk hb hi, issueWord_replay hrep]
    exact raiseE_stopsE Cause.noConfusion
  · rw [exec_replayIssue, execReplayIssue_issues hr hf hp hw hk hb hi, issueWord_bad hrep hj]
    exact raiseE_stopsE (Judged.Faults.judgeWord _ _ c fw hj)
  · rw [exec_replayIssue, execReplayIssue_issues hr hf hp hw hk hb hi, issueWord_wait hrep hj]
  · have hinside : hullsInside r.hbase r.hlimit (hulls ++ positionFollowHulls s rep r) = false := by
      rw [← Bool.not_eq_true, hullsInside_iff]
      exact hout
    rw [exec_replayIssue, execReplayIssue_issues hr hf hp hw hk hb hi, issueWord_ok hrep hj, hinside]
    exact raiseE_stopsE Cause.noConfusion
  · have hinside : hullsInside r.hbase r.hlimit (hulls ++ positionFollowHulls s rep r) = true := hullsInside_iff.mpr hin
    have hissued := (issueWord_ok hrep hj).trans (if_neg (by rw [hinside]; exact Bool.false_ne_true))
    exact ⟨_, (execReplayIssue_issues hr hf hp hw hk hb hi).trans (congrArg _ hissued), modMe_becomes s _⟩
  · obtain ⟨hretired, hbank⟩ := retireWord_retired (e := w) hc
    exact ⟨_, execWordRetire_retires hf hg hr, hretired, hbank⟩
  · exact ⟨_, execStreamSendRelease_drops hh hb ho hc hn hs, modMe_becomes s _⟩
  · exact ⟨_, execStreamSendRelease_sends hh hb ho hc hn hs hf, transmit_afterTakeFree _ hc hn rfl⟩

end

section
/-! PROOFS (O18). `recvb`. First: a port's read cursor is moved by the instruction that takes a slot, and by no commit. -/

variable {s t u : State} {i : Nat}

/-- Credits owed by a port. -/
theorem foldl_owe {α : Type} (f : α → Nat × Nat) (l : List α) (p : Port) :
    l.foldl (fun q a => q.owe (f a).1 (f a).2) p = { p with owed := (l.foldl (fun q a => q.owe (f a).1 (f a).2) p).owed } :=
  List.foldlRecOn l _ (motive := fun q : Port => q = { p with owed := q.owed }) rfl fun q h a _ =>
    congrArg (fun r : Port => { r with owed := (q.owe (f a).1 (f a).2).owed }) h

/-- From `s` to `t` no read cursor of slot `i` has moved. -/
def CursorsStay (i : Nat) (s t : State) : Prop := ∀ n, ((t.slot i).port n).k = ((s.slot i).port n).k

namespace CursorsStay

theorem refl (s : State) : CursorsStay i s s := fun _ => rfl

theorem trans (h : CursorsStay i s t) (k : CursorsStay i t u) : CursorsStay i s u := fun n => (k n).trans (h n)

theorem foldl {α : Type} {f : State → α → State} (hf : ∀ s a, CursorsStay i s (f s a)) (l : List α) (s : State) :
    CursorsStay i s (l.foldl f s) := List.foldlRecOn l f (refl s) fun t h a _ => h.trans (hf t a)

theorem of_ports (h : (t.slot i).ports = (s.slot i).ports) : CursorsStay i s t := fun n => by
  unfold Slot.port
  rw [h]

theorem of_slots (h : t.slots = s.slots) : CursorsStay i s t := of_ports (by rw [slot_congr h])

/-- What is calm about another slot cuts at most legs off at this one. -/
theorem of_calm {W : Nat → Nat → Prop} (h : Calm (i + 1) W s t) : CursorsStay i s t := fun n => by
  obtain ⟨-, hp⟩ := h.toKept.slots i (Nat.ne_of_lt i.lt_succ_self)
  rw [hp n]

theorem modPort (p : Nat) (f : Port → Port) (hf : (f ((s.slot i).port p)).k = ((s.slot i).port p).k) :
    CursorsStay i s (s.modSlot i fun x => x.modPort p f) := fun n => by
  rw [slot_modSlot_self]
  by_cases hn : n = p
  · rw [hn, slot_port_modPort_self, hf]
  · rw [slot_port_modPort_ne _ _ hn]

theorem commitRead (p n : Nat) : CursorsStay i s (commitRead s i p n) := by
  unfold Machine.commitRead
  dsimp only
  split
  · exact refl s
  · next c hc =>
    refine (modPort p _ ?_).trans (of_slots rfl)
    split
    · exact (congrArg Port.k (foldl_owe (fun j => ((((s.slot i).port p).kc + j) % c.legs, 1)) (List.range n) ((s.slot i).port p)) :)
    · split
      · exact (congrArg Port.k (foldl_owe (fun w => (w, n)) (List.range c.writers.length) ((s.slot i).port p)) :)
      · rfl

theorem transmit (p : Nat) (d : List Byte) : CursorsStay i s (transmit s i p d) := by
  unfold Machine.transmit
  dsimp only
  split
  · refine (modPort p (fun p => { p with seq := p.seq + 1 }) rfl).trans ?_
    split
    · exact refl _
    · split
      · exact of_ports (by rw [slot_modSlot_self])
      · split
        · exact (of_calm (calm_launchInput (W := fun _ _ => True) _ _ _ _ _)).trans (of_slots rfl)
        · exact (of_calm (calm_launchReaders (W := fun _ _ => True) _ _ _)).trans (of_slots rfl)
  · exact refl s

theorem endContributor (n : Nat) (c : Chan) (w k : Nat) : CursorsStay i s (endContributor s n c w k) :=
  of_calm (calm_endContributor (W := fun _ _ => True) n c w k)

theorem closePort (p : Nat) : CursorsStay i s (closePort s i p) := by
  unfold Machine.closePort
  dsimp only
  split
  · exact refl s
  · refine (modPort p (fun p => { p with closed := true }) rfl).trans ?_
    split
    · exact refl _
    · split
      · split
        · exact (endContributor _ _ _ _).trans (of_slots rfl)
        · exact endContributor _ _ _ _
      · exact of_calm (calm_launchReaders (W := fun _ _ => True) _ _ _)

theorem modSeg (k : Nat) (f : Seg → Seg) : CursorsStay i s (s.modSlot i fun x => x.modSeg k f) :=
  of_ports (by rw [slot_modSlot_self]; rfl)

theorem noteFound (cs : List Conflict) : CursorsStay i s (noteFound s i cs) := by
  unfold Machine.noteFound
  split
  · exact refl s
  · exact of_calm (calm_noteConflicts (W := fun _ _ => True) _ _)

theorem sendFetch (k : Nat) : CursorsStay i s (sendFetch s i k) := by
  unfold Machine.sendFetch
  dsimp only
  split
  · exact refl s
  · next r hr =>
    have hupd : ∀ (t : State) (f : Seg → Seg), t.slots = s.slots → CursorsStay i s (t.modSlot i fun x => x.modSeg k f) := fun t f ht =>
      (of_slots ht).trans (modSeg k f)
    have ht := Walked.translate s (tileOf i) (s.slot i).id.tenant (s.slot i).id.world (vpnOf r.va.toNat) false false
    split
    · exact refl s
    split
    · next s1 h1 =>
      rw [h1] at ht
      refine hupd _ _ ?_
      split
      · exact ht.slots
      · exact (pageRequest_slots _ _ _).trans ht.slots
    · next h1 =>
      rw [h1] at ht
      exact hupd _ _ ht.slots
    · next s1 h1 =>
      rw [h1] at ht
      exact hupd _ _ (ht.trans ((Walked.chargeLeaf s1 _ _ _ _).trans (.takeImage _ _ _ _ _ _))).slots

theorem commitHeld (h : HistE) : CursorsStay i s (commitHeld s i h) := by
  unfold Machine.commitHeld
  split
  · exact commitRead _ _
  · exact transmit _ _
  · exact closePort _
  · exact (modSeg _ _).trans ((noteFound _).trans (sendFetch _))
  all_goals exact refl s

/-- No commit moves a read cursor. -/
theorem commitSlot (hc : DueClean s i) : CursorsStay i s (commitSlot s i) := by
  have hperformed : CursorsStay i s (performed s i) := by
    refine CursorsStay.trans (t := effectsDone s i) ?_ (of_ports (by rw [performed_slot hc]))
    exact CursorsStay.trans (of_ports (by rw [slot_modSlot_self]; rfl)) (foldl (fun _ h => commitHeld h) _ _)
  rw [commitSlot_eq]
  split
  · refine hperformed.trans (CursorsStay.trans (t := portsClosed (performed s i) i) ?_ (of_ports (by rw [commitExit_slot]; rfl)))
    refine foldl (fun t q => ?_) _ _
    split
    · exact closePort _
    · exact refl t
  · exact hperformed

end CursorsStay
/-! ## One slot taken (R143)

`recvOne` moves the cursor, owes the credit, stores the slot's bytes, and counts ga and gb on. -/

theorem commitRead_slot (s : State) (i p n : Nat) :
    (commitRead s i p n).slot i = { s.slot i with ports := ((commitRead s i p n).slot i).ports } := by
  unfold commitRead
  dsimp only
  split
  · rfl
  · rw [show ∀ (t : State) (k : Nat) (f : Net → Net), (t.modNet k f).slot i = t.slot i from fun _ _ _ => rfl, slot_modSlot_self]
    rfl

theorem commitRead_port (s : State) (i p n : Nat) :
    ((commitRead s i p n).slot i).port p = { (s.slot i).port p with
      kc := (((commitRead s i p n).slot i).port p).kc, owed := (((commitRead s i p n).slot i).port p).owed } := by
  unfold commitRead
  dsimp only
  split
  · rfl
  · next c _ =>
    rw [show ∀ (t : State) (k : Nat) (f : Net → Net), (t.modNet k f).slot i = t.slot i from fun _ _ _ => rfl, slot_modSlot_self,
      slot_port_modPort_self]
    split
    · rw [foldl_owe fun j => ((((s.slot i).port p).kc + j) % c.legs, 1)]
    · split
      · rw [foldl_owe fun w => (w, n)]
      · rfl

theorem chan_modNet (s : State) (k : Nat) (f : Net → Net) (hf : ∀ n, (f n).chans = n.chans) (net ch : Nat) :
    (s.modNet k f).chan? net ch = s.chan? net ch := by
  unfold State.chan?
  by_cases h : net = k
  · subst h
    cases hn : s.nets[net]? with
    | none => rw [show (s.modNet net f).nets[net]? = none by simp [State.modNet, hn]]
    | some n => rw [nets_modNet_self hn]; exact congrArg (·[ch]?) (hf n)
  · rw [nets_modNet_ne s f h]

theorem commitRead_chan (s : State) (i p n net ch : Nat) : (commitRead s i p n).chan? net ch = s.chan? net ch := by
  unfold commitRead
  dsimp only
  split
  · rfl
  · refine (chan_modNet _ _ _ ?_ net ch).trans rfl
    exact fun _ => rfl

/-- From `u` to `v` the slot that moves has taken a slot at port `p`, its credit owed: the cursor has gone on. -/
structure Consumed (p : Nat) (u v : State) : Prop where
  kept : Kept u.cur (fun _ _ => False) u v
  tiles : v.tiles = u.tiles
  slot : v.slot u.cur = { u.slot u.cur with ports := (v.slot u.cur).ports }
  port : (v.slot u.cur).port p = { (u.slot u.cur).port p with
    k := ((u.slot u.cur).port p).k + 1, kc := ((v.slot u.cur).port p).kc, owed := ((v.slot u.cur).port p).owed }
  chan : ∀ n c, v.chan? n c = u.chan? n c

/-- The state of `recvOne` before it stores. -/
def consumed (s : State) (p : Nat) : State := commitRead (s.modMe fun x => x.modPort p fun p => { p with k := p.k + 1 }) s.cur p 1

theorem consumed_consumed (s : State) (p : Nat) : Consumed p s (consumed s p) := by
  have hme := slot_modMe_cur s fun x => x.modPort p fun p => { p with k := p.k + 1 }
  refine ⟨?_, ?_, ?_, ?_, fun n c => commitRead_chan _ _ _ _ n c⟩
  · exact (kept_modSlot _ rfl rfl rfl rfl rfl rfl).trans (calm_commitRead p 1).toKept
  · exact (Tracks.commitRead (i := s.cur) (P := fun _ => True) s.cur p 1).tiles
  · unfold consumed
    rw [commitRead_slot, hme]
    rfl
  · unfold consumed
    rw [commitRead_port, hme, slot_port_modPort_self]
    rfl

/-- ga and gb counted on by one slot. -/
def Bank.stepped (k : Bank) (a b : Opnd) (size : Nat) : Bank :=
  (k.writeG a.toNat (k.readG a.toNat + BitVec.ofNat 64 size)).writeG b.toNat (k.readG b.toNat - 1)

theorem recvOne_eq (s : State) (p : Nat) (c : Chan) (a b : Opnd) : recvOne s p c a b =
    ((consumed s p).putBytesAt s.cur (s.me.bank.readG a.toNat).toNat (s.slotBytes s.cur c (s.me.port p).k)).modSlot s.cur fun x =>
      x.modBank fun k => k.stepped a b c.size := by
  have hcur : (consumed s p).cur = s.cur := (consumed_consumed s p).kept.cur
  have hone : recvOne s p c a b = burstStep ((consumed s p).putBytesAt (consumed s p).cur (s.me.bank.readG a.toNat).toNat
    (s.slotBytes s.cur c (s.me.port p).k)) a b c.size := rfl
  rw [hone]
  unfold burstStep State.modMe
  rw [putBytesAt_cur, hcur]
  rfl
theorem otherBank_modBank (x : Slot) (f : Bank → Bank) : (x.modBank f).otherBank = x.otherBank := by
  unfold Slot.otherBank Slot.modBank
  cases h : x.atS with
  | true => simp [Slot.atS] at h ⊢; simp [h]
  | false => simp [Slot.atS] at h ⊢; simp [h]

theorem kept_modBank {W : Nat → Nat → Prop} (f : Bank → Bank) : Kept i W s (s.modSlot i fun x => x.modBank f) :=
  kept_modSlot _ (by rw [slot_modBank_id]) (by rw [slot_modBank_gen]) (by rw [slot_modBank_eng]) (by rw [slot_modBank_vec])
    (slot_modBank_tr _ f) (otherBank_modBank _ f)

theorem modBank_slot (x : Slot) (f : Bank → Bank) : x.modBank f = { x with pb := (x.modBank f).pb, sb := (x.modBank f).sb } := by
  unfold Slot.modBank
  split
  · rfl
  · rfl

section
variable {k : Bank} {a b : Opnd} {size : Nat}

theorem stepped_readG_a (ha : a.toNat ≠ 0) (hab : a.toNat ≠ b.toNat) :
    (k.stepped a b size).readG a.toNat = k.readG a.toNat + BitVec.ofNat 64 size := by
  unfold Bank.stepped
  rw [bank_readG_writeG, if_neg fun h => hab h.1, bank_readG_writeG, if_pos ⟨rfl, ha⟩]

theorem stepped_readG_b (hb : b.toNat ≠ 0) : (k.stepped a b size).readG b.toNat = k.readG b.toNat - 1 := by
  unfold Bank.stepped
  rw [bank_readG_writeG, if_pos ⟨rfl, hb⟩]

theorem stepped_readG_ne {r : Nat} (h : r ≠ a.toNat) (h' : r ≠ b.toNat) : (k.stepped a b size).readG r = k.readG r := by
  unfold Bank.stepped
  rw [bank_readG_writeG, if_neg fun e => h' e.1, bank_readG_writeG, if_neg fun e => h e.1]
end

/-! ## The slots taken, one after another -/

section
variable {p n m : Nat} {c : Chan} {a b : Opnd}

/-- Where byte `l` of the `j`-th slot lands. -/
def recvInto (s : State) (c : Chan) (a : Opnd) (j l : Nat) : Option Nat :=
  s.me.phys ((s.me.bank.readG a.toNat + BitVec.ofNat 64 (j * c.size)).toNat + l)

/-- The bytes that the first `m` slots land in. -/
def recvBytes (s : State) (c : Chan) (a : Opnd) (m k q : Nat) : Prop :=
  k = tileOf s.cur ∧ ∃ j < m, ∃ l < c.size, recvInto s c a j l = some q

/-- None of the first `m` slots lands in a place that one of them is read from. -/
def RecvApart (s : State) (p : Nat) (c : Chan) (a : Opnd) (m : Nat) : Prop :=
  ∀ j < m, ∀ l < c.size, ∀ i < m, ∀ d < c.size, recvInto s c a j l ≠ some (s.me.id.base * 4096 + c.place ((s.me.port p).k + i) + d)

/-- From `s` to `u`, with gb at `n` before, `m` slots have been taken at port `p` and stored. -/
structure Received (s : State) (p : Nat) (c : Chan) (a b : Opnd) (n m : Nat) (u : State) : Prop where
  kept : Kept s.cur (recvBytes s c a m) s u
  ga : (u.slot s.cur).bank.readG a.toNat = s.me.bank.readG a.toNat + BitVec.ofNat 64 (m * c.size)
  gb : (u.slot s.cur).bank.readG b.toNat = BitVec.ofNat 64 (n - m)
  others : ∀ r, r ≠ a.toNat → r ≠ b.toNat → (u.slot s.cur).bank.readG r = s.me.bank.readG r
  slot : u.slot s.cur = { s.me with pb := (u.slot s.cur).pb, sb := (u.slot s.cur).sb, ports := (u.slot s.cur).ports }
  port : (u.slot s.cur).port p = { s.me.port p with
    k := (s.me.port p).k + m, kc := ((u.slot s.cur).port p).kc, owed := ((u.slot s.cur).port p).owed }
  chan : ∀ n c, u.chan? n c = s.chan? n c
  bytes : RecvApart s p c a m → ∀ j < m, ∀ l < c.size, ∀ q, recvInto s c a j l = some q →
    (∀ i < m, ∀ d < c.size, recvInto s c a i d = some q → i = j ∧ d = l) →
      (u.tile (tileOf s.cur)).sram.byte q = (s.slotBytes s.cur c ((s.me.port p).k + j)).getD l 0

theorem slotBytes_getD (s : State) (i : Nat) (c : Chan) (pos : Nat) {l : Nat} (h : l < c.size) :
    (s.slotBytes i c pos).getD l 0 = (s.tile (tileOf i)).sram.byte ((s.slot i).id.base * 4096 + c.place pos + l) := mem_bytes_getD _ _ h

theorem slotBytes_length (s : State) (i : Nat) (c : Chan) (pos : Nat) : (s.slotBytes i c pos).length = c.size := mem_bytes_length _ _ _

theorem Received.zero (hn : s.me.bank.readG b.toNat = BitVec.ofNat 64 n) : Received s p c a b n 0 s where
  kept := Kept.refl _ _ s
  ga := by rw [Nat.zero_mul]; exact (BitVec.add_zero _).symm
  gb := hn
  others _ _ _ := rfl
  slot := rfl
  port := rfl
  chan _ _ := rfl
  bytes _ j hj := absurd hj (Nat.not_lt_zero j)

namespace Received

variable (h : Received s p c a b n m u)
include h

theorem cur : u.cur = s.cur := h.kept.cur

/-- R136: what stands at a position of the port is as it was. -/
theorem readAt (c : Chan) (pos : Nat) : ((u.slot s.cur).port p).readAt c pos = (s.me.port p).readAt c pos := by
  rw [h.port]
  rfl

theorem portChan : u.portChan p = s.portChan p := by
  unfold State.portChan State.me
  rw [h.cur, h.port]
  dsimp only
  rw [h.chan]
  rfl

/-- Where no slot has landed in the place of the next one, its bytes are as they were. -/
theorem slotBytes_next (hap : RecvApart s p c a (m + 1)) {l : Nat} (hl : l < c.size) :
    (u.slotBytes s.cur c ((s.me.port p).k + m)).getD l 0 = (s.slotBytes s.cur c ((s.me.port p).k + m)).getD l 0 := by
  rw [slotBytes_getD _ _ _ _ hl, slotBytes_getD _ _ _ _ hl, h.slot]
  refine h.kept.sram _ _ ?_
  rintro ⟨-, j, hj, d, hd, he⟩
  exact hap j (by omega) d hd m m.lt_succ_self l hl he

/-- R143: one slot more. -/
theorem step (ha : a.toNat ≠ 0) (hb : b.toNat ≠ 0) (hab : a.toNat ≠ b.toNat) (hm : m < n) :
    Received s p c a b n (m + 1) (recvOne u p c a b) := by
  have hcur := h.cur
  have hme : u.me = u.slot s.cur := congrArg u.slot hcur
  obtain ⟨hvk, hvt, hvs, hvp, hvc⟩ := consumed_consumed u p
  rw [hcur] at hvk hvs hvp
  have hone := recvOne_eq u p c a b
  rw [hme, hcur, h.ga] at hone
  have hk : ((u.slot s.cur).port p).k = (s.me.port p).k + m := by rw [h.port]
  rw [hk] at hone
  generalize consumed u p = v at hvk hvt hvs hvp hvc hone
  obtain ⟨data, hdata⟩ : ∃ d, d = u.slotBytes s.cur c ((s.me.port p).k + m) := ⟨_, rfl⟩
  have hlen : data.length = c.size := hdata ▸ slotBytes_length _ _ _ _
  rw [← hdata] at hone
  obtain ⟨addr, haddr⟩ : ∃ x, x = (s.me.bank.readG a.toNat + BitVec.ofNat 64 (m * c.size)).toNat := ⟨_, rfl⟩
  rw [← haddr] at hone
  have hphys : ∀ l, (v.slot s.cur).phys (addr + l) = recvInto s c a m l := fun l => by
    rw [hvk.phys, h.kept.phys, haddr]
    rfl
  obtain ⟨w, hw⟩ : ∃ w, w = v.putBytesAt s.cur addr data := ⟨_, rfl⟩
  rw [← hw] at hone
  have hws : w.slot s.cur = v.slot s.cur := hw ▸ putBytesAt_slot _ _ _ _
  have hwk : Kept s.cur (recvBytes s c a (m + 1)) v w := hw ▸ (calm_putBytesAt addr data fun l hl q hq =>
    ⟨rfl, m, m.lt_succ_self, l, hlen ▸ hl, (hphys l).symm.trans hq⟩).toKept
  have hwn : w.nets = v.nets := hw ▸ (still_putBytesAt addr data).nets
  have hx : (recvOne u p c a b).slot s.cur = (w.slot s.cur).modBank fun k => k.stepped a b c.size := by rw [hone, slot_modSlot_self]
  have hbank : ((recvOne u p c a b).slot s.cur).bank = (u.slot s.cur).bank.stepped a b c.size := by
    rw [hx, slot_bank_modBank, hws, hvs]
    rfl
  refine ⟨?_, ?_, ?_, fun r hra hrb => ?_, ?_, ?_, fun k d => ?_, fun hap j hj l hl q hq hu => ?_⟩
  · have hmono : ∀ k q, recvBytes s c a m k q → recvBytes s c a (m + 1) k q := fun k q ⟨ht, j, hj, r⟩ => ⟨ht, j, by omega, r⟩
    rw [hone]
    exact (h.kept.weaken hmono).trans ((hvk.weaken fun _ _ hf => hf.elim).trans (hwk.trans (kept_modBank _)))
  · rw [hbank, stepped_readG_a ha hab, h.ga, Nat.succ_mul, BitVec.ofNat_add, BitVec.add_assoc]
  · rw [hbank, stepped_readG_b hb, h.gb, show n - m = n - (m + 1) + 1 by omega, BitVec.ofNat_add]
    exact BitVec.add_sub_cancel _ _
  · rw [hbank, stepped_readG_ne hra hrb, h.others r hra hrb]
  · rw [hx, modBank_slot, hws, hvs, h.slot]
  · have hxp : ((recvOne u p c a b).slot s.cur).port p = (v.slot s.cur).port p := by
      unfold Slot.port
      rw [hx, slot_modBank_ports, hws]
    rw [hxp]
    refine hvp.trans ?_
    rw [h.port]
    rfl
  · calc (recvOne u p c a b).chan? k d = w.chan? k d := by rw [hone]; rfl
      _ = v.chan? k d := by unfold State.chan?; rw [hwn]
      _ = u.chan? k d := hvc k d
      _ = s.chan? k d := h.chan k d
  · have hbyte : ((recvOne u p c a b).tile (tileOf s.cur)).sram.byte q = ((v.putBytesAt s.cur addr data).tile (tileOf s.cur)).sram.byte q := by
      rw [hone, hw]
      rfl
    rw [hbyte]
    rcases Nat.lt_succ_iff_lt_or_eq.mp hj with hlt | rfl
    · have hkeep : ((v.putBytesAt s.cur addr data).tile (tileOf s.cur)).sram.byte q = (v.tile (tileOf s.cur)).sram.byte q :=
        (calm_putBytesAt (W := fun _ r => r ≠ q) addr data fun d hd r hr hrq => by
          obtain ⟨hmj, -⟩ := hu m m.lt_succ_self d (hlen ▸ hd) ((hphys d).symm.trans (hrq ▸ hr))
          omega).toKept.sram _ _ (not_not_intro rfl)
      rw [hkeep, hvk.sram _ _ id]
      exact h.bytes (fun j hj l hl i hi => hap j (by omega) l hl i (by omega)) j hlt l hl q hq fun i hi => hu i (by omega)
    · rw [putBytesAt_byte v s.cur addr data q l (hlen.symm ▸ hl) ((hphys l).trans hq) fun d hd he =>
        (hu j j.lt_succ_self d (hlen ▸ hd) ((hphys d).symm.trans he)).2, hdata]
      exact h.slotBytes_next hap hl

end Received
end
/-! ## What the instruction leaves -/

section
variable {p n m : Nat} {c : Chan} {a b : Opnd} {x : State}

/-- R143: `m` of `n` slots have moved: the registers, the cursor, the frame, and the bytes of the range that no held store reaches. -/
structure RecvMoved (s : State) (p : Nat) (c : Chan) (a b : Opnd) (n m : Nat) (t : State) : Prop where
  ga : (t.slot s.cur).bank.readG a.toNat = s.me.bank.readG a.toNat + BitVec.ofNat 64 (m * c.size)
  gb : (t.slot s.cur).bank.readG b.toNat = BitVec.ofNat 64 (n - m)
  others : ∀ r, r ≠ a.toNat → r ≠ b.toNat → (t.slot s.cur).bank.readG r = s.me.bank.readG r
  cursor : ((t.slot s.cur).port p).k = (s.me.port p).k + m
  kept : Kept s.cur (fun k q => heldBytes s s.cur k q ∨ recvBytes s c a m k q) s t
  bytes : RecvApart s p c a m → ∀ j < m, ∀ l < c.size, ∀ q, recvInto s c a j l = some q →
    (∀ i < m, ∀ d < c.size, recvInto s c a i d = some q → i = j ∧ d = l) → ¬ heldBytes s s.cur (tileOf s.cur) q →
      (t.tile (tileOf s.cur)).sram.byte q = (s.slotBytes s.cur c ((s.me.port p).k + j)).getD l 0

/-- The end of an instruction moves no read cursor. -/
theorem finishG_cursors (hs : StoresClean x x.cur) (pc : Word) : CursorsStay x.cur x (finishG x pc) :=
  CursorsStay.trans (t := atPc x pc) (.of_ports (by rw [atPc_slot]))
    (.commitSlot (hs.congr (W := fun _ _ => True) (atPc_kept x pc) (by rw [atPc_eng])).due)

namespace Received

variable (h : Received s p c a b n m u)
include h

theorem eng : u.me.eng = s.me.eng := by
  rw [me_def, h.cur, h.slot]

theorem gen : u.me.gen = s.me.gen := by
  rw [me_def, h.cur, h.slot]

theorem pc : u.pc = s.pc := congrArg Gen.pc h.gen

theorem moved : RecvMoved s p c a b n m u where
  ga := h.ga
  gb := h.gb
  others := h.others
  cursor := by rw [h.port]
  kept := h.kept.weaken fun _ _ hw => .inr hw
  bytes hap j hj l hl q hq hu _ := h.bytes hap j hj l hl q hq hu

/-- R143: the end of the instruction, of a state that differs in the slot's vector registers at most. -/
theorem finish (hx : Kept s.cur (fun _ _ => False) u x) (hslot : x.slot s.cur = { u.slot s.cur with vec := (x.slot s.cur).vec })
    (hc : StoresClean s s.cur) : Issued s (finishG x (s.pc + 4)) (s.pc + 4) ∧ RecvMoved s p c a b n m (finishG x (s.pc + 4)) ∧
      ((finishG x (s.pc + 4)).slot s.cur).vec.eos = (x.slot s.cur).vec.eos := by
  have hcur : x.cur = s.cur := hx.cur.trans h.cur
  have hst : (x.slot s.cur).eng.stores = (s.slot s.cur).eng.stores := by rw [hslot, h.slot]; rfl
  have hkx : Kept s.cur (recvBytes s c a m) s x := h.kept.trans (hx.weaken fun _ _ hf => hf.elim)
  have hclean : StoresClean x x.cur := hcur.symm ▸ hc.congr hkx hst
  have hgen : x.me.gen = s.me.gen := by rw [me_def, hcur, hslot, h.slot]
  obtain ⟨hissued, hkept, hbank, heos⟩ := finishG_after (pc := s.pc + 4) hkx hclean hgen fun g hg => .inl (hst ▸ hg)
  have hbankx : (x.slot s.cur).bank = (u.slot s.cur).bank := by rw [hslot]; rfl
  rw [hbankx] at hbank
  have hcursor := finishG_cursors hclean (s.pc + 4) p
  obtain ⟨-, hframe, -⟩ := finishG_spec x (s.pc + 4) hclean
  rw [hcur] at hcursor hframe
  refine ⟨hissued, ⟨?_, ?_, fun r hra hrb => ?_, ?_, hkept, fun hap j hj l hl q hq hu hno => ?_⟩, heos⟩
  · rw [hbank, h.ga]
  · rw [hbank, h.gb]
  · rw [hbank, h.others r hra hrb]
  · have hport : (x.slot s.cur).port p = (u.slot s.cur).port p := by rw [hslot]; rfl
    rw [hcursor, hport, h.port]
  · have hheld : ¬ heldBytes x s.cur (tileOf s.cur) q := fun ⟨ht, g, hg, d, hd, hp⟩ =>
      hno ⟨ht, g, hst ▸ hg, d, hd, (hkx.phys _).symm.trans hp⟩
    rw [hframe.sram _ _ hheld, hx.sram _ _ id]
    exact h.bytes hap j hj l hl q hq hu

end Received
end

/-! ## The loop (R143) -/

section
variable {p n r : Nat} {c : Chan} {a b : Opnd} (hc : s.portChan p = some c)
include hc

theorem recvLoop_data (hr : (s.me.port p).readAt c (s.me.port p).k = .data) :
    recvLoop p a b (r + 1) s = recvLoop p a b r (recvOne s p c a b) := by
  rw [recvLoop, hc]
  dsimp only
  rw [hr]

theorem recvLoop_fin (hr : (s.me.port p).readAt c (s.me.port p).k = .fin) : recvLoop p a b (r + 1) s =
    if c.eostol then .next (finishG (setEos s p) s.pcNext) else trapG s .endstream (BitVec.ofNat 64 p) none := by
  rw [recvLoop, hc]
  dsimp only
  rw [hr]

theorem recvLoop_diff (hr : (s.me.port p).readAt c (s.me.port p).k = .diff) :
    recvLoop p a b (r + 1) s = trapG s .mirrordiff (BitVec.ofNat 64 c.chid) none := by
  rw [recvLoop, hc]
  dsimp only
  rw [hr]

theorem recvLoop_severed (hr : (s.me.port p).readAt c (s.me.port p).k = .sev) :
    recvLoop p a b (r + 1) s = trapG s .severed (BitVec.ofNat 64 p) none := by
  rw [recvLoop, hc]
  dsimp only
  rw [hr]

theorem recvLoop_empty (hr : (s.me.port p).readAt c (s.me.port p).k = .empty) :
    recvLoop p a b (r + 1) s = waitG s (.readPort p 0) := by
  rw [recvLoop, hc]
  dsimp only
  rw [hr]

/-- R143: the slots at hand move, one after another. -/
theorem recvLoop_takes (hn : s.me.bank.readG b.toNat = BitVec.ofNat 64 n) (ha : a.toNat ≠ 0) (hb : b.toNat ≠ 0) (hab : a.toNat ≠ b.toNat)
    (m : Nat) (hm : m ≤ n) (hd : ∀ j < m, (s.me.port p).readAt c ((s.me.port p).k + j) = .data) :
    ∃ u, Received s p c a b n m u ∧ recvLoop p a b n s = recvLoop p a b (n - m) u := by
  induction m with
  | zero => exact ⟨s, .zero hn, rfl⟩
  | succ m ih =>
    obtain ⟨u, hu, hloop⟩ := ih (by omega) fun j hj => hd j (by omega)
    have hport : u.me.port p = (u.slot s.cur).port p := by rw [me_def, hu.cur]
    have hk : ((u.slot s.cur).port p).k = (s.me.port p).k + m := hu.moved.cursor
    refine ⟨_, hu.step ha hb hab (by omega), ?_⟩
    rw [hloop, show n - m = n - (m + 1) + 1 by omega]
    refine recvLoop_data (hu.portChan.trans hc) ?_
    rw [hport, hu.readAt, hk]
    exact hd m m.lt_succ_self

end
/-! ## The checks (R142, R143) -/

/-- R119, R357, R359: a level-G fault at the commit point. -/
theorem raises_of_trapG {o : Out} {e : Cause} {fw : Word} (ho : o = trapG s e fw none) (hm : s.me.committed = true) (he : e ≠ .eccfatal)
    (hp : e ≠ .preempt) : Raises o s e fw :=
  ho ▸ ⟨fun hs => trapG_traps e fw hs he hp, fun hs hw => ⟨fun _ => trapG_atS_doubleFaulted hs hm hw he fw,
    fun hn => absurd (hm.symm.trans hn) Bool.noConfusion⟩⟩

/-- R142: ga and gb are two g registers other than g0. -/
theorem burstRegs_apart {a b : Opnd} (h : burstRegs a b = true) : a.toNat ≠ 0 ∧ b.toNat ≠ 0 ∧ a.toNat ≠ b.toNat := by
  unfold burstRegs at h
  simp only [Bool.and_eq_true, decide_eq_true_eq, bne_iff_ne] at h
  obtain ⟨⟨⟨⟨ha, -⟩, hb⟩, -⟩, hab⟩ := h
  exact ⟨by omega, by omega, fun he => hab (BitVec.eq_of_toNat_eq he)⟩

section
variable {p a b : Opnd} {c : Chan} (hp : opReserved p = false)
include hp

theorem execRecvb_uncommitted (hm : s.me.committed = false) : execRecvb p a b s = waitG s .engine := by
  unfold execRecvb burst
  rw [hp, hm]
  rfl

variable (hm : s.me.committed = true)
include hm

theorem execRecvb_unbound (h : s.portChan (opPort p) = none ∨ (s.me.port (opPort p)).isW = true) :
    execRecvb p a b s = trapG s .portunbound (BitVec.ofNat 64 (opPort p)) none := by
  unfold execRecvb burst
  rw [hp, hm]
  dsimp only [Bool.not_true]
  rw [if_neg Bool.false_ne_true, if_neg Bool.false_ne_true]
  cases hc : s.portChan (opPort p) with
  | none => rfl
  | some c =>
    rw [hc] at h
    dsimp only
    rw [h.resolve_left (Option.some_ne_none c)]
    rfl

variable (hc : s.portChan (opPort p) = some c) (hw : (s.me.port (opPort p)).isW = false)
include hc hw

theorem execRecvb_bound : execRecvb p a b s =
    if (s.me.bank.readG a.toNat).extractLsb' 0 3 ≠ 0 then trapG s .align (s.me.bank.readG a.toNat) none
    else if 0 < (s.me.bank.readG b.toNat).toNat &&
        s.badRange s.cur (s.me.bank.readG a.toNat).toNat ((s.me.bank.readG b.toNat).toNat * c.size) true then
      trapG s .window (s.me.bank.readG a.toNat) none
    else recvLoop (opPort p) a b (s.me.bank.readG b.toNat).toNat s := by
  unfold execRecvb burst
  rw [hp, hm]
  dsimp only [Bool.not_true]
  rw [if_neg Bool.false_ne_true, if_neg Bool.false_ne_true, hc]
  dsimp only
  rw [hw]
  rfl

theorem execRecvb_misaligned (h : (s.me.bank.readG a.toNat).toNat % 8 ≠ 0) :
    execRecvb p a b s = trapG s .align (s.me.bank.readG a.toNat) none :=
  (execRecvb_bound hp hm hc hw).trans (if_pos fun h0 => h ((low_zero_iff _ 3).mp h0))

variable (h : (s.me.bank.readG a.toNat).toNat % 8 = 0)
include h

theorem execRecvb_aligned : execRecvb p a b s =
    if 0 < (s.me.bank.readG b.toNat).toNat ∧
        s.badRange s.cur (s.me.bank.readG a.toNat).toNat ((s.me.bank.readG b.toNat).toNat * c.size) true = true then
      trapG s .window (s.me.bank.readG a.toNat) none
    else recvLoop (opPort p) a b (s.me.bank.readG b.toNat).toNat s := by
  rw [execRecvb_bound hp hm hc hw, if_neg (not_not_intro ((low_zero_iff _ 3).mpr h))]
  simp only [Bool.and_eq_true, decide_eq_true_eq]
end

/-- R146: EOSBITS set for a port. -/
theorem setEos_kept {W : Nat → Nat → Prop} (s : State) (p : Nat) : Kept s.cur W s (setEos s p) := by
  unfold setEos State.modMe
  exact kept_modSlot _ rfl rfl rfl rfl rfl rfl

theorem setEos_slot (s : State) (p : Nat) : (setEos s p).slot s.cur =
    { s.slot s.cur with vec := { (s.slot s.cur).vec with eos := (s.slot s.cur).vec.eos ||| (1#16 <<< p) } } := slot_modMe_cur s _

/-- Settles O18: the checks one by one; then the slots at hand move, which `Received` says by induction on their number, and what stands
next decides. -/
theorem recvbResults : Obligations.RecvbResults := by
  unfold Obligations.RecvbResults
  intro s p a b hp hab port chn out ga n
  obtain ⟨ha0, hb0, hne⟩ := burstRegs_apart hab
  refine ⟨fun hm => execRecvb_uncommitted hp hm, fun hm h => ?_, fun c hm hc hw => ⟨fun h => ?_, fun h hbad => ?_,
    fun m h hbad hclean hmn hd => ?_⟩⟩
  · exact raises_of_trapG (execRecvb_unbound hp hm h) hm Cause.noConfusion Cause.noConfusion
  · exact raises_of_trapG (execRecvb_misaligned hp hm hc hw h) hm Cause.noConfusion Cause.noConfusion
  · exact raises_of_trapG ((execRecvb_aligned hp hm hc hw h).trans (if_pos hbad)) hm Cause.noConfusion Cause.noConfusion
  intro moved done held
  obtain ⟨u, hu, hloop⟩ := recvLoop_takes (n := n) hc (BitVec.ofNat_toNat _ _ ▸ (BitVec.setWidth_eq _).symm) ha0 hb0 hne m hmn hd
  have hout : out = recvLoop (opPort p) a b (n - m) u := ((execRecvb_aligned hp hm hc hw h).trans (if_neg hbad)).trans hloop
  have hmoved : ∀ t, RecvMoved s (opPort p) c a b n m t → moved t := fun t ht =>
    ⟨ht.ga, ht.gb, ht.others, ht.cursor, ht.kept, ht.bytes⟩
  have hpc : u.pcNext = s.pc + 4 := congrArg (· + 4) hu.pc
  refine ⟨fun he => ?_, fun hlt => ?_⟩
  · obtain ⟨hissued, hmv, heos⟩ := hu.finish (Kept.refl _ _ u) rfl hclean
    refine ⟨_, ?_, hissued, hmoved _ hmv, heos.trans (by rw [hu.slot])⟩
    rw [hout, show n - m = 0 by omega, recvLoop, hpc]
  · have hum : u.me.committed = true := by
      unfold Slot.committed
      rw [hu.eng]
      exact hm
    have hcu : u.portChan (opPort p) = some c := hu.portChan.trans hc
    have hnext : (u.me.port (opPort p)).readAt c (u.me.port (opPort p)).k = port.readAt c (port.k + m) := by
      rw [me_def, hu.cur, hu.readAt, hu.moved.cursor]
    rw [show n - m = n - (m + 1) + 1 by omega] at hout
    have raises {e : Cause} {fw : Word} (he : e ≠ .eccfatal) (hp : e ≠ .preempt) (ho : out = trapG u e fw none) :
        held fun u => Raises out u e fw := ⟨u, hmoved u hu.moved, hu.eng, hu.gen, raises_of_trapG ho hum he hp⟩
    refine ⟨fun hr ht => ?_, fun hr ht => ?_, fun hr => ?_, fun hr => ?_, fun hr => ?_⟩
    · have hset := setEos_slot u (opPort p)
      rw [hu.cur] at hset
      obtain ⟨hissued, hmv, heos⟩ := hu.finish (hu.cur ▸ setEos_kept u (opPort p)) (by rw [hset]) hclean
      refine ⟨_, ?_, hissued, hmoved _ hmv, heos.trans ?_⟩
      · rw [hout, recvLoop_fin hcu (hnext.trans hr), if_pos ht, hpc]
      · rw [hset, hu.slot]
    · have hfin := hout.trans (recvLoop_fin hcu (hnext.trans hr))
      exact raises Cause.noConfusion Cause.noConfusion (hfin.trans (if_neg (by rw [ht]; exact Bool.false_ne_true)))
    · exact ⟨u, hmoved u hu.moved, hu.eng, hu.gen, hout.trans (recvLoop_empty hcu (hnext.trans hr))⟩
    · exact raises Cause.noConfusion Cause.noConfusion (hout.trans (recvLoop_severed hcu (hnext.trans hr)))
    · exact raises Cause.noConfusion Cause.noConfusion (hout.trans (recvLoop_diff hcu (hnext.trans hr)))

end

end Sys2Proof.Machine
end
